-- ==== Sys2Proof/Word.lean ====
section
/-! DEFINITION. The word types of the module (R6, R7, R47): 32-bit registers and point values, bytes of wire formats,
64-bit TAI times and keys. -/

namespace Sys2Proof

/-- A memory-mapped register or a point value: 32 bits (R6, R35). -/
abbrev Word := BitVec 32

/-- One byte of a wire format, image or memory. -/
abbrev Byte := BitVec 8

/-- A byte string as it lies on a wire or in a store, first byte first. -/
abbrev Bytes := List Byte

/-- A 64-bit word: a directory entry, a TAI time, an energy. -/
abbrev DWord := BitVec 64

/-- The bits of an IEEE 754 binary32 value. -/
abbrev F32 := BitVec 32

/-- The bits of an IEEE 754 binary64 value. -/
abbrev F64 := BitVec 64

end Sys2Proof
end

