-- ==== Sys2Proof/Machine/Bits.lean ====
section
/-! DEFINITION. Bit fields, byte order and sorted sparse tables: the helpers every block uses.  Registers are
little-endian 32-bit words, every wire and image format is big-endian (R6). -/

namespace Sys2Proof.Machine

/-- Bit `i` of a natural number, as 0 or 1. -/
def bitN (n i : Nat) : Nat := n / 2 ^ i % 2

/-- Bit `i` of a natural number, as a truth value. -/
def tbit (n i : Nat) : Bool := bitN n i == 1

/-- Field of width `w` at bit `lo` of a natural number. -/
def fieldN (n lo w : Nat) : Nat := n / 2 ^ lo % 2 ^ w

/-- `n` with the field of width `w` at bit `lo` replaced by `v` (taken modulo `2 ^ w`). -/
def setFieldN (n lo w v : Nat) : Nat :=
  n - fieldN n lo w * 2 ^ lo + v % 2 ^ w * 2 ^ lo

/-- `n` with bit `i` set. -/
def setBitN (n i : Nat) : Nat := setFieldN n i 1 1

/-- `n` with bit `i` cleared. -/
def clrBitN (n i : Nat) : Nat := setFieldN n i 1 0

/-- `n` with bit `i` set to a truth value. -/
def putBitN (n i : Nat) (b : Bool) : Nat := setFieldN n i 1 (if b then 1 else 0)

/-- Field of width `w` at bit `lo` of a word. -/
def wfield (x : Word) (lo w : Nat) : Nat := fieldN x.toNat lo w

/-- A word with one field replaced. -/
def wset (x : Word) (lo w v : Nat) : Word := BitVec.ofNat 32 (setFieldN x.toNat lo w v)

/-- Truth value as a bit. -/
def b2n (b : Bool) : Nat := if b then 1 else 0

/-- The signed value of the low `w` bits (two's complement). -/
def signedN (n w : Nat) : Int :=
  let v := n % 2 ^ w
  if 2 ^ w ≤ 2 * v then (v : Int) - 2 ^ w else v

/-- Two's complement encoding of an integer in `w` bits. -/
def encodeInt (i : Int) (w : Nat) : Nat := (i % (2 ^ w : Nat)).toNat

/-- Add, holding at `top`. -/
def satAdd (n k top : Nat) : Nat := min (n + k) top

/-- Replace element `i` of a list, if it is there. -/
def listSet {α : Type} (l : List α) (i : Nat) (a : α) : List α := l.set i a

/-- Apply a function to element `i` of a list, if it is there. -/
def listMod {α : Type} (l : List α) (i : Nat) (f : α → α) : List α := l.modify i f

/-! ### Sparse tables: association lists with strictly rising keys -/

/-- The value at a key. -/
def aget {α : Type} (k : Nat) : List (Nat × α) → Option α
  | [] => none
  | (k', v) :: t => if k' == k then some v else aget k t

/-- Insert or replace, keeping the keys rising. -/
def aput {α : Type} (k : Nat) (v : α) : List (Nat × α) → List (Nat × α)
  | [] => [(k, v)]
  | (k', v') :: t =>
    if k < k' then (k, v) :: (k', v') :: t
    else if k == k' then (k, v) :: t
    else (k', v') :: aput k v t

/-- Remove a key. -/
def adel {α : Type} (k : Nat) (l : List (Nat × α)) : List (Nat × α) :=
  l.filter (fun p => !(p.1 == k))

/-- Replace the value at a key by a function of it, if the key is there. -/
def amod {α : Type} (k : Nat) (f : α → α) (l : List (Nat × α)) : List (Nat × α) :=
  l.map (fun p => if p.1 == k then (p.1, f p.2) else p)

/-- The keys rise strictly. -/
def arising {α : Type} : List (Nat × α) → Bool
  | [] => true
  | [_] => true
  | p :: q :: t => decide (p.1 < q.1) && arising (q :: t)

/-- Store into a table in which a key that is not listed reads as `d`: writing `d` removes the entry. -/
def putd {α : Type} [DecidableEq α] (d : α) (k : Nat) (v : α) (l : List (Nat × α)) : List (Nat × α) :=
  if v = d then adel k l else aput k v l

/-- Read from a table in which a key that is not listed reads as `d`. -/
def getd {α : Type} (d : α) (k : Nat) (l : List (Nat × α)) : α := (aget k l).getD d

/-- The lowest natural number below `n` that is no key of the table. -/
def freeKey {α : Type} (n : Nat) (l : List (Nat × α)) : Option Nat :=
  (List.range n).find? (fun i => (aget i l).isNone)

/-! ### Byte order -/

/-- A natural number as `n` bytes, most significant first (R6: wire formats are big-endian). -/
def toBE (n v : Nat) : Bytes :=
  (List.range n).map (fun i => BitVec.ofNat 8 (v / 256 ^ (n - 1 - i)))

/-- Bytes, most significant first, as a natural number. -/
def fromBE (bs : Bytes) : Nat := bs.foldl (fun a b => a * 256 + b.toNat) 0

/-- A natural number as `n` bytes, least significant first (registers, R6). -/
def toLE (n v : Nat) : Bytes := (toBE n v).reverse

/-- Bytes, least significant first, as a natural number. -/
def fromLE (bs : Bytes) : Nat := fromBE bs.reverse

/-- `len` bytes from offset `off`. -/
def slice (bs : Bytes) (off len : Nat) : Bytes := (bs.drop off).take len

/-- Big-endian unsigned field of `len` bytes at offset `off` (bytes beyond the end read as absent). -/
def be (bs : Bytes) (off len : Nat) : Nat := fromBE (slice bs off len)

/-- A byte string padded with zero bytes, or cut, to a length. -/
def padTo (n : Nat) (bs : Bytes) : Bytes := bs.take n ++ List.replicate (n - bs.length) 0

/-- Ceiling division. -/
def ceilDiv (a b : Nat) : Nat := (a + b - 1) / b

/-! ### Cyclic redundancy checks -/

/-- One bit step of a reflected CRC. -/
def crcStepR (poly : Nat) (c : Nat) : Nat :=
  if c % 2 = 1 then Nat.xor (c / 2) poly else c / 2

/-- One byte of a reflected CRC. -/
def crcByteR (poly : Nat) (c : Nat) (b : Byte) : Nat :=
  (List.range 8).foldl (fun a _ => crcStepR poly a) (Nat.xor c b.toNat)

/-- CRC-32 of IEEE 802.3 (reflected polynomial 0xEDB88320, start and end all ones). -/
def crc32 (bs : Bytes) : Nat :=
  Nat.xor (bs.foldl (crcByteR 0xEDB88320) 0xFFFFFFFF) 0xFFFFFFFF

end Sys2Proof.Machine
end

