-- ==== Sys2Proof/Machine/RegModel.lean ====
section
/-! DEFINITION. What a row of a register map and a row of a bit table say (R10 to R14): address, indices, fields with
their access code, change class and reset value. -/

namespace Sys2Proof.Machine

/-- Access codes of Table 0-5 without their modifiers. -/
inductive Acc where
  /-- read only -/
  | ro
  /-- read and write -/
  | rw
  /-- write only, reads 0 -/
  | wo
  /-- cleared by reading -/
  | rc
  /-- cleared by writing 1 -/
  | w1c
  deriving DecidableEq, Repr

/-- Change classes of Table 0-6; a paired field names its group. -/
inductive Cls where
  /-- L: effective at once -/
  | live
  /-- B: effective at the block's next boundary -/
  | boundary
  /-- S: writable only while the block is stopped -/
  | stopped
  /-- P: effective with the rest of its group after its commit -/
  | paired (g : Nat)
  deriving DecidableEq, Repr

/-- One field of a bit table. -/
structure FieldSpec where
  /-- lowest bit -/
  lo : Nat
  /-- width in bits -/
  width : Nat
  acc : Acc
  cls : Cls
  /-- reset value of the field -/
  rst : Nat
  deriving DecidableEq, Repr

/-- One row of a register map: the address of instance (0, 0, 0), three strides with their counts, and the fields.
A register with fewer indices has stride 0 and count 1 for the rest. -/
structure RegSpec where
  base : Nat
  s1 : Nat
  n1 : Nat
  s2 : Nat
  n2 : Nat
  s3 : Nat
  n3 : Nat
  fields : List FieldSpec
  deriving DecidableEq, Repr

end Sys2Proof.Machine
end

