-- ==== Sys2Proof/Machine/Regs.lean ====
section
/-! DEFINITION. The register maps and bit tables of spec/ (R41, R86, R131, R168, R220, R260, R301, R332, R357,
R422, R423, R449, R450, R474, R493, R510, R528, R546, R547, R568, R585, R601, R603), one row per register, and one named
field reference per field of the bit tables.  The addresses, widths, access codes, change classes and reset values are those
of the tables; reserved bits are the bits no field names (R12). -/

namespace Sys2Proof.Machine

/-- The registers of the module, named as the register maps name them without their index letters. -/
inductive Reg where
  | SYS_ID
  | SYS_REV
  | SYS_SLOT
  | SYS_PACE_FLOOR
  | SYS_PACE_STAT
  | SYS_PACE_CNT
  | SYS_BUSERR_ADDR
  | SYS_BUSERR_INFO
  | SYS_PACE_CTRL
  | PTD_COUNT
  | PTD_FORCE_STAT
  | PTD_NOPT_CNT
  | PTD_CTRL
  | PTD_DIR_SEL
  | PTD_DIR_W0
  | PTD_DIR_W1
  | PTD_DIR_CMD
  | PTD_DIR_STAT
  | PTD_SHR_SEL
  | PTD_SHR_DATA
  | PTD_SHR_CMD
  | PTD_SHR_STAT
  | PTD_FRC_SEL
  | PTD_FRC_PT
  | PTD_FRC_VAL
  | PTD_FRC_REQ
  | PTD_FRC_CMD
  | PTD_FRC_STAT
  | FAB_STAT
  | FAB_EVT
  | FAB_QSTAT
  | FAB_DROP
  | FAB_CTRL
  | FAB_QCTRL
  | FAB_ST_CTRL
  | FAB_ST_FAIL
  | FAB_ST_CNT
  | FAB_FAILED
  | FAB_SBK_ARM
  | FAB_SBK_STAT
  | FAB_SBK_LAT
  | UPD_IMG_SEL
  | UPD_IMG_CMD
  | UPD_IMG_STAT
  | UPD_IMG_ID
  | UPD_IMG_VER
  | UPD_IMG_QREV
  | UPD_IMG_ERRLOC
  | EXE_STAT
  | EXE_EVT
  | EXE_DENY
  | EXE_TSTAT
  | EXE_TLAST
  | EXE_TMAX
  | EXE_TCNT
  | EXE_CTRL
  | EXE_CMD
  | EXE_CMD_STAT
  | EXE_OLC_SEL
  | EXE_OLC_DATA
  | EXE_OLC_CMD
  | EXE_OLC_STAT
  | EXE_TCFG
  | EXE_TPER
  | EXE_TBND
  | EXE_TINFO
  | LPE_STAT
  | LPE_EVT
  | LPE_SNKDENY
  | LPE_CH_STAT
  | LPE_CH_PV
  | LPE_CH_OUT
  | LPE_CH_ERR
  | LPE_CH_CTRL
  | LPE_CH_SRC
  | LPE_CH_SINK
  | LPE_CH_SPSRC
  | LPE_CH_FFSRC
  | LPE_CH_TRKSRC
  | LPE_CH_PER
  | LPE_CH_TEN
  | LPE_CH_SP
  | LPE_CH_MAN
  | LPE_CH_OLO
  | LPE_CH_OHI
  | LPE_CH_OSAFE
  | LPE_CH_RATE
  | LPE_CH_FELIM
  | LPE_CH_FETIME
  | LPE_CH_WZBASE
  | LPE_CH_WZLEN
  | LPE_CH_WZCFG
  | LPE_CH_WZQ
  | LPE_CH_WZKL
  | LPE_CH_KP
  | LPE_CH_KIT
  | LPE_CH_KDT
  | LPE_CH_DF
  | LPE_CH_BW
  | LPE_CH_KFF
  | LPE_CH_I
  | LPE_CH_D
  | LPE_CH_FETMR
  | LPE_CH_WZOUT
  | LPE_CH_WZIDX
  | LPE_CTRL
  | LPE_COMMIT
  | LPE_WZCLR
  | MTR_STAT
  | MTR_EVT
  | MTR_MIFLT0
  | MTR_MIFLT1
  | MTR_VS_STAT
  | MTR_VS_RMS
  | MTR_VS_FREQ
  | MTR_VS_EVCNT
  | MTR_C_STAT
  | MTR_C_MEAS
  | MTR_C_E
  | MTR_C_WRAP0
  | MTR_C_WRAP1
  | MTR_C_DPI
  | MTR_C_DPE
  | MTR_C_MAXD
  | MTR_C_MAXDT
  | MTR_C_LOST
  | MTR_CTRL
  | MTR_CLK
  | MTR_CMD
  | MTR_CMD_STAT
  | MTR_COMMIT
  | MTR_DMD_CFG
  | MTR_MI_CFG
  | MTR_MI_SCALE
  | MTR_MI_OFS
  | MTR_VS_CFG
  | MTR_VS_SAG
  | MTR_VS_SWELL
  | MTR_VS_NTHR
  | MTR_VC_GAIN
  | MTR_VC_PHASE
  | MTR_C_CFG
  | MTR_C_TEN
  | MTR_C_START
  | MTR_C_NTHR
  | MTR_C_XE_LO
  | MTR_C_XE_HI
  | MTR_CK_NSEG
  | MTR_CK_KNOT
  | MTR_CK_GAIN
  | MTR_CK_PHASE
  | CAN_STAT
  | CAN_EVT
  | CAN_ERR
  | CAN_BOCNT
  | CAN_FCNT
  | CAN_LOST
  | CAN_ONL0
  | CAN_ONL1
  | CAN_STA_STAT
  | CAN_CTRL
  | CAN_NBT
  | CAN_DBT
  | CAN_TDC
  | CAN_REF
  | CAN_WAKE
  | CAN_WID
  | CAN_WIDM
  | CAN_WDM0
  | CAN_WDM1
  | CAN_TXREQ
  | CAN_TXDONE
  | CAN_RXQ_STAT
  | CAN_RXQ_POP
  | CAN_FLT_ID
  | CAN_FLT_MASK
  | CAN_RXQ_W
  | CAN_TXB_W
  | CAN_STA_CFG
  | CAN_STA_SERL
  | CAN_STA_SERH
  | ETH_STAT
  | ETH_EVT
  | ETH_RXOK
  | ETH_TXOK
  | ETH_RXERR
  | ETH_RXDROP
  | ETH_TXDROP
  | ETH_PAUSE
  | ETH_LPI
  | ETH_BB_STAT
  | ETH_CTRL
  | ETH_SDCFG
  | ETH_SDUP
  | ETH_EEE
  | ETH_PTP_CFG
  | ETH_PTP_OFS
  | ETH_PTP_MPD
  | ETH_COMMIT
  | ETH_BB_CTRL
  | ETH_VLAN
  | ETH_WP_M
  | ETH_WP_CRC
  | IBX_STAT
  | IBX_EPOCH
  | IBX_LEASE
  | IBX_HEALTH
  | IBX_PHEALTH
  | IBX_EVT
  | IBX_SWCNT
  | IBX_CTRL
  | IBX_CMD
  | IBX_CMD_STAT
  | IBX_PAIR
  | IBX_WADDR
  | IBX_UADDR
  | IBX_LSAFE
  | IBX_CHOST
  | IBX_CHP_SEL
  | IBX_CHP_CFG
  | IBX_CHP_STAT
  | IBX_CHP_EPOCH
  | IBX_SV_PT
  | IBX_SV_VAL
  | TTH_STAT
  | TTH_EVT
  | TTH_CRCERR
  | TTH_CYCLE
  | TTH_LOAD
  | TTH_DISC
  | TTH_CTRL
  | TIM_TAI_LO
  | TIM_TAI_HI
  | TIM_CLK_STAT
  | TIM_MON_EVT
  | TIM_CLK_CMD
  | TIM_MON_INFO
  | PMC_LVL_STAT
  | PMC_PD_STAT
  | PMC_EVT
  | PMC_SUP_STAT
  | PMC_LVL_CMD
  | PMC_PD_REQ
  | PMC_PD_ERR
  | LIO_STAT
  | LIO_EVT
  | LIO_PIN
  | LIO_DRV
  | LIO_RBF
  | LIO_CTRL
  | LIO_CFG
  | LIO_PWM
  | SYS_RST_STAT
  | SYS_BOOT_STAT
  | SYS_RST_CMD
  | SYS_MWD
  | RTC_TIME
  | RTC_DATE
  | RTC_STAT
  | RTC_EVT
  | RTC_CFG
  | RTC_LEAP
  | RTC_TRIM
  | RTC_SET_TIME
  | RTC_SET_DATE
  | RTC_SET_CMD
  | RTC_ALM
  | RTC_BKP
  | REC_STAT
  | REC_EVT
  | REC_SEQ
  | REC_OLD
  | REC_LOST
  | REC_LOG_SEQ
  | REC_LOG_DROP
  | REC_CTRL
  | REC_RD_SEQ
  | REC_RD_CMD
  | REC_RD_STAT
  | REC_RD_NEXT
  | REC_RD_W
  | REC_CLR_NONCE
  | REC_CLR_CMD
  | REC_CLR_AUTH
  | REC_CLR_STAT
  | REC_LOG_CFG
  | REC_TRG_CFG
  | REC_TRG_ITEM
  | NVP_STAT
  | NVP_EVT
  | NVP_WEAR
  | NVP_CTRL
  | NVP_ADDR
  | NVP_DATA
  | NVP_CMD
  | NVP_PW
  | NVP_RGN
  | NVP_OPEN
  | HST_STAT
  | HST_EVT
  | HST_PERR
  | HST_TR_CFG
  | HST_TR_SIZE
  | HST_TR_STAT
  | HST_TR_LOST
  | HST_TR_PT
  | KV_STAT
  | KV_EVT
  | KV_SLOT0
  | KV_SLOT1
  | KV_SERIAL_LO
  | KV_SERIAL_HI
  | KV_IDPUB
  | KV_CTRL
  | KV_SEL
  | KV_ATTR
  | KV_KCV
  | KV_KEYD
  | KV_CMD
  | KV_CMD_STAT
  | KV_OPW
  | KV_NONCE
  | KV_PROOF
  | KV_ACC
  | KV_ACC_CMD
  | KV_DBG
  | KV_ATT_CHAL
  | KV_ATT_CMD
  | KV_ATT_STAT
  | KV_ATT_DATA
  | UPD_STAT
  | UPD_EVT
  | UPD_VER
  | UPD_BANK
  | UPD_WIN
  | UPD_PKG_VER
  | UPD_CTRL
  | UPD_CMD
  | UPD_CMD_STAT
  | UPD_CONFIRM
  | UPD_FLOOR
  | UPD_OWNKEY
  | EVC_STAT
  | EVC_NMCNT
  | EVC_SRC_CFG
  | EVC_PEND
  | EVC_OVR
  | EVC_SWSET
  | EVC_CLAIM
  | EVC_DONE
  | EVC_THR
  | EVC_H0CNT
  | EVC_H0SEL
  | EVC_H1CNT
  | EVC_H1SEL
  | EVC_FCNT
  | EVC_FSEL
  | EVC_CNTCTL
  | EVC_COVF0
  | EVC_COVF1
  | EVC_SMP_CFG
  | EVC_SMP_STAT
  | EVC_SMP_CMD
  | EVC_SMP_W
  | SYS_H1_PART
  | SYS_H1_TAG
  deriving DecidableEq, Repr

/-- The rows of the register maps: address of instance 0, strides and counts of the indices, fields.
Rules: R41, R86, R131, R168, R220, R260, R301, R332, R357, R422, R423, R450, R474, R493, R510, R528, R546, R547, R568, R585, R601, R603. -/
def Reg.spec : Reg → RegSpec
  | .SYS_ID => ⟨0x40000000, 0, 1, 0, 1, 0, 1,
      [⟨16, 16, .ro, .live, 0x9640⟩, ⟨0, 16, .ro, .live, 0xdc1⟩]⟩
  | .SYS_REV => ⟨0x40000004, 0, 1, 0, 1, 0, 1,
      [⟨0, 8, .ro, .live, 0x10⟩]⟩
  | .SYS_SLOT => ⟨0x40000008, 0, 1, 0, 1, 0, 1,
      [⟨1, 1, .ro, .live, 0⟩, ⟨0, 1, .ro, .live, 0⟩]⟩
  | .SYS_PACE_FLOOR => ⟨0x40000010, 0, 1, 0, 1, 0, 1,
      [⟨0, 16, .ro, .live, 0x140⟩]⟩
  | .SYS_PACE_STAT => ⟨0x40000014, 0, 1, 0, 1, 0, 1,
      [⟨16, 1, .w1c, .live, 0⟩, ⟨0, 6, .w1c, .live, 0⟩]⟩
  | .SYS_PACE_CNT => ⟨0x40000020, 0x4, 6, 0, 1, 0, 1,
      [⟨16, 16, .ro, .live, 0xffff⟩, ⟨0, 16, .ro, .live, 0⟩]⟩
  | .SYS_BUSERR_ADDR => ⟨0x40000040, 0, 1, 0, 1, 0, 1,
      [⟨0, 32, .ro, .live, 0⟩]⟩
  | .SYS_BUSERR_INFO => ⟨0x40000044, 0, 1, 0, 1, 0, 1,
      [⟨16, 16, .rc, .live, 0⟩, ⟨8, 1, .rc, .live, 0⟩, ⟨7, 1, .rc, .live, 0⟩, ⟨4, 3, .rc, .live, 0⟩, ⟨0, 4, .rc, .live, 0⟩]⟩
  | .SYS_PACE_CTRL => ⟨0x40008000, 0, 1, 0, 1, 0, 1,
      [⟨8, 1, .wo, .live, 0⟩, ⟨1, 2, .rw, .live, 0⟩, ⟨0, 1, .rw, .live, 1⟩]⟩
  | .PTD_COUNT => ⟨0x40110000, 0, 1, 0, 1, 0, 1,
      [⟨16, 16, .ro, .live, 0⟩, ⟨0, 16, .ro, .live, 0⟩]⟩
  | .PTD_FORCE_STAT => ⟨0x40110004, 0, 1, 0, 1, 0, 1,
      [⟨0, 11, .ro, .live, 0⟩]⟩
  | .PTD_NOPT_CNT => ⟨0x40110008, 0, 1, 0, 1, 0, 1,
      [⟨0, 32, .rc, .live, 0⟩]⟩
  | .PTD_CTRL => ⟨0x40118000, 0, 1, 0, 1, 0, 1,
      [⟨0, 2, .rw, .live, 1⟩]⟩
  | .PTD_DIR_SEL => ⟨0x40118010, 0, 1, 0, 1, 0, 1,
      [⟨0, 16, .rw, .live, 0⟩]⟩
  | .PTD_DIR_W0 => ⟨0x40118014, 0, 1, 0, 1, 0, 1,
      [⟨0, 32, .rw, .live, 0⟩]⟩
  | .PTD_DIR_W1 => ⟨0x40118018, 0, 1, 0, 1, 0, 1,
      [⟨0, 32, .rw, .live, 0⟩]⟩
  | .PTD_DIR_CMD => ⟨0x4011801C, 0, 1, 0, 1, 0, 1,
      [⟨0, 2, .wo, .live, 0⟩]⟩
  | .PTD_DIR_STAT => ⟨0x40118020, 0, 1, 0, 1, 0, 1,
      [⟨8, 1, .ro, .live, 0⟩, ⟨0, 4, .ro, .live, 0⟩]⟩
  | .PTD_SHR_SEL => ⟨0x40118030, 0, 1, 0, 1, 0, 1,
      [⟨16, 3, .rw, .live, 0⟩, ⟨0, 12, .rw, .live, 0⟩]⟩
  | .PTD_SHR_DATA => ⟨0x40118034, 0, 1, 0, 1, 0, 1,
      [⟨24, 8, .rw, .live, 0⟩, ⟨0, 16, .rw, .live, 0⟩]⟩
  | .PTD_SHR_CMD => ⟨0x40118038, 0, 1, 0, 1, 0, 1,
      [⟨0, 2, .wo, .live, 0⟩]⟩
  | .PTD_SHR_STAT => ⟨0x4011803C, 0, 1, 0, 1, 0, 1,
      [⟨8, 1, .ro, .live, 0⟩, ⟨0, 4, .ro, .live, 0⟩]⟩
  | .PTD_FRC_SEL => ⟨0x40118040, 0, 1, 0, 1, 0, 1,
      [⟨0, 10, .rw, .live, 0⟩]⟩
  | .PTD_FRC_PT => ⟨0x40118044, 0, 1, 0, 1, 0, 1,
      [⟨31, 1, .rw, .live, 0⟩, ⟨16, 1, .rw, .live, 0⟩, ⟨0, 16, .rw, .live, 0⟩]⟩
  | .PTD_FRC_VAL => ⟨0x40118048, 0, 1, 0, 1, 0, 1,
      [⟨0, 32, .rw, .live, 0⟩]⟩
  | .PTD_FRC_REQ => ⟨0x4011804C, 0, 1, 0, 1, 0, 1,
      [⟨0, 32, .ro, .live, 0⟩]⟩
  | .PTD_FRC_CMD => ⟨0x40118050, 0, 1, 0, 1, 0, 1,
      [⟨0, 2, .wo, .live, 0⟩]⟩
  | .PTD_FRC_STAT => ⟨0x40118054, 0, 1, 0, 1, 0, 1,
      [⟨8, 1, .ro, .live, 0⟩, ⟨0, 4, .ro, .live, 0⟩]⟩
  | .FAB_STAT => ⟨0x40100000, 0, 1, 0, 1, 0, 1,
      [⟨0, 12, .ro, .live, 0⟩]⟩
  | .FAB_EVT => ⟨0x40100004, 0, 1, 0, 1, 0, 1,
      [⟨20, 4, .w1c, .live, 0⟩, ⟨16, 4, .w1c, .live, 0⟩, ⟨12, 4, .w1c, .live, 0⟩, ⟨8, 4, .w1c, .live, 0⟩, ⟨4, 4, .w1c, .live, 0⟩, ⟨0, 4, .w1c, .live, 0⟩]⟩
  | .FAB_QSTAT => ⟨0x40100010, 0x4, 4, 0, 1, 0, 1,
      [⟨16, 13, .ro, .live, 0⟩, ⟨0, 13, .ro, .live, 0⟩]⟩
  | .FAB_DROP => ⟨0x40100020, 0x4, 4, 0, 1, 0, 1,
      [⟨0, 32, .rc, .live, 0⟩]⟩
  | .FAB_CTRL => ⟨0x40108000, 0, 1, 0, 1, 0, 1,
      [⟨16, 1, .wo, .live, 0⟩, ⟨0, 8, .rw, .live, 0xa⟩]⟩
  | .FAB_QCTRL => ⟨0x40108010, 0, 1, 0, 1, 0, 1,
      [⟨24, 8, .rw, .live, 0xa⟩, ⟨0, 4, .rw, .live, 0⟩]⟩
  | .FAB_ST_CTRL => ⟨0x40108020, 0, 1, 0, 1, 0, 1,
      [⟨16, 8, .rw, .live, 0x64⟩, ⟨2, 1, .rw, .live, 0⟩, ⟨1, 1, .rw, .live, 0⟩, ⟨0, 1, .rw, .live, 0⟩]⟩
  | .FAB_ST_FAIL => ⟨0x40108024, 0, 1, 0, 1, 0, 1,
      [⟨31, 1, .rc, .live, 0⟩, ⟨28, 3, .rc, .live, 0⟩, ⟨11, 2, .rc, .live, 0⟩, ⟨0, 11, .rc, .live, 0⟩]⟩
  | .FAB_ST_CNT => ⟨0x40108028, 0, 1, 0, 1, 0, 1,
      [⟨0, 32, .ro, .live, 0⟩]⟩
  | .FAB_FAILED => ⟨0x4010802C, 0, 1, 0, 1, 0, 1,
      [⟨0, 32, .ro, .live, 0⟩]⟩
  | .FAB_SBK_ARM => ⟨0x40108030, 0, 1, 0, 1, 0, 1,
      [⟨0, 8, .rw, .live, 0⟩]⟩
  | .FAB_SBK_STAT => ⟨0x40108034, 0, 1, 0, 1, 0, 1,
      [⟨8, 8, .w1c, .live, 0⟩, ⟨0, 8, .ro, .live, 0⟩]⟩
  | .FAB_SBK_LAT => ⟨0x40108040, 0x4, 8, 0, 1, 0, 1,
      [⟨16, 16, .ro, .live, 0⟩, ⟨0, 16, .ro, .live, 0⟩]⟩
  | .UPD_IMG_SEL => ⟨0x403D8200, 0, 1, 0, 1, 0, 1,
      [⟨0, 2, .rw, .live, 0⟩]⟩
  | .UPD_IMG_CMD => ⟨0x403D8204, 0, 1, 0, 1, 0, 1,
      [⟨0, 2, .wo, .live, 0⟩]⟩
  | .UPD_IMG_STAT => ⟨0x403D8208, 0, 1, 0, 1, 0, 1,
      [⟨31, 1, .ro, .live, 0⟩, ⟨18, 2, .ro, .live, 0⟩, ⟨17, 1, .ro, .live, 0⟩, ⟨16, 1, .ro, .live, 0⟩, ⟨0, 8, .ro, .live, 0⟩]⟩
  | .UPD_IMG_ID => ⟨0x403D820C, 0, 1, 0, 1, 0, 1,
      [⟨0, 32, .ro, .live, 0⟩]⟩
  | .UPD_IMG_VER => ⟨0x403D8210, 0, 1, 0, 1, 0, 1,
      [⟨0, 32, .ro, .live, 0⟩]⟩
  | .UPD_IMG_QREV => ⟨0x403D8214, 0, 1, 0, 1, 0, 1,
      [⟨0, 32, .ro, .live, 0⟩]⟩
  | .UPD_IMG_ERRLOC => ⟨0x403D8218, 0, 1, 0, 1, 0, 1,
      [⟨0, 32, .ro, .live, 0⟩]⟩
  | .EXE_STAT => ⟨0x40120000, 0, 1, 0, 1, 0, 1,
      [⟨16, 1, .ro, .live, 0⟩, ⟨8, 5, .ro, .live, 0⟩, ⟨4, 4, .ro, .live, 0⟩, ⟨0, 2, .ro, .live, 0⟩]⟩
  | .EXE_EVT => ⟨0x40120004, 0, 1, 0, 1, 0, 1,
      [⟨6, 1, .w1c, .live, 0⟩, ⟨5, 1, .w1c, .live, 0⟩, ⟨4, 1, .w1c, .live, 0⟩, ⟨3, 1, .w1c, .live, 0⟩, ⟨2, 1, .w1c, .live, 0⟩, ⟨1, 1, .w1c, .live, 0⟩, ⟨0, 1, .w1c, .live, 0⟩]⟩
  | .EXE_DENY => ⟨0x40120008, 0, 1, 0, 1, 0, 1,
      [⟨0, 32, .rc, .live, 0⟩]⟩
  | .EXE_TSTAT => ⟨0x40120100, 0x10, 32, 0, 1, 0, 1,
      [⟨30, 2, .ro, .live, 3⟩, ⟨29, 1, .ro, .live, 0⟩, ⟨28, 1, .w1c, .live, 0⟩, ⟨16, 8, .rc, .live, 0⟩, ⟨8, 8, .rc, .live, 0⟩, ⟨0, 8, .rc, .live, 0⟩]⟩
  | .EXE_TLAST => ⟨0x40120104, 0x10, 32, 0, 1, 0, 1,
      [⟨0, 32, .ro, .live, 0⟩]⟩
  | .EXE_TMAX => ⟨0x40120108, 0x10, 32, 0, 1, 0, 1,
      [⟨0, 32, .ro, .live, 0⟩]⟩
  | .EXE_TCNT => ⟨0x4012010C, 0x10, 32, 0, 1, 0, 1,
      [⟨0, 32, .ro, .live, 0⟩]⟩
  | .EXE_CTRL => ⟨0x40128000, 0, 1, 0, 1, 0, 1,
      [⟨16, 1, .wo, .live, 0⟩, ⟨2, 1, .rw, .live, 1⟩, ⟨1, 1, .rw, .stopped, 0⟩, ⟨0, 1, .rw, .stopped, 0⟩]⟩
  | .EXE_CMD => ⟨0x40128004, 0, 1, 0, 1, 0, 1,
      [⟨0, 3, .wo, .live, 0⟩]⟩
  | .EXE_CMD_STAT => ⟨0x40128008, 0, 1, 0, 1, 0, 1,
      [⟨8, 1, .ro, .live, 0⟩, ⟨0, 4, .ro, .live, 0⟩]⟩
  | .EXE_OLC_SEL => ⟨0x40128010, 0, 1, 0, 1, 0, 1,
      [⟨28, 4, .rw, .live, 0⟩, ⟨26, 2, .rw, .live, 0⟩, ⟨15, 11, .rw, .live, 0⟩, ⟨0, 8, .rw, .live, 0⟩]⟩
  | .EXE_OLC_DATA => ⟨0x40128014, 0, 1, 0, 1, 0, 1,
      [⟨0, 32, .rw, .live, 0⟩]⟩
  | .EXE_OLC_CMD => ⟨0x40128018, 0, 1, 0, 1, 0, 1,
      [⟨8, 5, .wo, .live, 0⟩, ⟨0, 2, .wo, .live, 0⟩]⟩
  | .EXE_OLC_STAT => ⟨0x4012801C, 0, 1, 0, 1, 0, 1,
      [⟨31, 1, .ro, .live, 0⟩, ⟨16, 7, .ro, .live, 0⟩, ⟨8, 1, .ro, .live, 0⟩, ⟨0, 4, .ro, .live, 0⟩]⟩
  | .EXE_TCFG => ⟨0x40128100, 0x4, 32, 0, 1, 0, 1,
      [⟨1, 1, .rw, .live, 0⟩, ⟨0, 1, .rw, .boundary, 0⟩]⟩
  | .EXE_TPER => ⟨0x40128200, 0x4, 32, 0, 1, 0, 1,
      [⟨0, 32, .ro, .live, 0⟩]⟩
  | .EXE_TBND => ⟨0x40128280, 0x4, 32, 0, 1, 0, 1,
      [⟨0, 32, .ro, .live, 0⟩]⟩
  | .EXE_TINFO => ⟨0x40128300, 0x4, 32, 0, 1, 0, 1,
      [⟨24, 8, .ro, .live, 0xff⟩, ⟨16, 4, .ro, .live, 0⟩, ⟨11, 1, .ro, .live, 0⟩, ⟨10, 1, .ro, .live, 0⟩, ⟨0, 9, .ro, .live, 0⟩]⟩
  | .LPE_STAT => ⟨0x40130000, 0, 1, 0, 1, 0, 1,
      [⟨0, 21, .ro, .live, 0⟩]⟩
  | .LPE_EVT => ⟨0x40130004, 0, 1, 0, 1, 0, 1,
      [⟨6, 1, .w1c, .live, 0⟩, ⟨5, 1, .w1c, .live, 0⟩, ⟨4, 1, .w1c, .live, 0⟩, ⟨3, 1, .w1c, .live, 0⟩, ⟨2, 1, .w1c, .live, 0⟩, ⟨1, 1, .w1c, .live, 0⟩, ⟨0, 1, .w1c, .live, 0⟩]⟩
  | .LPE_SNKDENY => ⟨0x40130008, 0, 1, 0, 1, 0, 1,
      [⟨0, 32, .rc, .live, 0⟩]⟩
  | .LPE_CH_STAT => ⟨0x40130100, 0x10, 64, 0, 1, 0, 1,
      [⟨28, 4, .ro, .live, 0⟩, ⟨19, 1, .ro, .live, 0⟩, ⟨18, 1, .ro, .live, 0⟩, ⟨17, 1, .ro, .live, 0⟩, ⟨16, 1, .ro, .live, 0⟩, ⟨15, 1, .ro, .live, 0⟩, ⟨14, 1, .ro, .live, 0⟩, ⟨13, 1, .ro, .live, 0⟩, ⟨12, 1, .ro, .live, 0⟩, ⟨11, 1, .ro, .live, 0⟩, ⟨10, 1, .ro, .live, 0⟩, ⟨9, 1, .ro, .live, 0⟩, ⟨8, 1, .ro, .live, 0⟩, ⟨5, 1, .ro, .live, 0⟩, ⟨3, 2, .ro, .live, 0⟩, ⟨0, 3, .ro, .live, 0⟩]⟩
  | .LPE_CH_PV => ⟨0x40130104, 0x10, 64, 0, 1, 0, 1,
      [⟨0, 32, .ro, .live, 0⟩]⟩
  | .LPE_CH_OUT => ⟨0x40130108, 0x10, 64, 0, 1, 0, 1,
      [⟨0, 32, .ro, .live, 0⟩]⟩
  | .LPE_CH_ERR => ⟨0x4013010C, 0x10, 64, 0, 1, 0, 1,
      [⟨0, 32, .ro, .live, 0⟩]⟩
  | .LPE_CH_CTRL => ⟨0x40138000, 0x100, 64, 0, 1, 0, 1,
      [⟨13, 1, .rw, .live, 0⟩, ⟨12, 1, .rw, .live, 0⟩, ⟨11, 1, .rw, .boundary, 0⟩, ⟨10, 1, .rw, .live, 0⟩, ⟨8, 2, .rw, .live, 0⟩, ⟨1, 2, .rw, .boundary, 0⟩, ⟨0, 1, .rw, .boundary, 0⟩]⟩
  | .LPE_CH_SRC => ⟨0x40138004, 0x100, 64, 0, 1, 0, 1,
      [⟨31, 1, .rw, .stopped, 0⟩, ⟨0, 16, .rw, .stopped, 0xffff⟩]⟩
  | .LPE_CH_SINK => ⟨0x40138008, 0x100, 64, 0, 1, 0, 1,
      [⟨0, 16, .rw, .stopped, 0xffff⟩]⟩
  | .LPE_CH_SPSRC => ⟨0x4013800C, 0x100, 64, 0, 1, 0, 1,
      [⟨31, 1, .rw, .stopped, 0⟩, ⟨24, 6, .rw, .stopped, 0⟩, ⟨0, 16, .rw, .stopped, 0⟩]⟩
  | .LPE_CH_FFSRC => ⟨0x40138010, 0x100, 64, 0, 1, 0, 1,
      [⟨0, 16, .rw, .stopped, 0xffff⟩]⟩
  | .LPE_CH_TRKSRC => ⟨0x40138014, 0x100, 64, 0, 1, 0, 1,
      [⟨0, 16, .rw, .stopped, 0xffff⟩]⟩
  | .LPE_CH_PER => ⟨0x40138018, 0x100, 64, 0, 1, 0, 1,
      [⟨31, 1, .rw, .stopped, 0⟩, ⟨0, 27, .rw, .stopped, 0x5f5e100⟩]⟩
  | .LPE_CH_TEN => ⟨0x4013801C, 0x100, 64, 0, 1, 0, 1,
      [⟨0, 8, .rw, .stopped, 0⟩]⟩
  | .LPE_CH_SP => ⟨0x40138020, 0x100, 64, 0, 1, 0, 1,
      [⟨0, 32, .rw, .live, 0⟩]⟩
  | .LPE_CH_MAN => ⟨0x40138024, 0x100, 64, 0, 1, 0, 1,
      [⟨0, 32, .rw, .live, 0⟩]⟩
  | .LPE_CH_OLO => ⟨0x40138028, 0x100, 64, 0, 1, 0, 1,
      [⟨0, 32, .rw, (.paired 0), 0⟩]⟩
  | .LPE_CH_OHI => ⟨0x4013802C, 0x100, 64, 0, 1, 0, 1,
      [⟨0, 32, .rw, (.paired 0), 0⟩]⟩
  | .LPE_CH_OSAFE => ⟨0x40138030, 0x100, 64, 0, 1, 0, 1,
      [⟨0, 32, .rw, .live, 0⟩]⟩
  | .LPE_CH_RATE => ⟨0x40138034, 0x100, 64, 0, 1, 0, 1,
      [⟨0, 32, .rw, .live, 0⟩]⟩
  | .LPE_CH_FELIM => ⟨0x40138038, 0x100, 64, 0, 1, 0, 1,
      [⟨0, 32, .rw, (.paired 1), 0x7f800000⟩]⟩
  | .LPE_CH_FETIME => ⟨0x4013803C, 0x100, 64, 0, 1, 0, 1,
      [⟨0, 32, .rw, (.paired 1), 0x3e8⟩]⟩
  | .LPE_CH_WZBASE => ⟨0x40138040, 0x100, 64, 0, 1, 0, 1,
      [⟨0, 18, .rw, (.paired 2), 0⟩]⟩
  | .LPE_CH_WZLEN => ⟨0x40138044, 0x100, 64, 0, 1, 0, 1,
      [⟨0, 14, .rw, (.paired 2), 0⟩]⟩
  | .LPE_CH_WZCFG => ⟨0x40138048, 0x100, 64, 0, 1, 0, 1,
      [⟨31, 1, .rw, .live, 0⟩, ⟨16, 13, .rw, .live, 0⟩, ⟨0, 13, .rw, .live, 0⟩]⟩
  | .LPE_CH_WZQ => ⟨0x4013804C, 0x100, 64, 0, 1, 0, 1,
      [⟨0, 32, .rw, .live, 0x3f800000⟩]⟩
  | .LPE_CH_WZKL => ⟨0x40138050, 0x100, 64, 0, 1, 0, 1,
      [⟨0, 32, .rw, .live, 0⟩]⟩
  | .LPE_CH_KP => ⟨0x40138060, 0x100, 64, 0x20, 2, 0, 1,
      [⟨0, 32, .rw, .live, 0⟩]⟩
  | .LPE_CH_KIT => ⟨0x40138064, 0x100, 64, 0x20, 2, 0, 1,
      [⟨0, 32, .rw, .live, 0⟩]⟩
  | .LPE_CH_KDT => ⟨0x40138068, 0x100, 64, 0x20, 2, 0, 1,
      [⟨0, 32, .rw, .live, 0⟩]⟩
  | .LPE_CH_DF => ⟨0x4013806C, 0x100, 64, 0x20, 2, 0, 1,
      [⟨0, 32, .rw, .live, 0⟩]⟩
  | .LPE_CH_BW => ⟨0x40138070, 0x100, 64, 0x20, 2, 0, 1,
      [⟨0, 32, .rw, .live, 0x3f800000⟩]⟩
  | .LPE_CH_KFF => ⟨0x40138074, 0x100, 64, 0x20, 2, 0, 1,
      [⟨0, 32, .rw, .live, 0⟩]⟩
  | .LPE_CH_I => ⟨0x401380A0, 0x100, 64, 0, 1, 0, 1,
      [⟨0, 32, .ro, .live, 0⟩]⟩
  | .LPE_CH_D => ⟨0x401380A4, 0x100, 64, 0, 1, 0, 1,
      [⟨0, 32, .ro, .live, 0⟩]⟩
  | .LPE_CH_FETMR => ⟨0x401380A8, 0x100, 64, 0, 1, 0, 1,
      [⟨0, 32, .ro, .live, 0⟩]⟩
  | .LPE_CH_WZOUT => ⟨0x401380AC, 0x100, 64, 0, 1, 0, 1,
      [⟨0, 32, .ro, .live, 0⟩]⟩
  | .LPE_CH_WZIDX => ⟨0x401380B0, 0x100, 64, 0, 1, 0, 1,
      [⟨0, 13, .ro, .live, 0⟩]⟩
  | .LPE_CTRL => ⟨0x4013C000, 0, 1, 0, 1, 0, 1,
      [⟨8, 1, .rw, .boundary, 0⟩, ⟨0, 1, .rw, .live, 0⟩]⟩
  | .LPE_COMMIT => ⟨0x4013C004, 0, 1, 0, 1, 0, 1,
      [⟨24, 8, .w1c, .live, 0⟩, ⟨16, 8, .wo, .live, 0⟩, ⟨8, 8, .ro, .live, 0⟩, ⟨0, 8, .rw, .live, 0⟩]⟩
  | .LPE_WZCLR => ⟨0x4013C008, 0, 1, 0, 1, 0, 1,
      [⟨8, 1, .wo, .live, 0⟩, ⟨0, 6, .wo, .live, 0⟩]⟩
  | .MTR_STAT => ⟨0x40140000, 0, 1, 0, 1, 0, 1,
      [⟨9, 1, .ro, .live, 0⟩, ⟨8, 1, .ro, .live, 0⟩, ⟨1, 1, .ro, .live, 0⟩, ⟨0, 1, .ro, .live, 0⟩]⟩
  | .MTR_EVT => ⟨0x40140004, 0, 1, 0, 1, 0, 1,
      [⟨11, 1, .w1c, .live, 0⟩, ⟨10, 1, .w1c, .live, 0⟩, ⟨9, 1, .w1c, .live, 0⟩, ⟨8, 1, .w1c, .live, 0⟩, ⟨7, 1, .w1c, .live, 0⟩, ⟨6, 1, .w1c, .live, 0⟩, ⟨5, 1, .w1c, .live, 0⟩, ⟨4, 1, .w1c, .live, 0⟩, ⟨3, 1, .w1c, .live, 0⟩, ⟨2, 1, .w1c, .live, 0⟩, ⟨1, 1, .w1c, .live, 0⟩, ⟨0, 1, .w1c, .live, 0⟩]⟩
  | .MTR_MIFLT0 => ⟨0x40140008, 0, 1, 0, 1, 0, 1,
      [⟨0, 32, .ro, .live, 0⟩]⟩
  | .MTR_MIFLT1 => ⟨0x4014000C, 0, 1, 0, 1, 0, 1,
      [⟨0, 24, .ro, .live, 0⟩]⟩
  | .MTR_VS_STAT => ⟨0x40140100, 0x40, 2, 0, 1, 0, 1,
      [⟨10, 2, .ro, .live, 0⟩, ⟨9, 1, .ro, .live, 0⟩, ⟨8, 1, .ro, .live, 0⟩, ⟨5, 3, .ro, .live, 0⟩, ⟨2, 3, .ro, .live, 0⟩, ⟨1, 1, .ro, .live, 0⟩, ⟨0, 1, .ro, .live, 0⟩]⟩
  | .MTR_VS_RMS => ⟨0x40140104, 0x40, 2, 0x4, 7, 0, 1,
      [⟨0, 32, .ro, .live, 0⟩]⟩
  | .MTR_VS_FREQ => ⟨0x40140120, 0x40, 2, 0, 1, 0, 1,
      [⟨0, 32, .ro, .live, 0⟩]⟩
  | .MTR_VS_EVCNT => ⟨0x40140124, 0x40, 2, 0, 1, 0, 1,
      [⟨16, 16, .rc, .live, 0⟩, ⟨0, 16, .rc, .live, 0⟩]⟩
  | .MTR_C_STAT => ⟨0x40140200, 0x80, 12, 0, 1, 0, 1,
      [⟨16, 8, .ro, .live, 0⟩, ⟨9, 1, .ro, .live, 0⟩, ⟨8, 1, .ro, .live, 0⟩, ⟨6, 1, .ro, .live, 0⟩, ⟨5, 1, .ro, .live, 0⟩, ⟨4, 1, .ro, .live, 0⟩, ⟨3, 1, .ro, .live, 0⟩, ⟨1, 2, .ro, .live, 0⟩, ⟨0, 1, .ro, .live, 0⟩]⟩
  | .MTR_C_MEAS => ⟨0x40140204, 0x80, 12, 0x4, 11, 0, 1,
      [⟨0, 32, .ro, .live, 0⟩]⟩
  | .MTR_C_E => ⟨0x40140230, 0x80, 12, 0x4, 7, 0, 1,
      [⟨0, 32, .ro, .live, 0⟩]⟩
  | .MTR_C_WRAP0 => ⟨0x4014024C, 0x80, 12, 0, 1, 0, 1,
      [⟨16, 8, .ro, .live, 0⟩, ⟨8, 8, .ro, .live, 0⟩, ⟨0, 8, .ro, .live, 0⟩]⟩
  | .MTR_C_WRAP1 => ⟨0x40140250, 0x80, 12, 0, 1, 0, 1,
      [⟨24, 8, .ro, .live, 0⟩, ⟨16, 8, .ro, .live, 0⟩, ⟨8, 8, .ro, .live, 0⟩, ⟨0, 8, .ro, .live, 0⟩]⟩
  | .MTR_C_DPI => ⟨0x40140254, 0x80, 12, 0, 1, 0, 1,
      [⟨0, 32, .ro, .live, 0⟩]⟩
  | .MTR_C_DPE => ⟨0x40140258, 0x80, 12, 0, 1, 0, 1,
      [⟨0, 32, .ro, .live, 0⟩]⟩
  | .MTR_C_MAXD => ⟨0x4014025C, 0x80, 12, 0, 1, 0, 1,
      [⟨0, 32, .ro, .live, 0⟩]⟩
  | .MTR_C_MAXDT => ⟨0x40140260, 0x80, 12, 0, 1, 0, 1,
      [⟨0, 32, .ro, .live, 0⟩]⟩
  | .MTR_C_LOST => ⟨0x40140264, 0x80, 12, 0, 1, 0, 1,
      [⟨0, 32, .ro, .live, 0⟩]⟩
  | .MTR_CTRL => ⟨0x40148000, 0, 1, 0, 1, 0, 1,
      [⟨9, 1, .rw, .boundary, 0⟩, ⟨8, 1, .rw, .live, 0⟩, ⟨0, 1, .rw, .live, 0⟩]⟩
  | .MTR_CLK => ⟨0x40148004, 0, 1, 0, 1, 0, 1,
      [⟨16, 2, .rw, .stopped, 0⟩, ⟨0, 10, .rw, .stopped, 0x271⟩]⟩
  | .MTR_CMD => ⟨0x40148008, 0, 1, 0, 1, 0, 1,
      [⟨8, 4, .wo, .live, 0⟩, ⟨0, 2, .wo, .live, 0⟩]⟩
  | .MTR_CMD_STAT => ⟨0x4014800C, 0, 1, 0, 1, 0, 1,
      [⟨8, 1, .ro, .live, 0⟩, ⟨0, 4, .ro, .live, 0⟩]⟩
  | .MTR_COMMIT => ⟨0x40148010, 0, 1, 0, 1, 0, 1,
      [⟨24, 8, .w1c, .live, 0⟩, ⟨16, 8, .wo, .live, 0⟩, ⟨8, 8, .ro, .live, 0⟩, ⟨0, 8, .rw, .live, 0⟩]⟩
  | .MTR_DMD_CFG => ⟨0x40148014, 0, 1, 0, 1, 0, 1,
      [⟨0, 6, .rw, .boundary, 0xf⟩]⟩
  | .MTR_MI_CFG => ⟨0x40148100, 0x4, 56, 0, 1, 0, 1,
      [⟨8, 8, .rw, .stopped, 0⟩, ⟨0, 2, .rw, .stopped, 0⟩]⟩
  | .MTR_MI_SCALE => ⟨0x40148200, 0x4, 56, 0, 1, 0, 1,
      [⟨0, 32, .rw, .stopped, 0⟩]⟩
  | .MTR_MI_OFS => ⟨0x40148300, 0x4, 56, 0, 1, 0, 1,
      [⟨0, 32, .rw, .live, 0⟩]⟩
  | .MTR_VS_CFG => ⟨0x40148400, 0x20, 2, 0, 1, 0, 1,
      [⟨16, 1, .rw, .stopped, 0⟩, ⟨0, 16, .rw, .stopped, 0x8fc⟩]⟩
  | .MTR_VS_SAG => ⟨0x40148404, 0x20, 2, 0, 1, 0, 1,
      [⟨16, 16, .rw, (.paired 1), 0x64⟩, ⟨0, 16, .rw, (.paired 1), 0x384⟩]⟩
  | .MTR_VS_SWELL => ⟨0x40148408, 0x20, 2, 0, 1, 0, 1,
      [⟨16, 16, .rw, (.paired 1), 0x14⟩, ⟨0, 16, .rw, (.paired 1), 0x44c⟩]⟩
  | .MTR_VS_NTHR => ⟨0x4014840C, 0x20, 2, 0, 1, 0, 1,
      [⟨16, 16, .rw, (.paired 1), 0x64⟩, ⟨0, 16, .rw, (.paired 1), 0x1f4⟩]⟩
  | .MTR_VC_GAIN => ⟨0x40148480, 0x8, 8, 0, 1, 0, 1,
      [⟨0, 32, .rw, .boundary, 0⟩]⟩
  | .MTR_VC_PHASE => ⟨0x40148484, 0x8, 8, 0, 1, 0, 1,
      [⟨0, 32, .rw, .boundary, 0⟩]⟩
  | .MTR_C_CFG => ⟨0x40148500, 0x10, 12, 0, 1, 0, 1,
      [⟨4, 1, .rw, .stopped, 0⟩, ⟨0, 2, .rw, .stopped, 0⟩]⟩
  | .MTR_C_TEN => ⟨0x40148504, 0x10, 12, 0, 1, 0, 1,
      [⟨0, 8, .rw, (.paired 2), 0⟩]⟩
  | .MTR_C_START => ⟨0x40148508, 0x10, 12, 0, 1, 0, 1,
      [⟨0, 32, .rw, .boundary, 0x40a00000⟩]⟩
  | .MTR_C_NTHR => ⟨0x4014850C, 0x10, 12, 0, 1, 0, 1,
      [⟨0, 16, .rw, (.paired 1), 0x32⟩]⟩
  | .MTR_C_XE_LO => ⟨0x40148700, 0x40, 12, 0x8, 7, 0, 1,
      [⟨0, 32, .ro, .live, 0⟩]⟩
  | .MTR_C_XE_HI => ⟨0x40148704, 0x40, 12, 0x8, 7, 0, 1,
      [⟨0, 32, .ro, .live, 0⟩]⟩
  | .MTR_CK_NSEG => ⟨0x40149000, 0x80, 48, 0, 1, 0, 1,
      [⟨0, 4, .rw, (.paired 0), 0⟩]⟩
  | .MTR_CK_KNOT => ⟨0x40149004, 0x80, 48, 0x4, 8, 0, 1,
      [⟨0, 32, .rw, (.paired 0), 0⟩]⟩
  | .MTR_CK_GAIN => ⟨0x40149024, 0x80, 48, 0x4, 9, 0, 1,
      [⟨0, 32, .rw, (.paired 0), 0⟩]⟩
  | .MTR_CK_PHASE => ⟨0x40149048, 0x80, 48, 0x4, 9, 0, 1,
      [⟨0, 32, .rw, (.paired 0), 0⟩]⟩
  | .CAN_STAT => ⟨0x40200000, 0x10000, 8, 0, 1, 0, 1,
      [⟨16, 7, .ro, .live, 0⟩, ⟨8, 4, .ro, .live, 0⟩, ⟨4, 2, .ro, .live, 0⟩, ⟨0, 3, .ro, .live, 0⟩]⟩
  | .CAN_EVT => ⟨0x40200004, 0x10000, 8, 0, 1, 0, 1,
      [⟨11, 1, .w1c, .live, 0⟩, ⟨10, 1, .w1c, .live, 0⟩, ⟨9, 1, .w1c, .live, 0⟩, ⟨8, 1, .w1c, .live, 0⟩, ⟨7, 1, .w1c, .live, 0⟩, ⟨6, 1, .w1c, .live, 0⟩, ⟨5, 1, .w1c, .live, 0⟩, ⟨4, 1, .w1c, .live, 0⟩, ⟨3, 1, .w1c, .live, 0⟩, ⟨2, 1, .w1c, .live, 0⟩, ⟨1, 1, .w1c, .live, 0⟩, ⟨0, 1, .w1c, .live, 0⟩]⟩
  | .CAN_ERR => ⟨0x40200008, 0x10000, 8, 0, 1, 0, 1,
      [⟨16, 9, .ro, .live, 0⟩, ⟨0, 8, .ro, .live, 0⟩]⟩
  | .CAN_BOCNT => ⟨0x4020000C, 0x10000, 8, 0, 1, 0, 1,
      [⟨16, 16, .rc, .live, 0⟩, ⟨0, 16, .rc, .live, 0⟩]⟩
  | .CAN_FCNT => ⟨0x40200010, 0x10000, 8, 0, 1, 0, 1,
      [⟨16, 16, .rc, .live, 0⟩, ⟨0, 16, .rc, .live, 0⟩]⟩
  | .CAN_LOST => ⟨0x40200014, 0x10000, 8, 0, 1, 0, 1,
      [⟨16, 16, .rc, .live, 0⟩, ⟨0, 16, .rc, .live, 0⟩]⟩
  | .CAN_ONL0 => ⟨0x40200020, 0x10000, 8, 0, 1, 0, 1,
      [⟨0, 32, .ro, .live, 0⟩]⟩
  | .CAN_ONL1 => ⟨0x40200024, 0x10000, 8, 0, 1, 0, 1,
      [⟨0, 32, .ro, .live, 0⟩]⟩
  | .CAN_STA_STAT => ⟨0x40200100, 0x10000, 8, 0x4, 64, 0, 1,
      [⟨16, 16, .ro, .live, 0⟩, ⟨8, 8, .rc, .live, 0⟩, ⟨4, 2, .ro, .live, 0⟩, ⟨0, 3, .ro, .live, 0⟩]⟩
  | .CAN_CTRL => ⟨0x40208000, 0x10000, 8, 0, 1, 0, 1,
      [⟨1, 1, .rw, .live, 0⟩, ⟨0, 1, .rw, .live, 0⟩]⟩
  | .CAN_NBT => ⟨0x40208004, 0x10000, 8, 0, 1, 0, 1,
      [⟨24, 8, .rw, .stopped, 3⟩, ⟨16, 8, .rw, .stopped, 0x3e⟩, ⟨8, 7, .rw, .stopped, 0xf⟩, ⟨0, 7, .rw, .stopped, 0xf⟩]⟩
  | .CAN_DBT => ⟨0x40208008, 0x10000, 8, 0, 1, 0, 1,
      [⟨24, 5, .rw, .stopped, 3⟩, ⟨16, 5, .rw, .stopped, 0xd⟩, ⟨8, 4, .rw, .stopped, 4⟩, ⟨0, 4, .rw, .stopped, 4⟩]⟩
  | .CAN_TDC => ⟨0x4020800C, 0x10000, 8, 0, 1, 0, 1,
      [⟨15, 1, .rw, .stopped, 0⟩, ⟨0, 7, .rw, .stopped, 0⟩]⟩
  | .CAN_REF => ⟨0x40208010, 0x10000, 8, 0, 1, 0, 1,
      [⟨0, 10, .rw, .boundary, 0xa⟩]⟩
  | .CAN_WAKE => ⟨0x40208014, 0x10000, 8, 0, 1, 0, 1,
      [⟨8, 4, .rw, .stopped, 0⟩, ⟨4, 1, .rw, .stopped, 0⟩, ⟨0, 2, .rw, .stopped, 0⟩]⟩
  | .CAN_WID => ⟨0x40208018, 0x10000, 8, 0, 1, 0, 1,
      [⟨0, 29, .rw, .stopped, 0⟩]⟩
  | .CAN_WIDM => ⟨0x4020801C, 0x10000, 8, 0, 1, 0, 1,
      [⟨0, 29, .rw, .stopped, 0⟩]⟩
  | .CAN_WDM0 => ⟨0x40208020, 0x10000, 8, 0, 1, 0, 1,
      [⟨0, 32, .rw, .stopped, 0⟩]⟩
  | .CAN_WDM1 => ⟨0x40208024, 0x10000, 8, 0, 1, 0, 1,
      [⟨0, 32, .rw, .stopped, 0⟩]⟩
  | .CAN_TXREQ => ⟨0x40208030, 0x10000, 8, 0, 1, 0, 1,
      [⟨0, 8, .rw, .live, 0⟩]⟩
  | .CAN_TXDONE => ⟨0x40208034, 0x10000, 8, 0, 1, 0, 1,
      [⟨8, 8, .w1c, .live, 0⟩, ⟨0, 8, .w1c, .live, 0⟩]⟩
  | .CAN_RXQ_STAT => ⟨0x40208038, 0x10000, 8, 0, 1, 0, 1,
      [⟨16, 7, .ro, .live, 0⟩, ⟨0, 7, .ro, .live, 0⟩]⟩
  | .CAN_RXQ_POP => ⟨0x4020803C, 0x10000, 8, 0, 1, 0, 1,
      [⟨0, 2, .wo, .live, 0⟩]⟩
  | .CAN_FLT_ID => ⟨0x40208100, 0x10000, 8, 0x8, 64, 0, 1,
      [⟨31, 1, .rw, .live, 0⟩, ⟨30, 1, .rw, .live, 0⟩, ⟨29, 1, .rw, .live, 0⟩, ⟨0, 29, .rw, .live, 0⟩]⟩
  | .CAN_FLT_MASK => ⟨0x40208104, 0x10000, 8, 0x8, 64, 0, 1,
      [⟨0, 29, .rw, .live, 0⟩]⟩
  | .CAN_RXQ_W => ⟨0x40208300, 0x10000, 8, 0x50, 2, 0x4, 20,
      [⟨0, 32, .ro, .live, 0⟩]⟩
  | .CAN_TXB_W => ⟨0x40208400, 0x10000, 8, 0x50, 8, 0x4, 20,
      [⟨0, 32, .rw, .live, 0⟩]⟩
  | .CAN_STA_CFG => ⟨0x40208800, 0x10000, 8, 0x10, 64, 0, 1,
      [⟨31, 1, .rw, .live, 0⟩, ⟨16, 14, .rw, .stopped, 0x64⟩, ⟨0, 14, .rw, .stopped, 0x19⟩]⟩
  | .CAN_STA_SERL => ⟨0x40208804, 0x10000, 8, 0x10, 64, 0, 1,
      [⟨0, 32, .rw, .stopped, 0⟩]⟩
  | .CAN_STA_SERH => ⟨0x40208808, 0x10000, 8, 0x10, 64, 0, 1,
      [⟨16, 8, .rw, .stopped, 0⟩, ⟨0, 16, .rw, .stopped, 0⟩]⟩
  | .ETH_STAT => ⟨0x40300000, 0x10000, 3, 0, 1, 0, 1,
      [⟨13, 3, .ro, .live, 0⟩, ⟨12, 1, .ro, .live, 0⟩, ⟨10, 2, .ro, .live, 0⟩, ⟨9, 1, .ro, .live, 0⟩, ⟨7, 1, .ro, .live, 0⟩, ⟨6, 1, .ro, .live, 0⟩, ⟨5, 1, .ro, .live, 0⟩, ⟨4, 1, .ro, .live, 0⟩, ⟨1, 2, .ro, .live, 3⟩, ⟨0, 1, .ro, .live, 0⟩]⟩
  | .ETH_EVT => ⟨0x40300004, 0x10000, 3, 0, 1, 0, 1,
      [⟨8, 1, .w1c, .live, 0⟩, ⟨7, 1, .w1c, .live, 0⟩, ⟨6, 1, .w1c, .live, 0⟩, ⟨5, 1, .w1c, .live, 0⟩, ⟨4, 1, .w1c, .live, 0⟩, ⟨3, 1, .w1c, .live, 0⟩, ⟨2, 1, .w1c, .live, 0⟩, ⟨1, 1, .w1c, .live, 0⟩, ⟨0, 1, .w1c, .live, 0⟩]⟩
  | .ETH_RXOK => ⟨0x40300010, 0x10000, 3, 0, 1, 0, 1,
      [⟨0, 32, .rc, .live, 0⟩]⟩
  | .ETH_TXOK => ⟨0x40300014, 0x10000, 3, 0, 1, 0, 1,
      [⟨0, 32, .rc, .live, 0⟩]⟩
  | .ETH_RXERR => ⟨0x40300018, 0x10000, 3, 0, 1, 0, 1,
      [⟨16, 16, .rc, .live, 0⟩, ⟨0, 16, .rc, .live, 0⟩]⟩
  | .ETH_RXDROP => ⟨0x4030001C, 0x10000, 3, 0, 1, 0, 1,
      [⟨16, 16, .rc, .live, 0⟩, ⟨0, 16, .rc, .live, 0⟩]⟩
  | .ETH_TXDROP => ⟨0x40300020, 0x10000, 3, 0, 1, 0, 1,
      [⟨0, 32, .rc, .live, 0⟩]⟩
  | .ETH_PAUSE => ⟨0x40300024, 0x10000, 3, 0, 1, 0, 1,
      [⟨0, 32, .rc, .live, 0⟩]⟩
  | .ETH_LPI => ⟨0x40300028, 0x10000, 3, 0, 1, 0, 1,
      [⟨16, 16, .rc, .live, 0⟩, ⟨0, 16, .rc, .live, 0⟩]⟩
  | .ETH_BB_STAT => ⟨0x40300030, 0, 1, 0, 1, 0, 1,
      [⟨2, 1, .ro, .live, 0⟩, ⟨0, 2, .ro, .live, 0⟩]⟩
  | .ETH_CTRL => ⟨0x40308000, 0x10000, 3, 0, 1, 0, 1,
      [⟨8, 4, .rw, .stopped, 7⟩, ⟨4, 1, .rw, .live, 0⟩, ⟨3, 1, .rw, .live, 0⟩, ⟨2, 1, .rw, .live, 1⟩, ⟨1, 1, .rw, .live, 0⟩, ⟨0, 1, .rw, .live, 0⟩]⟩
  | .ETH_SDCFG => ⟨0x40308004, 0x10000, 2, 0, 1, 0, 1,
      [⟨24, 8, .rw, .boundary, 0x3c⟩, ⟨16, 8, .rw, .boundary, 0x1e⟩, ⟨0, 7, .rw, .boundary, 0x28⟩]⟩
  | .ETH_SDUP => ⟨0x40308008, 0x10000, 2, 0, 1, 0, 1,
      [⟨24, 8, .rw, .boundary, 3⟩, ⟨8, 7, .rw, .boundary, 0x50⟩, ⟨0, 6, .rw, .boundary, 0x10⟩]⟩
  | .ETH_EEE => ⟨0x4030800C, 0x10000, 3, 0, 1, 0, 1,
      [⟨0, 16, .rw, .live, 0x32⟩]⟩
  | .ETH_PTP_CFG => ⟨0x40308010, 0x10000, 2, 0, 1, 0, 1,
      [⟨8, 7, .rw, .live, 0⟩, ⟨4, 1, .rw, .live, 0⟩, ⟨2, 2, .rw, .live, 0⟩, ⟨1, 1, .rw, .live, 0⟩, ⟨0, 1, .rw, .live, 0⟩]⟩
  | .ETH_PTP_OFS => ⟨0x40308014, 0x10000, 2, 0, 1, 0, 1,
      [⟨0, 32, .ro, .live, 0⟩]⟩
  | .ETH_PTP_MPD => ⟨0x40308018, 0x10000, 2, 0, 1, 0, 1,
      [⟨0, 32, .ro, .live, 0⟩]⟩
  | .ETH_COMMIT => ⟨0x4030801C, 0x10000, 3, 0, 1, 0, 1,
      [⟨24, 8, .w1c, .live, 0⟩, ⟨16, 8, .wo, .live, 0⟩, ⟨8, 8, .ro, .live, 0⟩, ⟨0, 8, .rw, .live, 0⟩]⟩
  | .ETH_BB_CTRL => ⟨0x40308020, 0, 1, 0, 1, 0, 1,
      [⟨8, 8, .rw, .live, 0xa⟩, ⟨1, 1, .rw, .live, 1⟩, ⟨0, 1, .rw, .live, 0⟩]⟩
  | .ETH_VLAN => ⟨0x40308100, 0x10000, 2, 0x4, 251, 0, 1,
      [⟨31, 1, .rw, .live, 0⟩, ⟨12, 3, .rw, .live, 0⟩, ⟨0, 12, .rw, .live, 0⟩]⟩
  | .ETH_WP_M => ⟨0x40308600, 0x10000, 3, 0x20, 8, 0x4, 4,
      [⟨0, 32, .rw, (.paired 0), 0⟩]⟩
  | .ETH_WP_CRC => ⟨0x40308610, 0x10000, 3, 0x20, 8, 0, 1,
      [⟨31, 1, .rw, (.paired 0), 0⟩, ⟨0, 16, .rw, (.paired 0), 0⟩]⟩
  | .IBX_STAT => ⟨0x403A0000, 0, 1, 0, 1, 0, 1,
      [⟨9, 1, .ro, .live, 0⟩, ⟨8, 1, .ro, .live, 0⟩, ⟨7, 1, .ro, .live, 0⟩, ⟨6, 1, .ro, .live, 0⟩, ⟨5, 1, .ro, .live, 0⟩, ⟨4, 1, .ro, .live, 0⟩, ⟨0, 4, .ro, .live, 0⟩]⟩
  | .IBX_EPOCH => ⟨0x403A0004, 0, 1, 0, 1, 0, 1,
      [⟨0, 32, .ro, .live, 0⟩]⟩
  | .IBX_LEASE => ⟨0x403A0008, 0, 1, 0, 1, 0, 1,
      [⟨0, 32, .ro, .live, 0⟩]⟩
  | .IBX_HEALTH => ⟨0x403A000C, 0, 1, 0, 1, 0, 1,
      [⟨0, 32, .ro, .live, 0⟩]⟩
  | .IBX_PHEALTH => ⟨0x403A0010, 0, 1, 0, 1, 0, 1,
      [⟨0, 32, .ro, .live, 0⟩]⟩
  | .IBX_EVT => ⟨0x403A0014, 0, 1, 0, 1, 0, 1,
      [⟨7, 1, .w1c, .live, 0⟩, ⟨6, 1, .w1c, .live, 0⟩, ⟨5, 1, .w1c, .live, 0⟩, ⟨4, 1, .w1c, .live, 0⟩, ⟨3, 1, .w1c, .live, 0⟩, ⟨2, 1, .w1c, .live, 0⟩, ⟨1, 1, .w1c, .live, 0⟩, ⟨0, 1, .w1c, .live, 0⟩]⟩
  | .IBX_SWCNT => ⟨0x403A0018, 0, 1, 0, 1, 0, 1,
      [⟨16, 16, .rc, .live, 0⟩, ⟨0, 16, .rc, .live, 0⟩]⟩
  | .IBX_CTRL => ⟨0x403A8000, 0, 1, 0, 1, 0, 1,
      [⟨16, 16, .rw, .live, 0x3c⟩, ⟨4, 1, .rw, .live, 1⟩, ⟨3, 1, .rw, .live, 1⟩, ⟨2, 1, .rw, .live, 1⟩, ⟨1, 1, .rw, .stopped, 0⟩, ⟨0, 1, .rw, .live, 0⟩]⟩
  | .IBX_CMD => ⟨0x403A8004, 0, 1, 0, 1, 0, 1,
      [⟨0, 2, .wo, .live, 0⟩]⟩
  | .IBX_CMD_STAT => ⟨0x403A8008, 0, 1, 0, 1, 0, 1,
      [⟨8, 1, .ro, .live, 0⟩, ⟨0, 4, .ro, .live, 0⟩]⟩
  | .IBX_PAIR => ⟨0x403A800C, 0, 1, 0, 1, 0, 1,
      [⟨16, 16, .rw, .stopped, 0⟩, ⟨0, 6, .rw, .stopped, 0⟩]⟩
  | .IBX_WADDR => ⟨0x403A8010, 0x4, 4, 0, 1, 0, 1,
      [⟨0, 32, .rw, .stopped, 0⟩]⟩
  | .IBX_UADDR => ⟨0x403A8020, 0x4, 4, 0, 1, 0, 1,
      [⟨0, 32, .rw, .stopped, 0⟩]⟩
  | .IBX_LSAFE => ⟨0x403A8040, 0x4, 4, 0, 1, 0, 1,
      [⟨0, 32, .rw, .live, 0⟩]⟩
  | .IBX_CHOST => ⟨0x403A8060, 0, 1, 0, 1, 0, 1,
      [⟨0, 1, .rw, .live, 0⟩]⟩
  | .IBX_CHP_SEL => ⟨0x403A8064, 0, 1, 0, 1, 0, 1,
      [⟨0, 4, .rw, .live, 0⟩]⟩
  | .IBX_CHP_CFG => ⟨0x403A8068, 0, 1, 0, 1, 0, 1,
      [⟨31, 1, .rw, .live, 0⟩, ⟨16, 6, .rw, .live, 0⟩, ⟨0, 16, .rw, .live, 0⟩]⟩
  | .IBX_CHP_STAT => ⟨0x403A806C, 0, 1, 0, 1, 0, 1,
      [⟨30, 2, .ro, .live, 0⟩, ⟨29, 1, .ro, .live, 0⟩, ⟨28, 1, .ro, .live, 0⟩, ⟨0, 16, .ro, .live, 0⟩]⟩
  | .IBX_CHP_EPOCH => ⟨0x403A8070, 0, 1, 0, 1, 0, 1,
      [⟨0, 32, .ro, .live, 0⟩]⟩
  | .IBX_SV_PT => ⟨0x403A9000, 0x8, 1024, 0, 1, 0, 1,
      [⟨31, 1, .rw, .live, 0⟩, ⟨0, 16, .rw, .live, 0⟩]⟩
  | .IBX_SV_VAL => ⟨0x403A9004, 0x8, 1024, 0, 1, 0, 1,
      [⟨0, 32, .rw, .live, 0⟩]⟩
  | .TTH_STAT => ⟨0x40380000, 0, 1, 0, 1, 0, 1,
      [⟨5, 1, .ro, .live, 0⟩, ⟨4, 1, .ro, .live, 0⟩, ⟨2, 2, .ro, .live, 0⟩, ⟨0, 2, .ro, .live, 0⟩]⟩
  | .TTH_EVT => ⟨0x40380004, 0, 1, 0, 1, 0, 1,
      [⟨6, 1, .w1c, .live, 0⟩, ⟨5, 1, .w1c, .live, 0⟩, ⟨4, 1, .w1c, .live, 0⟩, ⟨3, 1, .w1c, .live, 0⟩, ⟨2, 1, .w1c, .live, 0⟩, ⟨1, 1, .w1c, .live, 0⟩, ⟨0, 1, .w1c, .live, 0⟩]⟩
  | .TTH_CRCERR => ⟨0x40380008, 0, 1, 0, 1, 0, 1,
      [⟨0, 32, .rc, .live, 0⟩]⟩
  | .TTH_CYCLE => ⟨0x4038000C, 0, 1, 0, 1, 0, 1,
      [⟨0, 32, .ro, .live, 0⟩]⟩
  | .TTH_LOAD => ⟨0x40380010, 0, 1, 0, 1, 0, 1,
      [⟨0, 32, .ro, .live, 0⟩]⟩
  | .TTH_DISC => ⟨0x40380014, 0, 1, 0, 1, 0, 1,
      [⟨0, 32, .rc, .live, 0⟩]⟩
  | .TTH_CTRL => ⟨0x40388000, 0, 1, 0, 1, 0, 1,
      [⟨16, 10, .rw, .boundary, 0xa⟩, ⟨1, 1, .rw, .boundary, 0⟩, ⟨0, 1, .rw, .live, 0⟩]⟩
  | .TIM_TAI_LO => ⟨0x40010000, 0, 1, 0, 1, 0, 1,
      [⟨0, 32, .ro, .live, 0⟩]⟩
  | .TIM_TAI_HI => ⟨0x40010004, 0, 1, 0, 1, 0, 1,
      [⟨0, 32, .ro, .live, 0⟩]⟩
  | .TIM_CLK_STAT => ⟨0x40010008, 0, 1, 0, 1, 0, 1,
      [⟨24, 6, .ro, .live, 0⟩, ⟨16, 6, .ro, .live, 0⟩, ⟨8, 1, .ro, .live, 1⟩, ⟨7, 1, .ro, .live, 0⟩, ⟨6, 1, .ro, .live, 1⟩, ⟨0, 6, .ro, .live, 0x3f⟩]⟩
  | .TIM_MON_EVT => ⟨0x4001000C, 0, 1, 0, 1, 0, 1,
      [⟨0, 7, .w1c, .live, 0⟩]⟩
  | .TIM_CLK_CMD => ⟨0x40018000, 0, 1, 0, 1, 0, 1,
      [⟨0, 6, .wo, .live, 0⟩]⟩
  | .TIM_MON_INFO => ⟨0x40018004, 0, 1, 0, 1, 0, 1,
      [⟨31, 1, .rc, .live, 0⟩, ⟨4, 4, .rc, .live, 0⟩, ⟨0, 3, .rc, .live, 0⟩]⟩
  | .PMC_LVL_STAT => ⟨0x40030000, 0, 1, 0, 1, 0, 1,
      [⟨31, 1, .ro, .live, 0⟩, ⟨20, 4, .ro, .live, 0⟩, ⟨16, 2, .ro, .live, 2⟩, ⟨8, 4, .ro, .live, 0⟩, ⟨0, 2, .ro, .live, 2⟩]⟩
  | .PMC_PD_STAT => ⟨0x40030004, 0, 1, 0, 1, 0, 1,
      [⟨0, 32, .ro, .live, 0x100⟩]⟩
  | .PMC_EVT => ⟨0x40030008, 0, 1, 0, 1, 0, 1,
      [⟨5, 1, .w1c, .live, 0⟩, ⟨4, 1, .w1c, .live, 0⟩, ⟨3, 1, .w1c, .live, 0⟩, ⟨2, 1, .w1c, .live, 0⟩, ⟨1, 1, .w1c, .live, 0⟩, ⟨0, 1, .w1c, .live, 0⟩]⟩
  | .PMC_SUP_STAT => ⟨0x4003000C, 0, 1, 0, 1, 0, 1,
      [⟨31, 1, .ro, .live, 0⟩, ⟨30, 1, .ro, .live, 1⟩, ⟨0, 16, .ro, .live, 0⟩]⟩
  | .PMC_LVL_CMD => ⟨0x40038000, 0, 1, 0, 1, 0, 1,
      [⟨31, 1, .wo, .live, 0⟩, ⟨0, 2, .wo, .live, 0⟩]⟩
  | .PMC_PD_REQ => ⟨0x40038004, 0, 1, 0, 1, 0, 1,
      [⟨0, 16, .rw, .live, 0x10⟩]⟩
  | .PMC_PD_ERR => ⟨0x40038008, 0, 1, 0, 1, 0, 1,
      [⟨31, 1, .rc, .live, 0⟩, ⟨8, 4, .rc, .live, 0⟩, ⟨0, 4, .rc, .live, 0⟩]⟩
  | .LIO_STAT => ⟨0x403B0000, 0, 1, 0, 1, 0, 1,
      [⟨7, 1, .ro, .live, 0⟩, ⟨6, 1, .ro, .live, 0⟩, ⟨5, 1, .ro, .live, 0⟩, ⟨4, 1, .ro, .live, 1⟩, ⟨0, 1, .ro, .live, 0⟩]⟩
  | .LIO_EVT => ⟨0x403B0004, 0, 1, 0, 1, 0, 1,
      [⟨3, 1, .w1c, .live, 0⟩, ⟨2, 1, .w1c, .live, 0⟩, ⟨1, 1, .w1c, .live, 0⟩, ⟨0, 1, .w1c, .live, 0⟩]⟩
  | .LIO_PIN => ⟨0x403B0008, 0x4, 2, 0, 1, 0, 1,
      [⟨0, 32, .ro, .live, 0⟩]⟩
  | .LIO_DRV => ⟨0x403B0010, 0x4, 2, 0, 1, 0, 1,
      [⟨0, 32, .ro, .live, 0⟩]⟩
  | .LIO_RBF => ⟨0x403B0018, 0x4, 2, 0, 1, 0, 1,
      [⟨0, 32, .ro, .live, 0⟩]⟩
  | .LIO_CTRL => ⟨0x403B8000, 0, 1, 0, 1, 0, 1,
      [⟨8, 1, .rw, .live, 0⟩, ⟨0, 1, .rw, .live, 0⟩]⟩
  | .LIO_CFG => ⟨0x403B8100, 0x4, 64, 0, 1, 0, 1,
      [⟨0, 2, .rw, .stopped, 0⟩]⟩
  | .LIO_PWM => ⟨0x403B8200, 0x4, 16, 0, 1, 0, 1,
      [⟨0, 24, .rw, .boundary, 0⟩]⟩
  | .SYS_RST_STAT => ⟨0x40000050, 0, 1, 0, 1, 0, 1,
      [⟨16, 8, .ro, .live, 0⟩, ⟨8, 8, .ro, .live, 0⟩, ⟨0, 4, .ro, .live, 1⟩]⟩
  | .SYS_BOOT_STAT => ⟨0x40000054, 0, 1, 0, 1, 0, 1,
      [⟨31, 1, .ro, .live, 0⟩, ⟨30, 1, .ro, .live, 0⟩, ⟨29, 1, .ro, .live, 0⟩, ⟨28, 1, .ro, .live, 0⟩, ⟨27, 1, .ro, .live, 0⟩, ⟨16, 8, .ro, .live, 0⟩, ⟨0, 4, .ro, .live, 1⟩]⟩
  | .SYS_RST_CMD => ⟨0x40008010, 0, 1, 0, 1, 0, 1,
      [⟨16, 16, .wo, .live, 0⟩, ⟨0, 2, .wo, .live, 0⟩]⟩
  | .SYS_MWD => ⟨0x40008014, 0, 1, 0, 1, 0, 1,
      [⟨31, 1, .wo, .live, 0⟩, ⟨0, 16, .rw, .live, 0x3e8⟩]⟩
  | .RTC_TIME => ⟨0x40040000, 0, 1, 0, 1, 0, 1,
      [⟨27, 5, .ro, .live, 0⟩, ⟨21, 6, .ro, .live, 0⟩, ⟨15, 6, .ro, .live, 0⟩, ⟨0, 15, .ro, .live, 0⟩]⟩
  | .RTC_DATE => ⟨0x40040004, 0, 1, 0, 1, 0, 1,
      [⟨28, 3, .ro, .live, 5⟩, ⟨16, 12, .ro, .live, 0x7d0⟩, ⟨8, 4, .ro, .live, 1⟩, ⟨0, 5, .ro, .live, 1⟩]⟩
  | .RTC_STAT => ⟨0x40040008, 0, 1, 0, 1, 0, 1,
      [⟨31, 1, .ro, .live, 0⟩, ⟨28, 3, .ro, .live, 0⟩, ⟨7, 1, .ro, .live, 0⟩, ⟨6, 1, .ro, .live, 0⟩, ⟨5, 1, .ro, .live, 0⟩, ⟨4, 1, .ro, .live, 0⟩, ⟨3, 1, .ro, .live, 0⟩, ⟨2, 1, .ro, .live, 0⟩, ⟨1, 1, .ro, .live, 0⟩, ⟨0, 1, .ro, .live, 1⟩]⟩
  | .RTC_EVT => ⟨0x4004000C, 0, 1, 0, 1, 0, 1,
      [⟨8, 1, .w1c, .live, 0⟩, ⟨7, 1, .w1c, .live, 0⟩, ⟨6, 1, .w1c, .live, 0⟩, ⟨5, 1, .w1c, .live, 0⟩, ⟨4, 1, .w1c, .live, 0⟩, ⟨3, 1, .w1c, .live, 0⟩, ⟨2, 1, .w1c, .live, 0⟩, ⟨1, 1, .w1c, .live, 0⟩, ⟨0, 1, .w1c, .live, 0⟩]⟩
  | .RTC_CFG => ⟨0x40048000, 0, 1, 0, 1, 0, 1,
      [⟨16, 12, .rw, .boundary, 0⟩, ⟨8, 1, .rw, .live, 1⟩, ⟨5, 1, .rw, .live, 1⟩, ⟨4, 1, .rw, .live, 1⟩, ⟨0, 2, .rw, .live, 0⟩]⟩
  | .RTC_LEAP => ⟨0x40048004, 0, 1, 0, 1, 0, 1,
      [⟨16, 2, .rw, .boundary, 0⟩, ⟨0, 8, .rw, .boundary, 0x25⟩]⟩
  | .RTC_TRIM => ⟨0x40048008, 0, 1, 0, 1, 0, 1,
      [⟨16, 16, .rw, .live, 0⟩, ⟨0, 16, .rw, .live, 0⟩]⟩
  | .RTC_SET_TIME => ⟨0x4004800C, 0, 1, 0, 1, 0, 1,
      [⟨27, 5, .rw, .live, 0⟩, ⟨21, 6, .rw, .live, 0⟩, ⟨15, 6, .rw, .live, 0⟩, ⟨0, 15, .rw, .live, 0⟩]⟩
  | .RTC_SET_DATE => ⟨0x40048010, 0, 1, 0, 1, 0, 1,
      [⟨28, 3, .rw, .live, 0⟩, ⟨16, 12, .rw, .live, 0x7d0⟩, ⟨8, 4, .rw, .live, 1⟩, ⟨0, 5, .rw, .live, 1⟩]⟩
  | .RTC_SET_CMD => ⟨0x40048014, 0, 1, 0, 1, 0, 1,
      [⟨0, 2, .wo, .live, 0⟩]⟩
  | .RTC_ALM => ⟨0x40048018, 0, 1, 0, 1, 0, 1,
      [⟨31, 1, .rw, .live, 0⟩, ⟨30, 1, .rw, .live, 0⟩, ⟨29, 1, .wo, .live, 0⟩, ⟨16, 5, .rw, .live, 0⟩, ⟨8, 5, .rw, .live, 0x1f⟩, ⟨0, 6, .rw, .live, 0⟩]⟩
  | .RTC_BKP => ⟨0x40048080, 0x4, 32, 0, 1, 0, 1,
      [⟨0, 32, .rw, .live, 0⟩]⟩
  | .REC_STAT => ⟨0x40080000, 0, 1, 0, 1, 0, 1,
      [⟨16, 1, .ro, .live, 0⟩, ⟨0, 13, .ro, .live, 0x200⟩]⟩
  | .REC_EVT => ⟨0x40080004, 0, 1, 0, 1, 0, 1,
      [⟨4, 1, .w1c, .live, 0⟩, ⟨3, 1, .w1c, .live, 0⟩, ⟨2, 1, .w1c, .live, 0⟩, ⟨1, 1, .w1c, .live, 0⟩, ⟨0, 1, .w1c, .live, 0⟩]⟩
  | .REC_SEQ => ⟨0x40080008, 0, 1, 0, 1, 0, 1,
      [⟨0, 32, .ro, .live, 0⟩]⟩
  | .REC_OLD => ⟨0x4008000C, 0, 1, 0, 1, 0, 1,
      [⟨0, 32, .ro, .live, 0⟩]⟩
  | .REC_LOST => ⟨0x40080010, 0, 1, 0, 1, 0, 1,
      [⟨0, 32, .rc, .live, 0⟩]⟩
  | .REC_LOG_SEQ => ⟨0x40080014, 0, 1, 0, 1, 0, 1,
      [⟨0, 32, .ro, .live, 0⟩]⟩
  | .REC_LOG_DROP => ⟨0x40080018, 0, 1, 0, 1, 0, 1,
      [⟨0, 32, .rc, .live, 0⟩]⟩
  | .REC_CTRL => ⟨0x40088000, 0, 1, 0, 1, 0, 1,
      [⟨16, 6, .rw, .live, 0⟩, ⟨0, 13, .rw, .boundary, 0x200⟩]⟩
  | .REC_RD_SEQ => ⟨0x40088004, 0, 1, 0, 1, 0, 1,
      [⟨0, 32, .rw, .live, 0⟩]⟩
  | .REC_RD_CMD => ⟨0x40088008, 0, 1, 0, 1, 0, 1,
      [⟨0, 2, .wo, .live, 0⟩]⟩
  | .REC_RD_STAT => ⟨0x4008800C, 0, 1, 0, 1, 0, 1,
      [⟨8, 1, .ro, .live, 0⟩, ⟨0, 4, .ro, .live, 0⟩]⟩
  | .REC_RD_NEXT => ⟨0x40088010, 0, 1, 0, 1, 0, 1,
      [⟨0, 32, .ro, .live, 0⟩]⟩
  | .REC_RD_W => ⟨0x40088020, 0x4, 32, 0, 1, 0, 1,
      [⟨0, 32, .ro, .live, 0⟩]⟩
  | .REC_CLR_NONCE => ⟨0x400880A0, 0, 1, 0, 1, 0, 1,
      [⟨0, 32, .ro, .live, 0⟩]⟩
  | .REC_CLR_CMD => ⟨0x400880A4, 0, 1, 0, 1, 0, 1,
      [⟨0, 2, .wo, .live, 0⟩]⟩
  | .REC_CLR_AUTH => ⟨0x400880A8, 0x4, 4, 0, 1, 0, 1,
      [⟨0, 32, .wo, .live, 0⟩]⟩
  | .REC_CLR_STAT => ⟨0x400880B8, 0, 1, 0, 1, 0, 1,
      [⟨8, 1, .ro, .live, 0⟩, ⟨0, 4, .ro, .live, 0⟩]⟩
  | .REC_LOG_CFG => ⟨0x400880C0, 0, 1, 0, 1, 0, 1,
      [⟨16, 16, .rw, .live, 0x800⟩, ⟨0, 3, .rw, .live, 6⟩]⟩
  | .REC_TRG_CFG => ⟨0x40088100, 0x40, 32, 0, 1, 0, 1,
      [⟨31, 1, .rw, .live, 0⟩, ⟨19, 1, .rw, .live, 0⟩, ⟨16, 3, .rw, .live, 0⟩, ⟨0, 8, .rw, .live, 0⟩]⟩
  | .REC_TRG_ITEM => ⟨0x40088104, 0x40, 32, 0x4, 12, 0, 1,
      [⟨2, 30, .rw, .live, 0⟩, ⟨0, 2, .rw, .live, 0⟩]⟩
  | .NVP_STAT => ⟨0x40060000, 0, 1, 0, 1, 0, 1,
      [⟨31, 1, .ro, .live, 0⟩, ⟨16, 4, .ro, .live, 0⟩, ⟨0, 10, .ro, .live, 0⟩]⟩
  | .NVP_EVT => ⟨0x40060004, 0, 1, 0, 1, 0, 1,
      [⟨4, 1, .w1c, .live, 0⟩, ⟨3, 1, .w1c, .live, 0⟩, ⟨2, 1, .w1c, .live, 0⟩, ⟨1, 1, .w1c, .live, 0⟩, ⟨0, 1, .w1c, .live, 0⟩]⟩
  | .NVP_WEAR => ⟨0x40060008, 0, 1, 0, 1, 0, 1,
      [⟨24, 8, .ro, .live, 0⟩, ⟨0, 12, .ro, .live, 0x400⟩]⟩
  | .NVP_CTRL => ⟨0x40068000, 0, 1, 0, 1, 0, 1,
      [⟨16, 8, .rw, .live, 0x3c⟩, ⟨0, 8, .rw, .live, 0x18⟩]⟩
  | .NVP_ADDR => ⟨0x40068004, 0, 1, 0, 1, 0, 1,
      [⟨8, 10, .rw, .live, 0⟩, ⟨2, 6, .rw, .live, 0⟩]⟩
  | .NVP_DATA => ⟨0x40068008, 0, 1, 0, 1, 0, 1,
      [⟨0, 32, .rw, .live, 0⟩]⟩
  | .NVP_CMD => ⟨0x4006800C, 0, 1, 0, 1, 0, 1,
      [⟨16, 3, .wo, .live, 0⟩, ⟨0, 4, .wo, .live, 0⟩]⟩
  | .NVP_PW => ⟨0x40068010, 0x4, 2, 0, 1, 0, 1,
      [⟨0, 32, .wo, .live, 0⟩]⟩
  | .NVP_RGN => ⟨0x40068020, 0x4, 8, 0, 1, 0, 1,
      [⟨31, 1, .ro, .live, 0⟩, ⟨30, 1, .ro, .live, 0⟩, ⟨16, 10, .rw, .live, 0⟩, ⟨0, 10, .rw, .live, 0⟩]⟩
  | .NVP_OPEN => ⟨0x40068040, 0, 1, 0, 1, 0, 1,
      [⟨8, 8, .ro, .live, 0⟩, ⟨0, 8, .ro, .live, 0⟩]⟩
  | .HST_STAT => ⟨0x40070000, 0, 1, 0, 1, 0, 1,
      [⟨31, 1, .ro, .live, 0⟩, ⟨30, 1, .ro, .live, 0⟩, ⟨16, 8, .ro, .live, 0⟩]⟩
  | .HST_EVT => ⟨0x40070004, 0, 1, 0, 1, 0, 1,
      [⟨3, 1, .w1c, .live, 0⟩, ⟨2, 1, .w1c, .live, 0⟩, ⟨1, 1, .w1c, .live, 0⟩, ⟨0, 1, .w1c, .live, 0⟩]⟩
  | .HST_PERR => ⟨0x40070008, 0, 1, 0, 1, 0, 1,
      [⟨0, 32, .rc, .live, 0⟩]⟩
  | .HST_TR_CFG => ⟨0x40078100, 0x100, 64, 0, 1, 0, 1,
      [⟨31, 1, .rw, .live, 0⟩, ⟨23, 8, .rw, .stopped, 0⟩, ⟨16, 7, .rw, .stopped, 0⟩, ⟨0, 12, .rw, .stopped, 0⟩]⟩
  | .HST_TR_SIZE => ⟨0x40078104, 0x100, 64, 0, 1, 0, 1,
      [⟨0, 13, .rw, .stopped, 1⟩]⟩
  | .HST_TR_STAT => ⟨0x40078108, 0x100, 64, 0, 1, 0, 1,
      [⟨31, 1, .ro, .live, 0⟩, ⟨0, 31, .ro, .live, 0⟩]⟩
  | .HST_TR_LOST => ⟨0x4007810C, 0x100, 64, 0, 1, 0, 1,
      [⟨0, 32, .rc, .live, 0⟩]⟩
  | .HST_TR_PT => ⟨0x40078110, 0x100, 64, 0x4, 32, 0, 1,
      [⟨16, 16, .rw, .stopped, 0⟩, ⟨0, 16, .rw, .stopped, 0⟩]⟩
  | .KV_STAT => ⟨0x40050000, 0, 1, 0, 1, 0, 1,
      [⟨9, 1, .ro, .live, 0⟩, ⟨8, 1, .ro, .live, 0⟩, ⟨7, 1, .ro, .live, 0⟩, ⟨6, 1, .ro, .live, 0⟩, ⟨4, 2, .ro, .live, 0⟩, ⟨0, 3, .ro, .live, 0⟩]⟩
  | .KV_EVT => ⟨0x40050004, 0, 1, 0, 1, 0, 1,
      [⟨7, 1, .w1c, .live, 0⟩, ⟨6, 1, .w1c, .live, 0⟩, ⟨5, 1, .w1c, .live, 0⟩, ⟨4, 1, .w1c, .live, 0⟩, ⟨3, 1, .w1c, .live, 0⟩, ⟨2, 1, .w1c, .live, 0⟩, ⟨1, 1, .w1c, .live, 0⟩, ⟨0, 1, .w1c, .live, 0⟩]⟩
  | .KV_SLOT0 => ⟨0x40050008, 0, 1, 0, 1, 0, 1,
      [⟨0, 32, .ro, .live, 0⟩]⟩
  | .KV_SLOT1 => ⟨0x4005000C, 0, 1, 0, 1, 0, 1,
      [⟨0, 32, .ro, .live, 0⟩]⟩
  | .KV_SERIAL_LO => ⟨0x40050010, 0, 1, 0, 1, 0, 1,
      [⟨0, 32, .ro, .live, 0⟩]⟩
  | .KV_SERIAL_HI => ⟨0x40050014, 0, 1, 0, 1, 0, 1,
      [⟨0, 32, .ro, .live, 0⟩]⟩
  | .KV_IDPUB => ⟨0x40050020, 0x4, 16, 0, 1, 0, 1,
      [⟨0, 32, .ro, .live, 0⟩]⟩
  | .KV_CTRL => ⟨0x40058000, 0, 1, 0, 1, 0, 1,
      [⟨8, 6, .rw, .live, 0⟩, ⟨1, 1, .rw, .live, 0⟩, ⟨0, 1, .wo, .live, 0⟩]⟩
  | .KV_SEL => ⟨0x40058004, 0, 1, 0, 1, 0, 1,
      [⟨0, 6, .rw, .live, 0⟩]⟩
  | .KV_ATTR => ⟨0x40058008, 0, 1, 0, 1, 0, 1,
      [⟨31, 1, .ro, .live, 0⟩, ⟨30, 1, .rw, .live, 0⟩, ⟨29, 1, .rw, .live, 0⟩, ⟨24, 4, .rw, .live, 0⟩, ⟨0, 24, .rw, .live, 0⟩]⟩
  | .KV_KCV => ⟨0x4005800C, 0, 1, 0, 1, 0, 1,
      [⟨0, 32, .ro, .live, 0⟩]⟩
  | .KV_KEYD => ⟨0x40058010, 0x4, 8, 0, 1, 0, 1,
      [⟨0, 32, .wo, .live, 0⟩]⟩
  | .KV_CMD => ⟨0x40058030, 0, 1, 0, 1, 0, 1,
      [⟨16, 16, .wo, .live, 0⟩, ⟨8, 8, .wo, .live, 0⟩, ⟨0, 4, .wo, .live, 0⟩]⟩
  | .KV_CMD_STAT => ⟨0x40058034, 0, 1, 0, 1, 0, 1,
      [⟨8, 1, .ro, .live, 0⟩, ⟨0, 4, .ro, .live, 0⟩]⟩
  | .KV_OPW => ⟨0x40058040, 0x4, 21, 0, 1, 0, 1,
      [⟨0, 32, .wo, .live, 0⟩]⟩
  | .KV_NONCE => ⟨0x40058100, 0x4, 4, 0, 1, 0, 1,
      [⟨0, 32, .ro, .live, 0⟩]⟩
  | .KV_PROOF => ⟨0x40058110, 0x4, 8, 0, 1, 0, 1,
      [⟨0, 32, .wo, .live, 0⟩]⟩
  | .KV_ACC => ⟨0x40058130, 0, 1, 0, 1, 0, 1,
      [⟨16, 9, .ro, .live, 0⟩, ⟨8, 3, .ro, .live, 0⟩, ⟨0, 2, .ro, .live, 0⟩]⟩
  | .KV_ACC_CMD => ⟨0x40058134, 0, 1, 0, 1, 0, 1,
      [⟨16, 16, .wo, .live, 0⟩, ⟨8, 3, .wo, .live, 0⟩, ⟨0, 4, .wo, .live, 0⟩]⟩
  | .KV_DBG => ⟨0x40058140, 0, 1, 0, 1, 0, 1,
      [⟨1, 1, .rw, .live, 0⟩, ⟨0, 1, .rw, .live, 0⟩]⟩
  | .KV_ATT_CHAL => ⟨0x40058150, 0x4, 8, 0, 1, 0, 1,
      [⟨0, 32, .wo, .live, 0⟩]⟩
  | .KV_ATT_CMD => ⟨0x40058170, 0, 1, 0, 1, 0, 1,
      [⟨0, 1, .wo, .live, 0⟩]⟩
  | .KV_ATT_STAT => ⟨0x40058174, 0, 1, 0, 1, 0, 1,
      [⟨31, 1, .ro, .live, 0⟩, ⟨16, 2, .ro, .live, 0⟩, ⟨8, 8, .ro, .live, 0⟩, ⟨0, 4, .ro, .live, 0⟩]⟩
  | .KV_ATT_DATA => ⟨0x40058178, 0, 1, 0, 1, 0, 1,
      [⟨0, 32, .ro, .live, 0⟩]⟩
  | .UPD_STAT => ⟨0x403D0000, 0, 1, 0, 1, 0, 1,
      [⟨28, 4, .ro, .live, 0⟩, ⟨24, 4, .ro, .live, 0⟩, ⟨20, 4, .ro, .live, 0⟩, ⟨16, 4, .ro, .live, 0⟩, ⟨9, 1, .ro, .live, 0⟩, ⟨8, 1, .ro, .live, 0⟩, ⟨0, 8, .ro, .live, 0⟩]⟩
  | .UPD_EVT => ⟨0x403D0004, 0, 1, 0, 1, 0, 1,
      [⟨6, 1, .w1c, .live, 0⟩, ⟨5, 1, .w1c, .live, 0⟩, ⟨4, 1, .w1c, .live, 0⟩, ⟨3, 1, .w1c, .live, 0⟩, ⟨2, 1, .w1c, .live, 0⟩, ⟨1, 1, .w1c, .live, 0⟩, ⟨0, 1, .w1c, .live, 0⟩]⟩
  | .UPD_VER => ⟨0x403D0010, 0x4, 4, 0, 1, 0, 1,
      [⟨0, 32, .ro, .live, 0⟩]⟩
  | .UPD_BANK => ⟨0x403D0020, 0, 1, 0, 1, 0, 1,
      [⟨3, 1, .ro, .live, 0⟩, ⟨2, 1, .ro, .live, 0⟩, ⟨1, 1, .ro, .live, 0⟩, ⟨0, 1, .ro, .live, 0⟩]⟩
  | .UPD_WIN => ⟨0x403D0024, 0, 1, 0, 1, 0, 1,
      [⟨0, 16, .ro, .live, 0⟩]⟩
  | .UPD_PKG_VER => ⟨0x403D0028, 0, 1, 0, 1, 0, 1,
      [⟨0, 32, .ro, .live, 0⟩]⟩
  | .UPD_CTRL => ⟨0x403D8000, 0, 1, 0, 1, 0, 1,
      [⟨16, 16, .rw, .live, 0x258⟩, ⟨0, 1, .rw, .live, 0⟩]⟩
  | .UPD_CMD => ⟨0x403D8004, 0, 1, 0, 1, 0, 1,
      [⟨0, 2, .wo, .live, 0⟩]⟩
  | .UPD_CMD_STAT => ⟨0x403D8008, 0, 1, 0, 1, 0, 1,
      [⟨8, 1, .ro, .live, 0⟩, ⟨0, 4, .ro, .live, 0⟩]⟩
  | .UPD_CONFIRM => ⟨0x403D800C, 0, 1, 0, 1, 0, 1,
      [⟨16, 16, .wo, .live, 0⟩, ⟨0, 16, .wo, .live, 0⟩]⟩
  | .UPD_FLOOR => ⟨0x403D8010, 0, 1, 0, 1, 0, 1,
      [⟨0, 32, .ro, .live, 0⟩]⟩
  | .UPD_OWNKEY => ⟨0x403D8040, 0x4, 16, 0, 1, 0, 1,
      [⟨0, 32, .rw, .live, 0⟩]⟩
  | .EVC_STAT => ⟨0x40020000, 0, 1, 0, 1, 0, 1,
      [⟨16, 5, .ro, .live, 0x10⟩, ⟨8, 5, .ro, .live, 0x10⟩, ⟨4, 1, .ro, .live, 0⟩, ⟨0, 4, .ro, .live, 0⟩]⟩
  | .EVC_NMCNT => ⟨0x40020004, 0, 1, 0, 1, 0, 1,
      [⟨0, 32, .rc, .live, 0⟩]⟩
  | .EVC_SRC_CFG => ⟨0x40028000, 0x4, 256, 0, 1, 0, 1,
      [⟨31, 1, .rw, .live, 0⟩, ⟨8, 1, .rw, .live, 0⟩, ⟨0, 4, .rw, .live, 8⟩]⟩
  | .EVC_PEND => ⟨0x40028400, 0x4, 8, 0, 1, 0, 1,
      [⟨0, 32, .w1c, .live, 0⟩]⟩
  | .EVC_OVR => ⟨0x40028420, 0x4, 8, 0, 1, 0, 1,
      [⟨0, 32, .rc, .live, 0⟩]⟩
  | .EVC_SWSET => ⟨0x40028440, 0, 1, 0, 1, 0, 1,
      [⟨0, 8, .wo, .live, 0⟩]⟩
  | .EVC_CLAIM => ⟨0x40028450, 0x4, 2, 0, 1, 0, 1,
      [⟨31, 1, .rc, .live, 0⟩, ⟨8, 4, .rc, .live, 0⟩, ⟨0, 8, .rc, .live, 0⟩]⟩
  | .EVC_DONE => ⟨0x40028458, 0x4, 2, 0, 1, 0, 1,
      [⟨0, 8, .wo, .live, 0⟩]⟩
  | .EVC_THR => ⟨0x40028460, 0x4, 2, 0, 1, 0, 1,
      [⟨0, 5, .rw, .live, 0x10⟩]⟩
  | .EVC_H0CNT => ⟨0x40028800, 0x4, 16, 0, 1, 0, 1,
      [⟨0, 32, .rw, .live, 0⟩]⟩
  | .EVC_H0SEL => ⟨0x40028840, 0x4, 16, 0, 1, 0, 1,
      [⟨31, 1, .rw, .live, 0⟩, ⟨30, 1, .rw, .live, 0⟩, ⟨29, 1, .rw, .live, 0⟩, ⟨24, 2, .rw, .live, 0⟩, ⟨0, 8, .rw, .live, 0⟩]⟩
  | .EVC_H1CNT => ⟨0x40028880, 0x4, 16, 0, 1, 0, 1,
      [⟨0, 32, .rw, .live, 0⟩]⟩
  | .EVC_H1SEL => ⟨0x400288C0, 0x4, 16, 0, 1, 0, 1,
      [⟨31, 1, .rw, .live, 0⟩, ⟨30, 1, .rw, .live, 0⟩, ⟨29, 1, .rw, .live, 0⟩, ⟨24, 2, .rw, .live, 0⟩, ⟨0, 8, .rw, .live, 0⟩]⟩
  | .EVC_FCNT => ⟨0x40028900, 0x4, 32, 0, 1, 0, 1,
      [⟨0, 32, .rw, .live, 0⟩]⟩
  | .EVC_FSEL => ⟨0x40028980, 0x4, 32, 0, 1, 0, 1,
      [⟨31, 1, .rw, .live, 0⟩, ⟨30, 1, .rw, .live, 0⟩, ⟨29, 1, .rw, .live, 0⟩, ⟨28, 1, .rw, .live, 0⟩, ⟨24, 4, .rw, .live, 0⟩, ⟨16, 8, .rw, .live, 0⟩, ⟨0, 8, .rw, .live, 0⟩]⟩
  | .EVC_CNTCTL => ⟨0x40028A00, 0, 1, 0, 1, 0, 1,
      [⟨18, 1, .rw, .live, 0⟩, ⟨17, 1, .rw, .live, 0⟩, ⟨8, 3, .wo, .live, 0⟩, ⟨0, 3, .rw, .live, 0⟩]⟩
  | .EVC_COVF0 => ⟨0x40028A04, 0, 1, 0, 1, 0, 1,
      [⟨16, 16, .w1c, .live, 0⟩, ⟨0, 16, .w1c, .live, 0⟩]⟩
  | .EVC_COVF1 => ⟨0x40028A08, 0, 1, 0, 1, 0, 1,
      [⟨0, 32, .w1c, .live, 0⟩]⟩
  | .EVC_SMP_CFG => ⟨0x40028A10, 0, 1, 0, 1, 0, 1,
      [⟨31, 1, .rw, .live, 0⟩, ⟨30, 1, .rw, .live, 0⟩, ⟨29, 1, .rw, .live, 0⟩, ⟨8, 16, .rw, .live, 0⟩, ⟨0, 8, .rw, .live, 0⟩]⟩
  | .EVC_SMP_STAT => ⟨0x40028A14, 0, 1, 0, 1, 0, 1,
      [⟨31, 1, .ro, .live, 0⟩, ⟨30, 1, .ro, .live, 0⟩, ⟨16, 10, .ro, .live, 0⟩, ⟨0, 9, .ro, .live, 0⟩]⟩
  | .EVC_SMP_CMD => ⟨0x40028A18, 0, 1, 0, 1, 0, 1,
      [⟨0, 1, .wo, .live, 0⟩]⟩
  | .EVC_SMP_W => ⟨0x40029000, 0x10, 512, 0x4, 4, 0, 1,
      [⟨0, 32, .ro, .live, 0⟩]⟩
  | .SYS_H1_PART => ⟨0x40008020, 0, 1, 0, 1, 0, 1,
      [⟨16, 8, .rw, .live, 0⟩, ⟨0, 9, .rw, .live, 0⟩]⟩
  | .SYS_H1_TAG => ⟨0x40008024, 0, 1, 0, 1, 0, 1,
      [⟨8, 2, .rw, .live, 0⟩, ⟨0, 8, .rw, .live, 0⟩]⟩

/-- The registers of chapter 01. -/
def Reg.list01 : List Reg := [.SYS_ID, .SYS_REV, .SYS_SLOT, .SYS_PACE_FLOOR, .SYS_PACE_STAT, .SYS_PACE_CNT, .SYS_BUSERR_ADDR, .SYS_BUSERR_INFO, .SYS_PACE_CTRL]

/-- The registers of chapter 02. -/
def Reg.list02 : List Reg := [.PTD_COUNT, .PTD_FORCE_STAT, .PTD_NOPT_CNT, .PTD_CTRL, .PTD_DIR_SEL, .PTD_DIR_W0, .PTD_DIR_W1, .PTD_DIR_CMD, .PTD_DIR_STAT, .PTD_SHR_SEL, .PTD_SHR_DATA, .PTD_SHR_CMD, .PTD_SHR_STAT, .PTD_FRC_SEL, .PTD_FRC_PT, .PTD_FRC_VAL, .PTD_FRC_REQ, .PTD_FRC_CMD, .PTD_FRC_STAT]

/-- The registers of chapter 03. -/
def Reg.list03 : List Reg := [.FAB_STAT, .FAB_EVT, .FAB_QSTAT, .FAB_DROP, .FAB_CTRL, .FAB_QCTRL, .FAB_ST_CTRL, .FAB_ST_FAIL, .FAB_ST_CNT, .FAB_FAILED, .FAB_SBK_ARM, .FAB_SBK_STAT, .FAB_SBK_LAT]

/-- The registers of chapter 04. -/
def Reg.list04 : List Reg := [.UPD_IMG_SEL, .UPD_IMG_CMD, .UPD_IMG_STAT, .UPD_IMG_ID, .UPD_IMG_VER, .UPD_IMG_QREV, .UPD_IMG_ERRLOC]

/-- The registers of chapter 05. -/
def Reg.list05 : List Reg := [.EXE_STAT, .EXE_EVT, .EXE_DENY, .EXE_TSTAT, .EXE_TLAST, .EXE_TMAX, .EXE_TCNT, .EXE_CTRL, .EXE_CMD, .EXE_CMD_STAT, .EXE_OLC_SEL, .EXE_OLC_DATA, .EXE_OLC_CMD, .EXE_OLC_STAT, .EXE_TCFG, .EXE_TPER, .EXE_TBND, .EXE_TINFO]

/-- The registers of chapter 06. -/
def Reg.list06 : List Reg := [.LPE_STAT, .LPE_EVT, .LPE_SNKDENY, .LPE_CH_STAT, .LPE_CH_PV, .LPE_CH_OUT, .LPE_CH_ERR, .LPE_CH_CTRL, .LPE_CH_SRC, .LPE_CH_SINK, .LPE_CH_SPSRC, .LPE_CH_FFSRC, .LPE_CH_TRKSRC, .LPE_CH_PER, .LPE_CH_TEN, .LPE_CH_SP, .LPE_CH_MAN, .LPE_CH_OLO, .LPE_CH_OHI, .LPE_CH_OSAFE, .LPE_CH_RATE, .LPE_CH_FELIM, .LPE_CH_FETIME, .LPE_CH_WZBASE, .LPE_CH_WZLEN, .LPE_CH_WZCFG, .LPE_CH_WZQ, .LPE_CH_WZKL, .LPE_CH_KP, .LPE_CH_KIT, .LPE_CH_KDT, .LPE_CH_DF, .LPE_CH_BW, .LPE_CH_KFF, .LPE_CH_I, .LPE_CH_D, .LPE_CH_FETMR, .LPE_CH_WZOUT, .LPE_CH_WZIDX, .LPE_CTRL, .LPE_COMMIT, .LPE_WZCLR]

/-- The registers of chapter 07. -/
def Reg.list07 : List Reg := [.MTR_STAT, .MTR_EVT, .MTR_MIFLT0, .MTR_MIFLT1, .MTR_VS_STAT, .MTR_VS_RMS, .MTR_VS_FREQ, .MTR_VS_EVCNT, .MTR_C_STAT, .MTR_C_MEAS, .MTR_C_E, .MTR_C_WRAP0, .MTR_C_WRAP1, .MTR_C_DPI, .MTR_C_DPE, .MTR_C_MAXD, .MTR_C_MAXDT, .MTR_C_LOST, .MTR_CTRL, .MTR_CLK, .MTR_CMD, .MTR_CMD_STAT, .MTR_COMMIT, .MTR_DMD_CFG, .MTR_MI_CFG, .MTR_MI_SCALE, .MTR_MI_OFS, .MTR_VS_CFG, .MTR_VS_SAG, .MTR_VS_SWELL, .MTR_VS_NTHR, .MTR_VC_GAIN, .MTR_VC_PHASE, .MTR_C_CFG, .MTR_C_TEN, .MTR_C_START, .MTR_C_NTHR, .MTR_C_XE_LO, .MTR_C_XE_HI, .MTR_CK_NSEG, .MTR_CK_KNOT, .MTR_CK_GAIN, .MTR_CK_PHASE]

/-- The registers of chapter 08. -/
def Reg.list08 : List Reg := [.CAN_STAT, .CAN_EVT, .CAN_ERR, .CAN_BOCNT, .CAN_FCNT, .CAN_LOST, .CAN_ONL0, .CAN_ONL1, .CAN_STA_STAT, .CAN_CTRL, .CAN_NBT, .CAN_DBT, .CAN_TDC, .CAN_REF, .CAN_WAKE, .CAN_WID, .CAN_WIDM, .CAN_WDM0, .CAN_WDM1, .CAN_TXREQ, .CAN_TXDONE, .CAN_RXQ_STAT, .CAN_RXQ_POP, .CAN_FLT_ID, .CAN_FLT_MASK, .CAN_RXQ_W, .CAN_TXB_W, .CAN_STA_CFG, .CAN_STA_SERL, .CAN_STA_SERH]

/-- The registers of chapter 09. -/
def Reg.list09 : List Reg := [.ETH_STAT, .ETH_EVT, .ETH_RXOK, .ETH_TXOK, .ETH_RXERR, .ETH_RXDROP, .ETH_TXDROP, .ETH_PAUSE, .ETH_LPI, .ETH_BB_STAT, .ETH_CTRL, .ETH_SDCFG, .ETH_SDUP, .ETH_EEE, .ETH_PTP_CFG, .ETH_PTP_OFS, .ETH_PTP_MPD, .ETH_COMMIT, .ETH_BB_CTRL, .ETH_VLAN, .ETH_WP_M, .ETH_WP_CRC]

/-- The registers of chapter 11. -/
def Reg.list11 : List Reg := [.IBX_STAT, .IBX_EPOCH, .IBX_LEASE, .IBX_HEALTH, .IBX_PHEALTH, .IBX_EVT, .IBX_SWCNT, .IBX_CTRL, .IBX_CMD, .IBX_CMD_STAT, .IBX_PAIR, .IBX_WADDR, .IBX_UADDR, .IBX_LSAFE, .IBX_CHOST, .IBX_CHP_SEL, .IBX_CHP_CFG, .IBX_CHP_STAT, .IBX_CHP_EPOCH, .IBX_SV_PT, .IBX_SV_VAL, .TTH_STAT, .TTH_EVT, .TTH_CRCERR, .TTH_CYCLE, .TTH_LOAD, .TTH_DISC, .TTH_CTRL]

/-- The registers of chapter 12. -/
def Reg.list12 : List Reg := [.TIM_TAI_LO, .TIM_TAI_HI, .TIM_CLK_STAT, .TIM_MON_EVT, .TIM_CLK_CMD, .TIM_MON_INFO, .PMC_LVL_STAT, .PMC_PD_STAT, .PMC_EVT, .PMC_SUP_STAT, .PMC_LVL_CMD, .PMC_PD_REQ, .PMC_PD_ERR]

/-- The registers of chapter 13. -/
def Reg.list13 : List Reg := [.LIO_STAT, .LIO_EVT, .LIO_PIN, .LIO_DRV, .LIO_RBF, .LIO_CTRL, .LIO_CFG, .LIO_PWM]

/-- The registers of chapter 14. -/
def Reg.list14 : List Reg := [.SYS_RST_STAT, .SYS_BOOT_STAT, .SYS_RST_CMD, .SYS_MWD]

/-- The registers of chapter 15. -/
def Reg.list15 : List Reg := [.RTC_TIME, .RTC_DATE, .RTC_STAT, .RTC_EVT, .RTC_CFG, .RTC_LEAP, .RTC_TRIM, .RTC_SET_TIME, .RTC_SET_DATE, .RTC_SET_CMD, .RTC_ALM, .RTC_BKP]

/-- The registers of chapter 16. -/
def Reg.list16 : List Reg := [.REC_STAT, .REC_EVT, .REC_SEQ, .REC_OLD, .REC_LOST, .REC_LOG_SEQ, .REC_LOG_DROP, .REC_CTRL, .REC_RD_SEQ, .REC_RD_CMD, .REC_RD_STAT, .REC_RD_NEXT, .REC_RD_W, .REC_CLR_NONCE, .REC_CLR_CMD, .REC_CLR_AUTH, .REC_CLR_STAT, .REC_LOG_CFG, .REC_TRG_CFG, .REC_TRG_ITEM]

/-- The registers of chapter 17. -/
def Reg.list17 : List Reg := [.NVP_STAT, .NVP_EVT, .NVP_WEAR, .NVP_CTRL, .NVP_ADDR, .NVP_DATA, .NVP_CMD, .NVP_PW, .NVP_RGN, .NVP_OPEN, .HST_STAT, .HST_EVT, .HST_PERR, .HST_TR_CFG, .HST_TR_SIZE, .HST_TR_STAT, .HST_TR_LOST, .HST_TR_PT]

/-- The registers of chapter 18. -/
def Reg.list18 : List Reg := [.KV_STAT, .KV_EVT, .KV_SLOT0, .KV_SLOT1, .KV_SERIAL_LO, .KV_SERIAL_HI, .KV_IDPUB, .KV_CTRL, .KV_SEL, .KV_ATTR, .KV_KCV, .KV_KEYD, .KV_CMD, .KV_CMD_STAT, .KV_OPW, .KV_NONCE, .KV_PROOF, .KV_ACC, .KV_ACC_CMD, .KV_DBG, .KV_ATT_CHAL, .KV_ATT_CMD, .KV_ATT_STAT, .KV_ATT_DATA]

/-- The registers of chapter 19. -/
def Reg.list19 : List Reg := [.UPD_STAT, .UPD_EVT, .UPD_VER, .UPD_BANK, .UPD_WIN, .UPD_PKG_VER, .UPD_CTRL, .UPD_CMD, .UPD_CMD_STAT, .UPD_CONFIRM, .UPD_FLOOR, .UPD_OWNKEY]

/-- The registers of chapter 20. -/
def Reg.list20 : List Reg := [.EVC_STAT, .EVC_NMCNT, .EVC_SRC_CFG, .EVC_PEND, .EVC_OVR, .EVC_SWSET, .EVC_CLAIM, .EVC_DONE, .EVC_THR, .EVC_H0CNT, .EVC_H0SEL, .EVC_H1CNT, .EVC_H1SEL, .EVC_FCNT, .EVC_FSEL, .EVC_CNTCTL, .EVC_COVF0, .EVC_COVF1, .EVC_SMP_CFG, .EVC_SMP_STAT, .EVC_SMP_CMD, .EVC_SMP_W, .SYS_H1_PART, .SYS_H1_TAG]

/-- Every register of the module. -/
def Reg.all : List Reg :=
  Reg.list01 ++ Reg.list02 ++ Reg.list03 ++ Reg.list04 ++ Reg.list05 ++ Reg.list06 ++ Reg.list07 ++ Reg.list08 ++ Reg.list09 ++ Reg.list11 ++ Reg.list12 ++ Reg.list13 ++ Reg.list14 ++ Reg.list15 ++ Reg.list16 ++ Reg.list17 ++ Reg.list18 ++ Reg.list19 ++ Reg.list20

/-- A reference to a field: register, lowest bit, width. -/
structure FRef where
  reg : Reg
  lo : Nat
  width : Nat
  deriving DecidableEq, Repr

end Sys2Proof.Machine
end

