-- ==== Sys2Proof/Machine/StateCore.lean ====
section
/-! DEFINITION. State of the always-on core of the module beside its registers: time and clocks (chapters 12, 15), events
and cores (20), flight recorder and event log (16).  Registers themselves live in the sparse register store of `M`. -/

namespace Sys2Proof.Machine

/-- Roles of Table 10-5; SERVICE stands outside the order and is bound to tenant 255 (R60). -/
inductive Role where
  | view | operate | engineer | owner | service
  deriving DecidableEq, Repr

/-- The tenant-and-role tag of a transfer (Table 1-2). -/
inductive Tag where
  /-- the system tag: no tenant (R18) -/
  | system
  | mk (tenant : Nat) (role : Role)
  deriving DecidableEq, Repr

/-- Clock and time state (chapters 12 and 15). -/
structure TimeState where
  /-- module time: 64-bit TAI nanoseconds (R7) -/
  tai : Nat
  /-- nanoseconds counted by the timebase island since its reset: leases and windows count here, module-time steps do not
  touch it (R31, R386) -/
  tb : Nat
  /-- fraction of a nanosecond of module time, in steps of 2⁻²⁵ ns, and what slewing has still to add, in the same unit (R504,
  R505) -/
  rateAcc : Nat
  slew : Int
  /-- calendar: days since 2000-01-01 and second of the day; kept in BAK (R494) -/
  calDay : Nat
  calSec : Nat
  /-- subsecond, XR cycles -/
  calSub : Nat
  /-- the second 23:59:60 is being shown (R502) -/
  calLeap : Bool
  /-- consecutive Syncs with offset below 1 µs (R504) -/
  syncGood : Nat
  /-- the last consecutive offsets above 1 ms, newest first (R504) -/
  syncBig : List Int
  /-- end of holdover on the timebase, while holdover runs (R504) -/
  holdEnd : Option Nat
  /-- a lock has been reached since osf was last set (R507) -/
  everLocked : Bool
  /-- a mains trim window has been applied since src became 0b10 (R506) -/
  mainsApplied : Bool
  /-- per initiator code: TIM_TAI_HI latched by a 32-bit read of TIM_TAI_LO (R449) -/
  latTaiHi : List (Nat × Word)
  /-- per initiator code: RTC_DATE latched by a 32-bit read of RTC_TIME (R499) -/
  latDate : List (Nat × Word)
  /-- monitors 0 to 6 whose source is failed now (Table 12-3) -/
  monBad : Nat
  /-- islands whose restore waits: the timebase time since which the source has been good (R434) -/
  goodSince : List (Nat × Nat)
  /-- arbitration between XO and RC running, with the time it began and the monitor that found it (R430) -/
  arbitration : Option (Nat × Nat)
  /-- VIN present; backup supply present -/
  vinPresent : Bool
  vbakPresent : Bool
  deriving DecidableEq, Repr

/-- A request queued at the PMC (R442). -/
inductive PmcReq where
  | level (target : Nat)
  | domain (d : Nat)
  deriving DecidableEq, Repr

/-- The PMC's transition in progress (R437, R438, R443, R444). -/
inductive PmcBusy where
  | idle
  /-- raising from a level; attempts of the confirmation window made; ramping back with a result code -/
  | raising (fromLevel : Nat) (attempt : Nat) (back : Option Nat)
  | lowering (fromLevel : Nat)
  /-- domain `d` waits for power good -/
  | domainOn (d : Nat)
  deriving DecidableEq, Repr

/-- Performance levels, power domains and supply (chapter 12). -/
structure PowerState where
  busy : PmcBusy
  queue : List PmcReq
  /-- the held raise request of the pace action (R34) -/
  heldRaise : Bool
  /-- a level change, voltage ramp or failover overlapped the present pace window (R33) -/
  windowDirty : Bool
  deriving DecidableEq, Repr

/-- Event controller and core state beside its registers (chapter 20). -/
structure EventState where
  /-- per core: levels pushed with the source claimed over them, newest first (R590) -/
  stack0 : List (Nat × Nat)
  stack1 : List (Nat × Nat)
  /-- the core stands at its event entry and has not claimed yet (R589) -/
  entry0 : Bool
  entry1 : Bool
  /-- occurrences left until the next sample is tagged (R599) -/
  smpLeft : Nat
  /-- a tagged instruction is outstanding; an occurrence was skipped since (R599) -/
  smpTagged : Bool
  smpLost : Bool
  /-- per initiator code: record and words 1 to 3 latched by a read of word 0 (R600) -/
  smpLatch : List (Nat × (Nat × (Word × (Word × Word))))
  /-- starts of each core from the boot ROM or the SRAM entry, counted: 0 = never started -/
  starts0 : Nat
  starts1 : Nat
  deriving DecidableEq, Repr

/-- A flight recorder record: its sequence number and 16 words (R511). -/
structure FrRecord where
  seq : Nat
  words : List Word
  deriving DecidableEq, Repr

/-- An event-log entry (R519). -/
structure LogEntry where
  seq : Nat
  tseq : Nat
  tai : Nat
  code : Nat
  sev : Nat
  tenant : Nat
  lost : Bool
  rseq : Nat
  body : Bytes
  /-- bit i: body word i is a point descriptor (R513, R525); not part of the entry's bytes -/
  map : Nat
  deriving DecidableEq, Repr

/-- A word of a record's content, and whether it is a point descriptor (R513). -/
abbrev RecItem := Word × Bool

/-- What a waiting item of the trigger queue writes: the triggers armed on a raised source, or a record another chapter
requires, raised before the recorder was restored (R514, R522). -/
inductive WaitBody where
  | triggers (ts : List Nat)
  | record (code : Nat) (items : List RecItem)
  deriving DecidableEq, Repr

/-- An item of the trigger queue: source, module time of the raise, what it writes. -/
structure TrigRaise where
  source : Nat
  tai : Nat
  body : WaitBody
  deriving DecidableEq, Repr

/-- A log entry waiting for the historian: everything but its sequence numbers (R521). -/
structure LogWait where
  tai : Nat
  code : Nat
  sev : Nat
  tenant : Nat
  rseq : Nat
  body : Bytes
  /-- bit i: body word i is a point descriptor (R513, R525) -/
  map : Nat
  deriving DecidableEq, Repr

/-- Flight recorder and event log (chapter 16). -/
structure RecState where
  /-- the recorder runs: restored, or kept through the reset (R522) -/
  ready : Bool
  /-- index into the random source of the clearing nonce (R526) -/
  nonce : Nat
  /-- head area and Reel, oldest first (R517) -/
  head : List FrRecord
  reel : List FrRecord
  /-- sequence number of the next record, and whether any record was ever written -/
  nextSeq : Nat
  /-- a raise was discarded since the previous record -/
  lost : Bool
  queue : List TrigRaise
  /-- records not yet copied to the historian's recorder area, by sequence (R522) -/
  uncopied : List Nat
  /-- the recorder area of the historian: head, Reel, head in force (R522); it survives power-on reset -/
  copyHead : List FrRecord
  copyReel : List FrRecord
  copyHeadSize : Nat
  /-- the event log, oldest first -/
  log : List LogEntry
  nextLogSeq : Nat
  /-- entries written so far per tenant (next tseq) -/
  tseq : List (Nat × Nat)
  /-- tenants of which an entry was dropped since their last one (R521) -/
  logLost : List Nat
  logQueue : List LogWait
  /-- AUTH answers in a row, and the end of the lock (R527) -/
  authRun : Nat
  lockUntil : Option Nat
  deriving DecidableEq, Repr

end Sys2Proof.Machine
end

