-- ==== Sys2Proof/Machine/StatePoints.lean ====
section
/-! DEFINITION. State of point space (chapter 2): directory with values, share table, force table, subscriptions. -/

namespace Sys2Proof.Machine

/-- A directory entry with the point's 8 bytes of the value window.  Only entries with a backing are listed; an ID that is
not listed is absent (R47, R51).  `status` holds the stored status bits; forced and not_driven are derived when read. -/
structure PointRec where
  w0 : Word
  w1 : Word
  /-- effective copy of the mirror flag, a B field (Table 2-2) -/
  mirrorEff : Bool
  value : Word
  status : Nat
  age : Nat
  deriving DecidableEq, Repr

/-- A share list: owner and eight grants (R58). -/
structure ShareList where
  owner : Nat
  grants : List Nat
  deriving DecidableEq, Repr

/-- A force table entry (R71).  `role` is the role code of Table 10-5, 0xFF for the system tag; `port` the port class of the
session, none for other initiators; `reqAge` counts the age of the requested value (R76). -/
structure ForceRec where
  point : Nat
  value : Word
  requested : Word
  tenant : Nat
  role : Nat
  port : Option Nat
  tai : Nat
  persist : Bool
  reqAge : Nat
  deriving DecidableEq, Repr

/-- A notification waiting in a session's queue (R70). -/
structure NoteItem where
  point : Nat
  value : Word
  status : Nat
  age : Nat
  deriving DecidableEq, Repr

/-- A subscription (R67 to R70). -/
structure Subscription where
  session : Nat
  point : Nat
  deadband : Word
  /-- minimum interval, ms -/
  interval : Nat
  lastValue : Word
  lastStatus : Nat
  /-- timebase time of the last notification -/
  lastAt : Nat
  /-- the queue was full: the latest value is notified when a place frees -/
  pending : Bool
  /-- the absent pattern has been notified (R69) -/
  absent : Bool
  deriving DecidableEq, Repr

/-- Result of a PTD command, and the timebase time of its completion, fixed when op is written (R85). -/
structure PtdPending where
  err : Nat
  due : Nat
  deriving DecidableEq, Repr

/-- Point directory and Oryx gate (chapter 2). -/
structure PointState where
  points : List (Nat × PointRec)
  shares : List (Nat × ShareList)
  forces : List (Nat × ForceRec)
  subs : List Subscription
  /-- notification queues by session -/
  notes : List (Nat × List NoteItem)
  /-- NOPOINT answers per tenant since its last read (PTD_NOPT_CNT) -/
  nopt : List (Nat × Nat)
  dirCmd : Option PtdPending
  shrCmd : Option PtdPending
  frcCmd : Option PtdPending
  /-- retention region: point and saved value (R57); survives power loss -/
  retention : List (Nat × Word)
  /-- stored copies of persistent forces (R77); survive power loss -/
  forceStore : List ForceRec
  /-- stored copies whose removal is under way: the point, and the timebase time at which the page commit is complete (R77) -/
  forceDrops : List (Nat × Nat)
  deriving DecidableEq, Repr

end Sys2Proof.Machine
end

