-- ==== Sys2Proof/Machine/StateFabric.lean ====
section
/-! DEFINITION. State of the Lynil fabric (chapter 3), of the Xovik image in force and the loader (chapter 4), and of cyclic
execution (chapter 5). -/

namespace Sys2Proof.Machine

/-- A token: 32-bit payload and the 32-bit tag of Table 3-4. -/
structure Token where
  payload : Word
  tag : Word
  deriving DecidableEq, Repr

/-- The source end of a link: cell number and output of that cell (A-cell slot s, link l: 2 s + l; T-cell: 0 output, 1 carry,
2 snapshot; M-cell: 0 result).  Start tokens come from source 0x800. -/
structure LinkId where
  cell : Nat
  out : Nat
  deriving DecidableEq, Repr

/-- An operation slot of an A-cell (Table 4-6). -/
structure ASlot where
  opcode : Nat
  smode : Nat
  src0 : Nat
  src1 : Nat
  src2 : Nat
  dest : Nat
  trigger : Nat
  link0 : Nat
  link1 : Nat
  const : Word
  deriving DecidableEq, Repr

/-- A-cell: registers, slots, sticky flags (R94). -/
structure ACell where
  g : List Word
  slots : List ASlot
  overflow : Bool
  invalid : Bool
  deriving DecidableEq, Repr

/-- T-cell modes of Table 3-3, numbered as Table 4-6 numbers them. -/
inductive TMode where
  | ton | tof | tp | cyc | edge | cnt | cntx
  deriving DecidableEq, Repr

/-- T-cell: mode and settings, live state and status (Table 3-1, R103). -/
structure TCell where
  mode : TMode
  tick : Nat
  filter : Nat
  line : Nat
  preset : Word
  live : Word
  capture : Word
  outLink : Nat
  carryLink : Nat
  snapLink : Nat
  /-- the carry link leads to the next cell of a counter chain, not to an overflow link (R113, R115) -/
  chained : Bool
  /-- timer running; the timer has expired since its last start or reset (R103) -/
  running : Bool
  expired : Bool
  /-- index of the tick boundary from which the running timer counts (R98), and the least count it shows: boundaries crossed
  again after a backward step of module time are not counted again (Table 15-2) -/
  startTick : Nat
  least : Nat
  /-- index of the tick boundary last passed when the preset was last written (R99) -/
  presetTick : Nat
  /-- timers frozen, sampling and periods stopped (R125, R190): index of the tick boundary last passed then -/
  frozen : Option Nat
  /-- TON, TOF, TP: last input level on port 0; EDGE: the level last accepted; none before the first (R621, R100) -/
  lastIn : Option Bool
  /-- present output level, status bit 0; EDGE: the level last reported -/
  level : Bool
  missed : Bool
  missedCount : Nat
  wrap : Bool
  broken : Bool
  reset : Bool
  /-- CYC: module time up to which period boundaries have been served -/
  lastPeriod : Nat
  /-- EDGE: a token for the line's present level is due, at the return after a partial image listed the cell (Table 5-8), or once
  the quadrant has room for it (R110) -/
  tokenOnReturn : Bool
  deriving DecidableEq, Repr

/-- M-cell: words other than 0, two-operand operation, result link (R622). -/
structure MCell where
  words : List (Nat × Word)
  mop : Nat
  link : Nat
  range : Bool
  deriving DecidableEq, Repr

/-- The body of a cell by its type. -/
inductive CellBody where
  | a (c : ACell)
  | t (c : TCell)
  | m (c : MCell)
  deriving DecidableEq, Repr

/-- A configured cell: owner unit, flags, present body and the body of its CELLS record, port contents, and whether it has
fired for the present wave (R112). -/
structure Cell where
  unit : Nat
  start : Bool
  terminal : Bool
  body : CellBody
  initial : CellBody
  ports : List (Option Token)
  fired : Bool
  deriving DecidableEq, Repr

/-- A point access of a cell that has left the quadrant and is not answered (R96).  `served` marks an access served from
the task's images (R176). -/
structure CellAccess where
  cell : Nat
  slot : Nat
  point : Nat
  write : Bool
  full : Bool
  value : Word
  unit : Nat
  wave : Nat
  fromImage : Bool
  /-- the 64-bit entry the gate or the image answered a read with, once issued -/
  answer : DWord
  /-- tokens the answer of a read will send, reserved from its firing on (R110) -/
  owed : Nat
  deriving DecidableEq, Repr

/-- One quadrant: its configured cells, tokens in flight per link in order of sending, accesses waiting and outstanding. -/
structure Quadrant where
  cells : List (Nat × Cell)
  flight : List (LinkId × Token)
  /-- accesses whose firing is done and that wait for the 32-access limit, oldest first (R96) -/
  waiting : List CellAccess
  outstanding : List CellAccess
  /-- timebase time by which a quiesce must complete (R124) -/
  quiesceBy : Option Nat
  /-- cells marked failed by self-test, till power-on reset (R129) -/
  failed : List Nat
  /-- timebase time of the last firing (R111) -/
  lastFire : Nat
  /-- bit c: cell c was tested in the present self-test rotation (R127) -/
  tested : Nat
  /-- timebase time of the last word test of each M-cell (R128) -/
  wordTests : List (Nat × Nat)
  deriving DecidableEq, Repr

/-- A Springbok path of the loaded image (R118). -/
structure SbkPath where
  path : Nat
  quadrant : Nat
  edgeCell : Nat
  finalCell : Nat
  deriving DecidableEq, Repr

/-- The Lynil fabric. -/
structure FabricState where
  quads : List Quadrant
  paths : List SbkPath
  /-- first samples (module time, low 32 bits) of the edges a path has yet to carry to its output, by path, oldest first (R122) -/
  sbkStart : List (Nat × Nat)
  deriving DecidableEq, Repr

/-- A BLOCKCFG record (Table 4-4). -/
structure CfgRec where
  addr : Nat
  value : Nat
  mask : Nat
  deriving DecidableEq, Repr

/-- A TASKS record (Table 4-5). -/
structure TaskRec where
  task : Nat
  etask : Bool
  errorTask : Nat
  priority : Nat
  period : Nat
  bound : Nat
  deriving DecidableEq, Repr

/-- A UNITS record (Table 4-5). -/
structure UnitRec where
  unit : Nat
  quadrant : Nat
  tenant : Nat
  role : Nat
  task : Nat
  priv : Bool
  deriving DecidableEq, Repr

/-- A loader command in progress (Tables 4-9, 4-10). -/
inductive LoadJob where
  | none
  /-- a verify whose result is known -/
  | verify (err : Nat) (loc : Nat)
  /-- a full load past its checks, with their result; steps 5 to 9 follow -/
  | full (err : Nat) (loc : Nat) (image : Bytes)
  /-- a full load past step 7 that waits for the boundary of B fields it wrote (R148) -/
  | fullWaits (image : Bytes)
  /-- a partial load past its checks, quiescing its quadrant -/
  | partialQuiesce (q : Nat) (image : Bytes)
  /-- a partial load that ended with a result -/
  | partialDone (err : Nat) (loc : Nat) (image : Bytes)
  deriving DecidableEq, Repr

/-- The loader and the image sources in the historian (chapter 4). -/
structure ImageState where
  bank0 : Bytes
  bank1 : Bytes
  staging : Bytes
  job : LoadJob
  /-- source code of the command in progress (R169) -/
  source : Nat
  /-- BLOCKCFG records of the image in force, configure phase and arm phase (R148, R149, R166) -/
  configure : List CfgRec
  arm : List CfgRec
  /-- the image in force, as it was loaded (R562) -/
  inForce : Bytes
  /-- performance level of the image in force -/
  level : Nat
  /-- enable registers whose blocks or units the loader stopped for an S field: returned to run before the arm phase (R148,
  R149) -/
  stopped : List Nat
  deriving DecidableEq, Repr

/-- An entry of a task's input or output image (R175): point, tag by unit, 64-bit content. -/
structure ImageEntry where
  point : Nat
  unit : Nat
  /-- value, status, age as one 64-bit word -/
  data : DWord
  /-- output entry: a unit has written it since the build, or the first latch has set it (R180) -/
  set : Bool
  deriving DecidableEq, Repr

/-- A pending call of an error task (R200, R202). -/
structure ErrorCall where
  caller : Nat
  reasons : Nat
  detail : Nat
  /-- timebase time of the call (R185) -/
  at_ : Nat
  deriving DecidableEq, Repr

/-- Phase of an instance (Table 5-1): waiting for its latch, running its waves. -/
inductive TaskPhase where
  | idle
  | due
  | running
  deriving DecidableEq, Repr

/-- One task as the engine holds it. -/
structure TaskState where
  phase : TaskPhase
  /-- timebase time of step 1 -/
  began : Nat
  /-- payload of the start tokens -/
  payload : Word
  inputs : List ImageEntry
  outputs : List ImageEntry
  /-- stations substituted at the previous latch, by point (R199) -/
  substituted : List Nat
  /-- reasons and detail met by the present instance's latch -/
  reasons : Nat
  detail : Nat
  calls : List ErrorCall
  /-- starts held while a quadrant is not in run (R210) -/
  held : Nat
  /-- the first release since the run has happened (R194) -/
  released : Bool
  /-- unit whose wave failed in this instance (R201) -/
  failedUnit : Option Nat
  /-- timebase time of the last due time served: one due time starts one instance (R171) -/
  lastDue : Option Nat
  deriving DecidableEq, Repr

/-- One patch (R204). -/
structure Patch where
  kind : Nat
  quadrant : Nat
  cell : Nat
  index : Nat
  value : Word
  deriving DecidableEq, Repr

/-- Cyclic execution (chapter 5). -/
structure ExecState where
  taskRecs : List TaskRec
  units : List UnitRec
  /-- present wave of each unit, modulo 8 -/
  waves : List (Nat × Nat)
  /-- units whose present wave has not ended (R112) -/
  active : List Nat
  tasks : List (Nat × TaskState)
  patchTask : Option Nat
  patches : List Patch
  deriving DecidableEq, Repr

end Sys2Proof.Machine
end

