-- ==== Sys2Proof/Machine/StateLoops.lean ====
section
/-! DEFINITION. State of the loop engine (chapter 6) and of metering (chapter 7) beside their registers. -/

namespace Sys2Proof.Machine

/-- One loop channel beside its registers (I, D, OUT, ERR, PV, FETMR, WZOUT, WZIDX and STAT are registers). -/
structure LoopChannel where
  pvPrev : F32
  uPrev : F32
  /-- last good values of the setpoint point, of the setpoint register or cascade, of the track point; the setpoint of the previous
  evaluation (R234, R245) -/
  lastSp : F32
  lastReg : F32
  lastTrk : F32
  prevSp : Option F32
  /-- module time at which the fe timer started (R255) -/
  feStart : Option Nat
  /-- reference of a hand-over due at the next evaluation (R242, R243) -/
  handOver : Option F32
  /-- a hand-over ramp is running: the output still lies apart from its computed value (R243) -/
  ramp : Bool
  /-- the sink was forced at the last evaluation (Table 6-5) -/
  wasForced : Bool
  /-- the channel was held at the last evaluation -/
  wasHeld : Bool
  /-- the last sink write was denied (R228) -/
  denied : Bool
  /-- a cascade that has fallen back to AUTO until a new mode write (R246); the channel has been in CASCADE since its enable
  (Table 6-5, last row) -/
  cascadeOff : Bool
  cascadeInner : Bool
  /-- sample instant of the last evaluation, while which HELD pauses the fe timer (R244) -/
  lastAt : Nat
  /-- fault episodes already reported: source, setpoint, track, feed-forward (R245) -/
  srcEpisode : Bool
  spEpisode : Bool
  trkEpisode : Bool
  ffEpisode : Bool
  /-- samples waiting, oldest first, each with its instant: TAI time, value captured from a modulator input, phase of L1 of voltage
  set A then (R235, R237, R250) -/
  queued : List (Nat × (F32 × F64))
  /-- module time of the last sample instant: a time is one instant (R224) -/
  sampledAt : Option Nat
  /-- the state was lost with the domain: the next enable takes the sink's value as reference (R248) -/
  cold : Bool
  deriving DecidableEq, Repr

/-- Loop engine: 64 channels, the learning memory (values other than +0.0), and the ranges kept. -/
structure LoopState where
  channels : List LoopChannel
  waltz : List (Nat × F32)
  /-- Waltz ranges kept in the historian: channel and its values (R254) -/
  kept : List (Nat × List F32)
  deriving DecidableEq, Repr

/-- One energy: accumulator in 10⁻⁴ Wh (64 bits) and its residue, a fraction of one unit (R277). -/
structure Energy where
  xe : Nat
  residue : Rat
  deriving DecidableEq, Repr

/-- One circuit beside its registers. -/
structure Circuit where
  energies : List Energy
  /-- demand state: energies EPI and EPE at the interval's start, start of the interval on the timebase (ns), and whether the
  interval is short by an event of R284 -/
  epi0 : Nat
  epe0 : Nat
  start : Nat
  short : Bool
  /-- a step of the calendar ends the interval at the next frame boundary; the next one waits for an aligned minute (R284) -/
  stepped : Bool
  waiting : Bool
  /-- frames the missing-neutral condition has lasted, or has been absent -/
  neutralRun : Nat
  /-- frames not metered -/
  lost : Nat
  /-- demand results underneath a freeze: DPI, DPE, MAXD, MAXDT -/
  dpi : F32
  dpe : F32
  maxd : F32
  maxdt : Nat
  deriving DecidableEq, Repr

/-- One voltage set beside its registers. -/
structure VoltageSet where
  seqRun : Nat
  neutralRun : Nat
  /-- per phase: frames and extreme RMS of a running sag, swell; and of an interruption -/
  sagLen : List Nat
  sagExt : List F32
  swellLen : List Nat
  swellExt : List F32
  intrLen : Nat
  intrExt : F32
  deriving DecidableEq, Repr

/-- A clear command waiting for its frame boundary (R279, R285). -/
structure MeterClear where
  energies : Bool
  circ : Nat
  deriving DecidableEq, Repr

/-- What is saved of metering in the parameter store (R272). -/
structure MeterSaved where
  circuits : List Circuit
  deriving DecidableEq, Repr

/-- Metering (chapter 7). -/
structure MeterState where
  circuits : List Circuit
  sets : List VoltageSet
  /-- inputs faulted by their stream or by the clock, till one whole frame without the condition (R266, R269), and those
  whose condition held within the present frame -/
  stream : Nat
  condition : Nat
  /-- frames ended since the start: 0 before step 5 of Table 7-3 -/
  frames : Nat
  /-- timebase time at which the filters have settled (Table 7-3, step 3) -/
  settleAt : Nat
  /-- inputs with a clipped sample in the present frame (R269) -/
  overrange : Nat
  /-- the clock received on X2 is present and in tolerance; with src 0b10, the module drives the clock itself since the last frame
  boundary (R266) -/
  clockIn : Bool
  driving : Bool
  /-- calendar minute, counted from 2000, of the last end or start of demand intervals (R282, R284) -/
  demandAt : Nat
  /-- stop requested: the frame in progress ends first (R271) -/
  stopping : Bool
  clear : Option MeterClear
  /-- the mains trim window has met a loss of set A's frequency (Table 15-3) -/
  cyclesBad : Bool
  saved : Option MeterSaved
  /-- ends of the latest frames in module time, newest first, with the circuits as they stood then, `start` of each as the time its
  interval had lasted; and circuits received from the active unit with the stamps of their frames (R296) -/
  frameLog : List (Nat × List Circuit)
  mirrored : List (Nat × (Nat × Circuit))
  deriving DecidableEq, Repr

end Sys2Proof.Machine
end

