-- ==== Sys2Proof/Machine/StateBuses.lean ====
section
/-! DEFINITION. State of the CAN controllers and their stations (chapter 8). -/

namespace Sys2Proof.Machine

/-- A frame on a CAN bus. -/
structure CanFrame where
  ext : Bool
  fd : Bool
  brs : Bool
  rtr : Bool
  esi : Bool
  id : Nat
  dlc : Nat
  data : Bytes
  deriving DecidableEq, Repr

/-- A frame in a receive queue with the TAI time of its start of frame (R312). -/
structure CanQueued where
  frame : CanFrame
  sof : Nat
  deriving DecidableEq, Repr

/-- A remote station beside its registers (STAs_STAT holds state, sstate, seq, rej). -/
structure Station where
  /-- timebase time of the last IDQ, serial that answered it, timebase time of the CFG (Table 8-12) -/
  idqAt : Option Nat
  serial : Option Nat
  cfgAt : Option Nat
  /-- sequence number of the next OUT -/
  outSeq : Nat
  /-- last value sent per object index (R327) -/
  lastSent : List (Nat × Word)
  /-- timebase time at which the supervision time passes (R196) -/
  superviseBy : Option Nat
  deriving DecidableEq, Repr

/-- What the wake detectors compare (R318). -/
structure WakeSettings where
  wmode : Nat
  ide : Bool
  wdlc : Nat
  id : Nat
  mask : Nat
  dmask : Nat
  deriving DecidableEq, Repr

/-- What a controller has on the bus. -/
inductive CanTx where
  /-- the reference message, made at its start of frame (R321) -/
  | ref
  /-- a frame of the station dialogue -/
  | dialogue (frame : CanFrame)
  /-- a transmit buffer -/
  | buffer (n : Nat)
  deriving DecidableEq, Repr

/-- One controller beside its registers. -/
structure CanState where
  rxq0 : List CanQueued
  rxq1 : List CanQueued
  stations : List (Nat × Station)
  /-- sequence number of the next REF -/
  refSeq : Nat
  /-- the transceiver sleeps; the wake detectors hold their settings from then (R318, R319) -/
  asleep : Option WakeSettings
  /-- dialogue frames of the module that wait, oldest first; a REF waits (R320, R321, R327) -/
  dialogue : List CanFrame
  refWaiting : Bool
  /-- the frame of the module on the bus (R314) -/
  onBus : Option CanTx
  /-- state the controller enters when that frame has ended (R309, R317) -/
  ending : Option Nat
  deriving DecidableEq, Repr

end Sys2Proof.Machine
end

