-- ==== Sys2Proof/Machine/StatePair.lean ====
section
/-! DEFINITION. State of the redundant pair (chapter 11): Ibex, the Chamois witness and the tether. -/

namespace Sys2Proof.Machine

/-- What starts a planned hand-over (R416). -/
inductive HandoverCause where
  | switch | takeback | extraction | trip | health | reset
  deriving DecidableEq, Repr

/-- Where a planned hand-over stands (Table 11-11). -/
inductive HandoverPhase where
  | none
  /-- step 1: request sent -/
  | requested (cause : HandoverCause)
  /-- step 2: ready received, the mirror cycle in progress completes -/
  | completing (cause : HandoverCause)
  /-- step 3 done: RELEASE sent; timebase time at which the unit claims again -/
  | released (cause : HandoverCause) (by_ : Nat)
  deriving DecidableEq, Repr

/-- The latest BEAT a hosted pair's unit sent, as the witness holds it: seq, arrival on the timebase, header epoch, health
word and bflags (Tables 11-7, 11-8), the address it came from, and the one it was sent to. -/
structure BeatSeen where
  seq : Nat
  at_ : Nat
  epoch : Nat
  health : Word
  flags : Nat
  src : Bytes
  dst : Bytes
  deriving DecidableEq, Repr

/-- One hosted pair of the witness (R405 to R413), beside valid, key and pair ID. -/
structure HostedPair where
  valid : Bool
  key : Nat
  pair : Nat
  /-- current epoch and reserved bound, both in the parameter store (R411) -/
  epoch : Nat
  bound : Nat
  /-- recorded holder: 0 slot A, 1 slot B -/
  holder : Option Nat
  /-- timebase time at which the holder's lease ends at the witness (R386) -/
  leaseEnd : Option Nat
  /-- timebase time at which the next renewal counts as missed, and renewals missed so far (R405) -/
  missAt : Nat
  missed : Nat
  /-- the lease was given up: guard and missed renewals do not apply (R407); successor named -/
  released : Bool
  successor : Option Nat
  /-- end of the start window (R409) -/
  windowEnd : Nat
  /-- first claimant of the start window -/
  firstClaim : Option Nat
  beatA : Option BeatSeen
  beatB : Option BeatSeen
  /-- last accepted seq of slot A, slot B -/
  seqA : Nat
  seqB : Nat
  /-- a write of a new bound is in progress; a grant to this unit waits for it (R411) -/
  committing : Bool
  waiting : Option Nat
  deriving DecidableEq, Repr

/-- Ibex and Chamois beside their registers. -/
structure IbxState where
  /-- timebase time at which the unit's lease ends (R386) -/
  leaseEnd : Option Nat
  /-- epoch of the lease held or last held; none when none was held since reset -/
  held : Option Nat
  /-- BEATs sent: seq and timebase time, newest first (R408) -/
  beats : List (Nat × Nat)
  /-- seq of the next Chamois message of this unit, last accepted seq of the witness (R403) -/
  txSeq : Nat
  rxSeq : Nat
  /-- PACT kept asserted since a lease was gained: timebase time of the 5 ms bound (R388) -/
  pactBy : Option Nat
  /-- timebase times of the last LEASE or STATE message, and of the last tether STATE frame -/
  witAt : Option Nat
  peerAt : Option Nat
  peerEpoch : Nat
  peerImage : Word
  /-- the peer's module time less this unit's at its last STATE frame, ns (R503) -/
  peerOfs : Int
  handover : HandoverPhase
  /-- a required health bit was lost while the peer is not eligible: Ibex drives safe values (R419) -/
  healthSafe : Bool
  /-- timebase time since which the preferred unit has been healthy (R417), and since which bits [19:13] have read 1 in
  FAILED (R390) -/
  prefSince : Option Nat
  okSince : Option Nat
  /-- the pair addresses are announced and answered by this unit (R338, R415) -/
  addresses : Bool
  /-- epoch and reserved bound of the hosted pairs that no slot names now: they stay in the parameter store (R8, R411) -/
  pairStore : List (Nat × (Nat × Nat))
  /-- consecutive full-copy cycles applied without a gap, counted in halves: on one lane two cycles make one (R395, Table 11-2) -/
  fullCycles : Nat
  /-- the peer counts as out of sync (R399) -/
  peerStale : Bool
  /-- last pace-low window on the timebase (Table 11-6, pace_ok) -/
  paceLowAt : Option Nat
  /-- the self-tests of R402 are enabled by the state -/
  selfTest : Bool
  /-- next line of the LIO readback (R402) -/
  rbLine : Nat
  /-- the last self-test rotation completed in time (fab_ok), and the timebase time of the present one's first test -/
  rotationOk : Bool
  rotationAt : Nat
  /-- Chamois host function: timebase time of its start while it runs (R410, R413), and end of its quiet time -/
  hostStart : Option Nat
  quietEnd : Option Nat
  hostSeq : Nat
  pairs : List HostedPair
  deriving DecidableEq, Repr

/-- An item of a mirror cycle (Table 11-5). -/
inductive MirrorItem where
  /-- class 0x01: a point's 64-bit entry -/
  | point (id : Nat) (entry : DWord)
  /-- class 0x02 -/
  | directory (id : Nat) (w0 w1 : Word)
  /-- class 0x03 -/
  | share (list : Nat) (l : ShareList)
  /-- class 0x04: the entry at an index, none when it is free -/
  | force (index : Nat) (f : Option ForceRec)
  /-- classes 0x05, 0x06 and 0x07: the state of a cell -/
  | cell (quadrant cell : Nat) (body : CellBody)
  /-- class 0x08: status word and state of a task -/
  | task (n : Nat) (tstat : Word) (t : TaskState)
  | patchSet (task : Option Nat) (set : List Patch)
  /-- class 0x09: integrator, derivative, LPE_CHn_STAT with mode and bank, fe timer, and the rest of the channel's record -/
  | loop (n : Nat) (i d stat fet : Word) (c : LoopChannel)
  /-- class 0x0A: a circuit, with the module time of the frame end it belongs to -/
  | circuit (n stamp : Nat) (c : Circuit)
  /-- class 0x0B -/
  | station (bus n : Nat) (stat : Word) (s : Station)
  /-- class 0x0C: running value of an image-set register -/
  | reg (addr : Nat) (value : Word)
  /-- class 0x0C: epoch and bound of a hosted pair -/
  | epochs (slot epoch bound : Nat)
  /-- class 0x0D: values of the learning memory from an index -/
  | waltz (first : Nat) (values : List F32)
  deriving DecidableEq, Repr

/-- A change record (R399). -/
inductive ChangeRec where
  | directory (id : Nat) (w0 w1 : Word)
  | directoryDelete (id : Nat)
  | share (list : Nat) (owner slot grant : Nat)
  | force (f : ForceRec)
  | release (point : Nat)
  | patchSet (task : Nat) (set : List Patch)
  | reg (addr : Nat) (value : Word)
  | account (n : Nat) (record : Bytes)
  | net (records : Bytes)
  | epochs (slot epoch bound : Nat)
  deriving DecidableEq, Repr

/-- A tether frame other than ACK and TEST: type, seq, cycle and content (Tables 11-3, 11-4). -/
inductive TetherBody where
  | state (health epoch image : Word) (tai : Nat)
  | mirror (items : List MirrorItem)
  | cycleEnd (frames bytes : Nat)
  | change (rec : ChangeRec)
  | bulk (offset : Nat) (data : Bytes)
  | handover (op : Nat)
  deriving DecidableEq, Repr

/-- A frame sent and not acknowledged. -/
structure TetherFrame where
  seq : Nat
  cycle : Nat
  body : TetherBody
  deriving DecidableEq, Repr

/-- The tether beside its registers. -/
structure TetherState where
  txSeq : Nat
  unacked : List TetherFrame
  /-- timebase time of the last acknowledgment or of the oldest unacknowledged frame's sending (R392) -/
  ackAt : Nat
  /-- seq expected next -/
  rxSeq : Nat
  /-- frames accepted since the last acknowledgment, and timebase time by which one is sent (R392) -/
  rxOwed : Nat
  rxAckBy : Option Nat
  /-- MIRROR frames of the cycle being received: cycle, frames, payload bytes, items in order -/
  rxCycle : Nat
  rxFrames : Nat
  rxBytes : Nat
  rxItems : List MirrorItem
  /-- the last cycle was applied (Table 11-6, in_sync) -/
  applied : Bool
  /-- cycle sent last; on one lane the odd cycles carry the second half of a full copy (R395) -/
  txCycle : Nat
  /-- next MIRROR-flagged point to send, next learning-memory index (R394, Table 11-5) -/
  pointCursor : Nat
  waltzCursor : Nat
  /-- full cycle being sent: tasks whose cells wait for the end of their instance (R396), frames sent and payload bytes -/
  capture : List Nat
  txFrames : Nat
  txBytes : Nat
  /-- bytes of a BULK transfer being received -/
  bulk : Bytes
  /-- change frames waiting for their acknowledgment: seq and timebase deadline (R399) -/
  changes : List (Nat × Nat)
  /-- cell state of complete cycles waiting for the task boundary, by task: 2048 × quadrant + cell, and its body (R397) -/
  pendingCells : List (Nat × (Nat × CellBody))
  /-- timebase time since which the link has been down (Table 11-2), and of the last code or CRC error (R393) -/
  downSince : Option Nat
  errorAt : Option Nat
  deriving DecidableEq, Repr

end Sys2Proof.Machine
end

