-- ==== Sys2Proof/Machine/StateStores.lean ====
section
/-! DEFINITION. State of local I/O and extraction (chapter 13), reset and bring-up (14), parameter store and historian (17),
key vault (18) and update (19) beside their registers. -/

namespace Sys2Proof.Machine

/-- Where an extraction stands (Table 13-7). -/
inductive Extraction where
  | none
  /-- warning raised at a timebase time; step 5 not done -/
  | warned (at_ : Nat)
  /-- steps 2 to 5 done; LEDs show "safe to withdraw" from step 6, at a timebase time -/
  | disabled (from_ : Nat)
  deriving DecidableEq, Repr

/-- Local I/O (chapter 13). -/
structure LioState where
  /-- levels outside drives put on the lines, as a 64-bit number -/
  pins : Nat
  /-- timebase time of the last change of a line's level (R100) -/
  pinAt : List (Nat × Nat)
  /-- per line: level the output stage drove last since the enable (R459, safe level 0b11) -/
  driven : List (Nat × Bool)
  /-- per PWM line: period and duty of the period in progress, in units of 5 ns, and the timebase time it began (R461) -/
  pwm : List (Nat × (Nat × (Nat × Nat)))
  /-- LIO_EVT.func has been set since the last enable (R458) -/
  funcSeen : Bool
  extraction : Extraction
  /-- input switch closed (R457) -/
  inSwitch : Bool
  deriving DecidableEq, Repr

/-- Phases of a module between reset and service (Tables 14-3, 14-4). -/
inductive BootPhase where
  /-- a power-on reset is asserted -/
  | held
  /-- bring-up runs; SYS_BOOT_STAT.step holds the last step completed -/
  | rising
  /-- boot halted (Table 14-5, steps 2 and 3) -/
  | halted
  /-- the boot ROM's recovery service runs (R584) -/
  | recovery
  | service
  deriving DecidableEq, Repr

/-- Reset and bring-up (chapter 14). -/
structure BootState where
  phase : BootPhase
  /-- timebase time at which the present bring-up began -/
  since : Nat
  /-- times of its steps since then, ms, oldest first -/
  stepTimes : List Nat
  /-- timebase time at which the tether came up (R491), of step 6 and of the first claim (R492), of step 12 -/
  linkAt : Option Nat
  step6At : Option Nat
  claimAt : Option Nat
  step12At : Option Nat
  /-- timebase time at which the management watchdog asserts its reset (R479) -/
  mwdBy : Nat
  /-- time it had left when H0 was halted: it pauses meanwhile (R566) -/
  mwdLeft : Option Nat
  /-- a shutdown in progress: timebase time of the warning; step 4 done (R482) -/
  shutdown : Option (Nat × Bool)
  /-- the management firmware runs -/
  mgmt : Bool
  /-- a module reset waits for a hand-over (R477) -/
  resetWaits : Bool
  /-- kept in parameter-store region 0: shutdown marker, IBX_EPOCH copy -/
  marker : Bool
  epochSaved : Nat
  /-- pair, Chamois and VLAN settings kept in regions 0 and 1, restored at step 5 (Table 17-1) -/
  settings : List (Nat × Word)
  /-- times the host memories have lost their content (Table 14-2): the model's own counter -/
  wipes : Nat
  deriving DecidableEq, Repr

/-- A page commit in progress (R534): page, content as 64 words, tag of the commanding initiator (none for the module's own
saves). -/
structure NvpCommit where
  page : Nat
  words : List (Nat × Word)
  commanded : Bool
  deriving DecidableEq, Repr

/-- Parameter store (chapter 17).  A page is its words other than 0. -/
structure NvpState where
  pages : List (Nat × List (Nat × Word))
  /-- copy counts of committed pages -/
  copies : List (Nat × Nat)
  /-- pages whose newest copy cannot be corrected (R538) -/
  bad : List Nat
  buffer : List (Nat × Word)
  owner : Option Tag
  /-- read and write passwords that are set, by region (R532) -/
  rdPw : List (Nat × (Word × Word))
  wrPw : List (Nat × (Word × Word))
  /-- open rights by region: holder and timebase time of the last load or commit (R533) -/
  rdOpen : List (Nat × (Tag × Nat))
  wrOpen : List (Nat × (Tag × Nat))
  /-- AUTH answers in a row, and ends of locks, by region -/
  authRun : List (Nat × Nat)
  lockUntil : List (Nat × Nat)
  /-- commits in progress, by bank in order -/
  commits : List NvpCommit
  /-- pages committed since the present scan pass began (R537) -/
  scanned : List Nat
  deriving DecidableEq, Repr

/-- A row of a trend log (R543). -/
structure TrendRow where
  tai : Nat
  /-- value and status of each point -/
  points : List (Word × Nat)
  deriving DecidableEq, Repr

/-- A segment of a trend log. -/
structure TrendSegment where
  interval : Nat
  first : Nat
  ids : List Nat
  rows : List TrendRow
  deriving DecidableEq, Repr

/-- A trend log (R542 to R544). -/
structure TrendLog where
  /-- segments held, oldest first -/
  segments : List TrendSegment
  /-- the next row begins a new segment -/
  fresh : Bool
  deriving DecidableEq, Repr

/-- Historian beside the stores other blocks own. -/
structure HstState where
  logs : List (Nat × TrendLog)
  /-- bytes written over the historian's life (Table 17-4) -/
  written : Nat
  deriving DecidableEq, Repr

/-- A filled slot of the vault (R553). -/
structure KvSlot where
  key : Bytes
  users : Nat
  expire : Bool
  counted : Bool
  count : Nat
  deriving DecidableEq, Repr

/-- The owner password verifier (R565): bytes 8 to 91 of an account record. -/
structure Verifier where
  iterations : Nat
  salt : Bytes
  storedKey : Bytes
  serverKey : Bytes
  deriving DecidableEq, Repr

/-- Key vault (chapter 18). -/
structure KvState where
  lc : Nat
  /-- change marker: the new state of a change past step 2 of Table 18-3 (R552) -/
  marker : Option Nat
  /-- generation of the owner root, none when it does not exist (R548) -/
  ownerRoot : Option Nat
  /-- index into the random source of the first of the four nonce words (R564) -/
  nonce : Nat
  slots : List (Nat × KvSlot)
  opw : Option Verifier
  authRun : Nat
  lockUntil : Option Nat
  /-- gates opened under R564: gates, how, timebase time at which they close -/
  opened : Option (Nat × (Nat × Nat))
  /-- statement words not yet read (R562) -/
  statement : List Word
  deriving DecidableEq, Repr

/-- An installed component (R570): version and needs. -/
structure Component where
  version : Nat
  needsMin : List Nat
  needsMax : List Nat
  peerMin : Nat
  fmt : Nat
  image : Bytes
  deriving DecidableEq, Repr

/-- The boot record (R570). -/
structure BootRecord where
  active : Nat
  /-- install steps completed of the trial set, when one is named -/
  trial : Option Nat
  prevValid : Bool
  cause : Nat
  floor : Nat
  deriving DecidableEq, Repr

/-- Field update (chapter 19). -/
structure UpdState where
  boot : BootRecord
  /-- components 1 to 4 of sets 0 and 1, by 8 × set + component -/
  firmware : List (Nat × Component)
  /-- recorded needs of the image of each set: mgmt_min, needs_min, needs_max -/
  imageNeeds : List (Nat × (Nat × (List Nat × List Nat)))
  /-- package being received or held -/
  package : Bytes
  /-- header checks 1 to 9 passed for the package being received -/
  headerOk : Bool
  /-- step being installed waits for its component's restart -/
  restarting : Option Nat
  /-- timebase time at which the confirmation window ends -/
  windowEnd : Option Nat
  /-- settings snapshot of regions 1 to 5 (R576) -/
  snapshot : List (Nat × List (Nat × Word))
  /-- the peer has reported checks 1 to 15 passed (R582); its installed MGMT version -/
  peerReady : Bool
  peerMgmt : Nat
  /-- from step 2 to the end of step 5 of a pair package: base_id and image_id of its XOVIK entry (R583) -/
  swapIds : Option (Nat × Nat)
  /-- a fall-back has completed and UPD_EVT.fb is to be set at bring-up (R580) -/
  fellBack : Bool
  /-- the owner package key, kept in region 0 (R585) -/
  ownKey : List (Nat × Word)
  deriving DecidableEq, Repr

end Sys2Proof.Machine
end

