-- ==== Sys2Proof/Machine/StateNet.lean ====
section
/-! DEFINITION. State of the Ethernet ports (chapter 9) and of the Krovtan engine (chapter 10) beside their registers. -/

namespace Sys2Proof.Machine

/-- What a frame of the module carries. -/
inductive EthBody where
  /-- a Krovtan packet to an address and UDP port (R359) -/
  | krovtan (dst : Bytes) (udp : Nat) (packet : Bytes)
  /-- a Chamois datagram from an address to an address (R403) -/
  | chamois (src dst : Bytes) (datagram : Bytes)
  /-- a gratuitous ARP for an IPv4 address, an unsolicited Neighbor Advertisement for an IPv6 address (R338) -/
  | announce (address : Bytes)
  /-- a Delay_Req with its originTimestamp, inserted as the frame leaves (R355) -/
  | delayReq (origin : Nat)
  | pdelayReq
  /-- a one-step Pdelay_Resp: receipt of the request, and the turnaround time, known as the frame leaves -/
  | pdelayResp (receipt turnaround : Nat)
  deriving DecidableEq, Repr

/-- A frame waiting to be sent, with the tenant whose VLAN it uses; none: untagged (R335, R342). -/
structure EthTx where
  tenant : Option Nat
  body : EthBody
  deriving DecidableEq, Repr

/-- One Ethernet port beside its registers. -/
structure EthPort where
  /-- timebase time at which a pause hold ends (R345) -/
  pauseEnd : Option Nat
  /-- the transmitter signals low-power idle (R347) -/
  lpi : Bool
  txq : List EthTx
  /-- announcements that wait for room in the queue (R338) -/
  waiting : List EthTx
  /-- timebase time at which the link has woken from low-power idle (R347) -/
  wakeEnd : Option Nat
  /-- receive time minus origin time of the last Sync accepted, ns; time the last Delay_Req or Pdelay_Req left (R355) -/
  syncDiff : Option Int
  reqSent : Option Nat
  /-- load windows in a row that meet the condition of a step down, of a step up (R348) -/
  sdLow : Nat
  sdHigh : Nat
  /-- timebase time until which no step condition is judged (R348) -/
  sdHoldEnd : Option Nat
  /-- timebase time since which the port has read UP; since which its transmit queue has been empty -/
  upSince : Option Nat
  idleSince : Nat
  /-- speed code the next negotiation is held to by a step (R349) or by wake-listen (R351) -/
  only : Option Nat
  deriving DecidableEq, Repr

/-- A rate step in progress (R349): port, new speed code, and whether carrying moved away from it first. -/
structure RateStep where
  port : Nat
  speed : Nat
  moved : Bool
  deriving DecidableEq, Repr

/-- The Ethernet blocks. -/
structure EthState where
  ports : List EthPort
  step : Option RateStep
  /-- port that carrying has left, and the timebase time at which it is changed (R339) -/
  change : Option (Nat × Nat)
  /-- timebase time of the last frame on SP in either direction (R466) -/
  spFrame : Option Nat
  deriving DecidableEq, Repr

/-- State of a session place (R367, R368). -/
inductive PlaceState where
  /-- reserved by OPEN; PROOF expected by a timebase time -/
  | opening (by_ : Nat)
  /-- a failed opening: AUTH is answered to a request tag at a timebase time (R369) -/
  | failing (at_ tag : Nat)
  | open
  deriving DecidableEq, Repr

/-- A response kept for a repeated request (R374): request tag, opcode, status and plain payload. -/
structure KeptResponse where
  tag : Nat
  opcode : Nat
  status : Nat
  payload : Bytes
  deriving DecidableEq, Repr

/-- One session place. -/
structure Session where
  place : PlaceState
  id : Nat
  account : Nat
  tenant : Nat
  role : Role
  enc : Bool
  /-- port class of the session's port (Table 10-2): 0 backbone, 1 service port -/
  port : Nat
  /-- tenant and VID of the VLAN it opened in; 0 and none on SP -/
  net : Nat
  vid : Option Nat
  /-- module address the client sends to -/
  dst : Bytes
  /-- address and UDP port of the client, and the port its latest authenticated request came in on (R359) -/
  client : Bytes
  clientUdp : Nat
  arrived : Nat
  cnonce : Bytes
  mnonce : Bytes
  /-- AuthMessage of the opening (R368) -/
  auth : Bytes
  keyMac : Bytes
  keyEnc : Bytes
  /-- highest sequence accepted and the bitmap of the 64 below it (R371) -/
  rxHigh : Nat
  rxMap : Nat
  txSeq : Nat
  /-- notification counter (R381) -/
  noteSeq : Nat
  /-- timebase time of the last authenticated request; idle timeout in seconds (R373) -/
  lastAt : Nat
  idle : Nat
  /-- kept responses, newest first, and tags completed within 10 s with their times (R374, R375) -/
  kept : List KeptResponse
  doneTags : List (Nat × Nat)
  /-- drop counters: sequence, MAC, tag (R384) -/
  cntSeq : Nat
  cntMac : Nat
  cntTag : Nat
  deriving DecidableEq, Repr

/-- An account record (Table 10-5): kind 0 key, 1 password; flags bit 0 enabled, bit 1 encryption required. -/
structure Account where
  tenant : Nat
  role : Nat
  kind : Nat
  flags : Nat
  verifier : Verifier
  deriving DecidableEq, Repr

/-- A network setting record in force (Table 10-13). -/
structure NetRecord where
  kind : Nat
  port : Nat
  tenant : Nat
  data : Bytes
  deriving DecidableEq, Repr

/-- A transfer (R382). -/
structure Transfer where
  handle : Nat
  session : Nat
  kind : Nat
  write : Bool
  object : Nat
  length : Nat
  /-- chunks received of a write transfer: offset and data -/
  chunks : List (Nat × Bytes)
  /-- last sequence of a read transfer's range -/
  last : Nat
  lastAt : Nat
  deriving DecidableEq, Repr

/-- What follows the sending of a response. -/
inductive After where
  | nothing
  | close
  | net (rs : List NetRecord)
  | install (package : Bytes)
  deriving DecidableEq, Repr

/-- An answer ready to leave. -/
inductive Answer where
  /-- completion of a write by an initiator code -/
  | written (initiator addr : Nat)
  /-- response on a session place: session ID, opcode, tag, status, plain payload, and what follows it -/
  | response (place session op tag status : Nat) (payload : Bytes) (after : After)
  deriving DecidableEq, Repr

/-- An answer held back: timebase time before which it does not leave (R85), change frame whose acknowledgment it awaits
(R399). -/
structure HeldAnswer where
  ready : Nat
  change : Option Nat
  what : Answer
  deriving DecidableEq, Repr

/-- The Krovtan engine. -/
structure KrovState where
  /-- 32 session places that are not free, by place -/
  sessions : List (Nat × Session)
  accounts : List (Nat × Account)
  /-- failed proofs in a row and end of lock by account (R369) -/
  failRun : List (Nat × Nat)
  lockUntil : List (Nat × Nat)
  transfers : List (Nat × Transfer)
  /-- module counters of STATUS (R384) -/
  cntHeader : Nat
  cntNoSession : Nat
  /-- NET records in force (R383) -/
  net : List NetRecord
  /-- answers held back, in the order their commands were accepted (R374, R399) -/
  held : List HeldAnswer
  deriving DecidableEq, Repr

/-- What leaves the module on a bus, a port or a read path, oldest first in `M.out`. -/
inductive Emission where
  /-- data returned by a read to an initiator code -/
  | readData (initiator : Nat) (addr : Nat) (data : Word)
  /-- completion of a write -/
  | written (initiator : Nat) (addr : Nat)
  /-- bus error returned to an initiator code -/
  | busError (initiator : Nat) (addr : Nat) (reason : Nat)
  /-- answer of a point access: initiator code, point, 64-bit entry -/
  | pointData (initiator : Nat) (point : Nat) (entry : DWord)
  /-- a CAN frame sent on a bus -/
  | canFrame (bus : Nat) (frame : CanFrame)
  /-- a tether frame; sent again after a nak or a timeout (flags[1], R392) -/
  | tether (f : TetherFrame) (again : Bool)
  /-- a tether acknowledgment: highest seq in order, nak -/
  | tetherAck (seq nak : Nat)
  /-- a frame on a port (0 E0, 1 E1, 2 SP), with the tag control information of its 802.1Q tag -/
  | ethFrame (port : Nat) (tci : Option Nat) (body : EthBody)
  deriving DecidableEq, Repr

end Sys2Proof.Machine
end

