-- ==== Sys2Proof/Machine/Operands.lean ====
section
/-! DEFINITION. What commands carry: who sends them, and what the module measures or is told from outside. -/

namespace Sys2Proof.Machine

/-- Initiators of register and point accesses that commands name. -/
inductive Master where
  | h0
  | h1
  | h1User
  /-- the Krovtan engine for a session ID -/
  | session (id : Nat)
  /-- the Lynil fabric for a program unit -/
  | unit (n : Nat)
  /-- the loop engine for a channel -/
  | loop (n : Nat)
  | recorder
  | tether
  | update
  deriving DecidableEq, Repr

/-- A point access of an initiator. -/
inductive PointOp where
  | read
  | write (value : Word)
  | subscribe (interval : Nat) (deadband : Word)
  deriving DecidableEq, Repr

/-- The three command registers. -/
inductive PtdUnit where
  | directory
  | share
  | force
  deriving DecidableEq, Repr

/-- An error on the bus as ISO 11898-1 counts it. -/
inductive CanFault where
  /-- receive error: receive counter + 1 -/
  | receive
  /-- receive error first seen as dominant, or dominant bit after the flag: receive counter + 8 -/
  | receivePrimary
  /-- transmit error: transmit counter + 8 -/
  | transmit
  deriving DecidableEq, Repr

/-- What the wake detector of the transceiver saw. -/
inductive WakeSeen where
  | pattern
  | frame (f : CanFrame)
  /-- the frame error counter exceeds 31 -/
  | frameErrors
  deriving DecidableEq, Repr

/-- What the link partner can do. -/
structure EthPartner where
  m10 : Bool
  m100 : Bool
  m1000 : Bool
  fullDuplex : Bool
  /-- PAUSE and ASM_DIR of its advertisement (R345) -/
  pause : Bool
  asmDir : Bool
  eee : Bool
  deriving DecidableEq, Repr

/-- What a received frame carries, as far as the port tells frames apart. -/
inductive EthContent where
  | macControl
  /-- a PTP message of the configured transport other than those with rows of their own: a Delay_Resp with its domain, the
  receive time it reports and its correction, ns -/
  | delayResp (domain : Nat) (receipt : Nat) (correction : Nat)
  /-- a Pdelay_Resp: domain, receive time, the turnaround time it reports -/
  | pdelayResp (domain : Nat) (receipt : Nat) (turnaround : Nat)
  /-- an Announce of a master: domain, currentUtcOffset, leap61, leap59 (R502) -/
  | announce (domain : Nat) (utcOffset : Nat) (leap61 leap59 : Bool)
  | ptpOther
  /-- announcements and address resolution of R338 -/
  | resolution
  /-- a UDP datagram to or from port 52114, or the address resolution for one -/
  | chamois
  | other
  deriving DecidableEq, Repr

/-- A received frame: FCS good, length from destination address to FCS, tag's VID (0 for a priority tag), content, bytes
before the FCS, and the bytes of receive buffer its VLAN and the port hold at its arrival (R343). -/
structure EthRx where
  fcsOk : Bool
  length : Nat
  vid : Option Nat
  content : EthContent
  bytes : Bytes
  heldVlan : Nat
  heldAll : Nat
  deriving DecidableEq, Repr

/-- A PTP message with a row of its own: tag's VID, transport code (Table 9-5), domain. -/
structure PtpRx where
  vid : Option Nat
  transport : Nat
  domain : Nat
  deriving DecidableEq, Repr

/-- A Chamois datagram as it arrives: port, tag's VID, source and destination address, bytes (R403). -/
structure ChRx where
  port : Nat
  vid : Option Nat
  src : Bytes
  dst : Bytes
  bytes : Bytes
  deriving DecidableEq, Repr

/-- What a test of a cell finds. -/
inductive SelfTest where
  | pass
  | cell
  /-- the token path to the cell -/
  | path
  deriving DecidableEq, Repr

/-- What a tightened read of a page finds (R537, R538). -/
inductive ScanResult where
  | good
  | poor
  | uncorrectable
  deriving DecidableEq, Repr

/-- Blocks with a commit register. -/
inductive CommitBlock where
  | lpe
  | mtr
  | eth (port : Nat)
  deriving DecidableEq, Repr

/-- The blocks and units that have a boundary of their own. -/
inductive BoundaryOf where
  /-- the commit slot of the loop engine, each 10 µs (R258) -/
  | loopEngine
  /-- the sample boundary of a loop channel -/
  | loopChannel (n : Nat)
  /-- the frame end; a TAI multiple of 10 ms while no frames run -/
  | metering
  /-- the reference period of a CAN controller -/
  | can (n : Nat)
  /-- the load window and the armed wake patterns of a port -/
  | ethernet (x : Nat)
  /-- the end of a mirror cycle -/
  | tether
  /-- the calendar's second -/
  | calendar
  /-- the period end of a PWM line -/
  | pwm (n : Nat)
  /-- the due time of an idle task (R209) -/
  | task (n : Nat)
  deriving DecidableEq, Repr

/-- What the filters deliver of one energy frame of 80 samples, inputs as fractions of full scale, in binary64 (R264, R275):
missing elements read 0.  Corrected differences are given as they come out sample by sample. -/
structure FrameMeasure where
  /-- duration in ns of 80 sample periods of a received clock (R276) -/
  dt : Nat
  /-- RMS of the voltage inputs MI0 to MI7; per pair 12, 23, 31 of sets A and B, the mean of the two voltages' product, and of their
  fundamentals with the first shifted by 90° -/
  u : List F64
  pair : List F64
  pairQ : List F64
  /-- RMS of the current channels 0 to 47 -/
  i : List F64
  /-- per circuit and phase: mean of u × i, and mean of the fundamentals with u shifted by 90° -/
  p : List F64
  q : List F64
  /-- per circuit: RMS of i1 + i2 + i3 in A -/
  res : List F64
  /-- per set: frequency in Hz; lags of U2 and of U3 behind U1 in degrees -/
  freq : List F64
  lag2 : List F64
  lag3 : List F64
  /-- inputs overranged in the frame; inputs whose stream held one level for 128 clocks within it (R269) -/
  ovr : Nat
  stuck : Nat
  /-- mean of each input over the frame, binary32 (Table 7-8) -/
  mean : List F32
  deriving DecidableEq, Repr

/-- What the hardware finds in a step of the bring-up (Tables 14-4, 14-5): always-on check, vault check, firmware of the active
and of the other set whole; domains that do not reach power good, by bit. -/
structure BootChecks where
  aon : Bool
  vault : Bool
  active : Bool
  other : Bool
  faults : Nat
  deriving DecidableEq, Repr

/-- A Krovtan request as it arrives: port (0 E0, 1 E1, 2 SP), the tag's VID, whether its datagram is one R358 takes (no fragment, no
options or extension headers, its checksum good), source and destination, the fields of the header but the opcode (Table 10-1),
payload and MAC. -/
structure KrovPacket where
  port : Nat
  vid : Option Nat
  taken : Bool
  src : Bytes
  srcUdp : Nat
  dst : Bytes
  udp : Nat
  magic : Nat
  version : Nat
  flags : Nat
  session : Nat
  sequence : Nat
  tag : Nat
  length : Nat
  status : Nat
  reserved : Nat
  hcheck : Nat
  payload : Bytes
  mac : Bytes
  deriving DecidableEq, Repr

/-- The commit register of a block (R115). -/
def CommitBlock.reg (b : CommitBlock) : Reg :=
  match b with
  | .lpe => .LPE_COMMIT
  | .mtr => .MTR_COMMIT
  | .eth _ => .ETH_COMMIT

def CommitBlock.port (b : CommitBlock) : Nat :=
  match b with
  | .eth x => x
  | _ => 0

/-- Groups the block has (Tables 6-6, 7-11, R353). -/
def CommitBlock.groups : CommitBlock → Nat
  | .eth _ => 8
  | _ => 3

def CommitBlock.inRange (b : CommitBlock) : Bool := b.port < 3

/-- The units that exist. -/
def BoundaryOf.inRange (b : BoundaryOf) : Bool :=
  match b with
  | .loopChannel n => n < 64
  | .can n => n < 8
  | .ethernet x => x < 3
  | .pwm n => n < 64
  | .task n => n < 32
  | _ => true

/-- Indexes of a mirror item. -/
def MirrorItem.inRange (x : MirrorItem) : Bool :=
  match x with
  | .point id _ => id < 65536
  | .directory id _ _ => id < 65536
  | .share l _ => l < 4096
  | .force i _ => i < 1024
  | .cell q c _ => q < 4 && c < 2048
  | .task n _ _ => n < 32
  | .patchSet _ _ => true
  | .loop n _ _ _ _ _ => n < 64
  | .circuit n _ _ => n < 16
  | .station b n _ _ => b < 8 && n < 64
  | .reg a _ => a < 2 ^ 32
  | .epochs s _ _ => s < 16
  | .waltz i vs => i + vs.length ≤ 262144

/-- Indexes of a change record. -/
def ChangeRec.inRange (x : ChangeRec) : Bool :=
  match x with
  | .directory id _ _ => id < 65536
  | .directoryDelete id => id < 65536
  | .share l _ s g => l < 4096 && s < 64 && g < 2 ^ 32
  | .release p => p < 65536
  | .patchSet t _ => t < 32
  | .reg a _ => a < 2 ^ 32
  | .account n _ => n < 65536
  | .epochs s _ _ => s < 16
  | .force _ | .net _ => true

end Sys2Proof.Machine
end

