-- ==== Sys2Proof/Syntax.lean ====
section
/-! DEFINITION. The commands of the module: one constructor per row of the command table, with what the command carries; those
that carry nothing stand last. -/

namespace Sys2Proof
open Sys2Proof.Machine

inductive Instr where
  /-- REGISTER_WRITE (R13): A write to a register field that has no row of its own takes effect by its access code and
  change class. -/
  | registerWrite (by_ : Master) (addr : Nat) (width : Nat) (value : Nat)
  /-- RC_READ (R13): A read of a read-clear register returns its value and clears it, keeping a set made in the same
  handshake. -/
  | rcRead (by_ : Master) (addr : Nat) (width : Nat)
  /-- TAI_READ (R449): A 32-bit read of TIM_TAI_LO latches TIM_TAI_HI for the next read by the same initiator. -/
  | taiRead (by_ : Master)
  /-- POINT_ACCESS (R61): A read, write or subscription from any initiator enters the Oryx gate and is decided in fixed
  time against directory, share list and force table. -/
  | pointAccess (by_ : Master) (point : Nat) (op : PointOp)
  /-- PACE_WINDOW_END (R31): At the end of each 10.24 µs window every pace probe writes its count to last and min. -/
  | paceWindowEnd (counts : List Nat)
  /-- CLR_MIN (R41): Writing SYS_PACE_CTRL.clr_min sets min of every pace counter to 0xFFFF. -/
  | clrMin (by_ : Master)
  /-- NOTIFY_SLOT (R70): Each 3.125 µs slot of the 100 µs rotation serves one session's notification queue. -/
  | notifySlot (place : Nat)
  /-- PTD_DIR_READ (R84): Directory command op 0b01 loads the selected entry into w0 and w1, reading zero for an entry
  not visible to the tag. -/
  | ptdDirRead (by_ : Master)
  /-- PTD_DIR_WRITE (R80): Directory command op 0b10 replaces the whole entry between two gate decisions, subject to the
  rights and rules of the directory. -/
  | ptdDirWrite (by_ : Master)
  /-- PTD_DIR_DELETE (R82): Directory command op 0b11 sets the entry to all zero unless the point is forced. -/
  | ptdDirDelete (by_ : Master)
  /-- PTD_SHR_READ (R84): Share-list command op 0b01 loads the list owner and the selected grant. -/
  | ptdShrRead (by_ : Master)
  /-- PTD_SHR_WRITE (R58): Share-list command op 0b10 writes the list owner and the selected grant. -/
  | ptdShrWrite (by_ : Master)
  /-- PTD_FRC_READ (R87): Force command op 0b01 loads the selected force entry, showing valid 0 to a tag that does not
  own the point. -/
  | ptdFrcRead (by_ : Master)
  /-- PTD_FRC_SET (R71): Force command op 0b10 sets or replaces a force on a forceable point with value and persist
  flag. -/
  | ptdFrcSet (by_ : Master)
  /-- PTD_FRC_RELEASE (R76): Force command op 0b11 releases a force and gives the point its requested value. -/
  | ptdFrcRelease (by_ : Master)
  /-- PTD_CMD_COMPLETE (R85): At the fixed completion time of a PTD command busy returns to 0 and err takes the
  command's result. -/
  | ptdCmdComplete (command : PtdUnit)
  /-- NOTIFY_INTERVAL (R68): The minimum interval of a subscription passes while its point has moved beyond the
  deadband, making it a notification candidate. -/
  | notifyInterval (session : Nat) (point : Nat)
  /-- A_CELL_FIRING (R92): An A-cell fires a slot when every named port holds a token of the same unit and wave, writing
  its register and sending result tokens. -/
  | aCellFiring (q : Nat) (c : Nat) (slot : Nat)
  /-- TOKEN_ACCEPT (R623): A token waiting at the end of its link is taken into its emptied destination port, checked
  for parity and wave. -/
  | tokenAccept (q : Nat) (link : LinkId) (flipped : Bool)
  /-- CELL_POINT_ACCESS_ISSUE (R96): A cell's point access leaves the quadrant once fewer than 32 accesses are
  outstanding. -/
  | cellPointAccessIssue (q : Nat) (c : Nat)
  /-- CELL_POINT_RESPONSE (R96): A completed point access returns its data and status tokens on the slot's result link.
  -/
  | cellPointResponse (q : Nat) (c : Nat)
  /-- T_CELL_INPUT (R621): A token on port 0 of a TON, TOF or TP cell starts, resets or passes the timer and produces
  one output token. -/
  | tCellInput (q : Nat) (c : Nat)
  /-- T_CELL_PRESET (R99): A new preset on port 1 is compared with the elapsed count at the next tick. -/
  | tCellPreset (q : Nat) (c : Nat)
  /-- TIMER_EXPIRY (R98): A running TON, TOF or TP timer reaches its preset at a tick boundary and sends one token with
  the new level. -/
  | timerExpiry (q : Nat) (c : Nat)
  /-- CYC_PERIOD (R102): At each period boundary a CYC cell issues a counted token or drops it while its previous token
  is unaccepted. -/
  | cycPeriod (q : Nat) (c : Nat)
  /-- EDGE_ACCEPT (R100): An EDGE cell accepts an edge after filter + 1 samples at the new level and captures its time.
  -/
  | edgeAccept (q : Nat) (c : Nat)
  /-- COUNT_TOKEN (R114): A CNT cell adds a count token to its live value and sends a carry on overflow or borrow. -/
  | countToken (q : Nat) (c : Nat)
  /-- CARRY_TOKEN (R114): A CNTX cell adds a carry token and passes its own carry upward, wrapping at the chain top. -/
  | carryToken (q : Nat) (c : Nat)
  /-- SNAPSHOT_FENCE (R116): A snapshot fence captures a counter chain at one instant and ends in a snapshot-done token.
  -/
  | snapshotFence (q : Nat) (c : Nat)
  /-- M_CELL_REQUEST (R622): An M-cell serves a read, write, swap or add-to-word request and sends its result token. -/
  | mCellRequest (q : Nat) (c : Nat) (two : Bool)
  /-- WAVE_END (R112): A wave ends when its unit holds no token and every terminal cell has fired for it. -/
  | waveEnd (unit : Nat)
  /-- STALL_TIMEOUT (R111): A quadrant holding tokens with no firing for stall_tmo × 10 µs sets stall and treats its
  tasks as overrun. -/
  | stallTimeout (q : Nat)
  /-- SPRINGBOK_WRITE (R120): The final write of a Springbok path is decided through its lane and reaches the output
  line. -/
  | springbokWrite (path : Nat)
  /-- SPRINGBOK_ARM (R121): A write to FAB_SBK_ARM arms or disarms defined paths. -/
  | springbokArm (by_ : Master) (arm : Nat)
  /-- QUIESCE_REQUEST (R123): Writing FAB_QCTRL.req[q] = 1 starts the quiesce of quadrant q. -/
  | quiesceRequest (by_ : Master) (q : Nat)
  /-- QUIESCED (R123): When every wave has ended and the token count is 0, timers freeze and the quadrant reads
  quiesced. -/
  | quiesced (q : Nat)
  /-- QUIESCE_TIMEOUT (R124): A quiesce not complete after FAB_QCTRL.tmo ms returns the quadrant to run and sets qtmo.
  -/
  | quiesceTimeout (q : Nat)
  /-- QUIESCE_CANCEL (R124): Writing req[q] = 0 returns the quadrant to run at once. -/
  | quiesceCancel (by_ : Master) (q : Nat)
  /-- SELF_TEST_FIRING (R127): A test token fires an idle cell on shadow operands; a failure marks the cell failed. -/
  | selfTestFiring (q : Nat) (c : Nat) (found : SelfTest)
  /-- MCELL_WORD_TEST (R128): One word of an M-cell in use is tested transparently as one atomic access. -/
  | mcellWordTest (q : Nat) (c : Nat) (word : Nat) (pass : Bool)
  /-- CLR_HWM (R131): Writing FAB_CTRL.clr_hwm sets every token high-water mark to the present count. -/
  | clrHwm (by_ : Master)
  /-- IMAGE_VERIFY (R143): Loader op 0b01 runs checks 1 to 14 on the selected image and changes nothing. -/
  | imageVerify (by_ : Master)
  /-- IMAGE_LOAD (R146): Loader op 0b10 with a full image checks, configures the fabric, replaces the directory and
  applies configure-phase records. -/
  | imageLoad (by_ : Master)
  /-- PARTIAL_LOAD (R152): Loader op 0b10 with a partial image quiesces one quadrant and replaces its units. -/
  | partialLoad (by_ : Master)
  /-- IMAGE_ABORT (R168): Loader op 0b11 aborts a verify or an early load with err ABORTED. -/
  | imageAbort (by_ : Master)
  /-- BOUNDARY_TRANSFER (R159): At a block's boundary the written copy of each B field becomes effective and armed
  paired groups are validated. -/
  | boundaryTransfer (at_ : BoundaryOf)
  /-- GROUP_COMMIT (R163): Writing cmt[g] = 1 arms paired group g with its pending set. -/
  | groupCommit (by_ : Master) (block : CommitBlock) (g : Nat)
  /-- GROUP_ABORT (R162): Writing abort[g] = 1 discards the pending set of an unarmed group. -/
  | groupAbort (by_ : Master) (block : CommitBlock) (g : Nat)
  /-- TASK_DUE (R171): A periodic task falls due at an integer multiple of its period; an instance still running
  overruns. -/
  | taskDue (task : Nat)
  /-- IMAGE_LATCH (R179): The transfer engine latches a task's input image and sends start tokens with a new wave. -/
  | imageLatch (task : Nat)
  /-- OUTPUT_RELEASE (R180): After every wave of the instance has ended the engine releases the output image and runs
  the task boundary. -/
  | outputRelease (task : Nat)
  /-- ERROR_TASK_START (R202): A pending call of an error task starts with the payload of Table 5-7. -/
  | errorTaskStart (task : Nat)
  /-- STOP (R189): EXE_CMD op stop starts an orderly stop of execution. -/
  | stop (by_ : Master)
  /-- RUN_WARM (R191): EXE_CMD op run_warm starts execution keeping cell state. -/
  | runWarm (by_ : Master)
  /-- RUN_COLD (R191): EXE_CMD op run_cold reinitialises every cell and starts execution. -/
  | runCold (by_ : Master)
  /-- EXE_ACK (R193): EXE_CMD op ack moves state from TRIPPED to STOP. -/
  | exeAck (by_ : Master)
  /-- PATCH_ADD (R205): Patch op add checks and adds one patch to the set. -/
  | patchAdd (by_ : Master) (task : Nat)
  /-- PATCH_COMMIT (R206): Patch op commit arms the set for the task's next boundary, or applies it at once while
  stopped. -/
  | patchCommit (by_ : Master)
  /-- PATCH_ABORT (R221): Patch op abort empties an unarmed set. -/
  | patchAbort (by_ : Master)
  /-- ERROR_TASK_DEADLINE (R185): A called error task whose period has passed since its call without reaching step 7
  overruns and trips the watchdog. -/
  | errorTaskDeadline (task : Nat)
  /-- LOOP_SAMPLE (R224): A channel's sample instant captures a modulator input and queues its evaluation. -/
  | loopSample (channel : Nat) (captured : F32) (phase : F64)
  /-- LOOP_EVALUATION (R231): One evaluation computes the control law, writes the sink and updates integrator,
  supervision and Waltz memory. -/
  | loopEvaluation (channel : Nat)
  /-- WALTZ_CLEAR (R253): Writing LPE_WZCLR.go clears the named channel's Waltz range between two evaluations. -/
  | waltzClear (by_ : Master) (channel : Nat)
  /-- FRAME_END (R276): At each energy frame end the module corrects, assigns energies, runs detectors and updates
  metering points. -/
  | frameEnd (measured : FrameMeasure)
  /-- SUPPLY_ENABLE (R270): Writing MTR_CTRL.sup_en switches the 5 V sensor supply on or off. -/
  | supplyEnable (by_ : Master) (on : Bool)
  /-- METER_ENABLE (R270): Writing MTR_CTRL.en = 1 starts the modulator clock and metering. -/
  | meterEnable (by_ : Master)
  /-- METER_STOP (R271): Writing MTR_CTRL.en = 0 finishes the frame, stops the clock and sets run to 0. -/
  | meterStop (by_ : Master)
  /-- INPUT_FAULT (R269): A stream held at one level for 128 modulator clocks faults its input. -/
  | inputFault (input : Nat)
  /-- CLEAR_MAXD (R285): MTR_CMD op 0b01 clears MAXD and MAXDT of the named circuits at the next frame boundary. -/
  | clearMaxd (by_ : Master) (circuit : Nat)
  /-- CLEAR_ENERGIES (R279): MTR_CMD op 0b10 clears the energies of the named circuits at the next frame boundary for an
  authorised tag. -/
  | clearEnergies (by_ : Master) (circuit : Nat)
  /-- CAN_ENABLE (R307): Writing CANn_CTRL.en = 1 checks the timing and starts integration. -/
  | canEnable (by_ : Master) (bus : Nat)
  /-- CAN_DISABLE (R309): Writing CANn_CTRL.en = 0 ends the frame, puts the transceiver in standby and clears queues and
  stations. -/
  | canDisable (by_ : Master) (bus : Nat)
  /-- INTEGRATION_DONE (R307): After 11 recessive bits the controller enters ACTIVE or RESTRICTED as the lease stands.
  -/
  | integrationDone (bus : Nat)
  /-- CAN_FRAME_RECEIVED (R311): A valid received frame goes to the station engine or through the filters into a receive
  queue. -/
  | canFrameReceived (bus : Nat) (frame : CanFrame) (sof : Nat)
  /-- FRAME_SENT (R314): A frame that completes on the bus sets its done bit and stamps its SOF time. -/
  | frameSent (bus : Nat) (sof : Nat) (tdcv : Nat)
  /-- TX_REQUEST (R314): Writing CANn_TXREQ requests or withdraws transmission of a buffer. -/
  | txRequest (by_ : Master) (bus : Nat) (req : Nat)
  /-- RXQ_POP (R313): Writing CANn_RXQ_POP removes the head frame of a receive queue. -/
  | rxqPop (by_ : Master) (bus : Nat) (queues : Nat)
  /-- BUSOFF_RECOVERY (R316): After 128 occurrences of 11 recessive bits the controller clears its counters and returns.
  -/
  | busoffRecovery (bus : Nat)
  /-- REF_DUE (R321): At each multiple of CANn_REF.period an ACTIVE controller queues a REF. -/
  | refDue (bus : Nat)
  /-- SLEEP (R317): Writing CANn_CTRL.sleep = 1 puts an idle controller's transceiver into low-power mode. -/
  | sleep (by_ : Master) (bus : Nat)
  /-- WAKE (R319): Writing sleep = 0 ends sleep and the controller re-integrates. -/
  | wake (by_ : Master) (bus : Nat)
  /-- BUS_WAKE (R319): A wake-up pattern or selective wake-up frame sets CANn_EVT.wake and ends sleep. -/
  | busWake (bus : Nat) (seen : WakeSeen)
  /-- STATION_ENABLE (R323): Writing a station's en = 1 checks its times and starts identification. -/
  | stationEnable (by_ : Master) (bus : Nat) (station : Nat)
  /-- IDR (R324): An identity response is compared with the station's configuration, or marks it DUPLICATE or MISMATCH.
  -/
  | idr (bus : Nat) (data : Bytes)
  /-- CFGR (R323): A configuration response with result 0x00 brings the station ONLINE with a full refresh. -/
  | cfgr (bus : Nat) (station : Nat) (data : Bytes)
  /-- IDQ_RETRY (R324): With no IDR after an IDQ the module sends the IDQ again every 100 ms. -/
  | idqRetry (bus : Nat) (station : Nat)
  /-- CFG_RETRY (R324): A refused or missing CFGR makes the module repeat the CFG every 100 ms. -/
  | cfgRetry (bus : Nat) (station : Nat)
  /-- IN (R326): An input report writes each object to its input entries and restarts supervision. -/
  | inReport (bus : Nat) (station : Nat) (data : Bytes)
  /-- REJ (R329): A rejected output command sets CANn_EVT.rej, counts and writes a BUS record. -/
  | rej (bus : Nat) (station : Nat) (data : Bytes)
  /-- STATION_DROPOUT (R325): A station's supervision time passing with no valid IN marks it DROPPED and substitutes its
  inputs. -/
  | stationDropout (bus : Nat) (station : Nat)
  /-- REJOIN_RETRY (R325): Every 100 ms a dropped station is taken through identification and configuration again. -/
  | rejoinRetry (bus : Nat) (station : Nat)
  /-- OUT_REFRESH (R327): Once per refresh time an ONLINE station receives a full refresh of its outputs. -/
  | outRefresh (bus : Nat) (station : Nat)
  /-- CAN_ERROR (R315): An error detected on a CAN bus changes the transmit or receive error counter, which may enter
  error-passive or bus-off. -/
  | canError (bus : Nat) (error : CanFault)
  /-- PORT_ENABLE (R336): The management firmware sets ETHx_CTRL.en and the port starts negotiation. -/
  | portEnable (by_ : Master) (port : Nat)
  /-- PORT_DISABLE (R336): Writing en = 0 ends the frames in progress, drops the queue and sets OFF. -/
  | portDisable (by_ : Master) (port : Nat)
  /-- LINK_UP (R337): A port completes negotiation and reads UP, possibly taking the carrying role. -/
  | linkUp (port : Nat) (partner : EthPartner)
  /-- LINK_LOSS (R338): Loss of the carrying port's link moves carrying to the other port and announces the addresses.
  -/
  | linkLoss (port : Nat)
  /-- FRAME_RECEIVED (R341): A received Ethernet frame is checked and assigned to its tenant VLAN or discarded. -/
  | frameReceived (port : Nat) (frame : EthRx)
  /-- FRAME_TRANSMIT (R335): A queued frame leaves the carrying port in queue order once no pause hold or low-power idle
  delays it. -/
  | frameTransmit (port : Nat)
  /-- PAUSE_FRAME (R345): A received pause frame starts or restarts a transmit hold for its quanta. -/
  | pauseFrame (port : Nat) (quanta : Nat)
  /-- PAUSE_HOLD_END (R345): A pause hold ends and the transmitter resumes. -/
  | pauseHoldEnd (port : Nat)
  /-- LPI_ENTRY (R347): After lpi_idle µs with an empty queue the transmitter signals low-power idle. -/
  | lpiEntry (port : Nat)
  /-- LPI_RECEIVED (R347): The link partner signals low-power idle and the receive count of ETHx_LPI rises. -/
  | lpiReceived (port : Nat)
  /-- LOAD_WINDOW (R348): Each 1 s load window judges the step condition of the carrying port. -/
  | loadWindow (port : Nat) (rx : Nat) (tx : Nat) (deep : Nat)
  /-- STEP_HOLD_END (R348): The hold time after a step ends and step conditions are judged again. -/
  | stepHoldEnd (port : Nat)
  /-- WAKE_LISTEN (R351): Writing ETHx_CTRL.wl enters or leaves wake-listen with renegotiation. -/
  | wakeListen (by_ : Master) (port : Nat) (on : Bool)
  /-- SYNC (R355): A Sync message on the carrying port steers module time. -/
  | sync (port : Nat) (message : PtpRx) (origin : Nat) (receipt : Nat) (correction : Nat)
  /-- PDELAY_REQ (R355): A received Pdelay_Req is answered with a one-step Pdelay_Resp. -/
  | pdelayReq (port : Nat) (message : PtpRx) (receipt : Nat)
  /-- SYNC_TIMEOUT (R355): No Sync for 3 announce intervals sets ETHx_EVT.ptp. -/
  | syncTimeout (port : Nat)
  /-- DELAY_REQ_SEND (R355): With dm = 0 the module sends a Delay_Req and inserts its originTimestamp as it leaves. -/
  | delayReqSend (port : Nat)
  /-- OPEN (R368): An OPEN request reserves a session place and answers with session ID, salt, iterations and mnonce. -/
  | open_ (p : KrovPacket)
  /-- PROOF (R368): A PROOF request is checked against the verifier and opens the session with derived keys. -/
  | proof (p : KrovPacket)
  /-- AUTH_ANSWER (R369): A failed opening is answered AUTH 250 ms after PROOF and the place is freed. -/
  | authAnswer (place : Nat)
  /-- PROOF_TIMEOUT (R368): A place in OPENING without PROOF within 5 s is freed. -/
  | proofTimeout (place : Nat)
  /-- ACCOUNT_UNLOCK (R369): An account locked after five failed proofs is unlocked after 60 s. -/
  | accountUnlock (account : Nat)
  /-- CLOSE (R373): CLOSE ends the session after its response. -/
  | close_ (p : KrovPacket)
  /-- SESSION_IDLE_TIMEOUT (R373): A session with no authenticated request for its idle timeout closes. -/
  | sessionIdleTimeout (place : Nat)
  /-- KEEPALIVE (R377): KEEPALIVE answers with module TAI time. -/
  | keepalive (p : KrovPacket)
  /-- STATUS (R384): STATUS returns session and module counters filtered by tenant. -/
  | status (p : KrovPacket)
  /-- POINT_READ (R380): POINT_READ returns value, status and age of 1 to 160 points, each decided separately. -/
  | pointRead (p : KrovPacket)
  /-- POINT_WRITE (R380): POINT_WRITE writes 1 to 160 points, each decided separately, with optional logging. -/
  | pointWrite (p : KrovPacket)
  /-- SUBSCRIBE (R381): SUBSCRIBE creates or replaces the session's subscription for one point. -/
  | subscribe (p : KrovPacket)
  /-- UNSUBSCRIBE (R381): UNSUBSCRIBE cancels the session's subscription for a point. -/
  | unsubscribe (p : KrovPacket)
  /-- FORCE_SET (R72): FORCE_SET sets a force through the PTD force command with the session's tag. -/
  | forceSet (p : KrovPacket)
  /-- FORCE_RELEASE (R76): FORCE_RELEASE releases a force with the session's tag. -/
  | forceRelease (p : KrovPacket)
  /-- FORCE_LIST (R79): FORCE_LIST returns up to 64 force entries on points of the session's tenant. -/
  | forceList (p : KrovPacket)
  /-- DIR_READ (R84): DIR_READ returns a directory entry through the PTD read command. -/
  | dirRead (p : KrovPacket)
  /-- DIR_WRITE (R60): DIR_WRITE writes a directory entry through the PTD write command. -/
  | dirWrite (p : KrovPacket)
  /-- DIR_DELETE (R82): DIR_DELETE deletes a directory entry for tenant 0 OWNER. -/
  | dirDelete (p : KrovPacket)
  /-- SHARE_READ (R84): SHARE_READ returns a share list's owner and grants. -/
  | shareRead (p : KrovPacket)
  /-- SHARE_WRITE (R58): SHARE_WRITE writes a list owner and one grant. -/
  | shareWrite (p : KrovPacket)
  /-- REG_READ (R378): REG_READ reads 1 to 256 register words with the session's tag, stopping at the first refusal. -/
  | regRead (p : KrovPacket)
  /-- REG_WRITE (R378): REG_WRITE applies up to 128 register writes in order, stopping at the first refusal. -/
  | regWrite (p : KrovPacket)
  /-- XFER_BEGIN (R382): XFER_BEGIN opens a transfer of one kind and fixes its range. -/
  | xferBegin (p : KrovPacket)
  /-- XFER_DATA (R382): XFER_DATA moves one chunk of a transfer; chunk 0 of a package runs the header checks. -/
  | xferData (p : KrovPacket)
  /-- XFER_END (R382): XFER_END of a write checks completeness and digest and runs the object's checks. -/
  | xferEnd (p : KrovPacket)
  /-- XFER_ABORT (R382): XFER_ABORT abandons an open transfer. -/
  | xferAbort (p : KrovPacket)
  /-- XFER_TIMEOUT (R382): A transfer with no request for 30 s is aborted. -/
  | xferTimeout (handle : Nat)
  /-- NET_GET (R383): NET_GET returns the network setting records in force. -/
  | netGet (p : KrovPacket)
  /-- NET_SET (R383): NET_SET checks every record and applies a valid set after its response. -/
  | netSet (p : KrovPacket)
  /-- ACCOUNT_READ (R379): ACCOUNT_READ returns an account record without its verifier. -/
  | accountRead (p : KrovPacket)
  /-- ACCOUNT_WRITE (R379): ACCOUNT_WRITE writes an account in an encrypted session and closes its sessions. -/
  | accountWrite (p : KrovPacket)
  /-- RESERVED_OPCODE (R377): A Krovtan request with a reserved opcode, or carrying NOTIFY, is answered OPCODE. -/
  | reservedOpcode (op : Nat) (p : KrovPacket)
  /-- BEAT (R405): The witness decides a received BEAT in the order of Table 11-9 and answers LEASE or STATE. -/
  | beat (d : ChRx)
  /-- LEASE (R408): A unit accepts a valid LEASE, runs the lease from the echoed BEAT and becomes ACTIVE, or answers
  RELEASE. -/
  | lease (d : ChRx)
  /-- STATE (R390): A Chamois STATE message naming another holder or a higher epoch moves the unit to FENCED or SYNCING.
  -/
  | chState (d : ChRx)
  /-- RELEASE (R407): The witness ends the holder's lease at once on a valid RELEASE and grants a successor. -/
  | release (d : ChRx)
  /-- RENEWAL_MISSED (R405): At the witness a renewal not arriving within 6 ms counts as missed. -/
  | renewalMissed (slot : Nat)
  /-- WITNESS_LEASE_END (R386): At the witness a lease count ends and, after the 1 ms guard, a waiting eligible claimant
  is granted. -/
  | witnessLeaseEnd (slot : Nat)
  /-- START_WINDOW_END (R409): At the end of the 1 s start window the witness grants by order of preference. -/
  | startWindowEnd (slot : Nat)
  /-- RESERVED_BOUND_COMMITTED (R411): The commit of a new reserved bound completes and a waiting grant is sent. -/
  | reservedBoundCommitted (slot : Nat)
  /-- PACT_CHANGE (R388): A change of the PACT input lets Ibex assert ACT or keeps it deasserted. -/
  | pactChange (level : Bool)
  /-- TETHER_STATE (R390): A received tether STATE frame updates the peer's health word and may change the unit's state.
  -/
  | tetherState (seq : Nat) (good : Bool) (health : Word) (epoch : Word) (image : Word) (tai : Nat)
  /-- MIRROR (R394): A MIRROR frame carries items of one class to the receiving unit. -/
  | mirror (seq : Nat) (good : Bool) (cycle : Nat) (bytes : Nat) (items : List MirrorItem)
  /-- CYCLE_END (R397): A complete CYCLE_END makes the receiver apply the cycle's items. -/
  | cycleEnd (seq : Nat) (good : Bool) (cycle : Nat) (frames : Nat) (bytes : Nat) (crcOk : Bool)
  /-- CHANGE (R399): A CHANGE frame carries one change record that the peer applies and acknowledges. -/
  | change (seq : Nat) (good : Bool) (record : ChangeRec)
  /-- ACK (R392): A tether ACK frame acknowledges frames or requests retransmission from a nak. -/
  | ack (good : Bool) (seq : Nat) (nak : Nat)
  /-- BULK (R400): BULK frames carry an image or package to the peer for checking. -/
  | bulk (seq : Nat) (good : Bool) (offset : Nat) (data : Bytes)
  /-- TEST_FRAME (R393): A TEST frame with PRBS-31 fills idle link time. -/
  | testFrame (errors : Nat)
  /-- TETHER_LINK_DOWN (R393): A lane without valid symbols or with 16 code errors in 10 µs takes the link down. -/
  | tetherLinkDown (lanes : Nat)
  /-- READBACK (R402): Every 1 ms a unit without a lease reads back one LIO output stage. -/
  | readback (follows : Bool)
  /-- SWITCH (R418): IBX_CMD op switch starts a planned hand-over to the peer. -/
  | switch (by_ : Master)
  /-- MAINT (R390): IBX_CMD op maint moves a unit that is not ACTIVE to MAINT. -/
  | maint (by_ : Master)
  /-- RESUME (R390): IBX_CMD op resume moves a MAINT unit to SYNCING or INIT. -/
  | resume (by_ : Master)
  /-- HANDOVER_REQUEST (R416): A HANDOVER request asks the peer whether it is ready to take the lease. -/
  | handoverRequest (seq : Nat) (good : Bool)
  /-- HANDOVER_READY (R416): A HANDOVER ready lets the active unit complete the cycle, deassert ACT and release. -/
  | handoverReady (seq : Nat) (good : Bool)
  /-- HANDOVER_CANCEL (R416): A HANDOVER cancel stops a planned hand-over unless it follows an extraction warning. -/
  | handoverCancel (seq : Nat) (good : Bool)
  /-- CLOCK_MONITOR_FAILURE (R429): A monitor finds a source stopped or out of range and fails over the islands using
  it. -/
  | clockMonitorFailure (monitor : Nat) (kind : Nat)
  /-- ARBITRATION_DONE (R430): After 2 ms of counting against XR the failed one of XO and RC is named. -/
  | arbitrationDone (xoOut : Bool)
  /-- RESTORE (R434): Writing TIM_CLK_CMD.restore[i] requests the return of island i to its normal source. -/
  | restore (by_ : Master) (islands : Nat)
  /-- RESTORE_SWITCH (R434): After 100 ms good the island switches back and fo and pend clear. -/
  | restoreSwitch (island : Nat)
  /-- LEVEL_REQUEST (R436): PMC_LVL_CMD go requests a performance level, checked and then ramped. -/
  | levelRequest (by_ : Master) (level : Nat)
  /-- CONFIRMATION_WINDOW (R437): The pace confirmation window ends and the clock steps or the raise is repeated or
  abandoned. -/
  | confirmationWindow (counts : List Nat)
  /-- DOMAIN_OFF (R443): Clearing a domain's bit in PMC_PD_REQ switches it off after its transfers retire. -/
  | domainOff (by_ : Master) (domain : Nat)
  /-- DOMAIN_ON (R444): Setting a domain's bit in PMC_PD_REQ closes its power switch. -/
  | domainOn (by_ : Master) (domain : Nat)
  /-- POWER_GOOD (R444): A domain's power becomes good and its clocks, isolation and configuration are restored. -/
  | powerGood (domain : Nat)
  /-- PGOOD_TIMEOUT (R444): Power not good within twice its bound puts the domain in FAULT. -/
  | pgoodTimeout (domain : Nat)
  /-- SUPPLY_FAIL_WARNING (R447): The 24 V input below 17.5 V for 20 µs raises the supply-fail warning and starts the
  shutdown sequence. -/
  | supplyFailWarning (vin : Nat)
  /-- SHUTDOWN_CHECK (R482): At 12 ms after the warning VIN is sampled and service continues or shutdown proceeds to
  reset. -/
  | shutdownCheck (vin : Nat)
  /-- WARNING_CLEAR (R447): The input at or above 18.5 V for 100 ms clears the warning. -/
  | warningClear (vin : Nat)
  /-- VIN_LOW (R457): VIN below 15 V opens the input switch. -/
  | vinLow (vin : Nat)
  /-- VIN_RECOVER (R457): VIN at 15 V or above for 1 ms closes the switch again with soft start. -/
  | vinRecover (vin : Nat)
  /-- PEER_PRESENCE (R454): PPRES debounced for 1 ms updates SYS_SLOT.peer_present. -/
  | peerPresence (present : Bool)
  /-- LIO_INPUT_CHANGE (R460): A new level on a sampled line updates its input entries and EDGE cells. -/
  | lioInputChange (line : Nat) (level : Bool)
  /-- PWM_PERIOD_END (R461): At the end of a PWM period a new duty or period takes effect. -/
  | pwmPeriodEnd (line : Nat)
  /-- LIO_ENABLE (R459): Writing LIO_CTRL.en sets run or puts every line high-impedance within 0.1 µs. -/
  | lioEnable (by_ : Master) (en : Bool)
  /-- MODULE_RESET (R477): SYS_RST_CMD op 0b01 with key 0x9640 from an allowed tag asserts a module reset. -/
  | moduleReset (by_ : Master) (key : Nat)
  /-- CORE_RESTART (R481): SYS_RST_CMD op 0b10 restarts the host cores while the rest runs on. -/
  | coreRestart (by_ : Master) (key : Nat)
  /-- KICK (R479): Writing SYS_MWD.kick restarts the management watchdog count. -/
  | kick (by_ : Master)
  /-- BRING_UP (R483): After a reset the module brings itself up in the order of Table 14-4. -/
  | bringUp (checks : BootChecks)
  /-- CALENDAR_SET (R500): RTC_SET_CMD op 0b01 sets the calendar from the staging registers and steps module time. -/
  | calendarSet (by_ : Master)
  /-- RTC_TIME_READ (R499): A 32-bit read of RTC_TIME latches RTC_DATE for the same initiator. -/
  | rtcTimeRead (by_ : Master)
  /-- TRIM_WINDOW (R505): At the end of a network or mains trim window the rate trim mt is updated. -/
  | trimWindow (err : Int) (cycles : Nat)
  /-- XR_CALIBRATION (R506): After 1,024 s of module time the XR error is written to xr. -/
  | xrCalibration (cycles : Nat)
  /-- ALARM_RELEASE (R508): Writing RTC_ALM.rel = 1 clears the alarm latch and releases PWRON. -/
  | alarmRelease (by_ : Master)
  /-- LOAD_RECORD (R523): REC_RD_CMD op 0b01 loads the record with the requested sequence. -/
  | loadRecord (by_ : Master)
  /-- LOAD_ENTRY (R523): REC_RD_CMD op 0b10 loads the event-log entry with the requested sequence. -/
  | loadEntry (by_ : Master)
  /-- CLEAR_REEL (R526): REC_CLR_CMD op 0b01 with a valid MAC clears the Reel. -/
  | clearReel (by_ : Master)
  /-- CLEAR_RECORDER (R526): REC_CLR_CMD op 0b10 with a valid MAC clears the whole recorder and applies the new head. -/
  | clearRecorder (by_ : Master)
  /-- CLEAR_LOG (R526): REC_CLR_CMD op 0b11 with a valid MAC removes every event-log entry. -/
  | clearLog (by_ : Master)
  /-- BUFFER_WRITE (R530): A write to NVP_DATA stores a buffer word, clearing the buffer first for a new owner, and
  advances word. -/
  | bufferWrite (by_ : Master) (word : Nat)
  /-- BUFFER_READ (R531): A read of NVP_DATA returns a buffer word to its owner and advances word. -/
  | bufferRead (by_ : Master)
  /-- PAGE_LOAD (R531): NVP_CMD op load fills the buffer from the addressed page when the read right is held. -/
  | pageLoad (by_ : Master)
  /-- PAGE_COMMIT (R534): NVP_CMD op commit writes the buffer to the addressed page atomically. -/
  | pageCommit (by_ : Master)
  /-- PAGE_COMMIT_DONE (R534): A commit passes its commit point, releases the old copy and clears busy. -/
  | pageCommitDone (bank : Nat) (retired : Bool)
  /-- OPEN_RD (R533): NVP op open_rd opens a region's read right on a matching password. -/
  | openRd (by_ : Master) (region : Nat)
  /-- OPEN_WR (R533): NVP op open_wr opens a region's write right on a matching password. -/
  | openWr (by_ : Master) (region : Nat)
  /-- CLOSE_RIGHTS (R533): NVP op close closes both rights of a region for the tag. -/
  | closeRights (by_ : Master) (region : Nat)
  /-- SET_RD (R533): NVP op set_rd replaces a region's read password and ends open read rights. -/
  | setRd (by_ : Master) (region : Nat)
  /-- SET_WR (R533): NVP op set_wr replaces a region's write password and ends open write rights. -/
  | setWr (by_ : Master) (region : Nat)
  /-- MARGIN_SCAN (R537): A page read at tightened thresholds is refreshed by a commit when its margin is poor. -/
  | marginScan (page : Nat) (found : ScanResult)
  /-- TREND_ENABLE (R542): Writing HST_TRn_CFG.en = 1 checks the log and starts a segment. -/
  | trendEnable (by_ : Master) (log : Nat)
  /-- TREND_SAMPLE (R543): At each multiple of its interval a trend log reads its points and queues a row. -/
  | trendSample (log : Nat)
  /-- SLOT_READ (R554): KV_CMD op 0x1 loads a slot's attributes and check value. -/
  | slotRead (by_ : Master)
  /-- SLOT_WRITE (R554): KV_CMD op 0x2 stores a key with its attributes in a slot. -/
  | slotWrite (by_ : Master)
  /-- DERIVE (R554): KV_CMD op 0x3 stores a derived key under the given label. -/
  | derive (by_ : Master)
  /-- ERASE (R559): KV_CMD op 0x4 empties a slot. -/
  | erase (by_ : Master)
  /-- OWNER_PASSWORD (R565): KV_CMD op 0x5 sets the owner password verifier. -/
  | ownerPassword (by_ : Master)
  /-- LIFE_CYCLE_CHANGE (R552): KV_CMD op 0x6 changes the life-cycle state, erases the slots and resets the module. -/
  | lifeCycleChange (by_ : Master) (key : Nat) (target : Nat)
  /-- SLOT_USE (R555): One MAC, encryption or derivation under a slot by an allowed user, decrementing a counted slot.
  -/
  | slotUse (slot : Nat) (user : Nat)
  /-- VAULT_CHECK (R561): The vault check tests roots, slots, engines and the random source and sets kv_ok. -/
  | vaultCheck (passed : Bool)
  /-- ATTESTATION (R562): KV_ATT_CMD.go builds a signed or MACed statement over the challenge. -/
  | attestation (by_ : Master)
  /-- OPEN_OWNER (R564): KV_ACC_CMD op 0x1 opens UDBG or SVC on a valid owner proof. -/
  | openOwner (by_ : Master) (gates : Nat) (duration : Nat)
  /-- OPEN_VENDOR (R564): KV_ACC_CMD op 0x2 opens gates on a valid vendor response. -/
  | openVendor (by_ : Master) (gates : Nat) (duration : Nat)
  /-- CLOSE_GATES (R564): KV_ACC_CMD op 0x3 closes the named gates. -/
  | closeGates (by_ : Master) (gates : Nat)
  /-- CORE_HALT (R566): Writing KV_DBG h0_halt or h1_halt halts or resumes a core while its gate is open. -/
  | coreHalt (by_ : Master) (h0 : Bool) (h1 : Bool)
  /-- INSTALL (R576): UPD_CMD op install copies the active set and installs each component into the other set. -/
  | install (by_ : Master)
  /-- COMPONENT_RESTART (R577): An installed component restarts from the trial set; a failed restart falls back. -/
  | componentRestart (ok : Bool) (frames : Nat)
  /-- DISCARD (R585): UPD_CMD op 0b10 discards the package held. -/
  | discard (by_ : Master)
  /-- FALLBACK_CMD (R580): UPD_CMD op 0b11 during TRIAL falls back with cause OPER. -/
  | fallbackCmd (by_ : Master)
  /-- CONFIRM (R578): UPD_CONFIRM with key 0xC0DE confirms or rejects the trial set. -/
  | confirm (by_ : Master) (key : Nat) (code : Nat)
  /-- EVENT_ENTRY (R589): An offered source makes its core enter its event entry at the end of the instruction in
  progress. -/
  | eventEntry (core : Nat)
  /-- EVC_CLAIM (R590): A read of EVC_CLAIMc returns the offered source, clears its pending bit and raises the running
  level. -/
  | evcClaim (by_ : Master) (core : Nat)
  /-- EVC_DONE (R590): A write to EVC_DONEc of the source last claimed pops the running level. -/
  | evcDone (by_ : Master) (core : Nat) (source : Nat)
  /-- SOFTWARE_RAISE (R593): Writing EVC_SWSET raises a software source 0x80 to 0xFF. -/
  | softwareRaise (by_ : Master) (source : Nat)
  /-- COUNTER_CLEAR (R597): Writing EVC_CNTCTL.clr[g] sets every counter of group g to 0. -/
  | counterClear (by_ : Master) (groups : Nat)
  /-- SAMPLE_RECORD (R599): A tagged instruction completes and one sample record is written to the buffer. -/
  | sampleRecord (addr : Word) (user : Bool) (latency : Nat) (data : Word)
  /-- SAMPLE_READ (R600): A read of EVC_SMPr_W0 latches words 1 to 3 of the record. -/
  | sampleRead (by_ : Master) (index : Nat)
  /-- SAMPLE_CLEAR (R600): Writing EVC_SMP_CMD.clr empties the sample buffer. -/
  | sampleClear (by_ : Master)
  /-- AGE_TICK (R49): Each tick of PTD_CTRL.age_unit advances the age of every point entry, stopping at 0xFFFE. -/
  | ageTick
  /-- RETAIN_SAVE (R57): At most 1 s apart the values of retained entries are saved to the retention region. -/
  | retainSave
  /-- LOAD_COMPLETE (R169): A completed load command sets its result, writes an IMAGE record and raises the image
  source. -/
  | loadComplete
  /-- STOP_COMPLETE (R189): When every instance in progress has released, waves advance, Ibex drives safe values and
  state reads STOP. -/
  | stopComplete
  /-- AUTO_RUN (R195): With auto_run set the module issues its own run command after the image has loaded at bring-up.
  -/
  | autoRun
  /-- COMMIT_SLOT (R258): Every 10 µs the loop engine validates and applies armed paired groups. -/
  | commitSlot
  /-- WALTZ_SAVE (R254): Every 900 s the Waltz range of each wz_keep channel is written to the historian. -/
  | waltzSave
  /-- DEMAND_INTERVAL_END (R283): At an interval end each circuit's demand is computed and MAXD updated unless short. -/
  | demandIntervalEnd
  /-- METER_SAVE (R272): Every 60 s the accumulators, demand state and MAXD are saved to the parameter store. -/
  | meterSave
  /-- SENSOR_SUPPLY_FAULT (R290): Overload or voltage out of range switches the sensor supply off and sets MTR_EVT.sup.
  -/
  | sensorSupplyFault
  /-- MOD_CLOCK_FAULT (R266): A received clock absent or out of tolerance clears MTR_STAT.clk and faults every input in
  use. -/
  | modClockFault
  /-- MOD_CLOCK_RETURN (R266): A received modulator clock returns within tolerance and MTR_STAT.clk reads 1 again. -/
  | modClockReturn
  /-- CARRY_HANDOVER (R339): A planned hand-over moves carrying to the other port without losing a frame. -/
  | carryHandover
  /-- CARRY_RETURN (R340): After the preferred port has read UP for hold seconds carrying returns to it. -/
  | carryReturn
  /-- BEAT_SLOT (R404): Every 5 ms a unit sends a BEAT with its health word, epoch and flags. -/
  | beatSlot
  /-- LEASE_END (R387): A unit's lease expires and Ibex deasserts ACT and fences its outputs within 10 µs. -/
  | leaseEnd
  /-- QUIET_TIME_END (R410): 21 ms after the Chamois function starts it begins answering BEATs. -/
  | quietTimeEnd
  /-- PACT_TIMEOUT (R388): PACT still asserted 5 ms after a lease is gained makes the unit release and enter FENCED. -/
  | pactTimeout
  /-- TETHER_STATE_SLOT (R391): Every 1 ms, and on a change, a unit sends a tether STATE frame. -/
  | tetherStateSlot
  /-- MIRROR_CYCLE_START (R394): At each multiple of TTH_CTRL.period the active unit starts sending a mirror cycle. -/
  | mirrorCycleStart
  /-- CHANGE_ACK_TIMEOUT (R399): A change not acknowledged within 1 ms is answered and the peer counts as out of sync.
  -/
  | changeAckTimeout
  /-- ACK_TIMEOUT (R392): A sender with no acknowledgment for 1 ms repeats from the oldest unacknowledged frame. -/
  | ackTimeout
  /-- TETHER_LINK_UP (R393): Training completes on both lanes and the link comes up. -/
  | tetherLinkUp
  /-- DETACH_TIMEOUT (R390): A STANDBY unit whose tether has been down for 1 ms enters DETACHED. -/
  | detachTimeout
  /-- HEALTH_PUBLISH (R401): Every 10 ms the unit composes its health word; a lost required bit moves it towards FAILED.
  -/
  | healthPublish
  /-- PEER_SILENCE (R401): No STATE frame for 10 ms clears peer_seen and IBX_PHEALTH. -/
  | peerSilence
  /-- HANDOVER_TIMEOUT (R416): With no lease gained by the peer 30 ms after RELEASE the former active unit claims again.
  -/
  | handoverTimeout
  /-- TAKEBACK (R417): After holdoff seconds of a healthy preferred unit the active unit starts a hand-over to it. -/
  | takeback
  /-- FAILED_RECOVERY (R390): A FAILED unit whose required health bits have read 1 for 10 s enters SYNCING or INIT. -/
  | failedRecovery
  /-- VOLTAGE_SETTLED (R437): The core voltage settles at the target, starting the confirmation window or ending a
  lowering. -/
  | voltageSettled
  /-- MC_WAKE (R592): An event offered to H0 while MC is off powers MC and restarts H0. -/
  | mcWake
  /-- CORE_SUPPLY_FAULT (R448): The core supply outside ±4 % for 1 µs clears core_ok. -/
  | coreSupplyFault
  /-- CORE_SUPPLY_RECOVER (R448): The core supply returns within ±4 % of the level's voltage and core_ok reads 1. -/
  | coreSupplyRecover
  /-- ENA_ASSERT (R467): ENA asserted and stable for 1 ms lets the input switch soft-start. -/
  | enaAssert
  /-- ENA_DEASSERT (R472): ENA deasserted without a warning deasserts ACT, fences the lines, raises both warnings and
  releases the lease. -/
  | enaDeassert
  /-- LEVER_OPEN (R469): The lever switch opening raises the extraction warning and runs hand-over, stop, saves and
  disables. -/
  | leverOpen
  /-- LEVER_CLOSE (R471): The lever switch closed for 100 ms ends the warning without extraction. -/
  | leverClose
  /-- BACKUP_RESET (R494): VIN and VBAK both absent reset BAK, the calendar and the backup bytes, and set OSF. -/
  | backupReset
  /-- POWER_ON_RESET (R476): The always-on supplies not good or ENA unstable assert power-on reset. -/
  | powerOnReset
  /-- POWER_ON_RESET_RELEASE (R467): 5 ms after the always-on supplies are good power-on reset is released and H0
  starts. -/
  | powerOnResetRelease
  /-- MANAGEMENT_WATCHDOG (R479): SYS_MWD not kicked for tmo ms asserts a management watchdog reset. -/
  | managementWatchdog
  /-- NO_PEER_TIMEOUT (R491): No tether within 400 ms or no STATE within 20 ms lets the unit continue alone in INIT. -/
  | noPeerTimeout
  /-- BRING_UP_TIMEOUT (R492): A bring-up wait runs out, no link 3.0 s after step 6, no LEASE or STATE 2 s after the
  first claim, or a station not ONLINE 1 s after step 12, setting SYS_BOOT_STAT.fail. -/
  | bringUpTimeout
  /-- CALENDAR_SECOND (R498): Each calendar second advances the calendar and applies leap seconds, offsets and alarm
  matches. -/
  | calendarSecond
  /-- HOLDOVER_EXPIRY (R504): After 60 s of holdover lock clears and RTC_EVT.unlock is set. -/
  | holdoverExpiry
  /-- VBAK_LOW (R495): VBAK below 2.0 V for 1 s sets vbak_low. -/
  | vbakLow
  /-- VBAK_RISE (R495): VBAK rises to 2.1 V or above and vbak_low clears. -/
  | vbakRise
  /-- TRIGGER_RECORD (R514): A queued trigger raise reads the trigger's items and writes one flight recorder record. -/
  | triggerRecord
  /-- LOG_ENTRY (R520): An event-log entry is written to the historian, replacing by severity and tenant quota or
  dropped. -/
  | logEntry
  /-- RECORD_COPY (R522): Within 10 ms a written record is copied to the recorder area of the historian. -/
  | recordCopy
  /-- CLEAR_UNLOCK (R527): Clearing locked after five AUTH answers is unlocked after 60 s. -/
  | clearUnlock
  /-- OPEN_TIMEOUT (R533): An open right unused for NVP_CTRL.tmo seconds ends. -/
  | openTimeout
  /-- GATE_EXPIRY (R563): A gate opened for a duration closes when it ends. -/
  | gateExpiry
  /-- OPEN_UNLOCK (R564): Opens locked after five AUTH answers are unlocked after 60 s. -/
  | openUnlock
  /-- WINDOW_EXPIRY (R580): The confirmation window expiring unconfirmed falls back with cause WINDOW. -/
  | windowExpiry
  deriving DecidableEq, Repr

end Sys2Proof
end

