-- ==== Sys2Proof/Decode.lean ====
section
/-! DEFINITION. Commands spelled by bits: the command table gives no row any bits, so no word spells a command. -/

namespace Sys2Proof

/-- The command that a word of the command table spells. -/
def decodeTableWord (_nbits _w : Nat) : Option Instr := none

end Sys2Proof
end

