-- ==== Sys2Proof/Config.lean ====
section
/-! DEFINITION. What a module fixes for good and what the spec leaves open: constants and functions without a body.  Nothing
can be proved about their values; a statement about them holds for every value (notes/assumptions). -/

namespace Sys2Proof.Config

/-! ### Values the spec calls random, and algorithms it only names -/

/-- The random source: word `n` ever drawn (nonces, salts, keys; R361, R367, R526, R564). -/
opaque random : Nat → Word

/-- SHA-256 (R365, R545, R562, R572). -/
opaque sha256 : Bytes → BitVec 256

/-- HMAC-SHA-256 of a message under a key. -/
opaque hmac : Bytes → Bytes → BitVec 256

/-- HKDF-Expand of a pseudorandom key with a label to 32 bytes (R549). -/
opaque hkdfExpand : Bytes → Bytes → BitVec 256

/-- PBKDF2-HMAC-SHA-256 with iterations (R366). -/
opaque pbkdf2 : Bytes → Bytes → Nat → BitVec 256

/-- AES-128-GCM (R364): byte `i` of the key stream of a key and a nonce. -/
opaque gcmStream : Bytes → Bytes → Nat → Byte

/-- AES-128-GCM: tag of key, nonce, associated data and ciphertext. -/
opaque gcmTag : Bytes → Bytes → Bytes → Bytes → BitVec 128

/-- ECDSA P-256 verification of a signature over a digest under a public key (R572). -/
opaque ecdsaVerify : Bytes → Bytes → Bytes → Bool

/-- ECDSA P-256 signature over a digest by the module's identity key (R562). -/
opaque identitySign : Bytes → Bytes

/-! ### Secrets and constants of one module -/

/-- The owner root made by generation `n` of the vault (R548). -/
opaque ownerRoot : Nat → Bytes
opaque mfgRoot : Bytes
opaque fieldRoot : Bytes
opaque returnRoot : Bytes
/-- Public half of vendor release key `k` in the boot ROM (R572). -/
opaque releaseKey : Nat → Bytes
/-- The IPv6 link-local address of SP (R540). -/
opaque spLinkLocal : Bytes
/-- The serial number and identity public key of the module (R548, R562). -/
opaque serial : DWord
opaque identityPublic : Nat → Word

/-! ### Values the spec leaves open -/

/-- The event source word 3 of a record with a code other than TRIGGER carries (R511 names the field, no rule its value). -/
opaque recordSource : Nat → BitVec 8

/-- Code and severity of the event-log entry of an uncorrectable page (R538 asks for the entry; Table 16-2 names none). -/
opaque uncorrCode : BitVec 8
opaque uncorrSeverity : BitVec 3

/-- Results of A-cell operations whose convention the spec does not state: operation code and operands (Table 3-2). -/
opaque cellOpen : Nat → Word → Word → Word → Word

/-- A free value: the `n`-th the model ever needed. -/
opaque freeWord : Nat → Word

end Sys2Proof.Config
end

