-- ==== Sys2Proof/Machine/Fields.lean ====
section
/-! DEFINITION. One named reference per field of the bit tables of spec/: the register, the lowest bit and the width. -/

namespace Sys2Proof.Machine.F

abbrev SYS_ID_part : FRef := ⟨.SYS_ID, 16, 16⟩
abbrev SYS_ID_vendor : FRef := ⟨.SYS_ID, 0, 16⟩
abbrev SYS_REV_rev : FRef := ⟨.SYS_REV, 0, 8⟩
abbrev SYS_SLOT_peer_present : FRef := ⟨.SYS_SLOT, 1, 1⟩
abbrev SYS_SLOT_slot : FRef := ⟨.SYS_SLOT, 0, 1⟩
abbrev SYS_PACE_FLOOR_floor : FRef := ⟨.SYS_PACE_FLOOR, 0, 16⟩
abbrev SYS_PACE_STAT_disc : FRef := ⟨.SYS_PACE_STAT, 16, 1⟩
abbrev SYS_PACE_STAT_low : FRef := ⟨.SYS_PACE_STAT, 0, 6⟩
abbrev SYS_PACE_CNT_min : FRef := ⟨.SYS_PACE_CNT, 16, 16⟩
abbrev SYS_PACE_CNT_last : FRef := ⟨.SYS_PACE_CNT, 0, 16⟩
abbrev SYS_BUSERR_ADDR_addr : FRef := ⟨.SYS_BUSERR_ADDR, 0, 32⟩
abbrev SYS_BUSERR_INFO_count : FRef := ⟨.SYS_BUSERR_INFO, 16, 16⟩
abbrev SYS_BUSERR_INFO_valid : FRef := ⟨.SYS_BUSERR_INFO, 8, 1⟩
abbrev SYS_BUSERR_INFO_write : FRef := ⟨.SYS_BUSERR_INFO, 7, 1⟩
abbrev SYS_BUSERR_INFO_reason : FRef := ⟨.SYS_BUSERR_INFO, 4, 3⟩
abbrev SYS_BUSERR_INFO_initiator : FRef := ⟨.SYS_BUSERR_INFO, 0, 4⟩
abbrev SYS_PACE_CTRL_clr_min : FRef := ⟨.SYS_PACE_CTRL, 8, 1⟩
abbrev SYS_PACE_CTRL_act : FRef := ⟨.SYS_PACE_CTRL, 1, 2⟩
abbrev SYS_PACE_CTRL_en : FRef := ⟨.SYS_PACE_CTRL, 0, 1⟩
abbrev PTD_COUNT_defined : FRef := ⟨.PTD_COUNT, 16, 16⟩
abbrev PTD_COUNT_local : FRef := ⟨.PTD_COUNT, 0, 16⟩
abbrev PTD_FORCE_STAT_count : FRef := ⟨.PTD_FORCE_STAT, 0, 11⟩
abbrev PTD_NOPT_CNT_count : FRef := ⟨.PTD_NOPT_CNT, 0, 32⟩
abbrev PTD_CTRL_age_unit : FRef := ⟨.PTD_CTRL, 0, 2⟩
abbrev PTD_DIR_SEL_id : FRef := ⟨.PTD_DIR_SEL, 0, 16⟩
abbrev PTD_DIR_W0_w0 : FRef := ⟨.PTD_DIR_W0, 0, 32⟩
abbrev PTD_DIR_W1_w1 : FRef := ⟨.PTD_DIR_W1, 0, 32⟩
abbrev PTD_DIR_CMD_op : FRef := ⟨.PTD_DIR_CMD, 0, 2⟩
abbrev PTD_DIR_STAT_busy : FRef := ⟨.PTD_DIR_STAT, 8, 1⟩
abbrev PTD_DIR_STAT_err : FRef := ⟨.PTD_DIR_STAT, 0, 4⟩
abbrev PTD_SHR_SEL_slot : FRef := ⟨.PTD_SHR_SEL, 16, 3⟩
abbrev PTD_SHR_SEL_list : FRef := ⟨.PTD_SHR_SEL, 0, 12⟩
abbrev PTD_SHR_DATA_owner : FRef := ⟨.PTD_SHR_DATA, 24, 8⟩
abbrev PTD_SHR_DATA_grant : FRef := ⟨.PTD_SHR_DATA, 0, 16⟩
abbrev PTD_SHR_CMD_op : FRef := ⟨.PTD_SHR_CMD, 0, 2⟩
abbrev PTD_SHR_STAT_busy : FRef := ⟨.PTD_SHR_STAT, 8, 1⟩
abbrev PTD_SHR_STAT_err : FRef := ⟨.PTD_SHR_STAT, 0, 4⟩
abbrev PTD_FRC_SEL_index : FRef := ⟨.PTD_FRC_SEL, 0, 10⟩
abbrev PTD_FRC_PT_valid : FRef := ⟨.PTD_FRC_PT, 31, 1⟩
abbrev PTD_FRC_PT_persist : FRef := ⟨.PTD_FRC_PT, 16, 1⟩
abbrev PTD_FRC_PT_point : FRef := ⟨.PTD_FRC_PT, 0, 16⟩
abbrev PTD_FRC_VAL_value : FRef := ⟨.PTD_FRC_VAL, 0, 32⟩
abbrev PTD_FRC_REQ_value : FRef := ⟨.PTD_FRC_REQ, 0, 32⟩
abbrev PTD_FRC_CMD_op : FRef := ⟨.PTD_FRC_CMD, 0, 2⟩
abbrev PTD_FRC_STAT_busy : FRef := ⟨.PTD_FRC_STAT, 8, 1⟩
abbrev PTD_FRC_STAT_err : FRef := ⟨.PTD_FRC_STAT, 0, 4⟩
abbrev FAB_STAT_qstate : FRef := ⟨.FAB_STAT, 0, 12⟩
abbrev FAB_EVT_qtmo : FRef := ⟨.FAB_EVT, 20, 4⟩
abbrev FAB_EVT_tok_par : FRef := ⟨.FAB_EVT, 16, 4⟩
abbrev FAB_EVT_st_fail : FRef := ⟨.FAB_EVT, 12, 4⟩
abbrev FAB_EVT_chain : FRef := ⟨.FAB_EVT, 8, 4⟩
abbrev FAB_EVT_drop : FRef := ⟨.FAB_EVT, 4, 4⟩
abbrev FAB_EVT_stall : FRef := ⟨.FAB_EVT, 0, 4⟩
abbrev FAB_QSTAT_hwm : FRef := ⟨.FAB_QSTAT, 16, 13⟩
abbrev FAB_QSTAT_now : FRef := ⟨.FAB_QSTAT, 0, 13⟩
abbrev FAB_DROP_count : FRef := ⟨.FAB_DROP, 0, 32⟩
abbrev FAB_CTRL_clr_hwm : FRef := ⟨.FAB_CTRL, 16, 1⟩
abbrev FAB_CTRL_stall_tmo : FRef := ⟨.FAB_CTRL, 0, 8⟩
abbrev FAB_QCTRL_tmo : FRef := ⟨.FAB_QCTRL, 24, 8⟩
abbrev FAB_QCTRL_req : FRef := ⟨.FAB_QCTRL, 0, 4⟩
abbrev FAB_ST_CTRL_period : FRef := ⟨.FAB_ST_CTRL, 16, 8⟩
abbrev FAB_ST_CTRL_mused : FRef := ⟨.FAB_ST_CTRL, 2, 1⟩
abbrev FAB_ST_CTRL_munused : FRef := ⟨.FAB_ST_CTRL, 1, 1⟩
abbrev FAB_ST_CTRL_en : FRef := ⟨.FAB_ST_CTRL, 0, 1⟩
abbrev FAB_ST_FAIL_valid : FRef := ⟨.FAB_ST_FAIL, 31, 1⟩
abbrev FAB_ST_FAIL_kind : FRef := ⟨.FAB_ST_FAIL, 28, 3⟩
abbrev FAB_ST_FAIL_quadrant : FRef := ⟨.FAB_ST_FAIL, 11, 2⟩
abbrev FAB_ST_FAIL_cell : FRef := ⟨.FAB_ST_FAIL, 0, 11⟩
abbrev FAB_ST_CNT_rotations : FRef := ⟨.FAB_ST_CNT, 0, 32⟩
abbrev FAB_FAILED_failed : FRef := ⟨.FAB_FAILED, 0, 32⟩
abbrev FAB_SBK_ARM_arm : FRef := ⟨.FAB_SBK_ARM, 0, 8⟩
abbrev FAB_SBK_STAT_over : FRef := ⟨.FAB_SBK_STAT, 8, 8⟩
abbrev FAB_SBK_STAT_defined : FRef := ⟨.FAB_SBK_STAT, 0, 8⟩
abbrev FAB_SBK_LAT_max : FRef := ⟨.FAB_SBK_LAT, 16, 16⟩
abbrev FAB_SBK_LAT_last : FRef := ⟨.FAB_SBK_LAT, 0, 16⟩
abbrev UPD_IMG_SEL_src : FRef := ⟨.UPD_IMG_SEL, 0, 2⟩
abbrev UPD_IMG_CMD_op : FRef := ⟨.UPD_IMG_CMD, 0, 2⟩
abbrev UPD_IMG_STAT_busy : FRef := ⟨.UPD_IMG_STAT, 31, 1⟩
abbrev UPD_IMG_STAT_state : FRef := ⟨.UPD_IMG_STAT, 18, 2⟩
abbrev UPD_IMG_STAT_partial : FRef := ⟨.UPD_IMG_STAT, 17, 1⟩
abbrev UPD_IMG_STAT_dirty : FRef := ⟨.UPD_IMG_STAT, 16, 1⟩
abbrev UPD_IMG_STAT_err : FRef := ⟨.UPD_IMG_STAT, 0, 8⟩
abbrev UPD_IMG_ID_id : FRef := ⟨.UPD_IMG_ID, 0, 32⟩
abbrev UPD_IMG_VER_version : FRef := ⟨.UPD_IMG_VER, 0, 32⟩
abbrev UPD_IMG_QREV_qrev : FRef := ⟨.UPD_IMG_QREV, 0, 32⟩
abbrev UPD_IMG_ERRLOC_offset : FRef := ⟨.UPD_IMG_ERRLOC, 0, 32⟩
abbrev EXE_STAT_first : FRef := ⟨.EXE_STAT, 16, 1⟩
abbrev EXE_STAT_trip_task : FRef := ⟨.EXE_STAT, 8, 5⟩
abbrev EXE_STAT_cause : FRef := ⟨.EXE_STAT, 4, 4⟩
abbrev EXE_STAT_state : FRef := ⟨.EXE_STAT, 0, 2⟩
abbrev EXE_EVT_elost : FRef := ⟨.EXE_EVT, 6, 1⟩
abbrev EXE_EVT_fault : FRef := ⟨.EXE_EVT, 5, 1⟩
abbrev EXE_EVT_recover : FRef := ⟨.EXE_EVT, 4, 1⟩
abbrev EXE_EVT_dropout : FRef := ⟨.EXE_EVT, 3, 1⟩
abbrev EXE_EVT_skip : FRef := ⟨.EXE_EVT, 2, 1⟩
abbrev EXE_EVT_ovb : FRef := ⟨.EXE_EVT, 1, 1⟩
abbrev EXE_EVT_trip : FRef := ⟨.EXE_EVT, 0, 1⟩
abbrev EXE_DENY_count : FRef := ⟨.EXE_DENY, 0, 32⟩
abbrev EXE_TSTAT_state : FRef := ⟨.EXE_TSTAT, 30, 2⟩
abbrev EXE_TSTAT_subst : FRef := ⟨.EXE_TSTAT, 29, 1⟩
abbrev EXE_TSTAT_ovb : FRef := ⟨.EXE_TSTAT, 28, 1⟩
abbrev EXE_TSTAT_skip : FRef := ⟨.EXE_TSTAT, 16, 8⟩
abbrev EXE_TSTAT_fault : FRef := ⟨.EXE_TSTAT, 8, 8⟩
abbrev EXE_TSTAT_ecall : FRef := ⟨.EXE_TSTAT, 0, 8⟩
abbrev EXE_TLAST_ns : FRef := ⟨.EXE_TLAST, 0, 32⟩
abbrev EXE_TMAX_ns : FRef := ⟨.EXE_TMAX, 0, 32⟩
abbrev EXE_TCNT_count : FRef := ⟨.EXE_TCNT, 0, 32⟩
abbrev EXE_CTRL_clr_max : FRef := ⟨.EXE_CTRL, 16, 1⟩
abbrev EXE_CTRL_ovb_evt : FRef := ⟨.EXE_CTRL, 2, 1⟩
abbrev EXE_CTRL_auto_cold : FRef := ⟨.EXE_CTRL, 1, 1⟩
abbrev EXE_CTRL_auto_run : FRef := ⟨.EXE_CTRL, 0, 1⟩
abbrev EXE_CMD_op : FRef := ⟨.EXE_CMD, 0, 3⟩
abbrev EXE_CMD_STAT_busy : FRef := ⟨.EXE_CMD_STAT, 8, 1⟩
abbrev EXE_CMD_STAT_err : FRef := ⟨.EXE_CMD_STAT, 0, 4⟩
abbrev EXE_OLC_SEL_kind : FRef := ⟨.EXE_OLC_SEL, 28, 4⟩
abbrev EXE_OLC_SEL_quadrant : FRef := ⟨.EXE_OLC_SEL, 26, 2⟩
abbrev EXE_OLC_SEL_cell : FRef := ⟨.EXE_OLC_SEL, 15, 11⟩
abbrev EXE_OLC_SEL_index : FRef := ⟨.EXE_OLC_SEL, 0, 8⟩
abbrev EXE_OLC_DATA_value : FRef := ⟨.EXE_OLC_DATA, 0, 32⟩
abbrev EXE_OLC_CMD_task : FRef := ⟨.EXE_OLC_CMD, 8, 5⟩
abbrev EXE_OLC_CMD_op : FRef := ⟨.EXE_OLC_CMD, 0, 2⟩
abbrev EXE_OLC_STAT_armed : FRef := ⟨.EXE_OLC_STAT, 31, 1⟩
abbrev EXE_OLC_STAT_count : FRef := ⟨.EXE_OLC_STAT, 16, 7⟩
abbrev EXE_OLC_STAT_busy : FRef := ⟨.EXE_OLC_STAT, 8, 1⟩
abbrev EXE_OLC_STAT_err : FRef := ⟨.EXE_OLC_STAT, 0, 4⟩
abbrev EXE_TCFG_subst : FRef := ⟨.EXE_TCFG, 1, 1⟩
abbrev EXE_TCFG_en : FRef := ⟨.EXE_TCFG, 0, 1⟩
abbrev EXE_TPER_period : FRef := ⟨.EXE_TPER, 0, 32⟩
abbrev EXE_TBND_bound : FRef := ⟨.EXE_TBND, 0, 32⟩
abbrev EXE_TINFO_error_task : FRef := ⟨.EXE_TINFO, 24, 8⟩
abbrev EXE_TINFO_priority : FRef := ⟨.EXE_TINFO, 16, 4⟩
abbrev EXE_TINFO_priv : FRef := ⟨.EXE_TINFO, 11, 1⟩
abbrev EXE_TINFO_etask : FRef := ⟨.EXE_TINFO, 10, 1⟩
abbrev EXE_TINFO_units : FRef := ⟨.EXE_TINFO, 0, 9⟩
abbrev LPE_STAT_load : FRef := ⟨.LPE_STAT, 0, 21⟩
abbrev LPE_EVT_ho : FRef := ⟨.LPE_EVT, 6, 1⟩
abbrev LPE_EVT_cfg : FRef := ⟨.LPE_EVT, 5, 1⟩
abbrev LPE_EVT_wz_ph : FRef := ⟨.LPE_EVT, 4, 1⟩
abbrev LPE_EVT_sink : FRef := ⟨.LPE_EVT, 3, 1⟩
abbrev LPE_EVT_src : FRef := ⟨.LPE_EVT, 2, 1⟩
abbrev LPE_EVT_nan : FRef := ⟨.LPE_EVT, 1, 1⟩
abbrev LPE_EVT_fe : FRef := ⟨.LPE_EVT, 0, 1⟩
abbrev LPE_SNKDENY_count : FRef := ⟨.LPE_SNKDENY, 0, 32⟩
abbrev LPE_CH_STAT_cfg : FRef := ⟨.LPE_CH_STAT, 28, 4⟩
abbrev LPE_CH_STAT_wz_ph : FRef := ⟨.LPE_CH_STAT, 19, 1⟩
abbrev LPE_CH_STAT_ff_bad : FRef := ⟨.LPE_CH_STAT, 18, 1⟩
abbrev LPE_CH_STAT_sink_bad : FRef := ⟨.LPE_CH_STAT, 17, 1⟩
abbrev LPE_CH_STAT_src_bad : FRef := ⟨.LPE_CH_STAT, 16, 1⟩
abbrev LPE_CH_STAT_nan : FRef := ⟨.LPE_CH_STAT, 15, 1⟩
abbrev LPE_CH_STAT_fe_trip : FRef := ⟨.LPE_CH_STAT, 14, 1⟩
abbrev LPE_CH_STAT_fe_warn : FRef := ⟨.LPE_CH_STAT, 13, 1⟩
abbrev LPE_CH_STAT_ho_ramp : FRef := ⟨.LPE_CH_STAT, 12, 1⟩
abbrev LPE_CH_STAT_rate_lim : FRef := ⟨.LPE_CH_STAT, 11, 1⟩
abbrev LPE_CH_STAT_int_hold : FRef := ⟨.LPE_CH_STAT, 10, 1⟩
abbrev LPE_CH_STAT_sat_lo : FRef := ⟨.LPE_CH_STAT, 9, 1⟩
abbrev LPE_CH_STAT_sat_hi : FRef := ⟨.LPE_CH_STAT, 8, 1⟩
abbrev LPE_CH_STAT_bank : FRef := ⟨.LPE_CH_STAT, 5, 1⟩
abbrev LPE_CH_STAT_mode : FRef := ⟨.LPE_CH_STAT, 3, 2⟩
abbrev LPE_CH_STAT_state : FRef := ⟨.LPE_CH_STAT, 0, 3⟩
abbrev LPE_CH_PV_pv : FRef := ⟨.LPE_CH_PV, 0, 32⟩
abbrev LPE_CH_OUT_u : FRef := ⟨.LPE_CH_OUT, 0, 32⟩
abbrev LPE_CH_ERR_e : FRef := ⟨.LPE_CH_ERR, 0, 32⟩
abbrev LPE_CH_CTRL_wz_keep : FRef := ⟨.LPE_CH_CTRL, 13, 1⟩
abbrev LPE_CH_CTRL_wz_learn : FRef := ⟨.LPE_CH_CTRL, 12, 1⟩
abbrev LPE_CH_CTRL_wz_en : FRef := ⟨.LPE_CH_CTRL, 11, 1⟩
abbrev LPE_CH_CTRL_sf_act : FRef := ⟨.LPE_CH_CTRL, 10, 1⟩
abbrev LPE_CH_CTRL_fe_act : FRef := ⟨.LPE_CH_CTRL, 8, 2⟩
abbrev LPE_CH_CTRL_mode : FRef := ⟨.LPE_CH_CTRL, 1, 2⟩
abbrev LPE_CH_CTRL_en : FRef := ⟨.LPE_CH_CTRL, 0, 1⟩
abbrev LPE_CH_SRC_kind : FRef := ⟨.LPE_CH_SRC, 31, 1⟩
abbrev LPE_CH_SRC_id : FRef := ⟨.LPE_CH_SRC, 0, 16⟩
abbrev LPE_CH_SINK_id : FRef := ⟨.LPE_CH_SINK, 0, 16⟩
abbrev LPE_CH_SPSRC_kind : FRef := ⟨.LPE_CH_SPSRC, 31, 1⟩
abbrev LPE_CH_SPSRC_cas : FRef := ⟨.LPE_CH_SPSRC, 24, 6⟩
abbrev LPE_CH_SPSRC_id : FRef := ⟨.LPE_CH_SPSRC, 0, 16⟩
abbrev LPE_CH_FFSRC_id : FRef := ⟨.LPE_CH_FFSRC, 0, 16⟩
abbrev LPE_CH_TRKSRC_id : FRef := ⟨.LPE_CH_TRKSRC, 0, 16⟩
abbrev LPE_CH_PER_trig : FRef := ⟨.LPE_CH_PER, 31, 1⟩
abbrev LPE_CH_PER_period : FRef := ⟨.LPE_CH_PER, 0, 27⟩
abbrev LPE_CH_TEN_tenant : FRef := ⟨.LPE_CH_TEN, 0, 8⟩
abbrev LPE_CH_SP_sp : FRef := ⟨.LPE_CH_SP, 0, 32⟩
abbrev LPE_CH_MAN_man : FRef := ⟨.LPE_CH_MAN, 0, 32⟩
abbrev LPE_CH_OLO_olo : FRef := ⟨.LPE_CH_OLO, 0, 32⟩
abbrev LPE_CH_OHI_ohi : FRef := ⟨.LPE_CH_OHI, 0, 32⟩
abbrev LPE_CH_OSAFE_osafe : FRef := ⟨.LPE_CH_OSAFE, 0, 32⟩
abbrev LPE_CH_RATE_rate : FRef := ⟨.LPE_CH_RATE, 0, 32⟩
abbrev LPE_CH_FELIM_felim : FRef := ⟨.LPE_CH_FELIM, 0, 32⟩
abbrev LPE_CH_FETIME_fetime : FRef := ⟨.LPE_CH_FETIME, 0, 32⟩
abbrev LPE_CH_WZBASE_base : FRef := ⟨.LPE_CH_WZBASE, 0, 18⟩
abbrev LPE_CH_WZLEN_len : FRef := ⟨.LPE_CH_WZLEN, 0, 14⟩
abbrev LPE_CH_WZCFG_phase_src : FRef := ⟨.LPE_CH_WZCFG, 31, 1⟩
abbrev LPE_CH_WZCFG_offset : FRef := ⟨.LPE_CH_WZCFG, 16, 13⟩
abbrev LPE_CH_WZCFG_lead : FRef := ⟨.LPE_CH_WZCFG, 0, 13⟩
abbrev LPE_CH_WZQ_q : FRef := ⟨.LPE_CH_WZQ, 0, 32⟩
abbrev LPE_CH_WZKL_kl : FRef := ⟨.LPE_CH_WZKL, 0, 32⟩
abbrev LPE_CH_KP_v : FRef := ⟨.LPE_CH_KP, 0, 32⟩
abbrev LPE_CH_KIT_v : FRef := ⟨.LPE_CH_KIT, 0, 32⟩
abbrev LPE_CH_KDT_v : FRef := ⟨.LPE_CH_KDT, 0, 32⟩
abbrev LPE_CH_DF_v : FRef := ⟨.LPE_CH_DF, 0, 32⟩
abbrev LPE_CH_BW_v : FRef := ⟨.LPE_CH_BW, 0, 32⟩
abbrev LPE_CH_KFF_v : FRef := ⟨.LPE_CH_KFF, 0, 32⟩
abbrev LPE_CH_I_i : FRef := ⟨.LPE_CH_I, 0, 32⟩
abbrev LPE_CH_D_d : FRef := ⟨.LPE_CH_D, 0, 32⟩
abbrev LPE_CH_FETMR_ms : FRef := ⟨.LPE_CH_FETMR, 0, 32⟩
abbrev LPE_CH_WZOUT_w : FRef := ⟨.LPE_CH_WZOUT, 0, 32⟩
abbrev LPE_CH_WZIDX_j : FRef := ⟨.LPE_CH_WZIDX, 0, 13⟩
abbrev LPE_CTRL_bank_sel : FRef := ⟨.LPE_CTRL, 8, 1⟩
abbrev LPE_CTRL_en : FRef := ⟨.LPE_CTRL, 0, 1⟩
abbrev LPE_COMMIT_err : FRef := ⟨.LPE_COMMIT, 24, 8⟩
abbrev LPE_COMMIT_abort : FRef := ⟨.LPE_COMMIT, 16, 8⟩
abbrev LPE_COMMIT_pend : FRef := ⟨.LPE_COMMIT, 8, 8⟩
abbrev LPE_COMMIT_cmt : FRef := ⟨.LPE_COMMIT, 0, 8⟩
abbrev LPE_WZCLR_go : FRef := ⟨.LPE_WZCLR, 8, 1⟩
abbrev LPE_WZCLR_ch : FRef := ⟨.LPE_WZCLR, 0, 6⟩
abbrev MTR_STAT_frozen : FRef := ⟨.MTR_STAT, 9, 1⟩
abbrev MTR_STAT_sup_ok : FRef := ⟨.MTR_STAT, 8, 1⟩
abbrev MTR_STAT_clk : FRef := ⟨.MTR_STAT, 1, 1⟩
abbrev MTR_STAT_run : FRef := ⟨.MTR_STAT, 0, 1⟩
abbrev MTR_EVT_wrap : FRef := ⟨.MTR_EVT, 11, 1⟩
abbrev MTR_EVT_attr : FRef := ⟨.MTR_EVT, 10, 1⟩
abbrev MTR_EVT_sup : FRef := ⟨.MTR_EVT, 9, 1⟩
abbrev MTR_EVT_ovr : FRef := ⟨.MTR_EVT, 8, 1⟩
abbrev MTR_EVT_mifault : FRef := ⟨.MTR_EVT, 7, 1⟩
abbrev MTR_EVT_freq : FRef := ⟨.MTR_EVT, 6, 1⟩
abbrev MTR_EVT_intr : FRef := ⟨.MTR_EVT, 5, 1⟩
abbrev MTR_EVT_swell : FRef := ⟨.MTR_EVT, 4, 1⟩
abbrev MTR_EVT_sag : FRef := ⟨.MTR_EVT, 3, 1⟩
abbrev MTR_EVT_cneut : FRef := ⟨.MTR_EVT, 2, 1⟩
abbrev MTR_EVT_vneut : FRef := ⟨.MTR_EVT, 1, 1⟩
abbrev MTR_EVT_seq : FRef := ⟨.MTR_EVT, 0, 1⟩
abbrev MTR_MIFLT0_flt : FRef := ⟨.MTR_MIFLT0, 0, 32⟩
abbrev MTR_MIFLT1_flt : FRef := ⟨.MTR_MIFLT1, 0, 24⟩
abbrev MTR_VS_STAT_seq : FRef := ⟨.MTR_VS_STAT, 10, 2⟩
abbrev MTR_VS_STAT_nmiss : FRef := ⟨.MTR_VS_STAT, 9, 1⟩
abbrev MTR_VS_STAT_fvalid : FRef := ⟨.MTR_VS_STAT, 8, 1⟩
abbrev MTR_VS_STAT_sag : FRef := ⟨.MTR_VS_STAT, 5, 3⟩
abbrev MTR_VS_STAT_swell : FRef := ⟨.MTR_VS_STAT, 2, 3⟩
abbrev MTR_VS_STAT_intr : FRef := ⟨.MTR_VS_STAT, 1, 1⟩
abbrev MTR_VS_STAT_fault : FRef := ⟨.MTR_VS_STAT, 0, 1⟩
abbrev MTR_VS_RMS_rms : FRef := ⟨.MTR_VS_RMS, 0, 32⟩
abbrev MTR_VS_FREQ_f : FRef := ⟨.MTR_VS_FREQ, 0, 32⟩
abbrev MTR_VS_EVCNT_sags : FRef := ⟨.MTR_VS_EVCNT, 16, 16⟩
abbrev MTR_VS_EVCNT_swells : FRef := ⟨.MTR_VS_EVCNT, 0, 16⟩
abbrev MTR_C_STAT_tenant : FRef := ⟨.MTR_C_STAT, 16, 8⟩
abbrev MTR_C_STAT_cfg_bad : FRef := ⟨.MTR_C_STAT, 9, 1⟩
abbrev MTR_C_STAT_short : FRef := ⟨.MTR_C_STAT, 8, 1⟩
abbrev MTR_C_STAT_ovr : FRef := ⟨.MTR_C_STAT, 6, 1⟩
abbrev MTR_C_STAT_nmiss : FRef := ⟨.MTR_C_STAT, 5, 1⟩
abbrev MTR_C_STAT_fault : FRef := ⟨.MTR_C_STAT, 4, 1⟩
abbrev MTR_C_STAT_exp : FRef := ⟨.MTR_C_STAT, 3, 1⟩
abbrev MTR_C_STAT_quad : FRef := ⟨.MTR_C_STAT, 1, 2⟩
abbrev MTR_C_STAT_on : FRef := ⟨.MTR_C_STAT, 0, 1⟩
abbrev MTR_C_MEAS_value : FRef := ⟨.MTR_C_MEAS, 0, 32⟩
abbrev MTR_C_E_e : FRef := ⟨.MTR_C_E, 0, 32⟩
abbrev MTR_C_WRAP0_es : FRef := ⟨.MTR_C_WRAP0, 16, 8⟩
abbrev MTR_C_WRAP0_epe : FRef := ⟨.MTR_C_WRAP0, 8, 8⟩
abbrev MTR_C_WRAP0_epi : FRef := ⟨.MTR_C_WRAP0, 0, 8⟩
abbrev MTR_C_WRAP1_eq4 : FRef := ⟨.MTR_C_WRAP1, 24, 8⟩
abbrev MTR_C_WRAP1_eq3 : FRef := ⟨.MTR_C_WRAP1, 16, 8⟩
abbrev MTR_C_WRAP1_eq2 : FRef := ⟨.MTR_C_WRAP1, 8, 8⟩
abbrev MTR_C_WRAP1_eq1 : FRef := ⟨.MTR_C_WRAP1, 0, 8⟩
abbrev MTR_C_DPI_d : FRef := ⟨.MTR_C_DPI, 0, 32⟩
abbrev MTR_C_DPE_d : FRef := ⟨.MTR_C_DPE, 0, 32⟩
abbrev MTR_C_MAXD_maxd : FRef := ⟨.MTR_C_MAXD, 0, 32⟩
abbrev MTR_C_MAXDT_t : FRef := ⟨.MTR_C_MAXDT, 0, 32⟩
abbrev MTR_C_LOST_frames : FRef := ⟨.MTR_C_LOST, 0, 32⟩
abbrev MTR_CTRL_freeze : FRef := ⟨.MTR_CTRL, 9, 1⟩
abbrev MTR_CTRL_sup_en : FRef := ⟨.MTR_CTRL, 8, 1⟩
abbrev MTR_CTRL_en : FRef := ⟨.MTR_CTRL, 0, 1⟩
abbrev MTR_CLK_src : FRef := ⟨.MTR_CLK, 16, 2⟩
abbrev MTR_CLK_ratio : FRef := ⟨.MTR_CLK, 0, 10⟩
abbrev MTR_CMD_circ : FRef := ⟨.MTR_CMD, 8, 4⟩
abbrev MTR_CMD_op : FRef := ⟨.MTR_CMD, 0, 2⟩
abbrev MTR_CMD_STAT_busy : FRef := ⟨.MTR_CMD_STAT, 8, 1⟩
abbrev MTR_CMD_STAT_err : FRef := ⟨.MTR_CMD_STAT, 0, 4⟩
abbrev MTR_COMMIT_err : FRef := ⟨.MTR_COMMIT, 24, 8⟩
abbrev MTR_COMMIT_abort : FRef := ⟨.MTR_COMMIT, 16, 8⟩
abbrev MTR_COMMIT_pend : FRef := ⟨.MTR_COMMIT, 8, 8⟩
abbrev MTR_COMMIT_cmt : FRef := ⟨.MTR_COMMIT, 0, 8⟩
abbrev MTR_DMD_CFG_len : FRef := ⟨.MTR_DMD_CFG, 0, 6⟩
abbrev MTR_MI_CFG_tenant : FRef := ⟨.MTR_MI_CFG, 8, 8⟩
abbrev MTR_MI_CFG_use : FRef := ⟨.MTR_MI_CFG, 0, 2⟩
abbrev MTR_MI_SCALE_fs : FRef := ⟨.MTR_MI_SCALE, 0, 32⟩
abbrev MTR_MI_OFS_ofs : FRef := ⟨.MTR_MI_OFS, 0, 32⟩
abbrev MTR_VS_CFG_fnom : FRef := ⟨.MTR_VS_CFG, 16, 1⟩
abbrev MTR_VS_CFG_unom : FRef := ⟨.MTR_VS_CFG, 0, 16⟩
abbrev MTR_VS_SAG_intr : FRef := ⟨.MTR_VS_SAG, 16, 16⟩
abbrev MTR_VS_SAG_sag : FRef := ⟨.MTR_VS_SAG, 0, 16⟩
abbrev MTR_VS_SWELL_hyst : FRef := ⟨.MTR_VS_SWELL, 16, 16⟩
abbrev MTR_VS_SWELL_swell : FRef := ⟨.MTR_VS_SWELL, 0, 16⟩
abbrev MTR_VS_NTHR_hold : FRef := ⟨.MTR_VS_NTHR, 16, 16⟩
abbrev MTR_VS_NTHR_nthr : FRef := ⟨.MTR_VS_NTHR, 0, 16⟩
abbrev MTR_VC_GAIN_g : FRef := ⟨.MTR_VC_GAIN, 0, 32⟩
abbrev MTR_VC_PHASE_ph : FRef := ⟨.MTR_VC_PHASE, 0, 32⟩
abbrev MTR_C_CFG_vset : FRef := ⟨.MTR_C_CFG, 4, 1⟩
abbrev MTR_C_CFG_mode : FRef := ⟨.MTR_C_CFG, 0, 2⟩
abbrev MTR_C_TEN_tenant : FRef := ⟨.MTR_C_TEN, 0, 8⟩
abbrev MTR_C_START_start : FRef := ⟨.MTR_C_START, 0, 32⟩
abbrev MTR_C_NTHR_thr : FRef := ⟨.MTR_C_NTHR, 0, 16⟩
abbrev MTR_C_XE_LO_xe : FRef := ⟨.MTR_C_XE_LO, 0, 32⟩
abbrev MTR_C_XE_HI_xe : FRef := ⟨.MTR_C_XE_HI, 0, 32⟩
abbrev MTR_CK_NSEG_n : FRef := ⟨.MTR_CK_NSEG, 0, 4⟩
abbrev MTR_CK_KNOT_i : FRef := ⟨.MTR_CK_KNOT, 0, 32⟩
abbrev MTR_CK_GAIN_g : FRef := ⟨.MTR_CK_GAIN, 0, 32⟩
abbrev MTR_CK_PHASE_ph : FRef := ⟨.MTR_CK_PHASE, 0, 32⟩
abbrev CAN_STAT_tdcv : FRef := ⟨.CAN_STAT, 16, 7⟩
abbrev CAN_STAT_cfg : FRef := ⟨.CAN_STAT, 8, 4⟩
abbrev CAN_STAT_fault : FRef := ⟨.CAN_STAT, 4, 2⟩
abbrev CAN_STAT_state : FRef := ⟨.CAN_STAT, 0, 3⟩
abbrev CAN_EVT_cfg : FRef := ⟨.CAN_EVT, 11, 1⟩
abbrev CAN_EVT_txerr : FRef := ⟨.CAN_EVT, 10, 1⟩
abbrev CAN_EVT_rej : FRef := ⟨.CAN_EVT, 9, 1⟩
abbrev CAN_EVT_dup : FRef := ⟨.CAN_EVT, 8, 1⟩
abbrev CAN_EVT_mism : FRef := ⟨.CAN_EVT, 7, 1⟩
abbrev CAN_EVT_ret : FRef := ⟨.CAN_EVT, 6, 1⟩
abbrev CAN_EVT_drop : FRef := ⟨.CAN_EVT, 5, 1⟩
abbrev CAN_EVT_qovf : FRef := ⟨.CAN_EVT, 4, 1⟩
abbrev CAN_EVT_wake : FRef := ⟨.CAN_EVT, 3, 1⟩
abbrev CAN_EVT_passive : FRef := ⟨.CAN_EVT, 2, 1⟩
abbrev CAN_EVT_recov : FRef := ⟨.CAN_EVT, 1, 1⟩
abbrev CAN_EVT_boff : FRef := ⟨.CAN_EVT, 0, 1⟩
abbrev CAN_ERR_tec : FRef := ⟨.CAN_ERR, 16, 9⟩
abbrev CAN_ERR_rec : FRef := ⟨.CAN_ERR, 0, 8⟩
abbrev CAN_BOCNT_boff : FRef := ⟨.CAN_BOCNT, 16, 16⟩
abbrev CAN_BOCNT_recov : FRef := ⟨.CAN_BOCNT, 0, 16⟩
abbrev CAN_FCNT_rx : FRef := ⟨.CAN_FCNT, 16, 16⟩
abbrev CAN_FCNT_tx : FRef := ⟨.CAN_FCNT, 0, 16⟩
abbrev CAN_LOST_qovf : FRef := ⟨.CAN_LOST, 16, 16⟩
abbrev CAN_LOST_disc : FRef := ⟨.CAN_LOST, 0, 16⟩
abbrev CAN_ONL0_online : FRef := ⟨.CAN_ONL0, 0, 32⟩
abbrev CAN_ONL1_online : FRef := ⟨.CAN_ONL1, 0, 32⟩
abbrev CAN_STA_STAT_seq : FRef := ⟨.CAN_STA_STAT, 16, 16⟩
abbrev CAN_STA_STAT_rej : FRef := ⟨.CAN_STA_STAT, 8, 8⟩
abbrev CAN_STA_STAT_sstate : FRef := ⟨.CAN_STA_STAT, 4, 2⟩
abbrev CAN_STA_STAT_state : FRef := ⟨.CAN_STA_STAT, 0, 3⟩
abbrev CAN_CTRL_sleep : FRef := ⟨.CAN_CTRL, 1, 1⟩
abbrev CAN_CTRL_en : FRef := ⟨.CAN_CTRL, 0, 1⟩
abbrev CAN_NBT_nbrp : FRef := ⟨.CAN_NBT, 24, 8⟩
abbrev CAN_NBT_ntseg1 : FRef := ⟨.CAN_NBT, 16, 8⟩
abbrev CAN_NBT_ntseg2 : FRef := ⟨.CAN_NBT, 8, 7⟩
abbrev CAN_NBT_nsjw : FRef := ⟨.CAN_NBT, 0, 7⟩
abbrev CAN_DBT_dbrp : FRef := ⟨.CAN_DBT, 24, 5⟩
abbrev CAN_DBT_dtseg1 : FRef := ⟨.CAN_DBT, 16, 5⟩
abbrev CAN_DBT_dtseg2 : FRef := ⟨.CAN_DBT, 8, 4⟩
abbrev CAN_DBT_dsjw : FRef := ⟨.CAN_DBT, 0, 4⟩
abbrev CAN_TDC_en : FRef := ⟨.CAN_TDC, 15, 1⟩
abbrev CAN_TDC_tdco : FRef := ⟨.CAN_TDC, 0, 7⟩
abbrev CAN_REF_period : FRef := ⟨.CAN_REF, 0, 10⟩
abbrev CAN_WAKE_wdlc : FRef := ⟨.CAN_WAKE, 8, 4⟩
abbrev CAN_WAKE_ide : FRef := ⟨.CAN_WAKE, 4, 1⟩
abbrev CAN_WAKE_wmode : FRef := ⟨.CAN_WAKE, 0, 2⟩
abbrev CAN_WID_id : FRef := ⟨.CAN_WID, 0, 29⟩
abbrev CAN_WIDM_mask : FRef := ⟨.CAN_WIDM, 0, 29⟩
abbrev CAN_WDM0_dmask : FRef := ⟨.CAN_WDM0, 0, 32⟩
abbrev CAN_WDM1_dmask : FRef := ⟨.CAN_WDM1, 0, 32⟩
abbrev CAN_TXREQ_req : FRef := ⟨.CAN_TXREQ, 0, 8⟩
abbrev CAN_TXDONE_fail : FRef := ⟨.CAN_TXDONE, 8, 8⟩
abbrev CAN_TXDONE_done : FRef := ⟨.CAN_TXDONE, 0, 8⟩
abbrev CAN_RXQ_STAT_cnt1 : FRef := ⟨.CAN_RXQ_STAT, 16, 7⟩
abbrev CAN_RXQ_STAT_cnt0 : FRef := ⟨.CAN_RXQ_STAT, 0, 7⟩
abbrev CAN_RXQ_POP_pop : FRef := ⟨.CAN_RXQ_POP, 0, 2⟩
abbrev CAN_FLT_ID_en : FRef := ⟨.CAN_FLT_ID, 31, 1⟩
abbrev CAN_FLT_ID_ide : FRef := ⟨.CAN_FLT_ID, 30, 1⟩
abbrev CAN_FLT_ID_q : FRef := ⟨.CAN_FLT_ID, 29, 1⟩
abbrev CAN_FLT_ID_id : FRef := ⟨.CAN_FLT_ID, 0, 29⟩
abbrev CAN_FLT_MASK_mask : FRef := ⟨.CAN_FLT_MASK, 0, 29⟩
abbrev CAN_RXQ_W_word : FRef := ⟨.CAN_RXQ_W, 0, 32⟩
abbrev CAN_TXB_W_word : FRef := ⟨.CAN_TXB_W, 0, 32⟩
abbrev CAN_STA_CFG_en : FRef := ⟨.CAN_STA_CFG, 31, 1⟩
abbrev CAN_STA_CFG_sup : FRef := ⟨.CAN_STA_CFG, 16, 14⟩
abbrev CAN_STA_CFG_refresh : FRef := ⟨.CAN_STA_CFG, 0, 14⟩
abbrev CAN_STA_SERL_ser_lo : FRef := ⟨.CAN_STA_SERL, 0, 32⟩
abbrev CAN_STA_SERH_type : FRef := ⟨.CAN_STA_SERH, 16, 8⟩
abbrev CAN_STA_SERH_ser_hi : FRef := ⟨.CAN_STA_SERH, 0, 16⟩
abbrev ETH_STAT_state : FRef := ⟨.ETH_STAT, 13, 3⟩
abbrev ETH_STAT_sd_defer : FRef := ⟨.ETH_STAT, 12, 1⟩
abbrev ETH_STAT_sd : FRef := ⟨.ETH_STAT, 10, 2⟩
abbrev ETH_STAT_p1000 : FRef := ⟨.ETH_STAT, 9, 1⟩
abbrev ETH_STAT_paused : FRef := ⟨.ETH_STAT, 7, 1⟩
abbrev ETH_STAT_pause_en : FRef := ⟨.ETH_STAT, 6, 1⟩
abbrev ETH_STAT_eee_act : FRef := ⟨.ETH_STAT, 5, 1⟩
abbrev ETH_STAT_fdx : FRef := ⟨.ETH_STAT, 4, 1⟩
abbrev ETH_STAT_speed : FRef := ⟨.ETH_STAT, 1, 2⟩
abbrev ETH_STAT_link : FRef := ⟨.ETH_STAT, 0, 1⟩
abbrev ETH_EVT_ptp : FRef := ⟨.ETH_EVT, 8, 1⟩
abbrev ETH_EVT_buf : FRef := ⟨.ETH_EVT, 7, 1⟩
abbrev ETH_EVT_vlan : FRef := ⟨.ETH_EVT, 6, 1⟩
abbrev ETH_EVT_sd_up : FRef := ⟨.ETH_EVT, 5, 1⟩
abbrev ETH_EVT_sd_down : FRef := ⟨.ETH_EVT, 4, 1⟩
abbrev ETH_EVT_wake : FRef := ⟨.ETH_EVT, 3, 1⟩
abbrev ETH_EVT_pause : FRef := ⟨.ETH_EVT, 2, 1⟩
abbrev ETH_EVT_carry : FRef := ⟨.ETH_EVT, 1, 1⟩
abbrev ETH_EVT_link : FRef := ⟨.ETH_EVT, 0, 1⟩
abbrev ETH_RXOK_count : FRef := ⟨.ETH_RXOK, 0, 32⟩
abbrev ETH_TXOK_count : FRef := ⟨.ETH_TXOK, 0, 32⟩
abbrev ETH_RXERR_fcs : FRef := ⟨.ETH_RXERR, 16, 16⟩
abbrev ETH_RXERR_size : FRef := ⟨.ETH_RXERR, 0, 16⟩
abbrev ETH_RXDROP_vlan : FRef := ⟨.ETH_RXDROP, 16, 16⟩
abbrev ETH_RXDROP_buf : FRef := ⟨.ETH_RXDROP, 0, 16⟩
abbrev ETH_TXDROP_count : FRef := ⟨.ETH_TXDROP, 0, 32⟩
abbrev ETH_PAUSE_count : FRef := ⟨.ETH_PAUSE, 0, 32⟩
abbrev ETH_LPI_tx : FRef := ⟨.ETH_LPI, 16, 16⟩
abbrev ETH_LPI_rx : FRef := ⟨.ETH_LPI, 0, 16⟩
abbrev ETH_BB_STAT_sb_ok : FRef := ⟨.ETH_BB_STAT, 2, 1⟩
abbrev ETH_BB_STAT_carry : FRef := ⟨.ETH_BB_STAT, 0, 2⟩
abbrev ETH_CTRL_adv : FRef := ⟨.ETH_CTRL, 8, 4⟩
abbrev ETH_CTRL_sd_en : FRef := ⟨.ETH_CTRL, 4, 1⟩
abbrev ETH_CTRL_eee : FRef := ⟨.ETH_CTRL, 3, 1⟩
abbrev ETH_CTRL_pause_rx : FRef := ⟨.ETH_CTRL, 2, 1⟩
abbrev ETH_CTRL_wl : FRef := ⟨.ETH_CTRL, 1, 1⟩
abbrev ETH_CTRL_en : FRef := ⟨.ETH_CTRL, 0, 1⟩
abbrev ETH_SDCFG_dtime : FRef := ⟨.ETH_SDCFG, 24, 8⟩
abbrev ETH_SDCFG_hold : FRef := ⟨.ETH_SDCFG, 16, 8⟩
abbrev ETH_SDCFG_dthr : FRef := ⟨.ETH_SDCFG, 0, 7⟩
abbrev ETH_SDUP_utime : FRef := ⟨.ETH_SDUP, 24, 8⟩
abbrev ETH_SDUP_rthr : FRef := ⟨.ETH_SDUP, 8, 7⟩
abbrev ETH_SDUP_qthr : FRef := ⟨.ETH_SDUP, 0, 6⟩
abbrev ETH_EEE_lpi_idle : FRef := ⟨.ETH_EEE, 0, 16⟩
abbrev ETH_PTP_CFG_domain : FRef := ⟨.ETH_PTP_CFG, 8, 7⟩
abbrev ETH_PTP_CFG_vlan : FRef := ⟨.ETH_PTP_CFG, 4, 1⟩
abbrev ETH_PTP_CFG_transport : FRef := ⟨.ETH_PTP_CFG, 2, 2⟩
abbrev ETH_PTP_CFG_dm : FRef := ⟨.ETH_PTP_CFG, 1, 1⟩
abbrev ETH_PTP_CFG_en : FRef := ⟨.ETH_PTP_CFG, 0, 1⟩
abbrev ETH_PTP_OFS_ofs : FRef := ⟨.ETH_PTP_OFS, 0, 32⟩
abbrev ETH_PTP_MPD_mpd : FRef := ⟨.ETH_PTP_MPD, 0, 32⟩
abbrev ETH_COMMIT_err : FRef := ⟨.ETH_COMMIT, 24, 8⟩
abbrev ETH_COMMIT_abort : FRef := ⟨.ETH_COMMIT, 16, 8⟩
abbrev ETH_COMMIT_pend : FRef := ⟨.ETH_COMMIT, 8, 8⟩
abbrev ETH_COMMIT_cmt : FRef := ⟨.ETH_COMMIT, 0, 8⟩
abbrev ETH_BB_CTRL_hold : FRef := ⟨.ETH_BB_CTRL, 8, 8⟩
abbrev ETH_BB_CTRL_ret : FRef := ⟨.ETH_BB_CTRL, 1, 1⟩
abbrev ETH_BB_CTRL_pref : FRef := ⟨.ETH_BB_CTRL, 0, 1⟩
abbrev ETH_VLAN_valid : FRef := ⟨.ETH_VLAN, 31, 1⟩
abbrev ETH_VLAN_pcp : FRef := ⟨.ETH_VLAN, 12, 3⟩
abbrev ETH_VLAN_vid : FRef := ⟨.ETH_VLAN, 0, 12⟩
abbrev ETH_WP_M_mask : FRef := ⟨.ETH_WP_M, 0, 32⟩
abbrev ETH_WP_CRC_en : FRef := ⟨.ETH_WP_CRC, 31, 1⟩
abbrev ETH_WP_CRC_crc : FRef := ⟨.ETH_WP_CRC, 0, 16⟩
abbrev IBX_STAT_peer_elig : FRef := ⟨.IBX_STAT, 9, 1⟩
abbrev IBX_STAT_elig : FRef := ⟨.IBX_STAT, 8, 1⟩
abbrev IBX_STAT_peer_active : FRef := ⟨.IBX_STAT, 7, 1⟩
abbrev IBX_STAT_pact : FRef := ⟨.IBX_STAT, 6, 1⟩
abbrev IBX_STAT_act : FRef := ⟨.IBX_STAT, 5, 1⟩
abbrev IBX_STAT_lease : FRef := ⟨.IBX_STAT, 4, 1⟩
abbrev IBX_STAT_state : FRef := ⟨.IBX_STAT, 0, 4⟩
abbrev IBX_EPOCH_epoch : FRef := ⟨.IBX_EPOCH, 0, 32⟩
abbrev IBX_LEASE_us : FRef := ⟨.IBX_LEASE, 0, 32⟩
abbrev IBX_HEALTH_health : FRef := ⟨.IBX_HEALTH, 0, 32⟩
abbrev IBX_PHEALTH_health : FRef := ⟨.IBX_PHEALTH, 0, 32⟩
abbrev IBX_EVT_pact : FRef := ⟨.IBX_EVT, 7, 1⟩
abbrev IBX_EVT_wit : FRef := ⟨.IBX_EVT, 6, 1⟩
abbrev IBX_EVT_peer : FRef := ⟨.IBX_EVT, 5, 1⟩
abbrev IBX_EVT_tb : FRef := ⟨.IBX_EVT, 4, 1⟩
abbrev IBX_EVT_deny : FRef := ⟨.IBX_EVT, 3, 1⟩
abbrev IBX_EVT_trans : FRef := ⟨.IBX_EVT, 2, 1⟩
abbrev IBX_EVT_lost : FRef := ⟨.IBX_EVT, 1, 1⟩
abbrev IBX_EVT_gained : FRef := ⟨.IBX_EVT, 0, 1⟩
abbrev IBX_SWCNT_gained : FRef := ⟨.IBX_SWCNT, 16, 16⟩
abbrev IBX_SWCNT_lost : FRef := ⟨.IBX_SWCNT, 0, 16⟩
abbrev IBX_CTRL_holdoff : FRef := ⟨.IBX_CTRL, 16, 16⟩
abbrev IBX_CTRL_trip_act : FRef := ⟨.IBX_CTRL, 4, 1⟩
abbrev IBX_CTRL_stale_ok : FRef := ⟨.IBX_CTRL, 3, 1⟩
abbrev IBX_CTRL_auto_tb : FRef := ⟨.IBX_CTRL, 2, 1⟩
abbrev IBX_CTRL_pref : FRef := ⟨.IBX_CTRL, 1, 1⟩
abbrev IBX_CTRL_en : FRef := ⟨.IBX_CTRL, 0, 1⟩
abbrev IBX_CMD_op : FRef := ⟨.IBX_CMD, 0, 2⟩
abbrev IBX_CMD_STAT_busy : FRef := ⟨.IBX_CMD_STAT, 8, 1⟩
abbrev IBX_CMD_STAT_err : FRef := ⟨.IBX_CMD_STAT, 0, 4⟩
abbrev IBX_PAIR_pair : FRef := ⟨.IBX_PAIR, 16, 16⟩
abbrev IBX_PAIR_key : FRef := ⟨.IBX_PAIR, 0, 6⟩
abbrev IBX_WADDR_addr : FRef := ⟨.IBX_WADDR, 0, 32⟩
abbrev IBX_UADDR_addr : FRef := ⟨.IBX_UADDR, 0, 32⟩
abbrev IBX_LSAFE_safe : FRef := ⟨.IBX_LSAFE, 0, 32⟩
abbrev IBX_CHOST_en : FRef := ⟨.IBX_CHOST, 0, 1⟩
abbrev IBX_CHP_SEL_slot : FRef := ⟨.IBX_CHP_SEL, 0, 4⟩
abbrev IBX_CHP_CFG_valid : FRef := ⟨.IBX_CHP_CFG, 31, 1⟩
abbrev IBX_CHP_CFG_key : FRef := ⟨.IBX_CHP_CFG, 16, 6⟩
abbrev IBX_CHP_CFG_pair : FRef := ⟨.IBX_CHP_CFG, 0, 16⟩
abbrev IBX_CHP_STAT_holder : FRef := ⟨.IBX_CHP_STAT, 30, 2⟩
abbrev IBX_CHP_STAT_current : FRef := ⟨.IBX_CHP_STAT, 29, 1⟩
abbrev IBX_CHP_STAT_quiet : FRef := ⟨.IBX_CHP_STAT, 28, 1⟩
abbrev IBX_CHP_STAT_ms : FRef := ⟨.IBX_CHP_STAT, 0, 16⟩
abbrev IBX_CHP_EPOCH_epoch : FRef := ⟨.IBX_CHP_EPOCH, 0, 32⟩
abbrev IBX_SV_PT_valid : FRef := ⟨.IBX_SV_PT, 31, 1⟩
abbrev IBX_SV_PT_point : FRef := ⟨.IBX_SV_PT, 0, 16⟩
abbrev IBX_SV_VAL_value : FRef := ⟨.IBX_SV_VAL, 0, 32⟩
abbrev TTH_STAT_over : FRef := ⟨.TTH_STAT, 5, 1⟩
abbrev TTH_STAT_mode : FRef := ⟨.TTH_STAT, 4, 1⟩
abbrev TTH_STAT_lanes : FRef := ⟨.TTH_STAT, 2, 2⟩
abbrev TTH_STAT_link : FRef := ⟨.TTH_STAT, 0, 2⟩
abbrev TTH_EVT_ber : FRef := ⟨.TTH_EVT, 6, 1⟩
abbrev TTH_EVT_chg : FRef := ⟨.TTH_EVT, 5, 1⟩
abbrev TTH_EVT_disc : FRef := ⟨.TTH_EVT, 4, 1⟩
abbrev TTH_EVT_over : FRef := ⟨.TTH_EVT, 3, 1⟩
abbrev TTH_EVT_crc : FRef := ⟨.TTH_EVT, 2, 1⟩
abbrev TTH_EVT_lane : FRef := ⟨.TTH_EVT, 1, 1⟩
abbrev TTH_EVT_link : FRef := ⟨.TTH_EVT, 0, 1⟩
abbrev TTH_CRCERR_count : FRef := ⟨.TTH_CRCERR, 0, 32⟩
abbrev TTH_CYCLE_cycle : FRef := ⟨.TTH_CYCLE, 0, 32⟩
abbrev TTH_LOAD_bytes : FRef := ⟨.TTH_LOAD, 0, 32⟩
abbrev TTH_DISC_count : FRef := ⟨.TTH_DISC, 0, 32⟩
abbrev TTH_CTRL_period : FRef := ⟨.TTH_CTRL, 16, 10⟩
abbrev TTH_CTRL_full : FRef := ⟨.TTH_CTRL, 1, 1⟩
abbrev TTH_CTRL_en : FRef := ⟨.TTH_CTRL, 0, 1⟩
abbrev TIM_TAI_LO_ns_lo : FRef := ⟨.TIM_TAI_LO, 0, 32⟩
abbrev TIM_TAI_HI_ns_hi : FRef := ⟨.TIM_TAI_HI, 0, 32⟩
abbrev TIM_CLK_STAT_pend : FRef := ⟨.TIM_CLK_STAT, 24, 6⟩
abbrev TIM_CLK_STAT_fo : FRef := ⟨.TIM_CLK_STAT, 16, 6⟩
abbrev TIM_CLK_STAT_rc_ok : FRef := ⟨.TIM_CLK_STAT, 8, 1⟩
abbrev TIM_CLK_STAT_xr_ok : FRef := ⟨.TIM_CLK_STAT, 7, 1⟩
abbrev TIM_CLK_STAT_xo_ok : FRef := ⟨.TIM_CLK_STAT, 6, 1⟩
abbrev TIM_CLK_STAT_ok : FRef := ⟨.TIM_CLK_STAT, 0, 6⟩
abbrev TIM_MON_EVT_fail : FRef := ⟨.TIM_MON_EVT, 0, 7⟩
abbrev TIM_CLK_CMD_restore : FRef := ⟨.TIM_CLK_CMD, 0, 6⟩
abbrev TIM_MON_INFO_valid : FRef := ⟨.TIM_MON_INFO, 31, 1⟩
abbrev TIM_MON_INFO_kind : FRef := ⟨.TIM_MON_INFO, 4, 4⟩
abbrev TIM_MON_INFO_monitor : FRef := ⟨.TIM_MON_INFO, 0, 3⟩
abbrev PMC_LVL_STAT_busy : FRef := ⟨.PMC_LVL_STAT, 31, 1⟩
abbrev PMC_LVL_STAT_step : FRef := ⟨.PMC_LVL_STAT, 20, 4⟩
abbrev PMC_LVL_STAT_target : FRef := ⟨.PMC_LVL_STAT, 16, 2⟩
abbrev PMC_LVL_STAT_err : FRef := ⟨.PMC_LVL_STAT, 8, 4⟩
abbrev PMC_LVL_STAT_level : FRef := ⟨.PMC_LVL_STAT, 0, 2⟩
abbrev PMC_PD_STAT_state : FRef := ⟨.PMC_PD_STAT, 0, 32⟩
abbrev PMC_EVT_core : FRef := ⟨.PMC_EVT, 5, 1⟩
abbrev PMC_EVT_warn : FRef := ⟨.PMC_EVT, 4, 1⟩
abbrev PMC_EVT_pd_fault : FRef := ⟨.PMC_EVT, 3, 1⟩
abbrev PMC_EVT_pd_ref : FRef := ⟨.PMC_EVT, 2, 1⟩
abbrev PMC_EVT_lvl_fail : FRef := ⟨.PMC_EVT, 1, 1⟩
abbrev PMC_EVT_lvl_done : FRef := ⟨.PMC_EVT, 0, 1⟩
abbrev PMC_SUP_STAT_warn : FRef := ⟨.PMC_SUP_STAT, 31, 1⟩
abbrev PMC_SUP_STAT_core_ok : FRef := ⟨.PMC_SUP_STAT, 30, 1⟩
abbrev PMC_SUP_STAT_vin : FRef := ⟨.PMC_SUP_STAT, 0, 16⟩
abbrev PMC_LVL_CMD_go : FRef := ⟨.PMC_LVL_CMD, 31, 1⟩
abbrev PMC_LVL_CMD_level : FRef := ⟨.PMC_LVL_CMD, 0, 2⟩
abbrev PMC_PD_REQ_on : FRef := ⟨.PMC_PD_REQ, 0, 16⟩
abbrev PMC_PD_ERR_valid : FRef := ⟨.PMC_PD_ERR, 31, 1⟩
abbrev PMC_PD_ERR_err : FRef := ⟨.PMC_PD_ERR, 8, 4⟩
abbrev PMC_PD_ERR_domain : FRef := ⟨.PMC_PD_ERR, 0, 4⟩
abbrev LIO_STAT_ena : FRef := ⟨.LIO_STAT, 7, 1⟩
abbrev LIO_STAT_lever : FRef := ⟨.LIO_STAT, 6, 1⟩
abbrev LIO_STAT_warn : FRef := ⟨.LIO_STAT, 5, 1⟩
abbrev LIO_STAT_safe : FRef := ⟨.LIO_STAT, 4, 1⟩
abbrev LIO_STAT_run : FRef := ⟨.LIO_STAT, 0, 1⟩
abbrev LIO_EVT_func : FRef := ⟨.LIO_EVT, 3, 1⟩
abbrev LIO_EVT_rbf : FRef := ⟨.LIO_EVT, 2, 1⟩
abbrev LIO_EVT_ext_end : FRef := ⟨.LIO_EVT, 1, 1⟩
abbrev LIO_EVT_ext : FRef := ⟨.LIO_EVT, 0, 1⟩
abbrev LIO_PIN_level : FRef := ⟨.LIO_PIN, 0, 32⟩
abbrev LIO_DRV_drv : FRef := ⟨.LIO_DRV, 0, 32⟩
abbrev LIO_RBF_rbf : FRef := ⟨.LIO_RBF, 0, 32⟩
abbrev LIO_CTRL_locate : FRef := ⟨.LIO_CTRL, 8, 1⟩
abbrev LIO_CTRL_en : FRef := ⟨.LIO_CTRL, 0, 1⟩
abbrev LIO_CFG_func : FRef := ⟨.LIO_CFG, 0, 2⟩
abbrev LIO_PWM_period : FRef := ⟨.LIO_PWM, 0, 24⟩
abbrev SYS_RST_STAT_refused : FRef := ⟨.SYS_RST_STAT, 16, 8⟩
abbrev SYS_RST_STAT_count : FRef := ⟨.SYS_RST_STAT, 8, 8⟩
abbrev SYS_RST_STAT_cause : FRef := ⟨.SYS_RST_STAT, 0, 4⟩
abbrev SYS_BOOT_STAT_done : FRef := ⟨.SYS_BOOT_STAT, 31, 1⟩
abbrev SYS_BOOT_STAT_stn_miss : FRef := ⟨.SYS_BOOT_STAT, 30, 1⟩
abbrev SYS_BOOT_STAT_alone : FRef := ⟨.SYS_BOOT_STAT, 29, 1⟩
abbrev SYS_BOOT_STAT_img_bank : FRef := ⟨.SYS_BOOT_STAT, 28, 1⟩
abbrev SYS_BOOT_STAT_fw_bank : FRef := ⟨.SYS_BOOT_STAT, 27, 1⟩
abbrev SYS_BOOT_STAT_fail : FRef := ⟨.SYS_BOOT_STAT, 16, 8⟩
abbrev SYS_BOOT_STAT_step : FRef := ⟨.SYS_BOOT_STAT, 0, 4⟩
abbrev SYS_RST_CMD_key : FRef := ⟨.SYS_RST_CMD, 16, 16⟩
abbrev SYS_RST_CMD_op : FRef := ⟨.SYS_RST_CMD, 0, 2⟩
abbrev SYS_MWD_kick : FRef := ⟨.SYS_MWD, 31, 1⟩
abbrev SYS_MWD_tmo : FRef := ⟨.SYS_MWD, 0, 16⟩
abbrev RTC_TIME_hour : FRef := ⟨.RTC_TIME, 27, 5⟩
abbrev RTC_TIME_min : FRef := ⟨.RTC_TIME, 21, 6⟩
abbrev RTC_TIME_sec : FRef := ⟨.RTC_TIME, 15, 6⟩
abbrev RTC_TIME_sub : FRef := ⟨.RTC_TIME, 0, 15⟩
abbrev RTC_DATE_wday : FRef := ⟨.RTC_DATE, 28, 3⟩
abbrev RTC_DATE_year : FRef := ⟨.RTC_DATE, 16, 12⟩
abbrev RTC_DATE_month : FRef := ⟨.RTC_DATE, 8, 4⟩
abbrev RTC_DATE_day : FRef := ⟨.RTC_DATE, 0, 5⟩
abbrev RTC_STAT_set_busy : FRef := ⟨.RTC_STAT, 31, 1⟩
abbrev RTC_STAT_set_err : FRef := ⟨.RTC_STAT, 28, 3⟩
abbrev RTC_STAT_end : FRef := ⟨.RTC_STAT, 7, 1⟩
abbrev RTC_STAT_alm : FRef := ⟨.RTC_STAT, 6, 1⟩
abbrev RTC_STAT_trim_lim : FRef := ⟨.RTC_STAT, 5, 1⟩
abbrev RTC_STAT_hold : FRef := ⟨.RTC_STAT, 4, 1⟩
abbrev RTC_STAT_lock : FRef := ⟨.RTC_STAT, 3, 1⟩
abbrev RTC_STAT_rc : FRef := ⟨.RTC_STAT, 2, 1⟩
abbrev RTC_STAT_vbak_low : FRef := ⟨.RTC_STAT, 1, 1⟩
abbrev RTC_STAT_osf : FRef := ⟨.RTC_STAT, 0, 1⟩
abbrev RTC_EVT_end : FRef := ⟨.RTC_EVT, 8, 1⟩
abbrev RTC_EVT_leap : FRef := ⟨.RTC_EVT, 7, 1⟩
abbrev RTC_EVT_step : FRef := ⟨.RTC_EVT, 6, 1⟩
abbrev RTC_EVT_alm_miss : FRef := ⟨.RTC_EVT, 5, 1⟩
abbrev RTC_EVT_alm : FRef := ⟨.RTC_EVT, 4, 1⟩
abbrev RTC_EVT_unlock : FRef := ⟨.RTC_EVT, 3, 1⟩
abbrev RTC_EVT_lock : FRef := ⟨.RTC_EVT, 2, 1⟩
abbrev RTC_EVT_vbak : FRef := ⟨.RTC_EVT, 1, 1⟩
abbrev RTC_EVT_osf : FRef := ⟨.RTC_EVT, 0, 1⟩
abbrev RTC_CFG_ofs : FRef := ⟨.RTC_CFG, 16, 12⟩
abbrev RTC_CFG_auto_leap : FRef := ⟨.RTC_CFG, 8, 1⟩
abbrev RTC_CFG_xrcal : FRef := ⟨.RTC_CFG, 5, 1⟩
abbrev RTC_CFG_step_ok : FRef := ⟨.RTC_CFG, 4, 1⟩
abbrev RTC_CFG_src : FRef := ⟨.RTC_CFG, 0, 2⟩
abbrev RTC_LEAP_pend : FRef := ⟨.RTC_LEAP, 16, 2⟩
abbrev RTC_LEAP_tai_utc : FRef := ⟨.RTC_LEAP, 0, 8⟩
abbrev RTC_TRIM_xr : FRef := ⟨.RTC_TRIM, 16, 16⟩
abbrev RTC_TRIM_mt : FRef := ⟨.RTC_TRIM, 0, 16⟩
abbrev RTC_SET_TIME_hour : FRef := ⟨.RTC_SET_TIME, 27, 5⟩
abbrev RTC_SET_TIME_min : FRef := ⟨.RTC_SET_TIME, 21, 6⟩
abbrev RTC_SET_TIME_sec : FRef := ⟨.RTC_SET_TIME, 15, 6⟩
abbrev RTC_SET_TIME_sub : FRef := ⟨.RTC_SET_TIME, 0, 15⟩
abbrev RTC_SET_DATE_wday : FRef := ⟨.RTC_SET_DATE, 28, 3⟩
abbrev RTC_SET_DATE_year : FRef := ⟨.RTC_SET_DATE, 16, 12⟩
abbrev RTC_SET_DATE_month : FRef := ⟨.RTC_SET_DATE, 8, 4⟩
abbrev RTC_SET_DATE_day : FRef := ⟨.RTC_SET_DATE, 0, 5⟩
abbrev RTC_SET_CMD_op : FRef := ⟨.RTC_SET_CMD, 0, 2⟩
abbrev RTC_ALM_en : FRef := ⟨.RTC_ALM, 31, 1⟩
abbrev RTC_ALM_hold : FRef := ⟨.RTC_ALM, 30, 1⟩
abbrev RTC_ALM_rel : FRef := ⟨.RTC_ALM, 29, 1⟩
abbrev RTC_ALM_day : FRef := ⟨.RTC_ALM, 16, 5⟩
abbrev RTC_ALM_hour : FRef := ⟨.RTC_ALM, 8, 5⟩
abbrev RTC_ALM_min : FRef := ⟨.RTC_ALM, 0, 6⟩
abbrev RTC_BKP_bytes : FRef := ⟨.RTC_BKP, 0, 32⟩
abbrev REC_STAT_restored : FRef := ⟨.REC_STAT, 16, 1⟩
abbrev REC_STAT_head : FRef := ⟨.REC_STAT, 0, 13⟩
abbrev REC_EVT_cfg : FRef := ⟨.REC_EVT, 4, 1⟩
abbrev REC_EVT_clr_fail : FRef := ⟨.REC_EVT, 3, 1⟩
abbrev REC_EVT_cleared : FRef := ⟨.REC_EVT, 2, 1⟩
abbrev REC_EVT_log_drop : FRef := ⟨.REC_EVT, 1, 1⟩
abbrev REC_EVT_lost : FRef := ⟨.REC_EVT, 0, 1⟩
abbrev REC_SEQ_seq : FRef := ⟨.REC_SEQ, 0, 32⟩
abbrev REC_OLD_seq : FRef := ⟨.REC_OLD, 0, 32⟩
abbrev REC_LOST_count : FRef := ⟨.REC_LOST, 0, 32⟩
abbrev REC_LOG_SEQ_seq : FRef := ⟨.REC_LOG_SEQ, 0, 32⟩
abbrev REC_LOG_DROP_count : FRef := ⟨.REC_LOG_DROP, 0, 32⟩
abbrev REC_CTRL_clr_key : FRef := ⟨.REC_CTRL, 16, 6⟩
abbrev REC_CTRL_head : FRef := ⟨.REC_CTRL, 0, 13⟩
abbrev REC_RD_SEQ_seq : FRef := ⟨.REC_RD_SEQ, 0, 32⟩
abbrev REC_RD_CMD_op : FRef := ⟨.REC_RD_CMD, 0, 2⟩
abbrev REC_RD_STAT_busy : FRef := ⟨.REC_RD_STAT, 8, 1⟩
abbrev REC_RD_STAT_err : FRef := ⟨.REC_RD_STAT, 0, 4⟩
abbrev REC_RD_NEXT_seq : FRef := ⟨.REC_RD_NEXT, 0, 32⟩
abbrev REC_RD_W_word : FRef := ⟨.REC_RD_W, 0, 32⟩
abbrev REC_CLR_NONCE_nonce : FRef := ⟨.REC_CLR_NONCE, 0, 32⟩
abbrev REC_CLR_CMD_op : FRef := ⟨.REC_CLR_CMD, 0, 2⟩
abbrev REC_CLR_AUTH_mac : FRef := ⟨.REC_CLR_AUTH, 0, 32⟩
abbrev REC_CLR_STAT_busy : FRef := ⟨.REC_CLR_STAT, 8, 1⟩
abbrev REC_CLR_STAT_err : FRef := ⟨.REC_CLR_STAT, 0, 4⟩
abbrev REC_LOG_CFG_quota : FRef := ⟨.REC_LOG_CFG, 16, 16⟩
abbrev REC_LOG_CFG_min_sev : FRef := ⟨.REC_LOG_CFG, 0, 3⟩
abbrev REC_TRG_CFG_en : FRef := ⟨.REC_TRG_CFG, 31, 1⟩
abbrev REC_TRG_CFG_log : FRef := ⟨.REC_TRG_CFG, 19, 1⟩
abbrev REC_TRG_CFG_sev : FRef := ⟨.REC_TRG_CFG, 16, 3⟩
abbrev REC_TRG_CFG_source : FRef := ⟨.REC_TRG_CFG, 0, 8⟩
abbrev REC_TRG_ITEM_ref : FRef := ⟨.REC_TRG_ITEM, 2, 30⟩
abbrev REC_TRG_ITEM_kind : FRef := ⟨.REC_TRG_ITEM, 0, 2⟩
abbrev NVP_STAT_busy : FRef := ⟨.NVP_STAT, 31, 1⟩
abbrev NVP_STAT_err : FRef := ⟨.NVP_STAT, 16, 4⟩
abbrev NVP_STAT_page : FRef := ⟨.NVP_STAT, 0, 10⟩
abbrev NVP_EVT_wear : FRef := ⟨.NVP_EVT, 4, 1⟩
abbrev NVP_EVT_retire : FRef := ⟨.NVP_EVT, 3, 1⟩
abbrev NVP_EVT_lock : FRef := ⟨.NVP_EVT, 2, 1⟩
abbrev NVP_EVT_uncorr : FRef := ⟨.NVP_EVT, 1, 1⟩
abbrev NVP_EVT_refresh : FRef := ⟨.NVP_EVT, 0, 1⟩
abbrev NVP_WEAR_wear : FRef := ⟨.NVP_WEAR, 24, 8⟩
abbrev NVP_WEAR_spare : FRef := ⟨.NVP_WEAR, 0, 12⟩
abbrev NVP_CTRL_tmo : FRef := ⟨.NVP_CTRL, 16, 8⟩
abbrev NVP_CTRL_period : FRef := ⟨.NVP_CTRL, 0, 8⟩
abbrev NVP_ADDR_page : FRef := ⟨.NVP_ADDR, 8, 10⟩
abbrev NVP_ADDR_word : FRef := ⟨.NVP_ADDR, 2, 6⟩
abbrev NVP_DATA_data : FRef := ⟨.NVP_DATA, 0, 32⟩
abbrev NVP_CMD_region : FRef := ⟨.NVP_CMD, 16, 3⟩
abbrev NVP_CMD_op : FRef := ⟨.NVP_CMD, 0, 4⟩
abbrev NVP_PW_pw : FRef := ⟨.NVP_PW, 0, 32⟩
abbrev NVP_RGN_rd_set : FRef := ⟨.NVP_RGN, 31, 1⟩
abbrev NVP_RGN_wr_set : FRef := ⟨.NVP_RGN, 30, 1⟩
abbrev NVP_RGN_last : FRef := ⟨.NVP_RGN, 16, 10⟩
abbrev NVP_RGN_first : FRef := ⟨.NVP_RGN, 0, 10⟩
abbrev NVP_OPEN_wr : FRef := ⟨.NVP_OPEN, 8, 8⟩
abbrev NVP_OPEN_rd : FRef := ⟨.NVP_OPEN, 0, 8⟩
abbrev HST_STAT_ready : FRef := ⟨.HST_STAT, 31, 1⟩
abbrev HST_STAT_ro : FRef := ⟨.HST_STAT, 30, 1⟩
abbrev HST_STAT_wear : FRef := ⟨.HST_STAT, 16, 8⟩
abbrev HST_EVT_wear : FRef := ⟨.HST_EVT, 3, 1⟩
abbrev HST_EVT_tdrop : FRef := ⟨.HST_EVT, 2, 1⟩
abbrev HST_EVT_tcfg : FRef := ⟨.HST_EVT, 1, 1⟩
abbrev HST_EVT_uncorr : FRef := ⟨.HST_EVT, 0, 1⟩
abbrev HST_PERR_count : FRef := ⟨.HST_PERR, 0, 32⟩
abbrev HST_TR_CFG_en : FRef := ⟨.HST_TR_CFG, 31, 1⟩
abbrev HST_TR_CFG_tenant : FRef := ⟨.HST_TR_CFG, 23, 8⟩
abbrev HST_TR_CFG_npts : FRef := ⟨.HST_TR_CFG, 16, 7⟩
abbrev HST_TR_CFG_interval : FRef := ⟨.HST_TR_CFG, 0, 12⟩
abbrev HST_TR_SIZE_mib : FRef := ⟨.HST_TR_SIZE, 0, 13⟩
abbrev HST_TR_STAT_wrapped : FRef := ⟨.HST_TR_STAT, 31, 1⟩
abbrev HST_TR_STAT_rows : FRef := ⟨.HST_TR_STAT, 0, 31⟩
abbrev HST_TR_LOST_count : FRef := ⟨.HST_TR_LOST, 0, 32⟩
abbrev HST_TR_PT_id_hi : FRef := ⟨.HST_TR_PT, 16, 16⟩
abbrev HST_TR_PT_id_lo : FRef := ⟨.HST_TR_PT, 0, 16⟩
abbrev KV_STAT_opw : FRef := ⟨.KV_STAT, 9, 1⟩
abbrev KV_STAT_kv_ok : FRef := ⟨.KV_STAT, 8, 1⟩
abbrev KV_STAT_chk_busy : FRef := ⟨.KV_STAT, 7, 1⟩
abbrev KV_STAT_chg : FRef := ⟨.KV_STAT, 6, 1⟩
abbrev KV_STAT_root : FRef := ⟨.KV_STAT, 4, 2⟩
abbrev KV_STAT_lc : FRef := ⟨.KV_STAT, 0, 3⟩
abbrev KV_EVT_opw : FRef := ⟨.KV_EVT, 7, 1⟩
abbrev KV_EVT_lock : FRef := ⟨.KV_EVT, 6, 1⟩
abbrev KV_EVT_acc_fail : FRef := ⟨.KV_EVT, 5, 1⟩
abbrev KV_EVT_acc : FRef := ⟨.KV_EVT, 4, 1⟩
abbrev KV_EVT_gone : FRef := ⟨.KV_EVT, 3, 1⟩
abbrev KV_EVT_key : FRef := ⟨.KV_EVT, 2, 1⟩
abbrev KV_EVT_lc : FRef := ⟨.KV_EVT, 1, 1⟩
abbrev KV_EVT_chk_fail : FRef := ⟨.KV_EVT, 0, 1⟩
abbrev KV_SLOT0_filled : FRef := ⟨.KV_SLOT0, 0, 32⟩
abbrev KV_SLOT1_filled : FRef := ⟨.KV_SLOT1, 0, 32⟩
abbrev KV_SERIAL_LO_serial : FRef := ⟨.KV_SERIAL_LO, 0, 32⟩
abbrev KV_SERIAL_HI_serial : FRef := ⟨.KV_SERIAL_HI, 0, 32⟩
abbrev KV_IDPUB_pub : FRef := ⟨.KV_IDPUB, 0, 32⟩
abbrev KV_CTRL_att_key : FRef := ⟨.KV_CTRL, 8, 6⟩
abbrev KV_CTRL_vend_ok : FRef := ⟨.KV_CTRL, 1, 1⟩
abbrev KV_CTRL_chk : FRef := ⟨.KV_CTRL, 0, 1⟩
abbrev KV_SEL_slot : FRef := ⟨.KV_SEL, 0, 6⟩
abbrev KV_ATTR_filled : FRef := ⟨.KV_ATTR, 31, 1⟩
abbrev KV_ATTR_expire : FRef := ⟨.KV_ATTR, 30, 1⟩
abbrev KV_ATTR_counted : FRef := ⟨.KV_ATTR, 29, 1⟩
abbrev KV_ATTR_users : FRef := ⟨.KV_ATTR, 24, 4⟩
abbrev KV_ATTR_count : FRef := ⟨.KV_ATTR, 0, 24⟩
abbrev KV_KCV_kcv : FRef := ⟨.KV_KCV, 0, 32⟩
abbrev KV_KEYD_key : FRef := ⟨.KV_KEYD, 0, 32⟩
abbrev KV_CMD_key : FRef := ⟨.KV_CMD, 16, 16⟩
abbrev KV_CMD_arg : FRef := ⟨.KV_CMD, 8, 8⟩
abbrev KV_CMD_op : FRef := ⟨.KV_CMD, 0, 4⟩
abbrev KV_CMD_STAT_busy : FRef := ⟨.KV_CMD_STAT, 8, 1⟩
abbrev KV_CMD_STAT_err : FRef := ⟨.KV_CMD_STAT, 0, 4⟩
abbrev KV_OPW_ver : FRef := ⟨.KV_OPW, 0, 32⟩
abbrev KV_NONCE_nonce : FRef := ⟨.KV_NONCE, 0, 32⟩
abbrev KV_PROOF_proof : FRef := ⟨.KV_PROOF, 0, 32⟩
abbrev KV_ACC_min : FRef := ⟨.KV_ACC, 16, 9⟩
abbrev KV_ACC_gates : FRef := ⟨.KV_ACC, 8, 3⟩
abbrev KV_ACC_how : FRef := ⟨.KV_ACC, 0, 2⟩
abbrev KV_ACC_CMD_duration : FRef := ⟨.KV_ACC_CMD, 16, 16⟩
abbrev KV_ACC_CMD_gates : FRef := ⟨.KV_ACC_CMD, 8, 3⟩
abbrev KV_ACC_CMD_op : FRef := ⟨.KV_ACC_CMD, 0, 4⟩
abbrev KV_DBG_h1_halt : FRef := ⟨.KV_DBG, 1, 1⟩
abbrev KV_DBG_h0_halt : FRef := ⟨.KV_DBG, 0, 1⟩
abbrev KV_ATT_CHAL_chal : FRef := ⟨.KV_ATT_CHAL, 0, 32⟩
abbrev KV_ATT_CMD_go : FRef := ⟨.KV_ATT_CMD, 0, 1⟩
abbrev KV_ATT_STAT_busy : FRef := ⟨.KV_ATT_STAT, 31, 1⟩
abbrev KV_ATT_STAT_mode : FRef := ⟨.KV_ATT_STAT, 16, 2⟩
abbrev KV_ATT_STAT_words : FRef := ⟨.KV_ATT_STAT, 8, 8⟩
abbrev KV_ATT_STAT_err : FRef := ⟨.KV_ATT_STAT, 0, 4⟩
abbrev KV_ATT_DATA_word : FRef := ⟨.KV_ATT_DATA, 0, 32⟩
abbrev UPD_STAT_state : FRef := ⟨.UPD_STAT, 28, 4⟩
abbrev UPD_STAT_step : FRef := ⟨.UPD_STAT, 24, 4⟩
abbrev UPD_STAT_pair : FRef := ⟨.UPD_STAT, 20, 4⟩
abbrev UPD_STAT_fb : FRef := ⟨.UPD_STAT, 16, 4⟩
abbrev UPD_STAT_op_conf : FRef := ⟨.UPD_STAT, 9, 1⟩
abbrev UPD_STAT_h0_conf : FRef := ⟨.UPD_STAT, 8, 1⟩
abbrev UPD_STAT_err : FRef := ⟨.UPD_STAT, 0, 8⟩
abbrev UPD_EVT_bank : FRef := ⟨.UPD_EVT, 6, 1⟩
abbrev UPD_EVT_nothealthy : FRef := ⟨.UPD_EVT, 5, 1⟩
abbrev UPD_EVT_fb : FRef := ⟨.UPD_EVT, 4, 1⟩
abbrev UPD_EVT_conf : FRef := ⟨.UPD_EVT, 3, 1⟩
abbrev UPD_EVT_trial : FRef := ⟨.UPD_EVT, 2, 1⟩
abbrev UPD_EVT_refused : FRef := ⟨.UPD_EVT, 1, 1⟩
abbrev UPD_EVT_ready : FRef := ⟨.UPD_EVT, 0, 1⟩
abbrev UPD_VER_version : FRef := ⟨.UPD_VER, 0, 32⟩
abbrev UPD_BANK_prev : FRef := ⟨.UPD_BANK, 3, 1⟩
abbrev UPD_BANK_trial_set : FRef := ⟨.UPD_BANK, 2, 1⟩
abbrev UPD_BANK_trial : FRef := ⟨.UPD_BANK, 1, 1⟩
abbrev UPD_BANK_active : FRef := ⟨.UPD_BANK, 0, 1⟩
abbrev UPD_WIN_s : FRef := ⟨.UPD_WIN, 0, 16⟩
abbrev UPD_PKG_VER_version : FRef := ⟨.UPD_PKG_VER, 0, 32⟩
abbrev UPD_CTRL_window : FRef := ⟨.UPD_CTRL, 16, 16⟩
abbrev UPD_CTRL_hold : FRef := ⟨.UPD_CTRL, 0, 1⟩
abbrev UPD_CMD_op : FRef := ⟨.UPD_CMD, 0, 2⟩
abbrev UPD_CMD_STAT_busy : FRef := ⟨.UPD_CMD_STAT, 8, 1⟩
abbrev UPD_CMD_STAT_err : FRef := ⟨.UPD_CMD_STAT, 0, 4⟩
abbrev UPD_CONFIRM_key : FRef := ⟨.UPD_CONFIRM, 16, 16⟩
abbrev UPD_CONFIRM_code : FRef := ⟨.UPD_CONFIRM, 0, 16⟩
abbrev UPD_FLOOR_version : FRef := ⟨.UPD_FLOOR, 0, 32⟩
abbrev UPD_OWNKEY_key : FRef := ⟨.UPD_OWNKEY, 0, 32⟩
abbrev EVC_STAT_h1_lvl : FRef := ⟨.EVC_STAT, 16, 5⟩
abbrev EVC_STAT_h0_lvl : FRef := ⟨.EVC_STAT, 8, 5⟩
abbrev EVC_STAT_done_err : FRef := ⟨.EVC_STAT, 4, 1⟩
abbrev EVC_STAT_nm : FRef := ⟨.EVC_STAT, 0, 4⟩
abbrev EVC_NMCNT_count : FRef := ⟨.EVC_NMCNT, 0, 32⟩
abbrev EVC_SRC_CFG_en : FRef := ⟨.EVC_SRC_CFG, 31, 1⟩
abbrev EVC_SRC_CFG_dest : FRef := ⟨.EVC_SRC_CFG, 8, 1⟩
abbrev EVC_SRC_CFG_level : FRef := ⟨.EVC_SRC_CFG, 0, 4⟩
abbrev EVC_PEND_pend : FRef := ⟨.EVC_PEND, 0, 32⟩
abbrev EVC_OVR_ovr : FRef := ⟨.EVC_OVR, 0, 32⟩
abbrev EVC_SWSET_source : FRef := ⟨.EVC_SWSET, 0, 8⟩
abbrev EVC_CLAIM_valid : FRef := ⟨.EVC_CLAIM, 31, 1⟩
abbrev EVC_CLAIM_level : FRef := ⟨.EVC_CLAIM, 8, 4⟩
abbrev EVC_CLAIM_source : FRef := ⟨.EVC_CLAIM, 0, 8⟩
abbrev EVC_DONE_source : FRef := ⟨.EVC_DONE, 0, 8⟩
abbrev EVC_THR_thr : FRef := ⟨.EVC_THR, 0, 5⟩
abbrev EVC_H0CNT_count : FRef := ⟨.EVC_H0CNT, 0, 32⟩
abbrev EVC_H0SEL_en : FRef := ⟨.EVC_H0SEL, 31, 1⟩
abbrev EVC_H0SEL_chain : FRef := ⟨.EVC_H0SEL, 30, 1⟩
abbrev EVC_H0SEL_ovf_evt : FRef := ⟨.EVC_H0SEL, 29, 1⟩
abbrev EVC_H0SEL_mode : FRef := ⟨.EVC_H0SEL, 24, 2⟩
abbrev EVC_H0SEL_event : FRef := ⟨.EVC_H0SEL, 0, 8⟩
abbrev EVC_H1CNT_count : FRef := ⟨.EVC_H1CNT, 0, 32⟩
abbrev EVC_H1SEL_en : FRef := ⟨.EVC_H1SEL, 31, 1⟩
abbrev EVC_H1SEL_chain : FRef := ⟨.EVC_H1SEL, 30, 1⟩
abbrev EVC_H1SEL_ovf_evt : FRef := ⟨.EVC_H1SEL, 29, 1⟩
abbrev EVC_H1SEL_mode : FRef := ⟨.EVC_H1SEL, 24, 2⟩
abbrev EVC_H1SEL_event : FRef := ⟨.EVC_H1SEL, 0, 8⟩
abbrev EVC_FCNT_count : FRef := ⟨.EVC_FCNT, 0, 32⟩
abbrev EVC_FSEL_en : FRef := ⟨.EVC_FSEL, 31, 1⟩
abbrev EVC_FSEL_chain : FRef := ⟨.EVC_FSEL, 30, 1⟩
abbrev EVC_FSEL_ovf_evt : FRef := ⟨.EVC_FSEL, 29, 1⟩
abbrev EVC_FSEL_tflt : FRef := ⟨.EVC_FSEL, 28, 1⟩
abbrev EVC_FSEL_qmask : FRef := ⟨.EVC_FSEL, 24, 4⟩
abbrev EVC_FSEL_tenant : FRef := ⟨.EVC_FSEL, 16, 8⟩
abbrev EVC_FSEL_event : FRef := ⟨.EVC_FSEL, 0, 8⟩
abbrev EVC_CNTCTL_fab_user : FRef := ⟨.EVC_CNTCTL, 18, 1⟩
abbrev EVC_CNTCTL_h1_user : FRef := ⟨.EVC_CNTCTL, 17, 1⟩
abbrev EVC_CNTCTL_clr : FRef := ⟨.EVC_CNTCTL, 8, 3⟩
abbrev EVC_CNTCTL_frz : FRef := ⟨.EVC_CNTCTL, 0, 3⟩
abbrev EVC_COVF0_h1 : FRef := ⟨.EVC_COVF0, 16, 16⟩
abbrev EVC_COVF0_h0 : FRef := ⟨.EVC_COVF0, 0, 16⟩
abbrev EVC_COVF1_fab : FRef := ⟨.EVC_COVF1, 0, 32⟩
abbrev EVC_SMP_CFG_en : FRef := ⟨.EVC_SMP_CFG, 31, 1⟩
abbrev EVC_SMP_CFG_core : FRef := ⟨.EVC_SMP_CFG, 30, 1⟩
abbrev EVC_SMP_CFG_stop : FRef := ⟨.EVC_SMP_CFG, 29, 1⟩
abbrev EVC_SMP_CFG_period : FRef := ⟨.EVC_SMP_CFG, 8, 16⟩
abbrev EVC_SMP_CFG_event : FRef := ⟨.EVC_SMP_CFG, 0, 8⟩
abbrev EVC_SMP_STAT_full : FRef := ⟨.EVC_SMP_STAT, 31, 1⟩
abbrev EVC_SMP_STAT_wrap : FRef := ⟨.EVC_SMP_STAT, 30, 1⟩
abbrev EVC_SMP_STAT_count : FRef := ⟨.EVC_SMP_STAT, 16, 10⟩
abbrev EVC_SMP_STAT_next : FRef := ⟨.EVC_SMP_STAT, 0, 9⟩
abbrev EVC_SMP_CMD_clr : FRef := ⟨.EVC_SMP_CMD, 0, 1⟩
abbrev EVC_SMP_W_word : FRef := ⟨.EVC_SMP_W, 0, 32⟩
abbrev SYS_H1_PART_ubase : FRef := ⟨.SYS_H1_PART, 16, 8⟩
abbrev SYS_H1_PART_usize : FRef := ⟨.SYS_H1_PART, 0, 9⟩
abbrev SYS_H1_TAG_role : FRef := ⟨.SYS_H1_TAG, 8, 2⟩
abbrev SYS_H1_TAG_tenant : FRef := ⟨.SYS_H1_TAG, 0, 8⟩

end Sys2Proof.Machine.F
end

