-- ==== Sys2Proof/Machine/StateM.lean ====
section
/-! DEFINITION. The module without its host memories and its command queue: registers and the state of every block. -/

namespace Sys2Proof.Machine

/-- The module.  `regs` holds every register of the maps that does not read its reset value, by address; `effs` holds the
effective word of a register whose B or P fields were written and have not taken effect (R159, R162). -/
structure M where
  regs : List (Nat × Word)
  effs : List (Nat × Word)
  /-- the slot pin: true in slot B (R453) -/
  slotB : Bool
  time : TimeState
  power : PowerState
  ev : EventState
  frec : RecState
  pts : PointState
  fab : FabricState
  img : ImageState
  exe : ExecState
  loop : LoopState
  mtr : MeterState
  can : List CanState
  eth : EthState
  krov : KrovState
  ibx : IbxState
  tth : TetherState
  lio : LioState
  boot : BootState
  nvp : NvpState
  hst : HstState
  kv : KvState
  upd : UpdState
  /-- words drawn from the random source so far -/
  rnd : Nat
  /-- free values drawn so far: the model's own counter, not the spec's -/
  free : Nat
  /-- what has left the module, oldest first -/
  out : List Emission
  deriving DecidableEq, Repr

end Sys2Proof.Machine
end

