-- ==== Sys2Proof/Machine/Ops.lean ====
section
/-! DEFINITION. Named operations over the register store, event raises, the flight recorder and the event log: every block
reads and writes its registers, raises its events and writes its records through these. -/

namespace Sys2Proof.Machine

/-! ### Registers -/

/-- Address of a register instance (R10, R11). -/
def Reg.addr (r : Reg) (i j k : Nat) : Nat :=
  r.spec.base + r.spec.s1 * i + r.spec.s2 * j + r.spec.s3 * k

/-- Reset word of a register: the sum of its fields' reset values. -/
def Reg.resetWord (r : Reg) : Nat :=
  r.spec.fields.foldl (fun a f => a + f.rst * 2 ^ f.lo) 0

/-- Reserved event source numbers (Table 20-1). -/
def reservedSource (s : Nat) : Bool :=
  (4 ≤ s && s ≤ 0x0F) || s == 0x16 || s == 0x17 || (0x1D ≤ s && s ≤ 0x1F) || (0x28 ≤ s && s ≤ 0x2F) ||
  (0x3C ≤ s && s ≤ 0x3F) || (0x42 ≤ s && s ≤ 0x47) || (0x4C ≤ s && s ≤ 0x7F)

/-- First and last page of a parameter-store region (Table 17-1). -/
def regionPages (r : Nat) : Nat × Nat :=
  match r with
  | 0 => (0x000, 0x01F)
  | 1 => (0x020, 0x03F)
  | 2 => (0x040, 0x0BF)
  | 3 => (0x0C0, 0x13F)
  | 4 => (0x140, 0x19F)
  | 5 => (0x1A0, 0x1BF)
  | 6 => (0x1C0, 0x2FF)
  | _ => (0x300, 0x3FF)

/-- Reset word of a register instance: the tables' value, with the instances a table singles out (Tables 9-9, 17-1, 20-8). -/
def Reg.resetAt (r : Reg) (i : Nat) : Nat :=
  match r with
  | .EVC_SRC_CFG => if i < 4 then 0x80000000 else if reservedSource i then 0 else 8
  | .ETH_CTRL => if i == 2 then 0x0B04 else r.resetWord
  | .NVP_RGN => (regionPages i).1 + (regionPages i).2 * 2 ^ 16
  | _ => r.resetWord

/-- The word a register instance holds. -/
def M.rd (m : M) (r : Reg) (i j k : Nat := 0) : Word :=
  (aget (r.addr i j k) m.regs).getD (BitVec.ofNat 32 (r.resetAt i))

/-- Store a word in a register instance. -/
def M.wr (m : M) (r : Reg) (v : Word) (i j k : Nat := 0) : M :=
  { m with regs := aput (r.addr i j k) v m.regs }

/-- A field of a register instance. -/
def M.get (m : M) (x : FRef) (i j k : Nat := 0) : Nat := wfield (m.rd x.reg i j k) x.lo x.width

/-- Set a field of a register instance. -/
def M.put (m : M) (x : FRef) (v : Nat) (i j k : Nat := 0) : M :=
  m.wr x.reg (wset (m.rd x.reg i j k) x.lo x.width v) i j k

/-- A one-bit field as a truth value. -/
def M.bit (m : M) (x : FRef) (i j k : Nat := 0) : Bool := m.get x i j k == 1

/-- Set a one-bit field. -/
def M.putB (m : M) (x : FRef) (b : Bool) (i j k : Nat := 0) : M := m.put x (b2n b) i j k

/-- Bit `n` of a field that holds one bit per instance. -/
def M.bitOf (m : M) (x : FRef) (n : Nat) (i j k : Nat := 0) : Bool := tbit (m.get x i j k) n

/-- Set bit `n` of such a field. -/
def M.putBit (m : M) (x : FRef) (n : Nat) (b : Bool) (i j k : Nat := 0) : M :=
  m.put x (putBitN (m.get x i j k) n b) i j k

/-- Count in a field that holds at its top value (the RC counters of the tables). -/
def M.count (m : M) (x : FRef) (i j k : Nat := 0) : M :=
  m.put x (satAdd (m.get x i j k) 1 (2 ^ x.width - 1)) i j k

/-- The effective word of a register instance: the word written, unless an earlier one still stands (R159, R162). -/
def M.effWord (m : M) (r : Reg) (i j k : Nat := 0) : Word :=
  (aget (r.addr i j k) m.effs).getD (m.rd r i j k)

/-- The effective value of a B or P field. -/
def M.eff (m : M) (x : FRef) (i j k : Nat := 0) : Nat := wfield (m.effWord x.reg i j k) x.lo x.width

/-- An effective one-bit field. -/
def M.effB (m : M) (x : FRef) (i j k : Nat := 0) : Bool := m.eff x i j k == 1

/-- The written copy of every register of the list becomes effective (R159). -/
def M.transferAt (m : M) (addrs : List Nat) : M :=
  { m with effs := m.effs.filter (fun p => !(addrs.contains p.1)) }

/-! ### Outputs, random words and free values -/

/-- Append to what leaves the module. -/
def M.emit (m : M) (e : Emission) : M := { m with out := m.out ++ [e] }

/-- Draw `n` words of the random source: the index of the first, and the module after. -/
def M.draw (m : M) (n : Nat) : Nat × M := (m.rnd, { m with rnd := m.rnd + n })

/-- `n` words of the random source from an index, as bytes. -/
def randomBytes (i n : Nat) : Bytes :=
  (List.range n).flatMap (fun k => toBE 4 (Config.random (i + k)).toNat)

/-- Draw a free value. -/
def M.drawFree (m : M) : Word × M := (Config.freeWord m.free, { m with free := m.free + 1 })

/-- The low bytes of a 256-bit digest, first byte first. -/
def digestBytes (d : BitVec 256) : Bytes := toBE 32 d.toNat

/-- ASCII text as bytes. -/
def ascii (s : String) : Bytes := s.toList.map (fun c => BitVec.ofNat 8 c.toNat)

/-! ### Calendar arithmetic (R497, R501) -/

/-- Gregorian leap years. -/
def leapYear (y : Nat) : Bool := (y % 4 == 0 && !(y % 100 == 0)) || y % 400 == 0

/-- Days in a month, 1 to 12. -/
def monthDays (y mo : Nat) : Nat :=
  match mo with
  | 2 => if leapYear y then 29 else 28
  | 4 | 6 | 9 | 11 => 30
  | _ => 31

/-- Days before 1 January of year 2000 + n. -/
def daysToYear (n : Nat) : Nat := 365 * n + (n + 3) / 4 - (n + 99) / 100 + (n + 399) / 400

/-- Days before a month of a year. -/
def daysToMonth (y mo : Nat) : Nat := (List.range (mo - 1)).foldl (fun a i => a + monthDays y (i + 1)) 0

/-- Day count since 2000-01-01 of a date. -/
def dayNumber (y mo d : Nat) : Nat := daysToYear (y - 2000) + daysToMonth y mo + (d - 1)

/-- Year, month and day of a day count since 2000-01-01. -/
def dateOf (n : Nat) : Nat × (Nat × Nat) :=
  let era := n / 146097
  let r := n % 146097
  let k := min (r / 365) 399
  let y := if daysToYear k ≤ r then k else k - 1
  let doy := r - daysToYear y
  let yr := 2000 + era * 400 + y
  let mo := ((List.range 12).reverse.find? (fun i => daysToMonth yr (i + 1) ≤ doy)).getD 0 + 1
  (yr, mo, doy - daysToMonth yr mo + 1)

/-- Weekday code of a day count: 2000-01-01 was a Saturday, and RTC_DATE resets to it with wday 5 (Table 15-5). -/
def weekday (n : Nat) : Nat := (n + 5) % 7

/-- Seconds from the origin of module time, 1970-01-01, to 2000-01-01 (log 30). -/
def secondsTo2000 : Nat := 946684800

/-- Local seconds since 2000-01-01 of a module time, and the nanoseconds beyond (R501). -/
def M.localTime (m : M) (tai : Nat) : Nat × Nat :=
  let s : Int := (tai / 1000000000 : Nat)
  let l : Int := s - m.eff F.RTC_LEAP_tai_utc + 60 * signedN (m.eff F.RTC_CFG_ofs) 12 - secondsTo2000
  (l.toNat, tai % 1000000000)

/-- RTC_DATE layout of a day count. -/
def dateWord (day : Nat) : Nat :=
  let (y, mo, d) := dateOf day
  weekday day * 2 ^ 28 + y * 2 ^ 16 + mo * 2 ^ 8 + d

/-- RTC_TIME layout of a second of the day and a subsecond count. -/
def timeWord (sec sub : Nat) : Nat :=
  (sec / 3600) * 2 ^ 27 + (sec / 60 % 60) * 2 ^ 21 + (sec % 60) * 2 ^ 15 + sub

/-- Date and time words of a module time, as a record carries them (R511, R512). -/
def M.stamp (m : M) (tai : Nat) : Word × Word :=
  let (s, ns) := m.localTime tai
  (BitVec.ofNat 32 (dateWord (s / 86400)), BitVec.ofNat 32 (timeWord (s % 86400) (ns * 32768 / 1000000000)))

/-! ### Flight recorder (R511 to R518) -/

/-- Store one record: into the head area while it has places, then into the Reel, replacing its oldest (R517). -/
def M.storeRecord (m : M) (words : List Word) : M :=
  let r := m.frec
  let seq := r.nextSeq
  let w1 := (words.headD 0) ||| (if r.lost then 0x80000000 else 0)
  let rc : FrRecord := ⟨seq, BitVec.ofNat 32 seq :: w1 :: words.drop 1⟩
  let headSize := m.get F.REC_STAT_head
  let r' :=
    if r.head.length < headSize then { r with head := r.head ++ [rc] }
    else { r with reel := (r.reel ++ [rc]).drop (r.reel.length + 1 - (8192 - headSize)) }
  let m' := { m with frec := { r' with nextSeq := (seq + 1) % 2 ^ 32, lost := false, uncopied := r'.uncopied ++ [seq] } }
  (m'.put F.REC_SEQ_seq seq).put F.REC_OLD_seq ((r'.reel.head?.map FrRecord.seq).getD 0)

/-- The map of a list of words: bit i marks word i as a point descriptor (R513). -/
def mapOf (items : List RecItem) : Nat :=
  (List.range items.length).foldl (fun a i => if ((items[i]?).map Prod.snd).getD false then a + 2 ^ i else a) 0

/-- Words 1 to 15 of a record from its calendar, source, code and at most 12 items (Table 16-1). -/
def M.recordWords (m : M) (tai source code : Nat) (items : List RecItem) : List Word :=
  let (d, t) := m.stamp tai
  d :: t :: BitVec.ofNat 32 (source * 2 ^ 24 + code * 2 ^ 16 + items.length * 2 ^ 12 + mapOf items)
    :: (List.range 12).map (fun i => ((items[i]?).map Prod.fst).getD 0)

/-- Write a happening of any length: consecutive records of 12 words, bit 7 of the code set in each but the last (R516). -/
def M.storeItems (m : M) (tai source code : Nat) : List (List RecItem) → M
  | [] => m.storeRecord (m.recordWords tai source code [])
  | [c] => m.storeRecord (m.recordWords tai source code c)
  | c :: cs => (m.storeRecord (m.recordWords tai source (code + 128) c)).storeItems tai source code cs

/-- Cut a list in pieces of 12. -/
def pieces12 : Nat → List RecItem → List (List RecItem)
  | 0, _ => []
  | n + 1, l => if l.length ≤ 12 then [l] else l.take 12 :: pieces12 n (l.drop 12)

/-- The sequence number the next record will carry. -/
def M.nextRecord (m : M) : Nat := m.frec.nextSeq

/-- A write to a B or P field: the word that stood stays effective until the boundary or the commit (R159, R163). -/
def M.putLater (m : M) (x : FRef) (v : Nat) (i j k : Nat := 0) : M :=
  let a := x.reg.addr i j k
  let m1 := { m with effs := if (aget a m.effs).isSome then m.effs else aput a (m.rd x.reg i j k) m.effs }
  m1.put x v i j k

/-! ### Event log (R519 to R521) -/

/-- The highest severity number written is in min_sev (R519). -/
def M.logged (m : M) (sev : Nat) : Bool := sev ≤ m.get F.REC_LOG_CFG_min_sev

/-- A raise as the event controller takes it: pending, overrun, non-maskable count (R587). -/
def M.pend (m : M) (s : Nat) : M :=
  let was := m.bitOf F.EVC_PEND_pend (s % 32) (s / 32)
  let m1 := if was then m.putBit F.EVC_OVR_ovr (s % 32) true (s / 32)
    else m.putBit F.EVC_PEND_pend (s % 32) true (s / 32)
  if s < 4 then (m1.count F.EVC_NMCNT_count).putBit F.EVC_STAT_nm s true else m1

/-- The enabled triggers of a source (R514). -/
def M.triggersOf (m : M) (s : Nat) : List Nat :=
  (List.range 32).filter (fun t => m.bit F.REC_TRG_CFG_en t && m.get F.REC_TRG_CFG_source t == s)

/-- A raise meets the recorder's full queue: counted, REC_EVT.lost set (R514).  The raise that flag makes meets the full queue
as well; where a trigger names it, it is counted in its turn and ends there (log 112). -/
def M.loseRaise (m : M) : M :=
  let m1 := ((m.count F.REC_LOST_count).put F.REC_EVT_lost 1).pend 0x24
  let m2 := if (m1.triggersOf 0x24).isEmpty then m1 else m1.count F.REC_LOST_count
  { m2 with frec := { m2.frec with lost := true } }

/-- Raise a source: to the event controller, and to the recorder's triggers whatever its enable (R587, R514). -/
def M.raise (m : M) (s : Nat) : M :=
  let m2 := m.pend s
  let ts := m2.triggersOf s
  if ts.isEmpty then m2
  else if m2.frec.queue.length < 64 then
    { m2 with frec := { m2.frec with queue := m2.frec.queue ++ [⟨s, m2.time.tai, .triggers ts⟩] } }
  else m2.loseRaise

/-- Set an event flag and raise its source (the "each flag raises … when set" of the bit tables). -/
def M.flag (m : M) (x : FRef) (source : Nat) (i j k : Nat := 0) : M := (m.put x 1 i j k).raise source

/-- Drop an event-log entry (R521). -/
def M.dropEntry (m : M) (tenant : Nat) : M :=
  let m1 := (m.count F.REC_LOG_DROP_count).flag F.REC_EVT_log_drop 0x24
  { m1 with frec := { m1.frec with logLost := if m1.frec.logLost.contains tenant then m1.frec.logLost else tenant :: m1.frec.logLost } }

/-- Power domain `d` is on: state 0b01 of PMC_PD_STAT (R441). -/
def M.domainOn (m : M) (d : Nat) : Bool := fieldN (m.get F.PMC_PD_STAT_state) (2 * d) 2 == 1

/-- Bytes the historian may have written over its life: 24 TB (Table 17-4). -/
def hstLife : Nat := 24000000000000

/-- The historian is at the end of its life: every partition is read only (Table 17-4). -/
def M.hstReadOnly (m : M) : Bool := hstLife ≤ m.hst.written

/-- Writes over life in percent (HST_STAT.wear). -/
def M.hstWear (m : M) : Nat := min 100 (m.hst.written * 100 / hstLife)

/-- `n` bytes are written to the historian: its wear follows, with its event past 80 % (R539, R547). -/
def M.hstWrites (m : M) (n : Nat) : M :=
  let m1 := { m with hst := { m.hst with written := m.hst.written + n } }
  if m.hstWear ≤ 80 && 80 < m1.hstWear then m1.flag F.HST_EVT_wear 0x25 else m1

/-- Queue an event-log entry for the historian (R521); `map` marks the body's point descriptors. -/
def M.logEntry (m : M) (code sev tenant rseq : Nat) (body : Bytes) (map : Nat := 0) : M :=
  if !m.logged sev then m
  else if !(m.domainOn 13) || 4096 ≤ m.frec.logQueue.length then m.dropEntry tenant
  else { m with frec := { m.frec with logQueue := m.frec.logQueue ++ [⟨m.time.tai, code, sev, tenant, rseq, body, map⟩] } }

/-- Write the records of one happening, or hold them while the recorder is not yet restored (R516, R522). -/
def M.recordItems (m : M) (code : Nat) (items : List RecItem) : M :=
  let src := (Config.recordSource code).toNat
  if m.frec.ready then m.storeItems m.time.tai src code (pieces12 (items.length + 1) items)
  else if m.frec.queue.length < 64 then
    { m with frec := { m.frec with queue := m.frec.queue ++ [⟨src, m.time.tai, .record code items⟩] } }
  else m.loseRaise

/-- Body of a log entry: the content words, most significant byte first. -/
def bodyOf (items : List RecItem) : Bytes := (items.flatMap (fun p => toBE 4 p.1.toNat)).take 104

/-- A record of code `code` with plain words and its log entry (Table 16-2). -/
def M.note (m : M) (code sev tenant : Nat) (words : List Nat) : M :=
  let items : List RecItem := words.map (fun w => (BitVec.ofNat 32 w, false))
  let seq := m.nextRecord
  (m.recordItems code items).logEntry code sev tenant seq (bodyOf items)

/-- A record with point descriptors and its log entry. -/
def M.noteItems (m : M) (code sev tenant : Nat) (items : List RecItem) : M :=
  let seq := m.nextRecord
  (m.recordItems code items).logEntry code sev tenant seq (bodyOf items) (mapOf (items.take 26))

/-- A record without a log entry (rules that name a flight recorder record alone). -/
def M.recordOnly (m : M) (code : Nat) (words : List Nat) : M :=
  m.recordItems code (words.map (fun w => (BitVec.ofNat 32 w, false)))

/-! ### Time -/

/-- Nanoseconds of a millisecond and of a second. -/
def ms : Nat := 1000000
def sec : Nat := 1000000000

/-- A timebase deadline that is set has passed. -/
def M.due (m : M) (d : Option Nat) : Bool := d.any (fun t => t ≤ m.time.tb)

/-! ### The unit's place in its pair, as other blocks ask for it -/

/-- Unit state codes of Table 11-1. -/
def M.unitState (m : M) : Nat := m.get F.IBX_STAT_state

/-- The peer's last health word (R401). -/
def M.peerHealth (m : M) : Word := m.rd .IBX_PHEALTH

/-- Unit state the peer shows. -/
def M.peerState (m : M) : Nat := wfield m.peerHealth 28 4

/-- The unit holds a current lease. -/
def M.leased (m : M) : Bool := m.bit F.IBX_STAT_lease

/-- The ACT output: asserted while the unit holds a lease and the peer's ACT, read on PACT, is deasserted (R385, R388). -/
def M.acting (m : M) : Bool := m.leased && !m.bit F.IBX_STAT_pact

end Sys2Proof.Machine
end

