-- ==== Sys2Proof/Machine/Count.lean ====
section
/-! DEFINITION. Counters of core and fabric events, and the occurrence that tags an instruction for sampling (chapter 20, R594
to R599). -/

namespace Sys2Proof.Machine

/-! ### Counters (R594 to R597) -/

/-- Counter registers of a group: 0 H0, 1 H1, 2 fabric. -/
def cntReg (g : Nat) : Reg := match g with | 0 => .EVC_H0CNT | 1 => .EVC_H1CNT | _ => .EVC_FCNT
def selReg (g : Nat) : Reg := match g with | 0 => .EVC_H0SEL | 1 => .EVC_H1SEL | _ => .EVC_FSEL
def groupSize (g : Nat) : Nat := if g == 2 then 32 else 16

/-- Add carries upward from counter `n`: a wrap carries into a chained counter above, or sets the overflow bit (R595,
R596). -/
def M.countUp (g : Nat) : Nat → Nat → Nat → M → M
  | 0, _, _, m => m
  | fuel + 1, n, k, m =>
    let v := (m.rd (cntReg g) n).toNat + k
    let m1 := m.wr (cntReg g) (BitVec.ofNat 32 v) n
    if v < 2 ^ 32 then m1
    else
      let next := m1.rd (selReg g) (n + 1)
      if n + 1 < groupSize g && wfield next 30 1 == 1 then
        if wfield next 31 1 == 1 then M.countUp g fuel (n + 1) 1 m1 else m1
      else
        let m2 := match g with
          | 0 => m1.putBit F.EVC_COVF0_h0 n true
          | 1 => m1.putBit F.EVC_COVF0_h1 n true
          | _ => m1.putBit F.EVC_COVF1_fab n true
        if wfield (m2.rd (selReg g) n) 29 1 == 1 then m2.raise (0x48 + g) else m2

/-- An event counted by every counter of a group whose select register `sel` accepts (R594). -/
def M.countEvent (m : M) (g k : Nat) (sel : Word → Bool) : M :=
  if m.bitOf F.EVC_CNTCTL_frz g then m
  else (List.range (groupSize g)).foldl (fun a n =>
    let s := a.rd (selReg g) n
    let chained := wfield s 30 1 == 1 && 0 < n
    if wfield s 31 1 == 1 && !chained && sel s then M.countUp g 33 n k a else a) m

/-- A fabric event of a quadrant by a unit's cell, or by none (Table 20-5). -/
def M.fabricEvent (m : M) (code q : Nat) (unit : Option Nat) : M :=
  let tenant := unit.bind (fun u => (m.exe.units.find? (fun r => r.unit == u)).map UnitRec.tenant)
  m.countEvent 2 1 (fun s => wfield s 0 8 == code && tbit (wfield s 24 4) q &&
    (wfield s 28 1 == 0 || tenant == some (wfield s 16 8)))

/-- COUNTER_CLEAR: every counter of each named group to 0 (R597). -/
def M.counterClear (m : M) (groups : Nat) : M :=
  (List.range 3).foldl (fun a g => if tbit groups g then
    (List.range (groupSize g)).foldl (fun b n => b.wr (cntReg g) 0 n) a else a) m

/-- Every period-th occurrence of the chosen event tags its instruction (R599). -/
def M.sampleOccurs (m : M) (core event : Nat) : M :=
  if !m.bit F.EVC_SMP_CFG_en || !(m.get F.EVC_SMP_CFG_core == core) || !(m.get F.EVC_SMP_CFG_event == event) ||
     !([1, 2, 3, 4, 5, 7].contains event) then m
  else
    let left := if m.ev.smpLeft == 0 then max 1 (m.get F.EVC_SMP_CFG_period) else m.ev.smpLeft
    if 1 < left then { m with ev := { m.ev with smpLeft := left - 1 } }
    else if m.ev.smpTagged then { m with ev := { m.ev with smpLeft := 0, smpLost := true } }
    else { m with ev := { m.ev with smpLeft := 0, smpTagged := true } }

/-- A core event of Table 20-4 occurs, in the user partition or in privileged mode: counted and sampled (R594, R599). -/
def M.coreEvent (m : M) (core code : Nat) (user : Bool) : M :=
  let m1 := m.countEvent core 1 (fun s => wfield s 0 8 == code &&
    (match wfield s 24 2 with
     | 0 => true
     | 1 => !user
     | 2 => user
     | _ => false))
  m1.sampleOccurs core code

/-- A timebase period: core and fabric events 0x0A.  Which partition H1 runs in is not the model's to know, so its counters
limited to one of them do not count it (log 41). -/
def M.periodEvents (m : M) : M :=
  let plain (s : Word) : Bool := wfield s 0 8 == 0x0A && wfield s 24 2 == 0
  let m1 := m.countEvent 0 1 (fun s => wfield s 0 8 == 0x0A && wfield s 24 2 < 2)
  let m2 := m1.countEvent 1 1 plain
  m2.countEvent 2 1 (fun s => wfield s 0 8 == 0x0A && wfield s 28 1 == 0)

/-- An instruction of a core that makes an access: retired, load or store, transfer, and in point space an access that is
answered (Table 20-4).  Instructions that make no command are not seen (log 41). -/
def M.accessEvents (m : M) (ini : Nat) (write point absent : Bool) : M :=
  if 3 ≤ ini then m
  else
    let core := min ini 1
    let user := ini == 2
    let codes := [1, if write then 3 else 2, 5] ++ (if point then [7] else []) ++ (if point && absent then [8] else [])
    codes.foldl (fun (a : M) c => a.coreEvent core c user) m

end Sys2Proof.Machine
end

