-- ==== Sys2Proof/Machine/Float.lean ====
section
/-! DEFINITION. IEEE 754 binary32 and binary64: round to nearest, ties to even, subnormal numbers kept (R94, R231, R276).
Every operation converts its operands to exact rationals, computes exactly and rounds once. -/

namespace Sys2Proof.Machine

/-- A floating-point format: bits of precision and least exponent field weight. -/
structure FFormat where
  /-- precision in bits, the hidden one included -/
  p : Nat
  /-- bits of the exponent field -/
  ew : Nat
  deriving DecidableEq, Repr

def f32fmt : FFormat := ⟨24, 8⟩
def f64fmt : FFormat := ⟨53, 11⟩

/-- Exponent bias. -/
def FFormat.bias (f : FFormat) : Nat := 2 ^ (f.ew - 1) - 1

/-- Magnitude encoding of infinity. -/
def FFormat.inf (f : FFormat) : Nat := (2 ^ f.ew - 1) * 2 ^ (f.p - 1)

/-- Exponent of the last place of subnormal numbers. -/
def FFormat.qmin (f : FFormat) : Int := 2 - (f.bias + f.p : Nat)

/-- What a floating-point value is. -/
inductive FVal where
  | nan (signalling : Bool)
  | inf (neg : Bool)
  | fin (neg : Bool) (mag : Rat)
  deriving DecidableEq, Repr

/-- Two to an integer power. -/
def pow2 (e : Int) : Rat := if 0 ≤ e then ((2 ^ e.toNat : Nat) : Rat) else 1 / ((2 ^ (-e).toNat : Nat) : Rat)

/-- The value an encoding stands for. -/
def FFormat.decode (f : FFormat) (n : Nat) : FVal :=
  let top := 2 ^ (f.ew + f.p - 1)
  let neg := n / top % 2 == 1
  let mag := n % top
  if f.inf < mag then .nan (bitN mag (f.p - 2) == 0)
  else if mag == f.inf then .inf neg
  else
    let e := mag / 2 ^ (f.p - 1)
    let m := mag % 2 ^ (f.p - 1)
    if e == 0 then .fin neg ((m : Rat) * pow2 f.qmin)
    else .fin neg (((m + 2 ^ (f.p - 1) : Nat) : Rat) * pow2 (f.qmin + (e - 1 : Nat)))

/-- Exponent `e` with `2 ^ e ≤ n / d < 2 ^ (e + 1)`, for positive `n` and `d`. -/
def ilog2 (n d : Nat) : Int :=
  let k : Int := (Nat.log2 n : Int) - (Nat.log2 d : Int)
  if (n : Rat) / (d : Rat) < pow2 k then k - 1 else k

/-- Magnitude encoding of a rational magnitude, rounded to nearest, ties to even. -/
def FFormat.roundMag (f : FFormat) (r : Rat) : Nat :=
  let n := r.num.natAbs
  let d := r.den
  if n == 0 then 0
  else
    let qe := max (ilog2 n d - (f.p - 1 : Nat)) f.qmin
    let a := if 0 ≤ qe then n else n * 2 ^ (-qe).toNat
    let b := if 0 ≤ qe then d * 2 ^ qe.toNat else d
    let q := a / b
    let rem := a % b
    let q' := if b < 2 * rem || (2 * rem == b && q % 2 == 1) then q + 1 else q
    min (q' + (qe - f.qmin).toNat * 2 ^ (f.p - 1)) f.inf

/-- Encoding of a sign and a magnitude encoding. -/
def FFormat.sign (f : FFormat) (neg : Bool) (mag : Nat) : Nat := mag + b2n neg * 2 ^ (f.ew + f.p - 1)

/-- Encoding of a rational; zero takes the sign given. -/
def FFormat.round (f : FFormat) (zeroNeg : Bool) (r : Rat) : Nat :=
  let m := f.roundMag r
  if r.num == 0 then f.sign zeroNeg 0 else f.sign (decide (r < 0)) m

/-- The quiet NaN an invalid operation returns (R94). -/
def FFormat.qnan (f : FFormat) : Nat := f.inf + 2 ^ (f.p - 2)

/-- Signed rational of a finite value. -/
def FVal.rat : FVal → Rat
  | .fin n m => if n then -m else m
  | _ => 0

def FVal.neg : FVal → Bool
  | .fin n _ => n
  | .inf n => n
  | .nan _ => false

def FVal.isNan : FVal → Bool
  | .nan _ => true
  | _ => false

def FVal.isSig : FVal → Bool
  | .nan s => s
  | _ => false

def FVal.isFin : FVal → Bool
  | .fin _ _ => true
  | _ => false

/-- An encoded result and whether the operation was invalid. -/
abbrev FRes := Nat × Bool

/-- Sum. -/
def FFormat.add (f : FFormat) (x y : Nat) : FRes :=
  match f.decode x, f.decode y with
  | .nan s, b => (f.qnan, s || b.isSig)
  | _, .nan s => (f.qnan, s)
  | .inf a, .inf b => if a == b then (f.sign a f.inf, false) else (f.qnan, true)
  | .inf a, _ => (f.sign a f.inf, false)
  | _, .inf b => (f.sign b f.inf, false)
  | a, b => (f.round (a.neg && b.neg) (a.rat + b.rat), false)

/-- Negation of an encoding. -/
def FFormat.negate (f : FFormat) (x : Nat) : Nat :=
  let top := 2 ^ (f.ew + f.p - 1)
  if x / top % 2 == 1 then x - top else x + top

/-- Difference. -/
def FFormat.sub (f : FFormat) (x y : Nat) : FRes := f.add x (f.negate y)

/-- Product. -/
def FFormat.mul (f : FFormat) (x y : Nat) : FRes :=
  match f.decode x, f.decode y with
  | .nan s, b => (f.qnan, s || b.isSig)
  | _, .nan s => (f.qnan, s)
  | .inf a, b => if b == .fin true 0 || b == .fin false 0 then (f.qnan, true) else (f.sign (a != b.neg) f.inf, false)
  | a, .inf b => if a == .fin true 0 || a == .fin false 0 then (f.qnan, true) else (f.sign (b != a.neg) f.inf, false)
  | a, b => (f.round (a.neg != b.neg) (a.rat * b.rat), false)

/-- Fused multiply-add `x * y + z`, rounded once. -/
def FFormat.fma (f : FFormat) (x y z : Nat) : FRes :=
  match f.decode x, f.decode y, f.decode z with
  | .fin a p, .fin b q, .fin c r =>
    let prod := (FVal.fin a p).rat * (FVal.fin b q).rat
    (f.round ((a != b) && c) (prod + (FVal.fin c r).rat), false)
  | a, b, .nan s => (f.qnan, s || a.isSig || b.isSig)
  | .fin _ _, .fin _ _, .inf c => (f.sign c f.inf, false)
  | _, _, _ =>
    let (m, i) := f.mul x y
    let (s, j) := f.add m z
    (s, i || j)

/-- Quotient. -/
def FFormat.div (f : FFormat) (x y : Nat) : FRes :=
  match f.decode x, f.decode y with
  | .nan s, b => (f.qnan, s || b.isSig)
  | _, .nan s => (f.qnan, s)
  | .inf a, b => if b.isFin then (f.sign (a != b.neg) f.inf, false) else (f.qnan, true)
  | a, .inf b => (f.sign (b != a.neg) 0, false)
  | a, b =>
    if b.rat = 0 then (if a.rat = 0 then (f.qnan, true) else (f.sign (a.neg != b.neg) f.inf, false))
    else (f.round (a.neg != b.neg) (a.rat / b.rat), false)

/-- `x < y`, false when an operand is a NaN. -/
def FFormat.lt (f : FFormat) (x y : Nat) : Bool :=
  match f.decode x, f.decode y with
  | .nan _, _ => false
  | _, .nan _ => false
  | .inf a, .inf b => a && !b
  | .inf a, _ => a
  | _, .inf b => !b
  | a, b => decide (a.rat < b.rat)

/-- Equality of values, false when an operand is a NaN. -/
def FFormat.eq (f : FFormat) (x y : Nat) : Bool :=
  match f.decode x, f.decode y with
  | .nan _, _ => false
  | _, .nan _ => false
  | .inf a, .inf b => a == b
  | .inf _, _ => false
  | _, .inf _ => false
  | a, b => decide (a.rat = b.rat)

/-- minimumNumber of IEEE 754-2019 (R94). -/
def FFormat.minNum (f : FFormat) (x y : Nat) : FRes :=
  let a := f.decode x
  let b := f.decode y
  let inv := a.isSig || b.isSig
  if a.isNan && b.isNan then (f.qnan, inv)
  else if a.isNan then (y, inv)
  else if b.isNan then (x, inv)
  else if f.lt x y || (f.eq x y && a.neg) then (x, inv) else (y, inv)

/-- maximumNumber of IEEE 754-2019 (R94). -/
def FFormat.maxNum (f : FFormat) (x y : Nat) : FRes :=
  let a := f.decode x
  let b := f.decode y
  let inv := a.isSig || b.isSig
  if a.isNan && b.isNan then (f.qnan, inv)
  else if a.isNan then (y, inv)
  else if b.isNan then (x, inv)
  else if f.lt y x || (f.eq x y && !a.neg) then (x, inv) else (y, inv)

/-- Nearest integer of a rational, ties to even. -/
def ratRound (r : Rat) : Int :=
  let n := r.num.natAbs
  let q := n / r.den
  let rem := n % r.den
  let q' := if r.den < 2 * rem || (2 * rem == r.den && q % 2 == 1) then q + 1 else q
  if r.num < 0 then -(q' : Int) else q'

/-- Largest integer not above a rational. -/
def ratFloor (r : Rat) : Int := r.num / (r.den : Int)

/-- Integer square root, from above by Newton steps on fuel. -/
def isqrtFrom (n : Nat) : Nat → Nat → Nat
  | 0, x => x
  | k + 1, x =>
    let y := (x + n / max x 1) / 2
    if y < x then isqrtFrom n k y else x

/-- Largest natural number whose square is not above `n`. -/
def isqrt (n : Nat) : Nat := if n < 2 then n else isqrtFrom n (Nat.log2 n + 8) (2 ^ (Nat.log2 n / 2 + 1))

/-- Square root of a non-negative rational, to within one part in 2 ^ 96 of a unit: exact enough to round once. -/
def ratSqrt (r : Rat) : Rat :=
  if r ≤ 0 then 0
  else ((isqrt (r.num.natAbs * r.den * 2 ^ 192) : Nat) : Rat) / ((r.den * 2 ^ 96 : Nat) : Rat)

/-! ### binary32 on words -/

/-- A binary32 word as a natural number pattern and back. -/
def f32 (n : Nat) : F32 := BitVec.ofNat 32 n

def f32Add (x y : F32) : F32 := f32 (f32fmt.add x.toNat y.toNat).1
def f32Sub (x y : F32) : F32 := f32 (f32fmt.sub x.toNat y.toNat).1
def f32Mul (x y : F32) : F32 := f32 (f32fmt.mul x.toNat y.toNat).1
def f32Lt (x y : F32) : Bool := f32fmt.lt x.toNat y.toNat
def f32Le (x y : F32) : Bool := f32fmt.lt x.toNat y.toNat || f32fmt.eq x.toNat y.toNat
def f32Eq (x y : F32) : Bool := f32fmt.eq x.toNat y.toNat
def f32Neg (x : F32) : F32 := f32 (f32fmt.negate x.toNat)
def f32Abs (x : F32) : F32 := f32 (x.toNat % 2 ^ 31)
def f32Finite (x : F32) : Bool := (f32fmt.decode x.toNat).isFin
def f32IsNan (x : F32) : Bool := (f32fmt.decode x.toNat).isNan
/-- Exact value of a finite word, 0 otherwise. -/
def f32Rat (x : F32) : Rat := (f32fmt.decode x.toNat).rat
/-- A rational rounded to binary32. -/
def f32Of (r : Rat) : F32 := f32 (f32fmt.round false r)
/-- Exact value of a finite binary64, 0 otherwise, and a rational rounded to binary64. -/
def f64Rat (x : F64) : Rat := (f64fmt.decode x.toNat).rat
def f64Of (r : Rat) : F64 := BitVec.ofNat 64 (f64fmt.round false r)

/-! ### binary64 on words -/

def f64 (n : Nat) : F64 := BitVec.ofNat 64 n
def f64Add (x y : F64) : F64 := f64 (f64fmt.add x.toNat y.toNat).1
def f64Sub (x y : F64) : F64 := f64 (f64fmt.sub x.toNat y.toNat).1
def f64Mul (x y : F64) : F64 := f64 (f64fmt.mul x.toNat y.toNat).1
def f64Div (x y : F64) : F64 := f64 (f64fmt.div x.toNat y.toNat).1
def f64Lt (x y : F64) : Bool := f64fmt.lt x.toNat y.toNat
def f64Le (x y : F64) : Bool := f64fmt.lt x.toNat y.toNat || f64fmt.eq x.toNat y.toNat
/-- A binary64 rounded to binary32. -/
def f64To32 (x : F64) : F32 := f32Of (f64Rat x)

/-- Square root, rounded once. -/
def f64Sqrt (x : F64) : F64 := f64Of (ratSqrt (f64Rat x))

/-- π to 60 places. -/
def piRat : Rat :=
  3141592653589793238462643383279502884197169399375105820974945 / 10 ^ 60

/-- Terms of the sine or cosine series from one on, by the square of the angle; `k` more terms follow. -/
def trigTerms (sq : Rat) : Nat → Nat → Rat → Rat
  | 0, _, t => t
  | k + 1, n, t => t + trigTerms sq k (n + 2) (-(t * sq / ((n + 1) * (n + 2) : Nat)))

/-- An angle in degrees as radians within one turn. -/
def radians (d : Rat) : Rat := (d - 360 * (ratFloor (d / 360) : Rat)) * piRat / 180

/-- Cosine and sine of a binary64 angle in degrees, rounded once (R275; DESIGN CHOICE, log 101). -/
def cosDeg (a : F64) : F64 := let x := radians (f64Rat a); f64Of (trigTerms (x * x) 40 0 1)
def sinDeg (a : F64) : F64 := let x := radians (f64Rat a); f64Of (trigTerms (x * x) 40 1 x)

/-- `x` held within `lo` and `hi`. -/
def f32Clamp (x lo hi : F32) : F32 := if f32Lt x lo then lo else if f32Lt hi x then hi else x

end Sys2Proof.Machine
end

