-- ==== Sys2Proof/Machine/FabAlu.lean ====
section
/-! DEFINITION. The operations of A-cell slots (Tables 3-2 and 4-7, R94).  Conventions the spec does not state (what a compare
answers, a shift by 32 or more, field operands, the operand a select takes) are the free function `Config.cellOpen`. -/

namespace Sys2Proof.Machine

/-- What an operation leaves: its result and the overflow and invalid flags it sets. -/
structure AluRes where
  value : Word
  overflow : Bool
  invalid : Bool
  deriving DecidableEq, Repr

/-- A result that sets no flag. -/
def AluRes.plain (v : Word) : AluRes := ⟨v, false, false⟩

/-- A result in the slot's range: outside it the overflow flag, and the clamp of a saturating slot (R94). -/
def inRange (unsigned saturate : Bool) (r : Int) : AluRes :=
  let lo : Int := if unsigned then 0 else -2147483648
  let hi : Int := if unsigned then 4294967295 else 2147483647
  if lo ≤ r ∧ r ≤ hi then .plain (BitVec.ofInt 32 r)
  else ⟨BitVec.ofInt 32 (if saturate then max lo (min hi r) else r), true, false⟩

/-- A binary32 result with its invalid flag. -/
def floatRes (r : FRes) : AluRes := ⟨BitVec.ofNat 32 r.1, false, r.2⟩

/-- Operand value in the slot's range. -/
def rangeVal (unsigned : Bool) (x : Word) : Int := if unsigned then (x.toNat : Int) else x.toInt

/-- Ones in a word. -/
def countOnes (x : Word) : Nat := (List.range 32).foldl (fun a i => a + bitN x.toNat i) 0

/-- The result of a convention the spec does not state. -/
def openRes (op : Nat) (a b c : Word) : AluRes := .plain (Config.cellOpen op a b c)

/-- Shifts and rotate: by less than 32 as named, else open. -/
def shiftRes (op : Nat) (a b c : Word) (f : Nat → Word) : AluRes :=
  if b.toNat < 32 then .plain (f b.toNat) else openRes op a b c

/-- Integer group 0x0. -/
def aluInteger (op : Nat) (saturate unsigned : Bool) (a b c : Word) : AluRes :=
  match op with
  | 0x00 => inRange unsigned saturate (rangeVal unsigned a + rangeVal unsigned b)
  | 0x01 => inRange unsigned saturate (rangeVal unsigned a - rangeVal unsigned b)
  | 0x02 => .plain (a &&& b)
  | 0x03 => .plain (a ||| b)
  | 0x04 => .plain (a ^^^ b)
  | 0x05 => .plain (~~~ a)
  | 0x06 => shiftRes op a b c (fun n => a <<< n)
  | 0x07 => shiftRes op a b c (fun n => a >>> n)
  | 0x08 => shiftRes op a b c (fun n => a.sshiftRight n)
  | 0x09 => shiftRes op a b c (fun n => a.rotateLeft n)
  | 0x0C => .plain (if a.toInt ≤ b.toInt then a else b)
  | 0x0D => .plain (if a.toInt ≤ b.toInt then b else a)
  | 0x0E => inRange false saturate (if a.toInt < 0 then -a.toInt else a.toInt)
  | _ => openRes op a b c

/-- Groups 0x1 and 0x2. -/
def aluField (op : Nat) (saturate unsigned : Bool) (a b c : Word) : AluRes :=
  match op with
  | 0x10 => .plain a
  | 0x13 => .plain (BitVec.ofNat 32 (countOnes a))
  | 0x20 => inRange unsigned saturate (rangeVal unsigned a * rangeVal unsigned b)
  | 0x21 => .plain (BitVec.ofInt 32 (a.toInt * b.toInt / 4294967296))
  | 0x22 => .plain (BitVec.ofNat 32 (a.toNat * b.toNat / 4294967296))
  | _ => openRes op a b c

/-- Conversion to a signed integer, ties to even; a value without one is an invalid operation (R94). -/
def floatToInt (a : Word) : AluRes :=
  let d := f32fmt.decode a.toNat
  let r := ratRound d.rat
  if d.isFin && decide (-2147483648 ≤ r ∧ r ≤ 2147483647) then .plain (BitVec.ofInt 32 r)
  else ⟨BitVec.ofNat 32 f32fmt.qnan, false, true⟩

/-- binary32 compare: the answer is open, and whether a quiet NaN is invalid; a signalling NaN is (R94). -/
def floatCompare (a b : Word) : AluRes :=
  let x := f32fmt.decode a.toNat
  let y := f32fmt.decode b.toNat
  let quiet := (x.isNan || y.isNan) && (Config.cellOpen 0x133 a b 0).toNat % 2 == 1
  ⟨Config.cellOpen 0x33 a b 0, false, x.isSig || y.isSig || quiet⟩

/-- Group 0x3. -/
def aluFloat (op : Nat) (a b c : Word) : AluRes :=
  match op with
  | 0x30 => floatRes (f32fmt.add a.toNat b.toNat)
  | 0x31 => floatRes (f32fmt.sub a.toNat b.toNat)
  | 0x32 => floatRes (f32fmt.mul a.toNat b.toNat)
  | 0x33 => floatCompare a b
  | 0x34 => floatRes (f32fmt.minNum a.toNat b.toNat)
  | 0x35 => floatRes (f32fmt.maxNum a.toNat b.toNat)
  | 0x36 => floatToInt a
  | 0x37 => .plain (BitVec.ofNat 32 (f32fmt.round false (a.toInt : Rat)))
  | _ => floatRes (f32fmt.fma a.toNat b.toNat c.toNat)

/-- An operation of Table 4-7 other than point access, on its three operands. -/
def alu (op : Nat) (saturate unsigned : Bool) (a b c : Word) : AluRes :=
  if op < 0x10 then aluInteger op saturate unsigned a b c
  else if op < 0x30 then aluField op saturate unsigned a b c
  else if op < 0x40 then aluFloat op a b c
  else .plain a

/-- Opcodes of Table 4-7. -/
def opcodeKnown (op : Nat) : Bool :=
  op < 0x10 || (0x10 ≤ op && op ≤ 0x13) || (0x20 ≤ op && op ≤ 0x22) || (0x30 ≤ op && op ≤ 0x38) || op == 0x40 ||
  (0x50 ≤ op && op ≤ 0x52)

/-- Firing time in cell operation times (Table 3-2). -/
def opTime (op : Nat) : Nat :=
  if op == 0x38 then 3 else if op / 16 == 2 || op / 16 == 3 then 2 else 1

end Sys2Proof.Machine
end

