-- ==== Sys2Proof/Machine/Reset.lean ====
section
/-! DEFINITION. The module right after a power-on reset is released (Table 14-4, step 1): every block as the spec resets it,
and what the spec leaves open at the values of the assumption log (entries 1 to 6). -/

namespace Sys2Proof.Machine

def TimeState.reset : TimeState :=
  { tai := 0, tb := 0, rateAcc := 0, slew := 0, calDay := 0, calSec := 0, calSub := 0, calLeap := false, syncGood := 0, syncBig := [],
    holdEnd := none, everLocked := false, mainsApplied := false, latTaiHi := [], latDate := [], monBad := 0,
    goodSince := [], arbitration := none, vinPresent := true, vbakPresent := true }

def PowerState.reset : PowerState :=
  { busy := .idle, queue := [], heldRaise := false, windowDirty := false }

def EventState.reset : EventState :=
  { stack0 := [], stack1 := [], entry0 := false, entry1 := false, smpLeft := 0, smpTagged := false, smpLost := false,
    smpLatch := [], starts0 := 0, starts1 := 0 }

def RecState.reset : RecState :=
  { ready := false, nonce := 0, head := [], reel := [], nextSeq := 0, lost := false, queue := [], uncopied := [],
    copyHead := [], copyReel := [], copyHeadSize := 512, log := [], nextLogSeq := 0, tseq := [], logLost := [],
    logQueue := [], authRun := 0, lockUntil := none }

def PointState.reset : PointState :=
  { points := [], shares := [], forces := [], subs := [], notes := [], nopt := [], dirCmd := none, shrCmd := none,
    frcCmd := none, retention := [], forceStore := [], forceDrops := [] }

def Quadrant.reset : Quadrant :=
  { cells := [], flight := [], waiting := [], outstanding := [], quiesceBy := none, failed := [], lastFire := 0,
    tested := 0, wordTests := [] }

def FabricState.reset : FabricState :=
  { quads := [Quadrant.reset, Quadrant.reset, Quadrant.reset, Quadrant.reset], paths := [], sbkStart := [] }

def ImageState.reset : ImageState :=
  { bank0 := [], bank1 := [], staging := [], job := .none, source := 0, configure := [], arm := [], inForce := [], level := 0, stopped := [] }

def ExecState.reset : ExecState :=
  { taskRecs := [], units := [], waves := [], active := [], tasks := [], patchTask := none, patches := [] }

def LoopChannel.reset : LoopChannel :=
  { pvPrev := 0, uPrev := 0, lastSp := 0, lastReg := 0, lastTrk := 0, prevSp := none, feStart := none, handOver := none, ramp := false,
    wasForced := false, wasHeld := false, denied := false, cascadeOff := false, cascadeInner := false, lastAt := 0, srcEpisode := false,
    spEpisode := false, trkEpisode := false, ffEpisode := false, queued := [], sampledAt := none, cold := false }

def LoopState.reset : LoopState :=
  { channels := List.replicate 64 LoopChannel.reset, waltz := [], kept := [] }

def Energy.reset : Energy := { xe := 0, residue := 0 }

def Circuit.reset : Circuit :=
  { energies := List.replicate 7 Energy.reset, epi0 := 0, epe0 := 0, start := 0, short := false, stepped := false, waiting := false, neutralRun := 0, lost := 0,
    dpi := 0, dpe := 0, maxd := 0, maxdt := 0 }

def VoltageSet.reset : VoltageSet :=
  { seqRun := 0, neutralRun := 0, sagLen := [0, 0, 0], sagExt := [0, 0, 0], swellLen := [0, 0, 0], swellExt := [0, 0, 0],
    intrLen := 0, intrExt := 0 }

def MeterState.reset : MeterState :=
  { circuits := List.replicate 12 Circuit.reset, sets := [VoltageSet.reset, VoltageSet.reset], stream := 0, condition := 0,
    frames := 0, settleAt := 0, overrange := 0, clockIn := false, driving := false, demandAt := 0, stopping := false, clear := none, cyclesBad := false,
    saved := none, frameLog := [], mirrored := [] }

def CanState.reset : CanState :=
  { rxq0 := [], rxq1 := [], stations := [], refSeq := 0, asleep := none, dialogue := [], refWaiting := false, onBus := none, ending := none }

def EthPort.reset : EthPort :=
  { pauseEnd := none, lpi := false, txq := [], waiting := [], wakeEnd := none, syncDiff := none, reqSent := none, sdLow := 0, sdHigh := 0, sdHoldEnd := none, upSince := none,
    idleSince := 0, only := none }

def EthState.reset : EthState :=
  { ports := [EthPort.reset, EthPort.reset, EthPort.reset], step := none, change := none, spFrame := none }

def KrovState.reset : KrovState :=
  { sessions := [], accounts := [], failRun := [], lockUntil := [], transfers := [], cntHeader := 0, cntNoSession := 0, held := [],
    net := [] }

def IbxState.reset : IbxState :=
  { leaseEnd := none, held := none, beats := [], txSeq := 0, rxSeq := 0, pactBy := none, witAt := none, peerAt := none,
    peerEpoch := 0, peerImage := 0, peerOfs := 0, handover := .none, healthSafe := false, prefSince := none, okSince := none,
    addresses := false, pairStore := [], fullCycles := 0, peerStale := false, paceLowAt := none, selfTest := false, rbLine := 0,
    rotationOk := true, rotationAt := 0, hostStart := none, quietEnd := none, hostSeq := 0, pairs := [] }

def TetherState.reset : TetherState :=
  { txSeq := 1, unacked := [], ackAt := 0, rxSeq := 1, rxOwed := 0, rxAckBy := none, rxCycle := 0, rxFrames := 0, rxBytes := 0, rxItems := [], applied := false,
    txCycle := 0, pointCursor := 0, waltzCursor := 0, capture := [], txFrames := 0, txBytes := 0, bulk := [], changes := [], pendingCells := [], downSince := some 0,
    errorAt := none }

def LioState.reset : LioState :=
  { pins := 0, pinAt := [], driven := [], pwm := [], funcSeen := false, extraction := .none, inSwitch := true }

def BootState.reset : BootState :=
  { phase := .rising, since := 0, stepTimes := [], linkAt := none, step6At := none, claimAt := none, step12At := none, mwdBy := 1000000000,
    mwdLeft := none,
    shutdown := none, mgmt := false, resetWaits := false, marker := false, epochSaved := 0,
    settings := [], wipes := 0 }

def NvpState.reset : NvpState :=
  { pages := [], copies := [], bad := [], buffer := [], owner := none, rdPw := [], wrPw := [], rdOpen := [], wrOpen := [],
    authRun := [], lockUntil := [], commits := [], scanned := [] }

def HstState.reset : HstState := { logs := [], written := 0 }

/-- The vault as it leaves the vendor: OWNED, with an owner root, every slot empty (R548). -/
def KvState.reset : KvState :=
  { lc := 2, marker := none, ownerRoot := some 0, nonce := 1, slots := [], opw := none, authRun := 0, lockUntil := none,
    opened := none, statement := [] }

def BootRecord.reset : BootRecord := { active := 0, trial := none, prevValid := false, cause := 0, floor := 0 }

def UpdState.reset : UpdState :=
  { boot := BootRecord.reset, firmware := [], imageNeeds := [], package := [], headerOk := false, restarting := none,
    windowEnd := none, snapshot := [], peerReady := false, peerMgmt := 0, swapIds := none, fellBack := false, ownKey := [] }

/-- The gates open by default in a life-cycle state (Table 18-1), as KV_ACC.gates shows them. -/
def defaultGates (lc : Nat) : Nat :=
  match lc with
  | 1 | 2 => 7
  | 4 => 3
  | _ => 0

/-- Registers whose reset value is a pin or the vault's (marked so in the register maps): the lever closed, ENA asserted, no
peer, slot A.  The vault's registers are computed from the vault. -/
def pinRegs : List (Nat × Word) :=
  [(0x403B0000, 0x000000D0)]

/-- The module at the release of a power-on reset. -/
def M.reset : M :=
  { regs := pinRegs, effs := [], slotB := false, time := TimeState.reset, power := PowerState.reset, ev := EventState.reset,
    frec := RecState.reset, pts := PointState.reset, fab := FabricState.reset, img := ImageState.reset,
    exe := ExecState.reset, loop := LoopState.reset, mtr := MeterState.reset, can := List.replicate 8 CanState.reset,
    eth := EthState.reset, krov := KrovState.reset, ibx := IbxState.reset, tth := TetherState.reset, lio := LioState.reset,
    boot := BootState.reset, nvp := NvpState.reset, hst := HstState.reset, kv := KvState.reset, upd := UpdState.reset,
    rnd := 5, free := 0, out := [] }

end Sys2Proof.Machine
end

