-- ==== Sys2Proof/Machine/Access.lean ====
section
/-! DEFINITION. Who accesses the module and what is refused before a register sees the access: initiators and tags (R17,
Table 1-2), the address map (Table 1-7), bus errors (R38 to R42). -/

namespace Sys2Proof.Machine

/-- An initiator as a target sees it: code, tag, and the session it acts for. -/
structure Who where
  ini : Nat
  tag : Tag
  session : Option Nat
  /-- a privileged program unit (R214) -/
  priv : Bool
  deriving DecidableEq, Repr

/-- Role codes of Table 10-5. -/
def roleOf (n : Nat) : Role :=
  match n with
  | 0 => .view
  | 1 => .operate
  | 2 => .engineer
  | 3 => .owner
  | _ => .service

def Role.code : Role → Nat
  | .view => 0
  | .operate => 1
  | .engineer => 2
  | .owner => 3
  | .service => 4

/-- The session with an ID that is open. -/
def M.openSession (m : M) (id : Nat) : Option Session :=
  (m.krov.sessions.find? (fun p => p.2.id == id && p.2.place == .open)).map Prod.snd

/-- No initiator runs: a power-on reset is held, or the boot has halted (Tables 14-3, 14-5). -/
def M.inert (m : M) : Bool := m.boot.phase == .held || m.boot.phase == .halted

/-- The initiator of a master: its code, tag and session. -/
def M.initiator (m : M) : Master → Option Who
  | .h0 => some ⟨0, .system, none, false⟩
  | .h1 => some ⟨1, .mk 0 .engineer, none, false⟩
  | .h1User => some ⟨2, .mk (m.get F.SYS_H1_TAG_tenant) (roleOf (m.get F.SYS_H1_TAG_role)), none, false⟩
  | .session id => (m.openSession id).map (fun s => ⟨3, .mk s.tenant s.role, some id, false⟩)
  | .unit n => (m.exe.units.find? (fun u => u.unit == n)).map (fun u => ⟨4, .mk u.tenant (roleOf u.role), none, u.priv⟩)
  | .loop n => if n < 64 then some ⟨5, .mk (m.get F.LPE_CH_TEN_tenant n) .operate, none, false⟩ else none
  | .recorder => some ⟨6, .system, none, false⟩
  | .tether => some ⟨7, .system, none, false⟩
  | .update => some ⟨8, .system, none, false⟩

/-- The initiator and tag of a master; none for a session, unit or channel that does not exist, and while nothing runs. -/
def M.who (m : M) (x : Master) : Option Who := if m.inert then none else m.initiator x

/-- The tag passes the Expert-window check: system, ENGINEER or above, SERVICE (R13, R18, R155). -/
def Tag.expert : Tag → Bool
  | .system => true
  | .mk _ r => r == .engineer || r == .owner || r == .service

/-- A tag of tenant 0 in role OWNER. -/
def Tag.owner0 : Tag → Bool
  | .mk 0 .owner => true
  | _ => false

/-- The tag of tenant 255 in role SERVICE. -/
def Tag.service255 : Tag → Bool
  | .mk 255 .service => true
  | _ => false

def Tag.isSystem : Tag → Bool
  | .system => true
  | _ => false

/-- Tenant and role bytes of a tag as records carry them: the system tag reads tenant 0, role 0xFF (log 12). -/
def Tag.bytes : Tag → Nat × Nat
  | .system => (0, 255)
  | .mk t r => (t, r.code)

/-- Regions of Table 1-7. -/
inductive Region where
  | bootRom
  | sram0
  | sram1
  /-- a register window: its number and the power domain that must be on -/
  | window (n : Nat) (domain : Option Nat)
  | points
  deriving DecidableEq, Repr

/-- Power domain of a register window, none for AON and BAK (Tables 1-7, 12-11); none of the map for other windows. -/
def windowDomain (n : Nat) : Option (Option Nat) :=
  if n == 0x4005 then some (some 6)
  else if n == 0x4007 then some (some 13)
  else if (0x4000 ≤ n && n ≤ 0x4008) || (0x4010 ≤ n && n ≤ 0x4012) then some none
  else if n == 0x4013 then some (some 5)
  else if n == 0x4014 then some (some 11)
  else if 0x4020 ≤ n && n ≤ 0x4023 then some (some 9)
  else if 0x4024 ≤ n && n ≤ 0x4027 then some (some 10)
  else if n == 0x4030 then some (some 7)
  else if n == 0x4031 then some (some 8)
  else if n == 0x4032 then some (some 15)
  else if n == 0x4038 then some (some 12)
  else if n == 0x403A || n == 0x403B || n == 0x403D then some none
  else none

/-- The region of Table 1-7 an address lies in. -/
def regionOf (a : Nat) : Option Region :=
  if a < 0x10000 then some .bootRom
  else if 0x20000000 ≤ a && a < 0x20100000 then some .sram0
  else if 0x20100000 ≤ a && a < 0x20200000 then some .sram1
  else if 0x60000000 ≤ a && a < 0x60080000 then some .points
  else if a < 2 ^ 32 then (windowDomain (a / 65536)).map (fun d => .window (a / 65536) d)
  else none

/-- The gates open: by the life-cycle state, or by R564 (R563); bit 0 HDBG, bit 1 UDBG, bit 2 SVC. -/
def M.gates (m : M) : Nat := Nat.lor (defaultGates m.kv.lc) ((m.kv.opened.map Prod.fst).getD 0)

/-- An open gate lets the tag reach a core's memory with REG_READ and REG_WRITE on SP (R563); gate 0 HDBG, 1 UDBG. -/
def M.gateReach (m : M) (w : Who) (gate : Nat) : Bool :=
  tbit m.gates gate &&
  (match w.tag with
   | .mk 0 .engineer | .mk 255 .service => true
   | _ => false) &&
  (w.session.bind m.openSession).any (fun s => s.port == 1)

/-- An initiator reaches a region at all (Table 1-7, R38, R563); otherwise the address lies outside its map. -/
def M.reaches (m : M) (w : Who) (r : Region) : Bool :=
  match r with
  | .bootRom => w.ini == 0
  | .sram0 => w.ini == 0 || m.gateReach w 0
  | .sram1 => w.ini == 0 || w.ini == 1 || w.ini == 2 || m.gateReach w 1
  | _ => true

/-- The H1 user partition's reach: its SRAM region, the point window, reads of the TIM Basic window (R38, R602). -/
def M.userReach (m : M) (a : Nat) (write : Bool) : Bool :=
  let lo := 0x20100000 + m.get F.SYS_H1_PART_ubase * 4096
  (lo ≤ a && a < lo + m.get F.SYS_H1_PART_usize * 4096)
  || (0x60000000 ≤ a && a < 0x60080000)
  || (!write && 0x40010000 ≤ a && a < 0x40018000)

/-- Reason code of the first cause of R38 that refuses an access, but for a refused /S write. -/
def M.refusal (m : M) (w : Who) (a width : Nat) (write : Bool) : Option Nat :=
  match regionOf a with
  | none => some 1
  | some r =>
    if w.ini == 2 && !m.userReach a write then some 3
    else if !m.reaches w r then some 1
    else if !((width == 4 && a % 4 == 0) || (width == 8 && a % 8 == 0)) then some 6
    else match r with
      | .window _ d =>
        if a % 65536 ≥ 32768 && !w.tag.expert then some 2
        else if (d.map (fun n => !m.domainOn n)).getD false then some 4
        else none
      | .sram0 | .sram1 => if !m.domainOn 4 then some 4 else none
      | _ => none

/-- Record a refusal and answer it (R38, R42). -/
def M.busError (m : M) (w : Who) (a : Nat) (write : Bool) (reason : Nat) : M :=
  let cnt := satAdd (m.get F.SYS_BUSERR_INFO_count) 1 0xFFFF
  let m1 := m.wr .SYS_BUSERR_ADDR (BitVec.ofNat 32 a)
  let m2 := m1.wr .SYS_BUSERR_INFO (BitVec.ofNat 32 (cnt * 65536 + 256 + b2n write * 128 + reason * 16 + w.ini))
  (m2.raise 0x15).emit (.busError w.ini a reason)

/-- A session of tenants 1 to 250 reaches only the PTD window (R156). -/
def M.tenantBarred (m : M) (w : Who) (a : Nat) : Bool :=
  match m, w.tag with
  | _, .mk t _ => w.ini == 3 && 1 ≤ t && t ≤ 250 && !(a / 65536 == 0x4011)
  | _, .system => false

/-- Calendar minute now, counted from 2000. -/
def M.calMinute (m : M) : Nat := m.time.calDay * 1440 + m.time.calSec / 60

end Sys2Proof.Machine
end

