-- ==== Sys2Proof/Machine/CanTx.lean ====
section
/-! DEFINITION. What a CAN controller sends: the reference message, dialogue frames and transmit buffers that wait, and the one on the
bus (R314, R320, R321; log 102). -/

namespace Sys2Proof.Machine

def CanState.empty : CanState := ⟨[], [], [], 0, none, [], false, none, none⟩

def M.canBox (m : M) (n : Nat) : CanState := (m.can[n]?).getD CanState.empty

def M.setCan (m : M) (n : Nat) (c : CanState) : M := { m with can := listSet m.can n c }

/-- The controller is ACTIVE. -/
def M.canActive (m : M) (b : Nat) : Bool := m.get F.CAN_STAT_state b == 2

/-- The controller is ACTIVE and may start a frame: it is not about to leave that state (R309, R317). -/
def M.canSends (m : M) (n : Nat) : Bool := m.canActive n && (m.canBox n).ending.isNone

/-- Smallest CAN FD data length that holds `n` bytes. -/
def fdLength (n : Nat) : Nat :=
  if n ≤ 8 then n
  else ([12, 16, 20, 24, 32, 48, 64].find? (fun l => n ≤ l)).getD 64

/-- Data length code of a length in bytes. -/
def dlcOf (len : Nat) : Nat :=
  if len ≤ 8 then len else (([12, 16, 20, 24, 32, 48, 64].findIdx? (fun l => l == len)).map (fun i => 9 + i)).getD 15

/-- A frame the module's station engine sends: FD with bit-rate switch, base format, padded to its FD length (R320). -/
def dialogueFrame (id : Nat) (data : Bytes) : CanFrame :=
  let d := padTo (fdLength data.length) data
  { ext := false, fd := true, brs := true, rtr := false, esi := false, id := id, dlc := dlcOf d.length, data := d }

/-- The frame in a transmit buffer (Table 8-6). -/
def M.bufferFrame (m : M) (n b : Nat) : CanFrame :=
  let w0 := (m.rd .CAN_TXB_W n b 0).toNat
  let w1 := (m.rd .CAN_TXB_W n b 1).toNat
  let len := w1 % 128
  let ext := tbit w0 31
  let bytes := (List.range 16).flatMap (fun k => toLE 4 (m.rd .CAN_TXB_W n b (4 + k)).toNat)
  { ext := ext, fd := tbit w0 30, brs := tbit w0 29, rtr := tbit w1 30, esi := false,
    id := if ext then w0 % 2 ^ 29 else w0 % 2 ^ 11, dlc := dlcOf len, data := if tbit w1 30 then [] else bytes.take len }

/-- Order of frames on the bus: lowest identifier first, a base identifier before the extended one it begins. -/
def CanFrame.key (f : CanFrame) : Nat := if f.ext then 2 * f.id + 1 else f.id * 2 ^ 19

/-- The transmit buffer that goes next: lowest identifier, then lowest number (R314). -/
def M.nextBuffer (m : M) (n : Nat) : Option Nat :=
  ((List.range 8).filter (fun b => m.bitOf F.CAN_TXREQ_req b n)).foldl (fun (a : Option Nat) b => match a with
    | none => some b
    | some x => if (m.bufferFrame n b).key < (m.bufferFrame n x).key then some b else some x) none

/-- The waiting dialogue frame that goes next: lowest identifier, then the oldest. -/
def nextDialogue (l : List CanFrame) : Option CanFrame :=
  l.foldl (fun (a : Option CanFrame) f => match a with
    | none => some f
    | some x => if f.key < x.key then some f else some x) none

/-- What goes on the bus next: a REF, else the lowest identifier among dialogue frames and buffers. -/
def M.nextTx (m : M) (n : Nat) : Option CanTx :=
  let c := m.canBox n
  if c.refWaiting then some .ref
  else match nextDialogue c.dialogue, m.nextBuffer n with
    | some f, some b => some (if (m.bufferFrame n b).key < f.key then .buffer b else .dialogue f)
    | some f, none => some (.dialogue f)
    | none, some b => some (.buffer b)
    | none, none => none

/-- What waits goes on a bus that carries no frame of the module (DESIGN CHOICE, log 102). -/
def M.canStart (m : M) (n : Nat) : M :=
  let c := m.canBox n
  if !m.canSends n || c.onBus.isSome then m
  else match m.nextTx n with
    | none => m
    | some .ref => m.setCan n { c with refWaiting := false, onBus := some .ref }
    | some (.dialogue f) => m.setCan n { c with dialogue := c.dialogue.erase f, onBus := some (.dialogue f) }
    | some (.buffer b) => m.setCan n { c with onBus := some (.buffer b) }

/-- The frame on the bus has lost arbitration or met an error: it waits again (R314, R321). -/
def CanState.back (c : CanState) : CanState :=
  match c.onBus with
  | some .ref => { c with onBus := none, refWaiting := true }
  | some (.dialogue f) => { c with onBus := none, dialogue := f :: c.dialogue }
  | _ => { c with onBus := none }

/-- No frame of the module is on the bus now: a controller that was to change its state does so (R309, R317), another goes on. -/
def M.canFree (m : M) (n : Nat) : M :=
  match (m.canBox n).ending with
  | some st => (m.put F.CAN_STAT_state st n).setCan n { m.canBox n with ending := none, dialogue := [], refWaiting := false }
  | none => m.canStart n

/-- The controller leaves ACTIVE for another state, once the frame on the bus has ended; its engine sends nothing more
(R309, R317). -/
def M.canLeave (m : M) (n st : Nat) : M :=
  let c := m.canBox n
  if c.onBus.isSome then m.setCan n { c with ending := some st, dialogue := [], refWaiting := false }
  else (m.put F.CAN_STAT_state st n).setCan n { c with ending := none, dialogue := [], refWaiting := false }

/-- Hand a dialogue frame to a bus (R320). -/
def M.canSend (m : M) (b id : Nat) (data : Bytes) : M :=
  if !m.canSends b then m
  else (m.setCan b { m.canBox b with dialogue := (m.canBox b).dialogue ++ [dialogueFrame id data] }).canStart b

end Sys2Proof.Machine
end

