-- ==== Sys2Proof/Machine/Points.lean ====
section
/-! DEFINITION. Point space: directory entries, the Oryx gate, updates and writes with their backings, notification
candidates, and the output commands of remote stations that a changed entry causes (chapter 2, R326, R327, R399, R458). -/

namespace Sys2Proof.Machine

/-- Send a tether frame while the link is up (R391, R392). -/
def M.sendTether (m : M) (b : TetherBody) : M :=
  if !(m.get F.TTH_STAT_link == 2) then m
  else
    let f : TetherFrame := ⟨m.tth.txSeq, m.tth.txCycle, b⟩
    let t := { m.tth with txSeq := m.tth.txSeq + 1, unacked := m.tth.unacked ++ [f],
                          ackAt := if m.tth.unacked.isEmpty then m.time.tb else m.tth.ackAt }
    ({ m with tth := t }).emit (.tether f false)

/-- Send a change record to the peer from an ACTIVE unit; the answer waits for its acknowledgment or 1 ms (R399). -/
def M.sendChange (m : M) (c : ChangeRec) : Option Nat × M :=
  if m.unitState == 4 && m.get F.TTH_STAT_link == 2 then
    let seq := m.tth.txSeq
    let m1 := m.sendTether (.change c)
    (some seq, { m1 with tth := { m1.tth with changes := m1.tth.changes ++ [(seq, m1.time.tb + ms)] } })
  else (none, m)

/-- The change frame whose acknowledgment stands between a module and the answer of what it has just accepted (R399). -/
def M.awaits (m : M) (was : M) : Option Nat :=
  ((m.tth.changes.filter (fun p => !was.tth.changes.contains p)).getLast?).map Prod.fst

/-- An answer waits for its time and its change frame. -/
def M.hold (m : M) (h : HeldAnswer) : M := { m with krov := { m.krov with held := m.krov.held ++ [h] } }

/-! ### Directory entries (R47 to R53) -/

def PointRec.kind (p : PointRec) : Nat := wfield p.w0 30 2
def PointRec.dir (p : PointRec) : Nat := wfield p.w0 28 2
def PointRec.backing (p : PointRec) : Nat := wfield p.w0 25 3
def PointRec.owner (p : PointRec) : Nat := wfield p.w0 16 8
def PointRec.share (p : PointRec) : Nat := wfield p.w0 4 12
def PointRec.mirror (p : PointRec) : Bool := wfield p.w0 3 1 == 1
def PointRec.retain (p : PointRec) : Bool := wfield p.w0 2 1 == 1
def PointRec.priv (p : PointRec) : Bool := wfield p.w0 1 1 == 1
def PointRec.forceable (p : PointRec) : Bool := wfield p.w0 0 1 == 1
def PointRec.ref (p : PointRec) : Nat := p.w1.toNat
/-- Backings marked Local in Table 2-4. -/
def PointRec.isLocal (p : PointRec) : Bool := [1, 2, 3, 5].contains p.backing
/-- Bus, station and object of a remote backing. -/
def PointRec.bus (p : PointRec) : Nat := fieldN p.ref 24 3
def PointRec.station (p : PointRec) : Nat := fieldN p.ref 16 6
def PointRec.object (p : PointRec) : Nat := p.ref % 65536

/-- Bits a value of a kind holds (Table 2-3). -/
def keepKind (kind : Nat) (v : Word) : Word := if kind == 0 then BitVec.ofNat 32 (v.toNat % 2) else v

/-- Status bits of Table 2-1. -/
def stFault : Nat := 1
def stStale : Nat := 2
def stSubstituted : Nat := 4
def stForced : Nat := 8
def stNotDriven : Nat := 16
def stOverrange : Nat := 32
def stRetained : Nat := 64

/-- The entry of a point; none when absent (R47). -/
def M.point (m : M) (id : Nat) : Option PointRec := if id == 0xFFFF then none else aget id m.pts.points

/-- The force that holds a point, with its place in the table (R71). -/
def M.forceOf (m : M) (id : Nat) : Option (Nat × ForceRec) := m.pts.forces.find? (fun p => p.2.point == id)

/-- Points of one backing and reference. -/
def M.backed (m : M) (backing ref : Nat) : List (Nat × PointRec) :=
  m.pts.points.filter (fun p => p.2.backing == backing && p.2.ref == ref)

/-! ### What outputs present (R48, R194, R325, R421, R458, R459) -/

/-- The local I/O stage runs. -/
def M.lioRun (m : M) : Bool := m.bit F.LIO_CTRL_en && m.domainOn 14

/-- An entry backed by a line fits the line's function (Table 13-3). -/
def M.lineFits (m : M) (p : PointRec) : Bool :=
  let n := p.ref % 64
  match m.get F.LIO_CFG_func n with
  | 0 => false
  | 1 => p.dir == 0 && p.kind == 0
  | 2 => p.kind == 0 && p.dir ≤ 1
  | _ => (p.dir == 1 && p.kind == 1) || (p.dir == 0 && p.kind == 0)

/-- Ibex drives the safe value of an output point instead of its entry: execution stopped or tripped, step 4 of an orderly
stop, a lost health bit with no eligible peer, or an output image whose task has not released since the run (R194, R419,
R421). -/
def M.safeDriven (m : M) (point : Nat) : Bool :=
  let s := m.get F.EXE_STAT_state
  s == 0 || s == 3 || m.ibx.healthSafe ||
  m.exe.tasks.any (fun p => !p.2.released && p.2.outputs.any (fun e => e.point == point))

/-- status.not_driven of an entry (R48, R325, R459). -/
def M.notDriven (m : M) (id : Nat) (p : PointRec) : Bool :=
  p.dir == 1 &&
  (if p.backing == 2 then !(m.lioRun && m.acting) || m.safeDriven id || !m.lineFits p
   else if p.backing == 4 then !m.leased || !(m.get F.CAN_STA_STAT_state p.bus p.station == 2)
   else false)

/-! ### Output lines and their PWM periods (R459, R461) -/

/-- The output point of a line that fits its function (Table 13-3); the lowest ID when several do. -/
def M.lineOutput (m : M) (n : Nat) : Option (Nat × PointRec) :=
  m.pts.points.find? (fun p => p.2.backing == 2 && p.2.ref == n && p.2.dir == 1 && m.lineFits p.2)

/-- The line presents its output entry: run, ACT, no safe value (R459). -/
def M.linePresents (m : M) (n : Nat) : Option (Nat × PointRec) :=
  if m.lioRun && m.acting then (m.lineOutput n).filter (fun p => !m.safeDriven p.1) else none

/-- Level of a PWM line at a timebase time (R461). -/
def M.pwmLevel (m : M) (n : Nat) : Bool :=
  match aget n m.lio.pwm with
  | none => false
  | some (per, (duty, start)) =>
    if per < 20 || duty == 0 then false
    else if per ≤ duty then true
    else (m.time.tb - start) / 5 % per < duty

/-- Units of 5 ns in one timebase period of the level in force (Table 1-5). -/
def M.pwmUnit (m : M) : Nat :=
  match m.get F.PMC_LVL_STAT_level with
  | 0 => 8
  | 1 => 2
  | _ => 1

/-- A period begins on a line with the period written and the duty of its output entry, rounded down to the resolution in force
(R461). -/
def M.pwmLoad (m : M) (n : Nat) : M :=
  let m1 := m.transferAt [Reg.LIO_PWM.addr n 0 0]
  let u := m1.pwmUnit
  let duty := ((m1.lineOutput n).map (fun p => p.2.value.toNat)).getD 0
  let run := (m1.get F.LIO_PWM_period n / u * u, (duty / u * u, m1.time.tb))
  { m1 with lio := { m1.lio with pwm := aput n run m1.lio.pwm } }

/-- A PWM line pulses: it presents its entry, neither held at 0 nor at 1. -/
def M.pwmPulses (m : M) (n : Nat) : Bool :=
  m.get F.LIO_CFG_func n == 3 && (m.linePresents n).isSome &&
  (aget n m.lio.pwm).any (fun r => 20 ≤ r.1 && 0 < r.2.1 && r.2.1 < r.1)

/-- While a line does not pulse, what is written for it acts at once (R461 and the boundary under "LIO registers"). -/
def M.pwmStill (m : M) (n : Nat) : M :=
  if n < 16 && m.get F.LIO_CFG_func n == 3 && m.lioRun && !m.pwmPulses n then m.pwmLoad n else m

/-- Every line that does not pulse takes what is written for it. -/
def M.pwmAllStill (m : M) : M := (List.range 16).foldl M.pwmStill m

/-- Nanoseconds of a T-cell's tick unit (R97). -/
def TCell.unitNs (t : TCell) : Nat :=
  match t.tick with
  | 0 => 1000
  | 1 => 1000000
  | 2 => 10000000
  | _ => 1000000000

/-- Elapsed ticks of a running timer at a module time (R98, R125). -/
def TCell.elapsedAt (t : TCell) (tai : Nat) : Nat :=
  if t.running then max t.least (t.frozen.getD (tai / t.unitNs) - t.startTick) else 0

/-- The live value of a T-cell (R103). -/
def TCell.liveAt (t : TCell) (tai : Nat) : Word :=
  match t.mode with
  | .ton | .tof | .tp => if t.expired then t.preset else BitVec.ofNat 32 (t.elapsedAt tai)
  | .edge => BitVec.ofNat 32 (b2n t.level)
  | _ => t.live

/-- The status word of a T-cell (R103). -/
def TCell.statusWord (t : TCell) : Word :=
  BitVec.ofNat 32 (t.missedCount * 65536 + b2n t.reset * 16 + b2n t.broken * 8 + b2n t.wrap * 4 + b2n t.missed * 2
    + b2n t.level)

/-- A register of a T-cell or M-cell as points of backing 0b001 read it (R103). -/
def CellBody.register (b : CellBody) (tai r : Nat) : Option Word :=
  match b with
  | .a c => c.g[r]?
  | .t c => if r == 0 then some (c.liveAt tai) else if r == 1 then some c.capture else if r == 2 then some c.statusWord
    else if r == 3 then some c.preset else none
  | .m c => if r == 2 then some (BitVec.ofNat 32 (b2n c.range)) else none

/-- The count of the running timer behind an entry: it moves with the ticks (R49, R103). -/
def M.timerCount (m : M) (p : PointRec) : Option Word :=
  if p.backing == 1 && fieldN p.ref 0 5 == 0 && 0x600 ≤ fieldN p.ref 5 11 then
    match (m.fab.quads[fieldN p.ref 16 2]?).bind (fun q => aget (fieldN p.ref 5 11) q.cells) with
    | some ⟨_, _, _, .t t, _, _, _⟩ => if t.running then some (keepKind p.kind (t.liveAt m.time.tai)) else none
    | _ => none
  else none

/-- Value of an entry: the count of a running timer behind it, while it is not forced (R49, R103). -/
def M.timerValue (m : M) (id : Nat) (p : PointRec) : Word :=
  if (m.forceOf id).isNone then (m.timerCount p).getD p.value else p.value

/-- Age of an entry: a running timer that has moved since the last update has just updated it (R49). -/
def M.shownAge (m : M) (id : Nat) (p : PointRec) : Nat := if m.timerValue id p == p.value then p.age else 0

/-- The requested value of a force: the latest update of the backing, a running timer's count among them (R74). -/
def M.requestedNow (m : M) (f : ForceRec) : Word :=
  (((m.point f.point).filter (fun p => p.dir == 0)).bind m.timerCount).getD f.requested

/-- Age of the requested value (R76). -/
def M.requestedAge (m : M) (f : ForceRec) : Nat := if m.requestedNow f == f.requested then f.reqAge else 0

/-- Value and status as the window and every granted read show them; metering points read 0 and are stale until the first frame has
ended, and are stale while the block is stopped, inputs of lines while local I/O does not run (R48, R73, R270, R294, R458, R460). -/
def M.shown (m : M) (id : Nat) (p : PointRec) : Word × Nat :=
  let fits := !(p.backing == 2) || m.lineFits p
  let idle := (p.backing == 3 && (!m.bit F.MTR_STAT_run || m.mtr.frames == 0)) || (p.backing == 2 && p.dir == 0 && !m.lioRun)
  let st := Nat.lor p.status (Nat.lor (if (m.forceOf id).isSome then stForced else 0)
    (Nat.lor (if m.notDriven id p then stNotDriven else 0) (if idle then stStale else 0)))
  let early := p.backing == 3 && m.bit F.MTR_STAT_run && m.mtr.frames == 0 && (m.forceOf id).isNone
  if early then (0, st)
  else if fits then (m.timerValue id p, st)
  else (if (m.forceOf id).isSome then p.value else 0, Nat.lor st stFault)

/-- A 64-bit entry: age, status, value (R47). -/
def entryBits (value : Word) (status age : Nat) : DWord :=
  BitVec.ofNat 64 (age * 2 ^ 48 + status * 2 ^ 32 + value.toNat)

/-- The absent pattern (R50). -/
def absentEntry : DWord := 0xFFFF800000000000

/-- The 64-bit entry of a point as it stands. -/
def M.pointEntry (m : M) (id : Nat) : DWord :=
  match m.point id with
  | none => absentEntry
  | some p =>
    let (v, st) := m.shown id p
    entryBits v st (m.shownAge id p)

/-! ### The Oryx gate (R58 to R64) -/

/-- What an access asks for. -/
inductive PointAsk where
  | read
  | subscribe
  | write
  deriving DecidableEq, Repr

/-- What the gate decides (Table 2-7); a forced point is granted, and its force applies (R73 to R75). -/
inductive Verdict where
  | absent
  | readOnly
  | granted
  deriving DecidableEq, Repr

/-- Share list as held: owner 0 and no grants unless written (R58). -/
def M.shareList (m : M) (n : Nat) : ShareList :=
  if n == 0 then ⟨0, List.replicate 8 0⟩ else getd ⟨0, List.replicate 8 0⟩ n m.pts.shares

/-- Union of the bits of the valid grants with rd = 1 that match a tenant; 0 when none does (R59). -/
def M.grantBits (m : M) (tenant : Nat) (p : PointRec) : Nat :=
  (m.shareList p.share).grants.foldl (fun a g =>
    let t := fieldN g 8 8
    if tbit g 3 && tbit g 0 && (t == tenant || (t == 0xFE && tenant ≤ 250)) then Nat.lor a (g % 8) else a) 0

/-- Rank of a role for writes in point space: SERVICE writes as ENGINEER does (Table 2-6). -/
def Role.rank : Role → Nat
  | .view => 0
  | .operate => 1
  | _ => 2

/-- The gate's decision (R61, Table 2-7). -/
def M.gate (m : M) (w : Who) (ask : PointAsk) (id : Nat) : Verdict :=
  match m.point id with
  | none => .absent
  | some p =>
    match w.tag with
    | .system => .granted
    | .mk t role =>
      let own := p.owner == t
      let bits := m.grantBits t p
      if !own && !tbit bits 0 then .absent
      else match ask with
        | .read => .granted
        | .subscribe => if own || tbit bits 2 then .granted else .readOnly
        | .write =>
          if p.dir == 0 || role.rank < p.dir || !(own || tbit bits 1) || (p.priv && !(w.priv && own)) then .readOnly
          else .granted

/-- A point is visible to an initiator (R59). -/
def M.sees (m : M) (w : Who) (id : Nat) : Bool := !(m.gate w .read id == .absent)

/-- What an initiator reads at a point: the entry or the absent pattern (R64). -/
def M.readPoint (m : M) (w : Who) (id : Nat) : DWord :=
  if m.gate w .read id == .granted then m.pointEntry id else absentEntry

/-! ### Output commands of a station (R320, R327) -/

/-- A station as the engine holds it. -/
def M.stationOf (m : M) (b s : Nat) : Station :=
  getd ⟨none, none, none, 0, [], none⟩ s ((m.can[b]?.map CanState.stations).getD [])

def M.setStation (m : M) (b s : Nat) (st : Station) : M :=
  { m with can := listMod m.can b (fun c => { c with stations := aput s st c.stations }) }

/-- The safe value of an output point backed by a station: the lowest valid IBX_SV entry that names it, else 0 (R421). -/
def M.safeValue (m : M) (id : Nat) : Word :=
  match (List.range 1024).find? (fun e => m.bit F.IBX_SV_PT_valid e && m.get F.IBX_SV_PT_point e == id) with
  | some e => m.rd .IBX_SV_VAL e
  | none => 0

/-- The value an OUT carries for an output point (R327, R421). -/
def M.outValue (m : M) (id : Nat) (p : PointRec) : Word := if m.safeDriven id then m.safeValue id else p.value

/-- One OUT frame (Table 8-8). -/
def M.sendOut (m : M) (b s flags : Nat) (objs : List (Nat × Word)) : M :=
  let st := m.stationOf b s
  let body := objs.flatMap (fun o => toBE 2 o.1 ++ toBE 4 o.2.toNat)
  let head := toBE 4 (m.get F.IBX_EPOCH_epoch) ++ toBE 2 st.outSeq ++ toBE 1 objs.length ++ toBE 1 flags
  let st' := { st with outSeq := (st.outSeq + 1) % 65536, lastSent := objs.foldl (fun a o => aput o.1 o.2 a) st.lastSent }
  (m.setStation b s st').canSend b (0x40 + s) (head ++ body)

/-- Objects of a station's output entries with the values an OUT carries, in ascending index. -/
def M.outObjects (m : M) (b s : Nat) : List (Nat × Word) :=
  m.pts.points.foldl (fun a q =>
    if q.2.backing == 4 && q.2.dir == 1 && q.2.bus == b && q.2.station == s then aput q.2.object (m.outValue q.1 q.2) a
    else a) []

/-- Frames of nine objects with the flags of a full refresh; `n` bounds the frames. -/
def M.sendRefresh (m : M) (b s : Nat) : Nat → List (Nat × Word) → M
  | 0, _ => m
  | _, [] => m
  | n + 1, l => (m.sendOut b s (if l.length ≤ 9 then 3 else 1) (l.take 9)).sendRefresh b s n (l.drop 9)

/-- A full refresh of an ONLINE station while the controller is ACTIVE (R327). -/
def M.fullRefresh (m : M) (b s : Nat) : M :=
  if m.canSends b && m.get F.CAN_STA_STAT_state b s == 2 then
    let o := m.outObjects b s
    m.sendRefresh b s (o.length + 1) o
  else m

/-- An OUT with one object whose value differs from the one last sent (R327). -/
def M.outOnChange (m : M) (id : Nat) (p : PointRec) : M :=
  if p.backing == 4 && p.dir == 1 && m.canSends p.bus && m.get F.CAN_STA_STAT_state p.bus p.station == 2 then
    let v := m.outValue id p
    if aget p.object (m.stationOf p.bus p.station).lastSent == some v then m else m.sendOut p.bus p.station 0 [(p.object, v)]
  else m

/-- Ibex starts or stops driving safe values: the stations' outputs are compared again (R327, R421). -/
def M.safeChanged (m : M) : M := (m.pts.points.foldl (fun (a : M) p => a.outOnChange p.1 p.2) m).pwmAllStill

/-! ### Notification candidates (R67 to R70) -/

/-- The value has moved by more than the deadband, or the status has changed (R68). -/
def Subscription.moved (s : Subscription) (kind : Nat) (v : Word) (st : Nat) : Bool :=
  !(st == s.lastStatus) ||
  (if kind == 3 then !(v == s.lastValue) && !(f32Le (f32Abs (f32Sub v s.lastValue)) s.deadband) else !(v == s.lastValue))

/-- Queue a notification, or replace the one the point has queued; a full queue leaves the subscription pending (R70).  The minimum
interval runs from here (DESIGN CHOICE, log 94). -/
def M.queueNote (m : M) (s : Subscription) (it : NoteItem) (absent : Bool) : M :=
  let q := getd [] s.session m.pts.notes
  let known := q.any (fun x => x.point == it.point)
  let full := !known && 64 ≤ q.length
  let q' := if known then q.map (fun x => if x.point == it.point then it else x) else if full then q else q ++ [it]
  let s' := if full then { s with pending := true }
    else { s with lastValue := it.value, lastStatus := it.status, lastAt := m.time.tb, pending := false, absent := absent }
  { m with pts := { m.pts with
      notes := aput s.session q' m.pts.notes
      subs := m.pts.subs.map (fun x => if x.session == s.session && x.point == s.point then s' else x) } }

/-- Decide one subscription: a candidate whose interval has passed is decided again by the gate with the session's tag
(R68, R69). -/
def M.noteOne (m : M) (s : Subscription) : M :=
  match m.who (.session s.session) with
  | none => m
  | some w =>
    if !m.sees w s.point then
      if s.absent then m else m.queueNote s ⟨s.point, 0, 0x8000, 0xFFFF⟩ true
    else match m.point s.point with
      | none => m
      | some p =>
        let (v, st) := m.shown s.point p
        let it : NoteItem := ⟨s.point, v, st, m.shownAge s.point p⟩
        if s.absent then m.queueNote s it false
        else if m.gate w .subscribe s.point == .granted && (s.pending || s.moved p.kind v st) &&
          s.lastAt + s.interval * ms ≤ m.time.tb then m.queueNote s it false
        else m

/-- Decide the subscriptions on one point. -/
def M.noteChecks (m : M) (id : Nat) : M :=
  (m.pts.subs.filter (fun s => s.point == id)).foldl M.noteOne m

/-! ### Updates of an entry (R49, R73 to R76) -/

/-- The line or the station behind an output entry takes a new value (R327, R461). -/
def M.outputTakes (m : M) (id : Nat) (p : PointRec) : M :=
  if p.backing == 2 && p.dir == 1 then m.pwmStill (p.ref % 64) else m.outOnChange id p

/-- Replace an entry that exists; its output and notification candidates follow. -/
def M.putEntry (m : M) (id : Nat) (p : PointRec) : M :=
  let m1 := { m with pts := { m.pts with points := amod id (fun _ => p) m.pts.points } }
  (m1.outputTakes id p).noteChecks id

/-- The backing delivers a value with its fault and overrange bits: value, status, age; a forced input keeps its value and
stores the update as the requested one (R49, R74). -/
def M.backingUpdate (m : M) (id : Nat) (value : Word) (reported : Nat) : M :=
  match m.point id with
  | none => m
  | some p =>
    let v := keepKind p.kind value
    match m.forceOf id with
    | some (i, f) =>
      let m1 := if p.dir == 0 then
          { m with pts := { m.pts with forces := aput i { f with requested := v, reqAge := 0 } m.pts.forces } }
        else m
      m1.putEntry id { p with status := reported }
    | none => m.putEntry id { p with value := v, status := reported, age := 0 }

/-- Set stored status bits of an entry without an update of its value. -/
def M.setStatusBits (m : M) (id bits : Nat) : M :=
  match m.point id with
  | none => m
  | some p => m.putEntry id { p with status := Nat.lor p.status bits }

/-- Clear stored status bits of an entry. -/
def M.clearStatusBits (m : M) (id bits : Nat) : M :=
  match m.point id with
  | none => m
  | some p => m.putEntry id { p with status := p.status - Nat.land p.status bits }

/-- Update every entry of a backing and reference. -/
def M.backedUpdate (m : M) (backing ref : Nat) (value : Word) (reported : Nat) : M :=
  (m.backed backing ref).foldl (fun a p => a.backingUpdate p.1 value reported) m

/-! ### Fabric registers as a backing (R49, R95, R103) -/

/-- The configured cell of a quadrant. -/
def M.cell (m : M) (q c : Nat) : Option Cell := (m.fab.quads[q]?).bind (fun x => aget c x.cells)

/-- Replace a configured cell. -/
def M.setCell (m : M) (q c : Nat) (cell : Cell) : M :=
  { m with fab := { m.fab with quads := listMod m.fab.quads q (fun x => { x with cells := amod c (fun _ => cell) x.cells }) } }

/-- Backing reference of a cell register (Table 2-4). -/
def cellRef (q c r : Nat) : Nat := q * 65536 + c * 32 + r

/-- Store into a register of an A-cell; every point that names it is updated (R49). -/
def M.storeReg (m : M) (q c r : Nat) (v : Word) : M :=
  match m.cell q c with
  | some cl => match cl.body with
    | .a a => (m.setCell q c { cl with body := .a { a with g := listSet a.g r v } }).backedUpdate 1 (cellRef q c r) v 0
    | _ => m
  | none => m

/-! ### Writes (R60, R75) -/

/-- The backing of an output or parameter point receives its value; a store into a fabric register updates every entry on it
(Table 2-4, R49, R229). -/
def M.deliver (m : M) (p : PointRec) (v : Word) : M :=
  if p.dir == 0 then m
  else match p.backing with
    | 1 => m.storeReg (fieldN p.ref 16 2) (fieldN p.ref 5 11) (fieldN p.ref 0 4) v
    | 5 =>
      let n := p.ref % 64
      match fieldN p.ref 8 4 with
      | 1 => m.wr .LPE_CH_SP v n
      | 3 => m.wr .LPE_CH_MAN v n
      | 4 => if m.get F.LPE_CH_STAT_state n == 0 then m.put F.LPE_CH_CTRL_mode (v.toNat % 4) n
        else m.putLater F.LPE_CH_CTRL_mode (v.toNat % 4) n
      | _ => m
    | _ => m

/-- Bits of a written value that an entry holds: those of its kind, and bits [1:0] of a loop channel's MODE (Tables 2-3, 6-1). -/
def PointRec.holds (p : PointRec) (v : Word) : Word :=
  if p.backing == 5 && fieldN p.ref 8 4 == 4 then BitVec.ofNat 32 (v.toNat % 4) else keepKind p.kind v

/-- Store a granted write: into the entry and its backing, or into the requested value of a force (R75); a PTD write to an
entry whose function does not fit sets LIO_EVT.func once per enable (R458). -/
def M.storePoint (m : M) (id : Nat) (p : PointRec) (value : Word) : M :=
  let v := p.holds value
  match m.forceOf id with
  | some (i, f) => { m with pts := { m.pts with forces := aput i { f with requested := v, reqAge := 0 } m.pts.forces } }
  | none =>
    let st := p.status - Nat.land p.status stRetained
    let m1 := m.putEntry id { p with value := v, status := st, age := 0 }
    m1.deliver p v

/-- First access to an entry that does not fit its line since the enable (R458). -/
def M.fitCheck (m : M) (id : Nat) : M :=
  match m.point id with
  | some p =>
    if p.backing == 2 && !m.lineFits p && !m.lio.funcSeen && m.lioRun then
      ({ m with lio := { m.lio with funcSeen := true } }).flag F.LIO_EVT_func 0x22
    else m
  | none => m

/-- A read meets a line that does not fit only where the gate grants it, so an absent answer leaves no trace (R64, R458). -/
def M.fitRead (m : M) (w : Who) (id : Nat) : M := if m.sees w id then m.fitCheck id else m

/-- A write from an initiator: the gate's decision and the module after (R61, R64). -/
def M.writePoint (m : M) (w : Who) (id : Nat) (value : Word) : Verdict × M :=
  match m.gate w .write id, m.point id with
  | .granted, some p => (.granted, (m.storePoint id p value).fitCheck id)
  | v, _ => (v, m)

/-! ### Retention and age (R49, R57) -/

/-- AGE_TICK: every age counts one tick, to 0xFFFE; the count of a running timer that has moved is an update (R49, R76). -/
def M.ageTick (m : M) : M :=
  let up (n : Nat) : Nat := satAdd n 1 0xFFFE
  let one (id : Nat) (p : PointRec) : PointRec :=
    let v := m.timerValue id p
    if v == p.value then { p with age := up p.age } else { p with value := v, age := 0 }
  { m with pts := { m.pts with
      points := m.pts.points.map (fun p => (p.1, one p.1 p.2))
      forces := m.pts.forces.map (fun p =>
        let v := m.requestedNow p.2
        (p.1, if v == p.2.requested then { p.2 with reqAge := up p.2.reqAge } else { p.2 with requested := v, reqAge := 0 })) } }

/-- RETAIN_SAVE: the values of the retained entries (R57). -/
def M.retainSave (m : M) : M :=
  { m with pts := { m.pts with
      retention := (m.pts.points.filter (fun p => p.2.retain)).map (fun p => (p.1, m.timerValue p.1 p.2)) } }

/-- Bring-up restores retained values and persistent forces with their requested values (R57, R77).  A point whose force is kept
holds its forced value (R73).  Nothing is delivered behind a restored value (DESIGN CHOICE, log 95). -/
def M.retainRestore (m : M) : M :=
  let one (a : M) (r : Nat × Word) : M :=
    match a.point r.1 with
    | some p => if p.retain && (a.forceOf r.1).isNone then a.putEntry r.1 { p with value := keepKind p.kind r.2, status := Nat.lor p.status stRetained, age := 0 }
      else a
    | none => a
  let m1 := m.pts.retention.foldl one m
  m1.pts.forceStore.foldl (fun a f =>
    match a.point f.point, freeKey 1024 a.pts.forces with
    | some p, some i =>
      if (a.forceOf f.point).isSome then a
      else
        let a1 := { a with pts := { a.pts with forces := aput i f a.pts.forces } }
        let a2 := a1.putEntry f.point { p with value := f.value, age := 0 }
        a2.deliver p f.value
    | _, _ => a) m1

/-! ### Who may have which entry (R52 to R58, R229, R291, R293) -/

/-- Kind and direction a loop-channel quantity needs (Table 6-1). -/
def loopQuantity (code : Nat) : Option (Nat × Nat) :=
  match code with
  | 0 | 2 | 5 | 7 => some (3, 0)
  | 1 | 3 => some (3, 1)
  | 4 => some (1, 1)
  | 6 => some (1, 0)
  | _ => none

/-- Kind a metering quantity needs (Table 7-8). -/
def meterQuantity (source code : Nat) : Option Nat :=
  if source ≤ 1 then
    (if 1 ≤ code && code ≤ 8 then some 3 else if code == 9 then some 1 else none)
  else if 0x10 ≤ source && source ≤ 0x1B then
    (if 1 ≤ code && code ≤ 0x0B then some 3
     else if code == 0x0C || (0x10 ≤ code && code ≤ 0x18) then some 1
     else if 0x20 ≤ code && code ≤ 0x22 then some 3 else none)
  else if 0x40 ≤ source && source ≤ 0x77 then (if code == 0 then some 3 else none)
  else none

/-- The reference of an entry fits its backing (Table 2-4), with kind and direction where the backing fixes them. -/
def PointRec.refValid (p : PointRec) : Bool :=
  match p.backing with
  | 0 => p.ref == 0
  | 1 =>
    let c := fieldN p.ref 5 11
    let r := fieldN p.ref 0 5
    p.ref < 2 ^ 18 && (if c < 0x600 then r < 16 else if c < 0x700 then p.dir == 0 && r < 4 else p.dir == 0 && r == 2)
  | 2 => p.ref < 64
  | 3 => p.ref < 65536 && p.dir == 0 && meterQuantity (p.ref / 256) (p.ref % 256) == some p.kind
  | 4 => p.ref < 2 ^ 27 && fieldN p.ref 22 2 == 0
  | 5 => p.ref < 4096 && fieldN p.ref 6 2 == 0 && loopQuantity (fieldN p.ref 8 4) == some (p.kind, p.dir)
  | 6 => p.ref == 0
  | _ => false

/-- Owner and force rule of a metering backing (R291). -/
def M.meterOwner (m : M) (p : PointRec) : Bool :=
  if p.backing == 3 then
    let s := p.ref / 256
    if 0x10 ≤ s && s ≤ 0x1B then p.owner == m.eff F.MTR_C_TEN_tenant (s - 0x10) && !p.forceable
    else if 0x40 ≤ s then p.owner == m.get F.MTR_MI_CFG_tenant (s - 0x40)
    else true
  else true

/-- A second output entry of one line, object or writable quantity (R55). -/
def M.outputTaken (m : M) (id : Nat) (p : PointRec) : Bool :=
  p.dir == 1 && [2, 4, 5].contains p.backing &&
  (m.backed p.backing p.ref).any (fun q => q.2.dir == 1 && !(q.1 == id))

/-- An owner a list or an entry may have (R51, R58). -/
def ownerValid (t : Nat) : Bool := t ≤ 250 || t == 255

/-- A tenant a grant may name: 0 to 250, 0xFE for every tenant, or 255 (Table 2-5). -/
def grantTenant (t : Nat) : Bool := t ≤ 250 || 254 ≤ t

/-- The rules of an entry that INVAL reports (R52 to R58). -/
def M.entryValid (m : M) (id : Nat) (p : PointRec) : Bool :=
  !(id == 0xFFFF) && !(p.dir == 3) && p.refValid && ownerValid p.owner && !(p.priv && p.forceable) &&
  (p.share == 0 || (m.shareList p.share).owner == p.owner) && m.meterOwner p && !m.outputTaken id p

/-- Entries with a local backing, and with retain. -/
def M.localCount (m : M) : Nat := (m.pts.points.filter (fun p => p.2.isLocal)).length
def M.retainCount (m : M) : Nat := (m.pts.points.filter (fun p => p.2.retain)).length

end Sys2Proof.Machine
end

