-- ==== Sys2Proof/Machine/LioCore.lean ====
section
/-! DEFINITION. Local I/O lines: what a line's pin shows, sampling, PWM, readback (chapter 13, R458 to R462, and R421). -/

namespace Sys2Proof.Machine

/-- Safe level field of a line (Table 11-15). -/
def M.safeLevel (m : M) (n : Nat) : Nat := fieldN (m.get F.IBX_LSAFE_safe (n / 16)) (2 * (n % 16)) 2

/-- What the output stage drives: none is high-impedance with pull-down (R459, Table 11-15). -/
def M.lineDrive (m : M) (n : Nat) : Option Bool :=
  if !m.lioRun || m.get F.LIO_CFG_func n < 2 then none
  else match m.linePresents n with
    | some (_, p) => if m.get F.LIO_CFG_func n == 3 then some (m.pwmLevel n) else some (p.value.toNat % 2 == 1)
    | none => match m.safeLevel n with
      | 1 => some false
      | 2 => some true
      | 3 => aget n m.lio.driven
      | _ => none

/-- Remember the levels driven, before safe levels replace them (safe level 0b11, R459). -/
def M.captureDriven (m : M) : M :=
  let d := (List.range 64).foldl (fun a n => match m.linePresents n, m.lineDrive n with
    | some _, some b => aput n b a
    | _, _ => a) m.lio.driven
  { m with lio := { m.lio with driven := d } }

/-- LIO_DRVk: lines whose stage drives. -/
def M.drvWord (m : M) (k : Nat) : Nat :=
  (List.range 32).foldl (fun a j => if (m.lineDrive (32 * k + j)).isSome then a + 2 ^ j else a) 0

/-- LIO_PINk: sampled levels; 0 while LIO_STAT.run = 0, and for unused lines, which are not sampled (R460). -/
def M.pinWord (m : M) (k : Nat) : Nat :=
  if !m.lioRun then 0
  else (List.range 32).foldl (fun a j =>
    if !(m.get F.LIO_CFG_func (32 * k + j) == 0) && tbit m.lio.pins (32 * k + j) then a + 2 ^ j else a) 0

/-- LIO_STAT.safe: every output line presents its safe level or high-impedance. -/
def M.allSafe (m : M) : Bool := (List.range 64).all (fun n => (m.linePresents n).isNone)

/-- Input entries of a line that fit (R460). -/
def M.lineInputs (m : M) (n : Nat) : List Nat :=
  (m.pts.points.filter (fun p => p.2.backing == 2 && p.2.ref == n && p.2.dir == 0 && m.lineFits p.2)).map Prod.fst

/-- LIO_INPUT_CHANGE: the first sample at a new level updates the line's input entries (R460). -/
def M.lioInput (m : M) (n : Nat) (level : Bool) : M :=
  let changed := !(tbit m.lio.pins n == level)
  let m1 := { m with lio := { m.lio with
    pins := putBitN m.lio.pins n level
    pinAt := if changed then aput n m.time.tb m.lio.pinAt else m.lio.pinAt } }
  if !m1.lioRun || m1.get F.LIO_CFG_func n == 0 then m1
  else (m1.lineInputs n).foldl (fun a id => a.backingUpdate id (BitVec.ofNat 32 (b2n level)) 0) m1

/-- Input entries of lines keep their last value with status.stale while run = 0 (R460). -/
def M.lioStale (m : M) : M :=
  (List.range 64).foldl (fun a n => (a.lineInputs n).foldl (fun b id => b.setStatusBits id stStale) a) m

/-- LIO_CTRL.en written (R459, R474): 0 puts every line high-impedance; 1 begins a new enable, and lines are sampled again. -/
def M.lioEnable (m : M) (en : Bool) : M :=
  let was := m.lioRun
  let m1 := if en then m else m.captureDriven
  let m2 := m1.putB F.LIO_CTRL_en en
  if was == m2.lioRun then m2
  else if m2.lioRun then
    let m3 := { m2 with lio := { m2.lio with
      driven := [], pwm := [], funcSeen := false, pinAt := (List.range 64).map (fun n => (n, m.time.tb)) } }
    ((List.range 64).foldl (fun a n => a.lioInput n (tbit a.lio.pins n)) m3).pwmAllStill
  else m2.lioStale

/-- PWM_PERIOD_END: a new duty and period take effect (R461). -/
def M.pwmPeriodEnd (m : M) (n : Nat) : M := if !(m.get F.LIO_CFG_func n == 3) || 16 ≤ n then m else m.pwmLoad n

/-- READBACK: one line per millisecond on a unit without a lease; `follows` tells that the stage followed what it was driven
to (R402, R462). -/
def M.readback (m : M) (follows : Bool) : M :=
  if m.leased || !m.ibx.selfTest then m
  else
    let n := m.ibx.rbLine
    let was := m.bitOf F.LIO_RBF_rbf (n % 32) (n / 32)
    let m1 := (m.putBit F.LIO_RBF_rbf (n % 32) (!follows) (n / 32))
    let m2 := { m1 with ibx := { m1.ibx with rbLine := (n + 1) % 64 } }
    if !follows && !was then m2.flag F.LIO_EVT_rbf 0x22 else m2

end Sys2Proof.Machine
end

