-- ==== Sys2Proof/Machine/Fabric.lean ====
section
/-! DEFINITION. The Lynil fabric: tokens, A-cells, T-cells, M-cells, point accesses, waves, freezing (chapter 3). -/

namespace Sys2Proof.Machine

/-! ### Tokens (R105, Table 3-4) -/

def tkData : Nat := 0
def tkCarry : Nat := 1
def tkFence : Nat := 2
def tkStart : Nat := 3
def tkResponse : Nat := 5

/-- Ones in the low 64 bits of a number, modulo 2. -/
def parity64 (n : Nat) : Nat := ((List.range 64).foldl (fun a i => a + bitN n i) 0) % 2

/-- Tag of a token with even parity over payload and tag (R105). -/
def tokenTag (kind cell port unit wave : Nat) (payload : Word) : Word :=
  let t := kind * 2 ^ 29 + cell * 2 ^ 18 + port * 2 ^ 16 + unit * 2 ^ 8 + wave * 2 ^ 5
  BitVec.ofNat 32 (t + parity64 (payload.toNat * 2 ^ 32 + t))

def Token.kind (t : Token) : Nat := wfield t.tag 29 3
def Token.cell (t : Token) : Nat := wfield t.tag 18 11
def Token.port (t : Token) : Nat := wfield t.tag 16 2
def Token.unit (t : Token) : Nat := wfield t.tag 8 8
def Token.wave (t : Token) : Nat := wfield t.tag 5 3
/-- Parity fits (R109). -/
def Token.good (t : Token) : Bool := parity64 (t.payload.toNat * 2 ^ 32 + t.tag.toNat) == 0
/-- Token types with the wave check (R108); start tokens of an abandoned wave are dropped as the others are (R201). -/
def Token.waveKind (t : Token) : Bool := t.kind == tkData || t.kind == tkStart || t.kind == tkResponse

/-! ### Quadrants -/

/-- A quadrant as held. -/
def M.quad (m : M) (q : Nat) : Quadrant := (m.fab.quads[q]?).getD Quadrant.reset

def M.modQuad (m : M) (q : Nat) (f : Quadrant → Quadrant) : M :=
  { m with fab := { m.fab with quads := listMod m.fab.quads q f } }

/-- FAB_STAT.qstate of a quadrant (Table 3-11): 0 off, 1 empty, 2 run, 3 quiescing, 4 quiesced. -/
def M.qstate (m : M) (q : Nat) : Nat := fieldN (m.get F.FAB_STAT_qstate) (3 * q) 3

def M.setQstate (m : M) (q v : Nat) : M := m.put F.FAB_STAT_qstate (setFieldN (m.get F.FAB_STAT_qstate) (3 * q) 3 v)

/-- Tokens in the ports of a cell. -/
def Cell.tokens (c : Cell) : List Token := c.ports.filterMap id

/-- Tokens a quadrant holds (R110). -/
def Quadrant.held (x : Quadrant) : Nat := x.flight.length + x.cells.foldl (fun a p => a + p.2.tokens.length) 0

/-- FAB_EVT bit of a quadrant, with its event source (R132). -/
def M.fabFlag (m : M) (x : FRef) (q : Nat) : M := (m.putBit x q true).raise (0x18 + q)

/-- Drop a token for a cell of a unit: counted, and the drop flag (R105, R108). -/
def M.dropToken (m : M) (q : Nat) (unit : Option Nat) : M :=
  ((m.count F.FAB_DROP_count q).fabFlag F.FAB_EVT_drop q).fabricEvent 4 q unit

/-- The high-water mark follows the count (R110). -/
def M.markHigh (m : M) (q : Nat) : M := m.put F.FAB_QSTAT_hwm (max (m.get F.FAB_QSTAT_hwm q) (m.quad q).held) q

/-- Put a token on the link from output `out` of a cell; a link that is not valid takes none (R141). -/
def M.send (m : M) (q cell out link kind : Nat) (payload : Word) (unit wave : Nat) : M :=
  if !tbit link 15 then m
  else
    let tok : Token := ⟨payload, tokenTag kind (fieldN link 2 11) (fieldN link 13 2) unit wave payload⟩
    let m1 := m.modQuad q (fun x => { x with
      flight := x.flight ++ [(⟨cell, out⟩, tok)]
      lastFire := if x.held == 0 then m.time.tb else x.lastFire })
    m1.markHigh q

/-- The present wave of a unit (R108). -/
def M.unitWave (m : M) (u : Nat) : Nat := getd 0 u m.exe.waves

/-- The cell may fire: its quadrant is powered and not quiesced, and self-test has not marked it (R123, R129). -/
def M.cellLive (m : M) (q c : Nat) : Bool :=
  (m.qstate q == 2 || m.qstate q == 3) && !(m.quad q).failed.contains c

/-- Tokens that reads in progress will send (R96). -/
def Quadrant.owed (x : Quadrant) : Nat := (x.waiting ++ x.outstanding).foldl (fun a o => a + o.owed) 0

/-- A firing leaves room for its tokens, beside those held and those owed (R110). -/
def M.roomFor (m : M) (q consumed produced : Nat) : Bool :=
  (m.quad q).held + (m.quad q).owed + produced ≤ 4096 + consumed

/-- Token in a port of a cell. -/
def Cell.port (c : Cell) (p : Nat) : Option Token := (c.ports[p]?).join

/-- Empty ports of a cell. -/
def Cell.take (c : Cell) (ps : List Nat) : Cell := { c with ports := ps.foldl (fun a p => listSet a p none) c.ports }

/-- The cell has fired for the wave of the tokens it consumed, when that is the unit's present one (R112). -/
def M.markFired (m : M) (c : Cell) (wave : Nat) : Cell := { c with fired := c.fired || wave == m.unitWave c.unit }

/-- A firing starts: its tokens leave their ports (R623, R111). -/
def M.consume (m : M) (q c : Nat) (cl : Cell) (ports : List Nat) (wave : Nat) : M :=
  let m1 := m.setCell q c (m.markFired (cl.take ports) wave)
  m1.modQuad q (fun x => { x with lastFire := m.time.tb })

/-! ### A-cells (R92 to R96) -/

/-- Ports a slot names: its trigger's and those of its operands. -/
def ASlot.ports (s : ASlot) : List Nat :=
  let srcs := [s.src0, s.src1, s.src2].filterMap (fun c => if 0x10 ≤ c && c ≤ 0x12 then some (c - 0x10) else none)
  (List.range 4).filter (fun p => p == fieldN s.trigger 3 2 || srcs.contains p)

def ASlot.valid (s : ASlot) : Bool := tbit s.smode 0
/-- Opcode group 0x5. -/
def ASlot.isAccess (s : ASlot) : Bool := s.opcode / 16 == 5
def ASlot.isWrite (s : ASlot) : Bool := s.opcode == 0x52
/-- The point ID is the slot's constant (R176). -/
def ASlot.constId (s : ASlot) : Bool := s.src0 == 0x20 || s.src0 == 0xFF

/-- Operand of a source byte (R141). -/
def operand (a : ACell) (c : Cell) (s : ASlot) (code : Nat) : Word :=
  if code < 16 then (a.g[code]?).getD 0
  else if 0x10 ≤ code && code ≤ 0x12 then ((c.port (code - 0x10)).map Token.payload).getD 0
  else if code == 0x20 then s.const
  else 0

/-- A slot that can fire: every port it names holds a token of one wave, the trigger's of its type (R92). -/
def slotReady (c : Cell) (s : ASlot) : Bool :=
  let toks := s.ports.map c.port
  s.valid && toks.all Option.isSome &&
  (c.port (fieldN s.trigger 3 2)).any (fun t =>
    t.kind == fieldN s.trigger 0 3 && toks.all (fun o => o.any (fun x => x.wave == t.wave && x.unit == t.unit)))

/-- The Springbok path whose final write cell this is (R118). -/
def M.finalPath (m : M) (q c : Nat) : Option SbkPath := m.fab.paths.find? (fun p => p.quadrant == q && p.finalCell == c)

/-- The Springbok path an EDGE cell starts. -/
def M.edgePath (m : M) (q c : Nat) : Option SbkPath := m.fab.paths.find? (fun p => p.quadrant == q && p.edgeCell == c)

/-- A path runs: armed, and its quadrant in run (R121). -/
def M.pathArmed (m : M) (p : SbkPath) : Bool := m.bitOf F.FAB_SBK_ARM_arm p.path && m.qstate p.quadrant == 2

/-- Type of the token an A-cell operation or a T-cell sends on a link: one to port 3 of a T-cell is a snapshot fence, every other
one data (DEDUCED, log 25).  Answers of reads and M-cell results are data tokens on every link (R96, R622). -/
def sentKind (link : Nat) : Nat :=
  let d := fieldN link 2 11
  if fieldN link 13 2 == 3 && 0x600 ≤ d && d < 0x700 then tkFence else tkData

/-- Send a result on both links of a slot. -/
def M.sendResult (m : M) (q c slot : Nat) (s : ASlot) (v0 v1 : Word) (unit wave : Nat) : M :=
  (m.send q c (2 * slot) s.link0 (sentKind s.link0) v0 unit wave).send q c (2 * slot + 1) s.link1 (sentKind s.link1) v1
    unit wave

/-- Send the answer of a read on both links of a slot, as data tokens (R96). -/
def M.sendAnswer (m : M) (q c slot : Nat) (s : ASlot) (v0 v1 : Word) (unit wave : Nat) : M :=
  (m.send q c (2 * slot) s.link0 tkData v0 unit wave).send q c (2 * slot + 1) s.link1 tkData v1 unit wave

/-- Write a slot's destination register (R92). -/
def M.writeDest (m : M) (q c : Nat) (s : ASlot) (v : Word) : M := if s.dest < 16 then m.storeReg q c s.dest v else m

/-- Set the sticky flags of an A-cell (R94). -/
def M.stickFlags (m : M) (q c : Nat) (overflow invalid : Bool) : M :=
  match m.cell q c with
  | some cl => (match cl.body with
    | .a a => m.setCell q c { cl with body := .a { a with overflow := a.overflow || overflow, invalid := a.invalid || invalid } }
    | _ => m)
  | none => m

/-- A_CELL_FIRING: one firing of a slot, from the reading of its operands to its results (R92 to R95); a point access waits for
its issue (R96). -/
def M.aFire (m : M) (q c slot : Nat) : M :=
  match m.cell q c with
  | none => m
  | some cl => (match cl.body with
    | .a a => (match a.slots[slot]? with
      | none => m
      | some s =>
        let wave := ((cl.port (fieldN s.trigger 3 2)).map Token.wave).getD 0
        let out := if s.isWrite then 0 else b2n (tbit s.link0 15) + b2n (tbit s.link1 15)
        let waits := (m.quad q).waiting.any (fun x => x.cell == c)
        if !m.cellLive q c || !slotReady cl s || waits then m
        else if !m.roomFor q s.ports.length out then m.fabricEvent 7 q (some cl.unit)
        else
          let x := operand a cl s s.src0
          let y := operand a cl s s.src1
          let z := operand a cl s s.src2
          let m1 := (m.consume q c cl s.ports wave).fabricEvent 1 q (some cl.unit)
          if s.isAccess then
            let ahead := ((m.quad q).waiting ++ (m.quad q).outstanding).filter (fun o => !o.fromImage)
            let m2 := if !s.constId && 32 ≤ ahead.length then m1.fabricEvent 6 q (some cl.unit) else m1
            let acc : CellAccess := ⟨c, slot, (if s.constId then s.const else x).toNat, s.isWrite, s.opcode == 0x51, y,
              cl.unit, wave, s.constId, 0, out⟩
            m2.modQuad q (fun w => { w with waiting := w.waiting ++ [acc] })
          else
            let r := alu s.opcode (tbit s.smode 1) (tbit s.smode 2) x y z
            ((m1.stickFlags q c r.overflow r.invalid).writeDest q c s r.value).sendResult q c slot s r.value r.value
              cl.unit wave)
    | _ => m)

/-- Two units have the same tag (R175). -/
def M.sameTag (m : M) (u v : Nat) : Bool := (m.who (.unit u)).map Who.tag == (m.who (.unit v)).map Who.tag

/-- The task of a unit. -/
def M.taskOf (m : M) (u : Nat) : Option Nat := (m.exe.units.find? (fun x => x.unit == u)).map UnitRec.task

/-- The task state a task number has. -/
def M.taskState (m : M) (n : Nat) : Option TaskState := aget n m.exe.tasks

def M.modTask (m : M) (n : Nat) (f : TaskState → TaskState) : M :=
  { m with exe := { m.exe with tasks := amod n f m.exe.tasks } }

/-- A read served from a task's input image: the latched entry of the point and the unit's tag (R176, R179). -/
def M.imageRead (m : M) (u point : Nat) : DWord :=
  match (m.taskOf u).bind m.taskState with
  | none => absentEntry
  | some t => ((t.inputs.find? (fun e => e.point == point && m.sameTag e.unit u)).map ImageEntry.data).getD absentEntry

/-- A write stored in a task's output image (R179, R180). -/
def M.imageWrite (m : M) (u point : Nat) (v : Word) : M :=
  match m.taskOf u with
  | none => m
  | some n => m.modTask n (fun t => { t with outputs := t.outputs.map (fun e =>
      if e.point == point && m.sameTag e.unit u then { e with data := v.setWidth 64, set := true } else e) })

/-- Take the first access of a cell out of a list. -/
def takeAccess (p : CellAccess → Bool) : List CellAccess → Option (CellAccess × List CellAccess)
  | [] => none
  | x :: xs => if p x then some (x, xs) else (takeAccess p xs).map (fun r => (r.1, x :: r.2))

/-- CELL_POINT_ACCESS_ISSUE: the oldest access of the cell leaves the quadrant; a direct one counts towards the 32 and reaches the
gate, one with a constant ID is served from the task's images (R96, R176); the final write of a path has its own lane (R120). -/
def M.accessIssue (m : M) (q c : Nat) : M :=
  let x := m.quad q
  match takeAccess (fun a => a.cell == c) x.waiting with
    | none => m
    | some (a, rest) =>
      if (a.write && (m.finalPath q c).isSome) || (!a.fromImage && 32 ≤ (x.outstanding.filter (fun o => !o.fromImage)).length) then
        m
      else
        let ans := if a.write then 0
          else if a.fromImage then m.imageRead a.unit a.point
          else ((m.who (.unit a.unit)).map (fun w => m.readPoint w a.point)).getD absentEntry
        let m0 := m.fabricEvent 5 q (some a.unit)
        let m1 := m0.modQuad q (fun w => { w with waiting := rest, outstanding := w.outstanding ++ [{ a with answer := ans }] })
        if !a.write then m1
        else if a.fromImage then m1.imageWrite a.unit a.point a.value
        else match m1.who (.unit a.unit) with
          | some w => (m1.writePoint w a.point a.value).2
          | none => m1

/-- CELL_POINT_RESPONSE: the oldest access of the cell completes; a read writes its register and sends its tokens, the second a
status token when the slot reads value, status and age: the entry's upper word, status in [15:0] and age in [31:16] (R96;
DEDUCED, log 26). -/
def M.accessResponse (m : M) (q c : Nat) : M :=
  match takeAccess (fun a => a.cell == c) (m.quad q).outstanding with
  | none => m
  | some (a, rest) =>
    let m1 := m.modQuad q (fun w => { w with outstanding := rest })
    if a.write then m1
    else match m.cell q c with
      | some cl => (match cl.body with
        | .a b => (match b.slots[a.slot]? with
          | some s =>
            let v := a.answer.setWidth 32
            let st := if a.full then (a.answer >>> 32).setWidth 32 else v
            (m1.writeDest q c s v).sendAnswer q c a.slot s v st a.unit a.wave
          | none => m1)
        | _ => m1)
      | none => m1

/-! ### T-cells (R97 to R103, R621) -/

/-- Replace the body of a T-cell; points that name a register that changed are updated (R49, R103). -/
def M.putT (m : M) (q c : Nat) (t' : TCell) : M :=
  match m.cell q c with
  | some cl => (match cl.body with
    | .t t =>
      let m1 := m.setCell q c { cl with body := .t t' }
      let ends := t.running && !t'.running
      let one (a : M) (r : Nat) (x y : Word) : M :=
        if x == y && !(r == 0 && ends) then a else a.backedUpdate 1 (cellRef q c r) y 0
      let n := m.time.tai
      one (one (one (one m1 0 (t.liveAt n) (t'.liveAt n)) 1 t.capture t'.capture) 2 t.statusWord t'.statusWord) 3
        t.preset t'.preset
    | _ => m)
  | none => m

/-- Index of the tick boundary last passed, or that at which the cell was frozen. -/
def TCell.tickNow (t : TCell) (tai : Nat) : Nat := t.frozen.getD (tai / t.unitNs)

/-- The timer starts: it counts from the next tick boundary (R98). -/
def TCell.startAt (t : TCell) (tai : Nat) : TCell :=
  { t with running := true, expired := false, startTick := t.tickNow tai + 1, least := 0, presetTick := 0 }

def TCell.stopped (t : TCell) : TCell := { t with running := false, expired := false, least := 0 }

/-- The input token of a TON, TOF or TP cell applied (Table 3-3, R98, R99, R621); with preset 0 the input passes even while a timer
runs, and stops it (DEDUCED, log 96). -/
def TCell.input (t : TCell) (x : Bool) (tai : Nat) : TCell :=
  let rise := x && !(t.lastIn == some true)
  let t1 := { t with lastIn := some x }
  if t.preset == 0 then { t1.stopped with level := x }
  else match t.mode with
    | .ton => if !x then { t1.stopped with level := false } else if t.running || t.level then t1 else t1.startAt tai
    | .tof => if x then { t1.stopped with level := true } else if t.running || !t.level then t1 else t1.startAt tai
    | .tp => if t.running then t1 else if rise then { t1.startAt tai with level := true } else { t1 with level := false }
    | _ => t1

/-- A T-cell of a quadrant with its cell. -/
def M.tcell (m : M) (q c : Nat) : Option (Cell × TCell) :=
  match m.cell q c with
  | some cl => (match cl.body with
    | .t t => some (cl, t)
    | _ => none)
  | none => none

def TMode.isTimer : TMode → Bool
  | .ton | .tof | .tp => true
  | _ => false

def TMode.isCounter : TMode → Bool
  | .cnt | .cntx => true
  | _ => false

/-- T_CELL_INPUT: a token on port 0 gives exactly one output token (R621). -/
def M.tInput (m : M) (q c : Nat) : M :=
  match m.tcell q c with
  | none => m
  | some (cl, t) =>
    match cl.port 0 with
    | none => m
    | some k =>
      if !t.mode.isTimer || !m.cellLive q c then m
      else
        let t' := t.input (!(k.payload == 0)) m.time.tai
        let m0 := m.fabricEvent 2 q (some cl.unit)
        ((m0.consume q c cl [0] k.wave).putT q c t').send q c 0 t'.outLink (sentKind t'.outLink)
          (BitVec.ofNat 32 (b2n t'.level)) cl.unit (m.unitWave cl.unit)

/-- A new preset: from a token, or a patch (R99, R207). -/
def TCell.newPreset (t : TCell) (v : Word) (tai : Nat) : TCell :=
  { t with preset := v, presetTick := t.tickNow tai, lastPeriod := if t.mode == .cyc then tai else t.lastPeriod }

/-- T_CELL_PRESET: port 1 takes a new preset (Table 3-3, R99). -/
def M.tPreset (m : M) (q c : Nat) : M :=
  match m.tcell q c with
  | none => m
  | some (cl, t) =>
    match cl.port 1 with
    | none => m
    | some k =>
      if !(t.mode.isTimer || t.mode == .cyc) || !m.cellLive q c then m
      else
        let m1 := (m.setCell q c (cl.take [1])).fabricEvent 2 q (some cl.unit)
        (m1.modQuad q (fun x => { x with lastFire := m.time.tb })).putT q c (t.newPreset k.payload m.time.tai)

/-- The running timer has reached its preset at a tick boundary after the last preset write (R98, R99). -/
def TCell.expires (t : TCell) (tai : Nat) : Bool :=
  t.mode.isTimer && t.running && t.frozen.isNone && t.preset.toNat ≤ t.elapsedAt tai &&
  max t.startTick (t.presetTick + 1) ≤ tai / t.unitNs

/-- TIMER_EXPIRY: one token with the new level (R98, R621). -/
def M.timerExpiry (m : M) (q c : Nat) : M :=
  match m.tcell q c with
  | none => m
  | some (cl, t) =>
    if !t.expires m.time.tai || !m.cellLive q c then m
    else if !m.roomFor q 0 1 then m.fabricEvent 7 q (some cl.unit)
    else
      let t' := { t with running := false, expired := true, least := 0, level := t.mode == .ton }
      let m0 := m.fabricEvent 2 q (some cl.unit)
      ((m0.putT q c t').modQuad q (fun x => { x with lastFire := m.time.tb })).send q c 0 t.outLink (sentKind t.outLink)
        (BitVec.ofNat 32 (b2n t'.level)) cl.unit (m.unitWave cl.unit)

/-- A token of the cell's output has not been accepted yet (R101, R102). -/
def M.tokenHeld (m : M) (q c : Nat) : Bool := (m.quad q).flight.any (fun p => p.1 == ⟨c, 0⟩)

def TCell.miss (t : TCell) : TCell := { t with missed := true, missedCount := satAdd t.missedCount 1 0xFFFF }

/-- CYC_PERIOD: at a boundary of the period, a TAI multiple of preset × unit (DEDUCED, log 96), a token is issued, or dropped
while the last one is held (R102). -/
def M.cycPeriod (m : M) (q c : Nat) : M :=
  match m.tcell q c with
  | none => m
  | some (cl, t) =>
    let p := max 1 t.preset.toNat * t.unitNs
    if !(t.mode == .cyc) || t.frozen.isSome || !m.cellLive q c || m.time.tai / p * p ≤ t.lastPeriod then m
    else
      let t1 := { t with lastPeriod := m.time.tai }
      if m.tokenHeld q c then m.putT q c t1.miss
      else if !m.roomFor q 0 1 then m.fabricEvent 7 q (some cl.unit)
      else
        let t2 := { t1 with live := t.live + 1 }
        let m0 := m.fabricEvent 2 q (some cl.unit)
        ((m0.putT q c t2).modQuad q (fun x => { x with lastFire := m.time.tb })).send q c 0 t.outLink (sentKind t.outLink) t2.live
          cl.unit (m.unitWave cl.unit)

/-- Level an EDGE cell samples on its line (R100, R460). -/
def M.lineLevel (m : M) (n : Nat) : Bool := tbit (m.pinWord (n / 32)) (n % 32)

/-- The line is sampled: LIO runs and the line is in use (R460). -/
def M.lineSampled (m : M) (n : Nat) : Bool := m.lioRun && !(m.get F.LIO_CFG_func n == 0)

/-- An EDGE cell issues the token for a level; an edge that starts a path's measurement is queued with its first sample, and
alone when the unit holds no token (R101, R122). -/
def M.edgeSend (m : M) (q c : Nat) (cl : Cell) (t : TCell) (level : Bool) (first : Nat) : M :=
  let m0 := m.fabricEvent 2 q (some cl.unit)
  let busy := m.fab.quads.any (fun x => x.flight.any (fun p => p.2.unit == cl.unit) || x.waiting.any (fun a => a.unit == cl.unit) ||
    x.cells.any (fun p => p.2.unit == cl.unit && !p.2.tokens.isEmpty))
  let starts (p : SbkPath) : List (Nat × Nat) :=
    (if busy then m.fab.sbkStart else m.fab.sbkStart.filter (fun s => !(s.1 == p.path))) ++ [(p.path, first)]
  let m1 : M := { m0 with fab := { m0.fab with sbkStart := ((m.edgePath q c).map starts).getD m.fab.sbkStart } }
  ((m1.modQuad q (fun x => { x with lastFire := m.time.tb })).putT q c { t with level := level, tokenOnReturn := false }).send q c 0
    t.outLink (sentKind t.outLink) (BitVec.ofNat 32 (b2n level)) cl.unit (m.unitWave cl.unit)

/-- An EDGE cell reports a level: one token at most is held, and one that finds no room in the quadrant is due once there is room;
the cell of a path that is not armed, and a failed cell, issue none (R101, R110, R121, R129). -/
def M.edgeReport (m : M) (q c : Nat) (level : Bool) (first : Nat) : M :=
  match m.tcell q c with
  | none => m
  | some (cl, t) =>
    if (m.edgePath q c).any (fun p => !m.pathArmed p) || !m.cellLive q c then m
    else if m.tokenHeld q c then m.putT q c t.miss
    else if !m.roomFor q 0 1 then (m.putT q c { t with tokenOnReturn := true }).fabricEvent 7 q (some cl.unit)
    else m.edgeSend q c cl t level first

/-- Sample period of the timebase island, ns (Table 1-3). -/
def M.samplePeriod (m : M) : Nat :=
  match m.get F.PMC_LVL_STAT_level with
  | 0 => 40
  | 1 => 10
  | _ => 5

/-- EDGE_ACCEPT: the line has stood at a new level for filter + 1 samples; capture takes the time of the first of them (R100,
R101).  A token that waited for room is issued for the level last accepted. -/
def M.edgeAccept (m : M) (q c : Nat) : M :=
  match m.tcell q c with
  | none => m
  | some (_, t) =>
    let l := m.lineLevel t.line
    let stood := m.time.tb - getd 0 t.line m.lio.pinAt
    if !(t.mode == .edge) || t.frozen.isSome || !m.cellLive q c || !m.lineSampled t.line then m
    else if t.lastIn == some l then (if t.tokenOnReturn then m.edgeReport q c l t.capture.toNat else m)
    else if stood < t.filter * m.samplePeriod then m
    else
      let first := m.time.tai - stood
      let m1 := m.putT q c { t with lastIn := some l, capture := BitVec.ofNat 32 first }
      m1.edgeReport q c l (first % 2 ^ 32)

/-! ### Counter chains (R113 to R117) -/

/-- The next cell of the chain still belongs to it (Table 3-6). -/
def M.chainUp (m : M) (q c unit : Nat) : Bool :=
  match m.tcell q (c + 1) with
  | some (cl, t) => t.mode == .cntx && cl.unit == unit && !(m.quad q).failed.contains (c + 1)
  | none => false

/-- A chain is found interrupted above a cell: the token for it is dropped, broken and the chain event are set (Table 3-6). -/
def M.breakChain (m : M) (q c : Nat) : M :=
  match m.tcell q c with
  | none => m
  | some (cl, t) =>
    let m1 := m.dropToken q (some cl.unit)
    if t.broken then m1 else (m1.putT q c { t with broken := true }).fabFlag F.FAB_EVT_chain q

/-- Add a signed count to a counter word; the carry goes up, or wraps the highest cell (R114, R115). -/
def M.addCount (m : M) (q c : Nat) (payload : Word) (wave : Nat) : M :=
  match m.tcell q c with
  | none => m
  | some (cl, t) =>
    let s : Int := (t.live.toNat : Int) + payload.toInt
    let t1 := { t with live := BitVec.ofInt 32 s }
    if 0 ≤ s ∧ s ≤ 4294967295 then m.putT q c t1
    else
      let carry : Word := if s < 0 then 0xFFFFFFFF else 1
      let m1 := m.putT q c t1
      if !t.chained then
        (m1.putT q c { t1 with wrap := true }).send q c 1 t.carryLink (sentKind t.carryLink) carry cl.unit wave
      else if m1.chainUp q c cl.unit then m1.send q c 1 t.carryLink tkCarry carry cl.unit wave
      else m1.breakChain q c

/-- COUNT_TOKEN (CNT) and CARRY_TOKEN (CNTX): the token on port 0 is added (R114). -/
def M.countFire (m : M) (q c : Nat) (mode : TMode) : M :=
  match m.tcell q c with
  | none => m
  | some (cl, t) =>
    match cl.port 0 with
    | none => m
    | some k =>
      if !(t.mode == mode) || k.kind == tkFence || !m.cellLive q c then m
      else ((m.consume q c cl [0] k.wave).fabricEvent 2 q (some cl.unit)).addCount q c k.payload k.wave

/-- SNAPSHOT_FENCE: capture, and on up the chain behind the carries; the end of the chain sends snapshot-done (R116). -/
def M.fenceFire (m : M) (q c : Nat) : M :=
  match m.tcell q c with
  | none => m
  | some (cl, t) =>
    let at_ := if (cl.port 3).any (fun k => k.kind == tkFence) then some 3
      else if (cl.port 0).any (fun k => k.kind == tkFence) then some 0 else none
    match at_.bind (fun p => (cl.port p).map (fun k => (p, k))) with
    | none => m
    | some (p, k) =>
      if !m.cellLive q c || (p == 3 && (cl.port 0).isSome && t.mode.isCounter) then m
      else if !m.roomFor q 1 2 then m.fabricEvent 7 q (some cl.unit)
      else
        let t' := if t.mode == .edge then t else { t with capture := t.liveAt m.time.tai }
        let m0 := (m.setCell q c (cl.take [p])).fabricEvent 2 q (some cl.unit)
        let m1 := ((m0.modQuad q (fun x => { x with lastFire := m.time.tb })).putT q c t').send q c 2 t.snapLink
          (sentKind t.snapLink) t'.capture cl.unit k.wave
        if !t.mode.isCounter then m1
        else if t.chained && !t.broken then
          (if m1.chainUp q c cl.unit then m1.send q c 1 t.carryLink tkFence 0 cl.unit k.wave else m1.breakChain q c)
        else m1.send q c 0 t.outLink (sentKind t.outLink) (BitVec.ofNat 32 (b2n t.broken + 2 * b2n t.wrap)) cl.unit k.wave

/-! ### M-cells (R104, R622) -/

/-- An access to an M-cell word: the cell after and the word the request sends. -/
def MCell.serve (c : MCell) (addr : Word) (operand : Option Word) : MCell × Word :=
  if 256 ≤ addr.toNat then ({ c with range := true }, 0)
  else
    let i := addr.toNat
    let old := getd 0 i c.words
    match operand with
    | none => (c, old)
    | some v => match c.mop with
      | 0 => ({ c with words := putd 0 i v c.words }, v)
      | 1 => ({ c with words := putd 0 i v c.words }, old)
      | _ => ({ c with words := putd 0 i (old + v) c.words }, old + v)

/-- Replace the body of an M-cell; points that name its status are updated when it changed. -/
def M.putMCell (m : M) (q c : Nat) (cl : Cell) (old new : MCell) : M :=
  let m1 := m.setCell q c { cl with body := .m new }
  if old.range == new.range then m1 else m1.backedUpdate 1 (cellRef q c 2) (BitVec.ofNat 32 (b2n new.range)) 0

/-- M_CELL_REQUEST: a read request from port 0, or the two-operand request of ports 1 and 2 (R622). -/
def M.mFire (m : M) (q c : Nat) (two : Bool) : M :=
  match m.cell q c with
  | none => m
  | some cl => (match cl.body with
    | .m b =>
      let ps := if two then [1, 2] else [0]
      (match cl.port (if two then 1 else 0) with
      | none => m
      | some k =>
        let other := cl.port 2
        let same := !two || other.any (fun t => t.wave == k.wave)
        if !m.cellLive q c || !same then m
        else if !m.roomFor q ps.length (b2n (tbit b.link 15)) then m.fabricEvent 7 q (some cl.unit)
        else
          let (b', r) := b.serve k.payload (if two then other.map Token.payload else none)
          let cl' := m.markFired (cl.take ps) k.wave
          let m0 := m.fabricEvent 3 q (some cl.unit)
          let m1 := (m0.modQuad q (fun x => { x with lastFire := m.time.tb })).putMCell q c cl' b b'
          m1.send q c 0 b.link tkData r cl.unit k.wave)
    | _ => m)

/-! ### Accepting tokens (R108, R109, R623) -/

/-- Types and ports a cell takes (Table 3-3, R622); an A-cell takes every type that is not reserved. -/
def CellBody.takes (b : CellBody) (t : Token) : Bool :=
  match b with
  | .a _ => t.kind < 6
  | .t c =>
    let data := t.kind == tkData || t.kind == tkStart || t.kind == tkResponse
    (t.port == 3 && t.kind == tkFence) || (t.port == 1 && data && (c.mode.isTimer || c.mode == .cyc)) ||
    (t.port == 0 && data && (c.mode.isTimer || c.mode == .cnt)) ||
    (t.port == 0 && c.mode == .cntx && (t.kind == tkCarry || t.kind == tkFence))
  | .m _ => t.kind == tkData && !(t.port == 3)

/-- What becomes of the first token of a link at its cell. -/
inductive Arrival where
  /-- the port is occupied: it waits (R623) -/
  | waits
  | dropped
  /-- wrong parity: dropped, and the wave of its unit fails (R109) -/
  | parity
  | taken
  deriving DecidableEq, Repr

/-- The cell's answer to a token (R105, R108, R109, R129, R622). -/
def M.arrival (m : M) (q : Nat) (t : Token) : Arrival :=
  match m.cell q t.cell with
  | none => .dropped
  | some cl =>
    let fence := match cl.body with
      | .t c => c.mode.isCounter && t.port == 0 && (cl.port 3).isSome
      | _ => false
    if (m.quad q).failed.contains t.cell || !(cl.unit == t.unit) then .dropped
    else if !t.good then .parity
    else if !cl.body.takes t || (t.waveKind && !(t.wave == m.unitWave t.unit)) then .dropped
    else if (cl.port t.port).isSome || fence then .waits
    else .taken

/-- Take the first token of a link out of flight. -/
def takeFlight (l : LinkId) : List (LinkId × Token) → Option (Token × List (LinkId × Token))
  | [] => none
  | x :: xs => if x.1 == l then some (x.2, xs) else (takeFlight l xs).map (fun r => (r.1, x :: r.2))

/-- The held token of an EDGE cell has left its link: the line's present level is compared with the one reported (R101); a level
the filter has not passed yet counts as accepted with it (DEDUCED, log 97).  The measurement of a path starts at the first sample
of that level (R122). -/
def M.edgeCompare (m : M) (q c : Nat) : M :=
  match m.tcell q c with
  | none => m
  | some (_, t) =>
    let sampled := m.lineSampled t.line
    let l := if sampled then m.lineLevel t.line else t.lastIn.getD t.level
    if t.mode == .edge && t.frozen.isNone && !(l == t.level) && !m.tokenHeld q c then
      if t.lastIn == some l then m.edgeReport q c l t.capture.toNat
      else
        let first := m.time.tai - (m.time.tb - getd 0 t.line m.lio.pinAt)
        (m.putT q c { t with lastIn := some l, capture := BitVec.ofNat 32 first }).edgeReport q c l (first % 2 ^ 32)
    else m

/-! ### Waves (R108, R112) -/

/-- The unit holds a token: in a port, on a link, or in a firing that waits for its access (R110, R112). -/
def M.unitHolds (m : M) (u : Nat) : Bool :=
  m.fab.quads.any (fun x =>
    x.flight.any (fun p => p.2.unit == u) || x.cells.any (fun p => p.2.unit == u && !p.2.tokens.isEmpty) ||
    x.waiting.any (fun a => a.unit == u) || x.outstanding.any (fun a => a.unit == u && !a.write))

/-- Every terminal cell of the unit has fired for its wave (R112). -/
def M.unitFired (m : M) (u : Nat) : Bool :=
  m.fab.quads.all (fun x => x.cells.all (fun p => !(p.2.unit == u) || !p.2.terminal || p.2.fired))

/-- WAVE_END: the wave of a unit ends (R112). -/
def M.waveEnd (m : M) (u : Nat) : M :=
  if m.exe.active.contains u && !m.unitHolds u && m.unitFired u then
    let q := ((m.exe.units.find? (fun x => x.unit == u)).map UnitRec.quadrant).getD 0
    let m1 : M := { m with exe := { m.exe with active := m.exe.active.filter (fun x => !(x == u)) } }
    m1.fabricEvent 9 q (some u)
  else m

/-- A new wave of a unit: its start cells get start tokens on port 0 (R108, R182 step 4). -/
def M.startWave (m : M) (u : Nat) (payload : Word) : M :=
  match m.exe.units.find? (fun x => x.unit == u) with
  | none => m
  | some r =>
    let w := (m.unitWave u + 1) % 8
    let m1 := { m with exe := { m.exe with waves := aput u w m.exe.waves, active := m.exe.active ++ [u] } }
    let m2 := m1.modQuad r.quadrant (fun x => { x with
      cells := x.cells.map (fun p => if p.2.unit == u then (p.1, { p.2 with fired := false }) else p) })
    ((m2.quad r.quadrant).cells.filter (fun p => p.2.unit == u && p.2.start)).foldl
      (fun a p => a.send r.quadrant 0x800 p.1 (2 ^ 15 + p.1 * 4) tkStart payload u w) m2

/-- Tokens of a unit that carry a wave: those the wave check would drop once the wave has moved on. -/
def staleToken (u w : Nat) (t : Token) : Bool := t.unit == u && t.waveKind && !(t.wave == w)

/-- Drop the tokens of a unit's past waves that stand in ports, and with `all` those on links too (R108, R187, R201). -/
def M.dropStale (m : M) (u : Nat) (all : Bool) : M :=
  let w := m.unitWave u
  (List.range 4).foldl (fun (a : M) q =>
    let x := a.quad q
    let inPorts := x.cells.foldl (fun n p => n + (p.2.tokens.filter (staleToken u w)).length) 0
    let inFlight := if all then (x.flight.filter (fun p => staleToken u w p.2)).length else 0
    let x' := { x with
      cells := x.cells.map (fun p => (p.1, { p.2 with ports := p.2.ports.map (fun o => o.filter (fun t => !staleToken u w t)) }))
      flight := if all then x.flight.filter (fun p => !staleToken u w p.2) else x.flight
      waiting := if all then x.waiting.filter (fun c => !(c.unit == u)) else x.waiting
      outstanding := if all then x.outstanding.filter (fun c => !(c.unit == u)) else x.outstanding }
    (List.range (inPorts + inFlight)).foldl (fun b _ => b.dropToken q (some u)) (a.modQuad q (fun _ => x'))) m

/-- Advance the wave of a unit (R108). -/
def M.advanceWave (m : M) (u : Nat) (all : Bool) : M :=
  let m1 := { m with exe := { m.exe with
    waves := aput u ((m.unitWave u + 1) % 8) m.exe.waves, active := m.exe.active.filter (fun x => !(x == u)) } }
  m1.dropStale u all

/-! ### Freezing (R125, R190) -/

/-- Freeze the T-cells of a quadrant. -/
def M.freezeQuad (m : M) (q : Nat) : M :=
  m.modQuad q (fun x => { x with cells := x.cells.map (fun p => match p.2.body with
    | .t t => (p.1, { p.2 with body := .t { t with frozen := some (t.tickNow m.time.tai) } })
    | _ => p) })

/-- A T-cell goes on: boundaries passed while frozen are not counted (R125, Table 5-8). -/
def TCell.thaw (t : TCell) (tai : Nat) (line : Bool) : TCell :=
  match t.frozen with
  | none => t
  | some k =>
    let d : Int := ((tai / t.unitNs : Nat) : Int) - (k : Int)
    { t with frozen := none
             startTick := ((t.startTick : Int) + d).toNat
             presetTick := ((t.presetTick : Int) + d).toNat
             least := (if t.running then max t.least (k - t.startTick) else t.least)
             lastPeriod := tai
             lastIn := if t.mode == .edge then some line else t.lastIn }

/-- Timers resume and EDGE cells sample again, in a quadrant that runs while execution runs or stops (R125, R190, R191 step 4). -/
def M.resumeQuad (m : M) (q : Nat) : M :=
  let s := m.get F.EXE_STAT_state
  if !(m.qstate q == 2) || !(s == 1 || s == 2) then m
  else
    let ids := (m.quad q).cells.map Prod.fst
    ids.foldl (fun (a : M) c => match a.tcell q c with
      | none => a
      | some (_, t) =>
        if t.frozen.isNone then a
        else
          let l := if a.lineSampled t.line then a.lineLevel t.line else t.level
          let a1 := a.putT q c { t.thaw a.time.tai l with tokenOnReturn := false }
          if t.mode == .edge && (t.tokenOnReturn || !(l == t.level)) then a1.edgeReport q c l (a.time.tai % 2 ^ 32) else a1) m

/-! ### Cells configured and cold (R154, R191) -/

/-- A body as configured now: timers frozen until the quadrant and execution run; a CYC cell has issued no token (R102). -/
def CellBody.fresh (b : CellBody) (tai : Nat) : CellBody :=
  match b with
  | .t c => .t { c with frozen := some (tai / c.unitNs), lastPeriod := tai, live := if c.mode == .cyc then 0 else c.live }
  | x => x

/-- Update every point of backing 0b001 that names a register of a cell (R49). -/
def M.showCell (m : M) (q c : Nat) : M :=
  match m.cell q c with
  | none => m
  | some cl => (List.range 16).foldl (fun (a : M) r => match cl.body.register a.time.tai r with
      | some v => a.backedUpdate 1 (cellRef q c r) v 0
      | none => a) m

/-- A cold run sets every configured cell to its record (R191). -/
def M.coldCells (m : M) : M :=
  let cell (c : Cell) : Cell :=
    { c with body := c.initial.fresh m.time.tai, fired := false, ports := List.replicate 4 none }
  let cold (x : Quadrant) : Quadrant :=
    { x with cells := x.cells.map (fun p => (p.1, cell p.2)), flight := [], waiting := [], outstanding := [] }
  let m1 : M := { m with
    fab := { m.fab with quads := m.fab.quads.map cold }
    exe := { m.exe with waves := m.exe.waves.map (fun p => (p.1, 0)) } }
  (List.range 4).foldl (fun (a : M) q => (a.quad q).cells.foldl (fun (b : M) (p : Nat × Cell) => b.showCell q p.1) a) m1

end Sys2Proof.Machine
end

