-- ==== Sys2Proof/Machine/Locate.lean ====
section
/-! DEFINITION. From an address to the register instance that stands there (R10, R11). -/

namespace Sys2Proof.Machine

/-- One index of an offset: its value and what is left. -/
def splitIndex (off stride count : Nat) : Option (Nat × Nat) :=
  if stride == 0 then some (0, off)
  else
    let i := off / stride
    if i < count then some (i, off - i * stride) else none

/-- The instance of a register at an address, as its three indices. -/
def Reg.indexAt (r : Reg) (a : Nat) : Option (Nat × (Nat × Nat)) :=
  let s := r.spec
  if a < s.base then none
  else
    match splitIndex (a - s.base) s.s1 s.n1 with
    | none => none
    | some (i, o1) =>
      match splitIndex o1 s.s2 s.n2 with
      | none => none
      | some (j, o2) =>
        match splitIndex o2 s.s3 s.n3 with
        | none => none
        | some (k, o3) => if o3 == 0 then some (i, (j, k)) else none

/-- A register instance: register and indices. -/
structure Place where
  reg : Reg
  i : Nat
  j : Nat
  k : Nat
  deriving DecidableEq, Repr

def Place.addr (p : Place) : Nat := p.reg.addr p.i p.j p.k

/-- First register of a list with an instance at an address. -/
def findPlace (a : Nat) : List Reg → Option Place
  | [] => none
  | r :: rs =>
    match r.indexAt a with
    | some (i, (j, k)) => some ⟨r, i, j, k⟩
    | none => findPlace a rs

/-- The register instance at an address; none at a reserved offset (R14). -/
def placeAt (a : Nat) : Option Place := findPlace a Reg.all

end Sys2Proof.Machine
end

