-- ==== Sys2Proof/Machine/ImageParse.lean ====
section
/-! DEFINITION. Layout of a Xovik image: header, section table, records (R133 to R142, Tables 4-1 to 4-7). -/

namespace Sys2Proof.Machine

/-! ### Header (Table 4-1) -/

structure ImageHeader where
  partial_ : Bool
  sections : Nat
  length : Nat
  imageId : Nat
  version : Nat
  baseId : Nat
  level : Nat
  qmask : Nat
  mgmtMin : Nat
  units : Nat
  tasks : Nat
  entries : Nat
  deriving DecidableEq, Repr

def readHeader (b : Bytes) : ImageHeader :=
  { partial_ := tbit (be b 0x06 2) 0, sections := be b 0x0A 2, length := be b 0x0C 4, imageId := be b 0x10 4,
    version := be b 0x14 4, baseId := be b 0x18 4, level := be b 0x20 1, qmask := be b 0x21 1, mgmtMin := be b 0x24 4,
    units := be b 0x34 2, tasks := be b 0x36 2, entries := be b 0x38 4 }

/-- The quadrant of a partial image: the lowest bit of qmask. -/
def ImageHeader.quadrant (h : ImageHeader) : Nat := ((List.range 4).find? (fun q => tbit h.qmask q)).getD 0

/-! ### Sections (Tables 4-2, 4-3) -/

structure Section where
  kind : Nat
  flags : Nat
  off : Nat
  len : Nat
  crc : Nat
  /-- offset of the table entry -/
  entry : Nat
  deriving DecidableEq, Repr

def readSections (b : Bytes) (h : ImageHeader) : List Section :=
  (List.range h.sections).map (fun i =>
    let e := 0x80 + 16 * i
    ⟨be b e 2, be b (e + 2) 2, be b (e + 4) 4, be b (e + 8) 4, be b (e + 12) 4, e⟩)

def secBlockCfg : Nat := 1
def secDirectory : Nat := 2
def secShare : Nat := 3
def secTasks : Nat := 4
def secUnits : Nat := 5
def secCells : Nat := 6
def secSpringbok : Nat := 7

/-- Record size of a section type; 0 where records vary. -/
def recordSize (kind : Nat) : Nat :=
  match kind with
  | 1 => 12
  | 2 => 12
  | 3 => 20
  | 4 => 16
  | 5 => 16
  | 7 => 8
  | _ => 0

/-- Offsets of the records of the sections of one type with records of fixed size. -/
def recordsOf (ss : List Section) (kind : Nat) : List Nat :=
  (ss.filter (fun s => s.kind == kind)).flatMap (fun s =>
    (List.range (s.len / recordSize kind)).map (fun i => s.off + recordSize kind * i))

/-! ### Records of fixed size (Tables 4-4, 4-5, 4-3) -/

/-- A BLOCKCFG record: phase, the register it names, value and mask. -/
structure ConfigRecord where
  arm : Bool
  rec_ : CfgRec
  off : Nat
  deriving DecidableEq, Repr

def readConfig (b : Bytes) (o : Nat) : ConfigRecord :=
  let a := be b o 4
  ⟨tbit a 0, ⟨a - a % 4, be b (o + 4) 4, be b (o + 8) 4⟩, o⟩

structure DirRecord where
  id : Nat
  w0 : Word
  w1 : Word
  off : Nat
  deriving DecidableEq, Repr

def readDir (b : Bytes) (o : Nat) : DirRecord :=
  ⟨be b o 2, BitVec.ofNat 32 (be b (o + 8) 4), BitVec.ofNat 32 (be b (o + 4) 4), o⟩

structure ShareRecord where
  list : Nat
  owner : Nat
  grants : List Nat
  off : Nat
  deriving DecidableEq, Repr

def readShare (b : Bytes) (o : Nat) : ShareRecord :=
  ⟨be b o 2, be b (o + 2) 1, (List.range 8).map (fun i => be b (o + 4 + 2 * i) 2), o⟩

def readTask (b : Bytes) (o : Nat) : TaskRec :=
  ⟨be b o 1, tbit (be b (o + 1) 1) 0, be b (o + 2) 1, be b (o + 3) 1, be b (o + 4) 4, be b (o + 8) 4⟩

def readUnit (b : Bytes) (o : Nat) : UnitRec :=
  ⟨be b o 1, be b (o + 1) 1, be b (o + 2) 1, be b (o + 3) 1, be b (o + 4) 1, tbit (be b (o + 5) 1) 0⟩

def readPath (b : Bytes) (o : Nat) : SbkPath := ⟨be b o 1, be b (o + 1) 1, be b (o + 4) 2, be b (o + 6) 2⟩

/-! ### Cells (R141, Table 4-6) -/

/-- A CELLS record: quadrant, cell number, the cell as configured, offset. -/
structure CellRecord where
  quadrant : Nat
  cell : Nat
  body : Cell
  off : Nat
  deriving DecidableEq, Repr

/-- Opcodes of Table 4-7. -/
def opcodeValid (op : Nat) : Bool :=
  match op / 16 with
  | 0 => true
  | 1 => op % 16 < 4
  | 2 => op % 16 < 3
  | 3 => op % 16 < 9
  | 4 => op % 16 == 0
  | 5 => op % 16 < 3
  | _ => false

def sourceValid (s : Nat) : Bool := s < 0x13 || s == 0x20 || s == 0xFF
def destValid (d : Nat) : Bool := d < 0x10 || d == 0xFF
def linkValid (l : Nat) : Bool := l % 4 == 0

/-- Operation slot at an offset. -/
def readSlot (b : Bytes) (o : Nat) : ASlot :=
  { opcode := be b o 1, smode := be b (o + 1) 1, src0 := be b (o + 2) 1, src1 := be b (o + 3) 1, src2 := be b (o + 4) 1,
    dest := be b (o + 5) 1, trigger := be b (o + 6) 1, link0 := be b (o + 8) 2, link1 := be b (o + 10) 2,
    const := BitVec.ofNat 32 (be b (o + 12) 4) }

/-- The slot is well formed: all zero when not valid; reserved bits and codes absent when valid (R141, R142). -/
def slotWellFormed (b : Bytes) (o : Nat) : Bool :=
  let s := readSlot b o
  if !tbit s.smode 0 then be b o 16 == 0
  else s.smode < 8 && opcodeValid s.opcode && sourceValid s.src0 && sourceValid s.src1 && sourceValid s.src2 &&
    destValid s.dest && s.trigger < 32 && s.trigger % 8 < 6 && be b (o + 7) 1 == 0 && linkValid s.link0 && linkValid s.link1

def tModes : List TMode := [.ton, .tof, .tp, .cyc, .edge, .cnt, .cntx]

/-- Body of a T-cell at an offset, as configured (Table 4-6). -/
def readT (b : Bytes) (o : Nat) : TCell :=
  let mode := (tModes[be b o 1]?).getD .ton
  { mode := mode, tick := be b (o + 1) 1, filter := be b (o + 2) 1, line := be b (o + 3) 1,
    preset := BitVec.ofNat 32 (be b (o + 4) 4), live := BitVec.ofNat 32 (be b (o + 8) 4), capture := 0,
    outLink := be b (o + 12) 2, carryLink := be b (o + 14) 2, snapLink := be b (o + 16) 2, chained := false,
    running := false, expired := false, startTick := 0, least := 0, presetTick := 0, frozen := none, lastIn := none,
    level := false, missed := false, missedCount := 0, wrap := false, broken := false, reset := false, lastPeriod := 0,
    tokenOnReturn := false }

def tWellFormed (b : Bytes) (o : Nat) : Bool :=
  be b o 1 < 7 && be b (o + 1) 1 < 4 && (if be b o 1 == 4 then be b (o + 3) 1 < 64 else be b (o + 3) 1 == 0) &&
  linkValid (be b (o + 12) 2) && linkValid (be b (o + 14) 2) && linkValid (be b (o + 16) 2) && be b (o + 18) 2 == 0

/-- Body of an M-cell at an offset. -/
def readM (b : Bytes) (o : Nat) : MCell :=
  let n := be b o 2
  { words := (List.range n).foldl (fun (a : List (Nat × Word)) i =>
      putd (0 : Word) i (BitVec.ofNat 32 (be b (o + 8 + 4 * i) 4)) a) []
    mop := be b (o + 2) 1 % 4, link := be b (o + 4) 2, range := false }

def mWellFormed (b : Bytes) (o len : Nat) : Bool :=
  let n := be b o 2
  n ≤ 256 && be b (o + 2) 1 < 3 && be b (o + 3) 1 == 0 && linkValid (be b (o + 4) 2) && be b (o + 6) 2 == 0 && len == 16 + 4 * n

/-- Type field a cell number calls for (Table 3-1). -/
def cellType (c : Nat) : Nat := if c < 0x600 then 1 else if c < 0x700 then 2 else 3

/-- Body of a cell of a number from its record. -/
def readBody (b : Bytes) (o c : Nat) : CellBody :=
  if c < 0x600 then
    .a { g := (List.range 16).map (fun i => BitVec.ofNat 32 (be b (o + 4 * i) 4))
         slots := (List.range 8).map (fun i => readSlot b (o + 64 + 16 * i)), overflow := false, invalid := false }
  else if c < 0x700 then .t (readT b o)
  else .m (readM b o)

def readCell (b : Bytes) (q o : Nat) : CellRecord :=
  let c := be b o 2
  let fl := be b (o + 5) 1
  let body := readBody b (o + 8) c
  ⟨q, c, { unit := be b (o + 4) 1, start := tbit fl 0, terminal := tbit fl 1, body := body, initial := body,
           ports := List.replicate 4 none, fired := false }, o⟩

/-- The record at an offset is well formed within the bytes left to its section (R112, R141). -/
def cellWellFormed (b : Bytes) (o left : Nat) : Bool :=
  let c := be b o 2
  let len := be b (o + 2) 2
  let fl := be b (o + 5) 1
  8 ≤ left && c < 0x800 && len ≤ left && be b (o + 6) 2 == 0 && fl / 4 % 16 == 0 && fl / 64 == cellType c &&
  (if c < 0x600 then len == 200 && (List.range 8).all (fun i => slotWellFormed b (o + 72 + 16 * i))
   else if c < 0x700 then len == 28 && tWellFormed b (o + 8) && !(tbit fl 1 && 3 ≤ be b (o + 8) 1)
   else 16 ≤ len && mWellFormed b (o + 8) len)

/-- Cell records of one section: the records before the first ill-formed one, and its offset; `n` bounds the records. -/
def readCells (b : Bytes) (q stop : Nat) : Nat → Nat → List CellRecord × Option Nat
  | 0, _ => ([], none)
  | n + 1, o =>
    if stop ≤ o then ([], none)
    else if !cellWellFormed b o (stop - o) then ([], some o)
    else
      let (rest, bad) := readCells b q stop n (o + be b (o + 2) 2)
      (readCell b q o :: rest, bad)

/-- Cells of a section, by its quadrant. -/
def sectionCells (b : Bytes) (s : Section) : List CellRecord × Option Nat :=
  readCells b (s.flags % 4) (s.off + s.len) (s.len / 16 + 1) s.off

/-! ### The image as read -/

structure Image where
  header : ImageHeader
  sections : List Section
  configs : List ConfigRecord
  dirs : List DirRecord
  shares : List ShareRecord
  tasks : List (Nat × TaskRec)
  units : List (Nat × UnitRec)
  cells : List CellRecord
  paths : List (Nat × SbkPath)
  deriving DecidableEq, Repr

/-- Chain links of the counters of a record list: a CNT or CNTX cell whose next cell is a CNTX cell of its unit (R113). -/
def markChains (cs : List CellRecord) : List CellRecord :=
  let next (r : CellRecord) : Bool := cs.any (fun x => x.quadrant == r.quadrant && x.cell == r.cell + 1 && x.body.unit == r.body.unit &&
    (match x.body.body with
     | .t t => t.mode == .cntx
     | _ => false))
  let mark (r : CellRecord) (b : CellBody) : CellBody :=
    match b with
    | .t t => .t { t with chained := (t.mode == .cnt || t.mode == .cntx) && next r }
    | x => x
  cs.map (fun r => { r with body := { r.body with body := mark r r.body.body, initial := mark r r.body.initial } })

def readImage (b : Bytes) : Image :=
  let h := readHeader b
  let ss := readSections b h
  { header := h, sections := ss
    configs := (recordsOf ss secBlockCfg).map (readConfig b)
    dirs := (recordsOf ss secDirectory).map (readDir b)
    shares := (recordsOf ss secShare).map (readShare b)
    tasks := (recordsOf ss secTasks).map (fun o => (o, readTask b o))
    units := (recordsOf ss secUnits).map (fun o => (o, readUnit b o))
    cells := markChains ((ss.filter (fun s => s.kind == secCells)).flatMap (fun s => (sectionCells b s).1))
    paths := (recordsOf ss secSpringbok).map (fun o => (o, readPath b o)) }

/-- First offset of ill-formed cells. -/
def badCell (b : Bytes) (ss : List Section) : Option Nat :=
  (ss.filter (fun s => s.kind == secCells)).findSome? (fun s => (sectionCells b s).2)

end Sys2Proof.Machine
end

