-- ==== Sys2Proof/Machine/Commit.lean ====
section
/-! DEFINITION. Paired groups and their commit registers (R162 to R165): loop engine, metering, wake patterns of the ports. -/

namespace Sys2Proof.Machine

/-- Fields of the block's commit register, with the port a port's register is indexed by. -/
def CommitBlock.cmt : CommitBlock → FRef
  | .lpe => F.LPE_COMMIT_cmt
  | .mtr => F.MTR_COMMIT_cmt
  | .eth _ => F.ETH_COMMIT_cmt
def CommitBlock.pend : CommitBlock → FRef
  | .lpe => F.LPE_COMMIT_pend
  | .mtr => F.MTR_COMMIT_pend
  | .eth _ => F.ETH_COMMIT_pend
def CommitBlock.err : CommitBlock → FRef
  | .lpe => F.LPE_COMMIT_err
  | .mtr => F.MTR_COMMIT_err
  | .eth _ => F.ETH_COMMIT_err

/-- Group a loop-engine register belongs to, by its offset in its channel (Table 6-6). -/
def loopGroup (o : Nat) : Option Nat :=
  if o == 0x28 || o == 0x2C then some 0
  else if o == 0x38 || o == 0x3C then some 1
  else if o == 0x40 || o == 0x44 then some 2
  else none

/-- Block and group of the paired register at an address. -/
def memberAt (a : Nat) : Option (CommitBlock × Nat) :=
  if 0x40138000 ≤ a && a < 0x4013C000 then (loopGroup (a % 0x100)).map (fun g => (.lpe, g))
  else if 0x40149000 ≤ a && a < 0x4014A800 then some (.mtr, 0)
  else if 0x40148400 ≤ a && a < 0x40148440 then (if 4 ≤ a % 0x20 && a % 0x20 < 0x10 then some (.mtr, 1) else none)
  else if 0x40148500 ≤ a && a < 0x401485C0 then
    (if a % 0x10 == 4 then some (.mtr, 2) else if a % 0x10 == 0xC then some (.mtr, 1) else none)
  else if 0x4030 ≤ a / 0x10000 && a / 0x10000 ≤ 0x4032 && 0x8600 ≤ a % 0x10000 && a % 0x10000 < 0x8700 then
    some (.eth (a / 0x10000 - 0x4030), (a % 0x10000 - 0x8600) / 0x20)
  else none

/-- Addresses of a group's members whose written values are not effective. -/
def M.pendingOf (m : M) (b : CommitBlock) (g : Nat) : List Nat :=
  (m.effs.map Prod.fst).filter (fun a => memberAt a == some (b, g))

/-- The group is armed. -/
def M.armed (m : M) (b : CommitBlock) (g : Nat) : Bool := m.bitOf b.cmt g b.port

/-- A write of a member of an unarmed group goes into the pending set (R163). -/
def M.writeMember (m : M) (b : CommitBlock) (g : Nat) (r : Reg) (v : Word) (i j k : Nat) : M :=
  let a := r.addr i j k
  let m1 := { m with effs := if (aget a m.effs).isSome then m.effs else aput a (m.rd r i j k) m.effs }
  (m1.wr r v i j k).putBit b.pend g true b.port

/-- Validation of an armed group at the boundary: its members become effective together, or the pending set stays (R163). -/
def M.commitGroup (m : M) (b : CommitBlock) (g : Nat) (valid : Bool) (after : M → M) : M :=
  if !m.armed b g then m
  else if valid then
    after (((m.transferAt (m.pendingOf b g)).putBit b.cmt g false b.port).putBit b.pend g false b.port)
  else (m.putBit b.err g true b.port).putBit b.cmt g false b.port

/-- Arm the groups a write of cmt names; groups the block does not have are ignored (R162, R257, R299). -/
def M.armGroups (m : M) (b : CommitBlock) (bits : Nat) : M :=
  (List.range b.groups).foldl (fun (a : M) g => if tbit bits g then a.putBit b.cmt g true b.port else a) m

/-- Discard the pending set of an unarmed group (R162). -/
def M.abortGroup (m : M) (b : CommitBlock) (g : Nat) : M :=
  if m.armed b g || b.groups ≤ g then m
  else
    let as_ := m.pendingOf b g
    let back (r : List (Nat × Word)) (a : Nat) : List (Nat × Word) :=
      match aget a m.effs with
      | some v => aput a v r
      | none => r
    ({ m with regs := as_.foldl back m.regs, effs := m.effs.filter (fun p => !(as_.contains p.1)) }).putBit b.pend g false b.port

/-- GROUP_ABORT: the unarmed groups of a write of abort. -/
def M.abortGroups (m : M) (b : CommitBlock) (bits : Nat) : M :=
  (List.range b.groups).foldl (fun (a : M) g => if tbit bits g then a.abortGroup b g else a) m

/-- Wake pattern p is valid unless it is enabled with an all-zero mask (R353). -/
def M.patternValid (m : M) (x p : Nat) : Bool :=
  !m.bit F.ETH_WP_CRC_en x p || (List.range 4).any (fun k => !(m.rd .ETH_WP_M x p k == 0))

/-- The boundary of a port: a frame's end, or any instant without one, so armed patterns act at once (R353, chapter 9). -/
def M.ethGroups (m : M) (x : Nat) : M :=
  (List.range 8).foldl (fun (a : M) p => a.commitGroup (.eth x) p (a.patternValid x p) id) m

end Sys2Proof.Machine
end

