-- ==== Sys2Proof/Machine/Loop.lean ====
section
/-! DEFINITION. The loop engine and the Waltz learner (chapter 6). -/

namespace Sys2Proof.Machine

/-! ### Channels -/

/-- A loop event flag with its source (R261). -/
def M.loopFlag (m : M) (x : FRef) : M := m.flag x 0x41

def M.chan (m : M) (n : Nat) : LoopChannel := (m.loop.channels[n]?).getD LoopChannel.reset

def M.modChan (m : M) (n : Nat) (f : LoopChannel → LoopChannel) : M :=
  { m with loop := { m.loop with channels := listMod m.loop.channels n f } }

/-- States and modes of LPE_CHn_STAT (Tables 6-4, 6-10). -/
def chOff : Nat := 0
def chRun : Nat := 1
def chHeld : Nat := 2
def chFollow : Nat := 3
def mdMan : Nat := 0
def mdAuto : Nat := 1
def mdCascade : Nat := 2
def mdTrack : Nat := 3

def M.chState (m : M) (n : Nat) : Nat := m.get F.LPE_CH_STAT_state n
def M.chMode (m : M) (n : Nat) : Nat := m.get F.LPE_CH_STAT_mode n

/-- Address of a channel's control register. -/
def ctrlAt (n : Nat) : Nat := Reg.LPE_CH_CTRL.addr n 0 0

/-- Evaluations per second of the channels that are not OFF (Table 6-10). -/
def M.loopLoad (m : M) : Nat :=
  (List.range 64).foldl (fun (a : Nat) n =>
    if m.chState n == chOff then a else a + ceilDiv 1000000 (m.get F.LPE_CH_PER_period n)) 0

/-- Refresh LPE_STAT and the STATE points (Tables 6-1, 6-10). -/
def M.loopShow (m : M) (n : Nat) : M :=
  (m.put F.LPE_STAT_load m.loopLoad).backedUpdate 5 (6 * 256 + n) (m.rd .LPE_CH_STAT n) 0

/-- A quantity of a channel as its points read it (Table 6-1). -/
def M.loopPoint (m : M) (n code : Nat) (v : Word) : M := m.backedUpdate 5 (code * 256 + n) v 0

/-- The channel reads OFF: it samples no more, its fe timer does not run (R223, R255). -/
def M.loopOff (m : M) (n : Nat) : M :=
  (((m.put F.LPE_CH_STAT_state chOff n).put F.LPE_CH_STAT_fe_warn 0 n).wr .LPE_CH_FETMR 0 n).modChan n
    (fun c => { c with queued := [], cascadeInner := false, feStart := none })

/-- The Waltz learner of a channel has lost the mains phase (R252, R288). -/
def M.phaseLost (m : M) (n : Nat) : Bool := m.bit F.LPE_CH_WZCFG_phase_src n && !m.bit F.MTR_VS_STAT_fvalid 0

/-- A channel's lost phase shows while it lasts; its loss raises the loop event (R252). -/
def M.showPhase (m : M) (n : Nat) : M :=
  if m.chState n == chOff || m.phaseLost n == m.bit F.LPE_CH_STAT_wz_ph n then m
  else
    let m1 := m.putB F.LPE_CH_STAT_wz_ph (m.phaseLost n) n
    (if m.phaseLost n then m1.loopFlag F.LPE_EVT_wz_ph else m1).loopShow n

/-- Voltage set A's phase has become valid or is lost (R252). -/
def M.showPhases (m : M) : M := (List.range 64).foldl (fun (a : M) n => a.showPhase n) m

/-! ### Configuration checks (Table 6-2) -/

/-- Shortest period and aggregate cap at a level (Tables 1-5, 6-8). -/
def loopPeriodMin (level : Nat) : Nat := if level == 0 then 100 else 50
def loopCap (level : Nat) : Nat := if level == 0 then 640000 else 1280000

/-- A cascade chain from a channel comes back to it, over channels in CASCADE alone; `k` bounds the steps (DESIGN CHOICE,
log 100). -/
def M.cascadeLoops (m : M) (n : Nat) : Nat → Nat → Bool
  | 0, _ => false
  | k + 1, c =>
    let o := m.get F.LPE_CH_SPSRC_cas c
    o == n || (m.get F.LPE_CH_CTRL_mode o == mdCascade && m.cascadeLoops n k o)

/-- The input is assigned to process analog for the channel's tenant (R295). -/
def M.analogFor (m : M) (n mi : Nat) : Bool :=
  mi < 56 && m.get F.MTR_MI_CFG_use mi == 2 && m.get F.MTR_MI_CFG_tenant mi == m.get F.LPE_CH_TEN_tenant n

/-- The sink is another channel's, lies in an output image, or is the final write of a Springbok path (R178). -/
def M.sinkTaken (m : M) (n : Nat) : Bool :=
  let s := m.get F.LPE_CH_SINK_id n
  !(s == 0xFFFF) &&
  ((List.range 64).any (fun o => !(o == n) && m.get F.LPE_CH_SINK_id o == s) ||
   m.exe.tasks.any (fun t => t.2.outputs.any (fun e => e.point == s)) ||
   m.fab.paths.any (fun p => match m.cell p.quadrant p.finalCell with
     | some cl => (match cl.body with
       | .a b => b.slots.any (fun s' => tbit s'.smode 0 && s'.opcode == 0x52 && s'.const.toNat == s)
       | _ => false)
     | none => false))

/-- A check of Table 6-2 fails. -/
def M.loopFails (m : M) (n code : Nat) : Bool :=
  let per := m.get F.LPE_CH_PER_period n
  let trig := m.bit F.LPE_CH_PER_trig n
  let level := m.get F.PMC_LVL_STAT_level
  let src := m.get F.LPE_CH_SRC_id n
  let mi := m.bit F.LPE_CH_SRC_kind n
  match code with
  | 1 => per < loopPeriodMin level || 100000000 < per || (trig && !(per == 125))
  | 2 => loopCap level < (m.put F.LPE_CH_STAT_state 0 n).loopLoad + ceilDiv 1000000 per
  | 3 => src == 0xFFFF || (mi && !m.analogFor n (src % 64)) || (trig && !mi)
  | 4 => m.sinkTaken n
  | 5 => m.get F.LPE_CH_CTRL_mode n == mdCascade && (m.get F.LPE_CH_SPSRC_cas n == n || m.cascadeLoops n 64 n)
  | 6 => m.effB F.LPE_CH_CTRL_wz_en n && m.eff F.LPE_CH_WZLEN_len n == 0
  | 7 => 250 < m.get F.LPE_CH_TEN_tenant n
  | _ => false

/-- First failing check of Table 6-2; 0 when all pass. -/
def M.loopCheck (m : M) (n : Nat) : Nat := ([1, 2, 3, 4, 5, 6, 7].find? (m.loopFails n)).getD 0

/-- The effective mode changes: a trip that put the channel into MAN clears with the change to AUTO or CASCADE (R256). -/
def M.setMode (m : M) (n new : Nat) : M :=
  let m1 := m.put F.LPE_CH_STAT_mode new n
  if !(new == m.chMode n) && (new == mdAuto || new == mdCascade) && 1 ≤ m.get F.LPE_CH_CTRL_fe_act n &&
    m.get F.LPE_CH_CTRL_fe_act n ≤ 2 then m1.put F.LPE_CH_STAT_fe_trip 0 n else m1

/-- The effective mode of a channel becomes the requested one: a hand-over is due, the fe timer returns to 0 (R240, R242,
R255, R256). -/
def M.takeMode (m : M) (n : Nat) : M :=
  let new := m.eff F.LPE_CH_CTRL_mode n
  if new == m.chMode n then m.modChan n (fun c => { c with cascadeOff := false })
  else
    let m2 := m.setMode n new
    ((m2.put F.LPE_CH_STAT_fe_warn 0 n).wr .LPE_CH_FETMR 0 n).modChan n (fun c =>
      { c with cascadeOff := false, cascadeInner := c.cascadeInner || new == mdCascade, feStart := none,
               handOver := some c.uPrev })

/-- The channel's B fields take effect: control register and bank (R224, R238). -/
def M.loopBoundary (m : M) (n : Nat) : M :=
  let written := (aget (ctrlAt n) m.effs).isSome
  let m1 := m.transferAt [ctrlAt n]
  let m2 := if written then m1.takeMode n else m1
  let bank := m2.get F.LPE_CTRL_bank_sel
  let m3 := if bank == m2.get F.LPE_CH_STAT_bank n then m2
    else (m2.put F.LPE_CH_STAT_bank bank n).modChan n (fun c => { c with handOver := some (c.handOver.getD c.uPrev) })
  if m3.effB F.LPE_CH_CTRL_en n then m3 else m3.loopOff n

/-- The sink's value, read with the channel's tag; 0.0 where there is none (R248). -/
def M.sinkValue (m : M) (n : Nat) : F32 :=
  let id := m.get F.LPE_CH_SINK_id n
  if id == 0xFFFF then 0
  else BitVec.ofNat 32 (((m.who (.loop n)).map (fun w => m.readPoint w id)).getD absentEntry).toNat

/-- An enabled channel that has passed its check leaves OFF: its first evaluation is a hand-over whose reference is u_prev, or the
sink's value after a loss of the domain (R242, R247, R248). -/
def M.loopEnter (m : M) (n : Nat) : M :=
  let mode := m.eff F.LPE_CH_CTRL_mode n
  let m2 := (m.setMode n mode).put F.LPE_CH_STAT_bank (m.get F.LPE_CTRL_bank_sel) n
  let m3 := m2.put F.LPE_CH_STAT_state (if m2.unitState == 2 then chFollow else chRun) n
  let m4 := m3.modChan n (fun c => { c with
    handOver := some (if c.cold then m.sinkValue n else c.uPrev), cold := false, ramp := false, queued := [], feStart := none,
    cascadeOff := false, denied := false, cascadeInner := mode == mdCascade, wasHeld := false, wasForced := false, prevSp := none })
  (m4.loopShow n).showPhase n

/-- The check of Table 6-2 runs and its result shows (R230). -/
def M.loopChecked (m : M) (n : Nat) : M :=
  let m1 := m.put F.LPE_CH_STAT_cfg (m.loopCheck n) n
  (if m.loopCheck n == 0 then m1 else m1.loopFlag F.LPE_EVT_cfg).loopShow n

/-- An OFF channel whose effective en is 1 is checked, and starts when the engine runs (R223, R230). -/
def M.loopStart (m : M) (n : Nat) : M :=
  if !m.effB F.LPE_CH_CTRL_en n || !(m.chState n == chOff) then m
  else
    let m1 := m.loopChecked n
    if m1.get F.LPE_CH_STAT_cfg n == 0 && m1.bit F.LPE_CTRL_en then m1.loopEnter n else m1

/-- The requested mode as its points read it (Table 6-1). -/
def M.showMode (m : M) (n : Nat) : M := m.loopPoint n 4 (BitVec.ofNat 32 (m.get F.LPE_CH_CTRL_mode n))

/-- A write of a channel's control register has completed: while OFF it takes effect at once, and a write of en = 1 checks, or checks
again (R159, R229, R230; log 100). -/
def M.loopCtrlWritten (m : M) (n : Nat) : M :=
  let m1 := m.showMode n
  if m1.chState n == chOff then ((m1.transferAt [ctrlAt n]).loopStart n).loopShow n else m1

/-! ### Paired groups (Table 6-6, R249) -/

/-- Channels with pending members of a group. -/
def M.loopPending (m : M) (g : Nat) : List Nat :=
  (List.range 64).filter (fun n => (m.pendingOf .lpe g).any (fun a => (a - 0x40138000) / 0x100 == n))

/-- Length and base a channel would have after the commit. -/
def M.waltzRange (m : M) (pend : List Nat) (n : Nat) : Nat × Nat :=
  if pend.contains n then (m.get F.LPE_CH_WZBASE_base n, m.get F.LPE_CH_WZLEN_len n)
  else (m.eff F.LPE_CH_WZBASE_base n, m.eff F.LPE_CH_WZLEN_len n)

def rangesMeet (a b : Nat × Nat) : Bool := 0 < a.2 && 0 < b.2 && a.1 < b.1 + b.2 && b.1 < a.1 + a.2

/-- Validation of a group (Table 6-6). -/
def M.loopGroupValid (m : M) (g : Nat) : Bool :=
  let pend := m.loopPending g
  match g with
  | 0 => pend.all (fun n =>
      let lo := m.rd .LPE_CH_OLO n
      let hi := m.rd .LPE_CH_OHI n
      f32Finite lo && f32Finite hi && f32Le lo hi)
  | 1 => pend.all (fun n =>
      let t := m.get F.LPE_CH_FETIME_fetime n
      f32Lt 0 (m.rd .LPE_CH_FELIM n) && 1 ≤ t && t ≤ 86400000)
  | _ => pend.all (fun n =>
      let r := m.waltzRange pend n
      r.2 ≤ 8192 && r.1 + r.2 ≤ 262144 &&
      (List.range 64).all (fun o => o == n || !rangesMeet r (m.waltzRange pend o)))

/-- Set every value of a channel's effective range to 0.0 (R249, R253). -/
def M.clearWaltz (m : M) (n : Nat) : M :=
  let b := m.eff F.LPE_CH_WZBASE_base n
  let l := m.eff F.LPE_CH_WZLEN_len n
  { m with loop := { m.loop with waltz := m.loop.waltz.filter (fun p => p.1 < b || b + l ≤ p.1) } }

/-- Validate and apply the armed groups (R163, R258). -/
def M.loopGroups (m : M) : M :=
  (List.range 3).foldl (fun (a : M) g =>
    let pend := a.loopPending g
    a.commitGroup .lpe g (a.loopGroupValid g) (fun b => if g == 2 then pend.foldl (fun (c : M) n => c.clearWaltz n) b else b)) m

/-- COMMIT_SLOT: it recurs every 10 µs of TAI time while the engine runs (R258). -/
def M.commitSlot (m : M) : M := if m.bit F.LPE_CTRL_en && m.time.tai % 10000 == 0 then m.loopGroups else m

/-- The newly selected bank is at once that of every OFF channel (R238). -/
def M.bankSelected (m : M) : M :=
  (List.range 64).foldl (fun (a : M) n =>
    if a.chState n == chOff && !(a.get F.LPE_CH_STAT_bank n == a.get F.LPE_CTRL_bank_sel) then
      (a.put F.LPE_CH_STAT_bank (a.get F.LPE_CTRL_bank_sel) n).loopShow n
    else a) m

/-- The engine is switched on: the enabled channels whose last check passed are checked again, one after the other, and start
(R223, R230; log 100). -/
def M.engineStarts (m : M) : M :=
  (List.range 64).foldl (fun (a : M) n => if a.get F.LPE_CH_STAT_cfg n == 0 then a.loopStart n else a) m

/-- The engine is switched off: every channel reads OFF, its B fields act, and so do the armed groups (R159, R165, R223). -/
def M.engineStops (m : M) : M :=
  ((List.range 64).foldl (fun (a : M) n =>
    let a1 := (a.loopOff n).transferAt [ctrlAt n]
    if a.chState n == chOff then a1 else a1.loopShow n) m).loopGroups

/-- LPE_CTRL has been written; `was` is the engine enable before it (R165, R223, R238). -/
def M.loopEngineWritten (m : M) (was : Bool) : M :=
  let m1 := if m.bit F.LPE_CTRL_en == was then m else if was then m.engineStops else m
  let m2 := m1.bankSelected
  if m.bit F.LPE_CTRL_en && !was then m2.engineStarts else m2

/-! ### Samples (R224, R235, R247) -/

/-- Largest magnitude of an output sample, and a sample clipped to it (R269). -/
def fullScale : Rat := 1 - 1 / 2 ^ 23
def clipSample (x : Rat) : Rat := max (-fullScale) (min fullScale x)

/-- An input whose sample is clipped counts as overranged for the frame (R269). -/
def M.clipMark (m : M) (mi : Nat) (x : Rat) : M :=
  if clipSample x == x then m else { m with mtr := { m.mtr with overrange := putBitN m.mtr.overrange mi true } }

/-- Module time is a sample instant of the channel, not yet taken: a TAI multiple of its period, or an output of the modulator input
(R224). -/
def M.sampleNow (m : M) (n : Nat) : Bool :=
  (m.bit F.LPE_CH_PER_trig n || m.time.tai % (1000 * max 1 (m.get F.LPE_CH_PER_period n)) == 0) &&
    !((m.chan n).sampledAt == some m.time.tb)

/-- LOOP_SAMPLE: a sample instant; `x` is the output sample of the modulator input named by the source, as a fraction of full
scale in binary32 (R264, R295), `phase` the phase of L1 of voltage set A then, in radians (R250). -/
def M.loopSample (m : M) (n : Nat) (x : F32) (phase : F64) : M :=
  let st := m.chState n
  if st == chOff || 64 ≤ n || !m.sampleNow n then m
  else if st == chFollow && (m.unitState == 2 || !m.leased) then m
  else
    let mi := m.get F.LPE_CH_SRC_id n % 64
    let v := f32Of (clipSample (f32Rat x) * (m.get F.MTR_MI_SCALE_fs mi : Rat) / 1000 + f32Rat (m.rd .MTR_MI_OFS mi))
    let m0 := if m.bit F.LPE_CH_SRC_kind n then m.clipMark mi (f32Rat x) else m
    let m1 := if st == chFollow then
        ((m0.put F.LPE_CH_STAT_state chRun n).modChan n (fun c => { c with handOver := some c.uPrev })).loopShow n
      else m0
    m1.modChan n (fun c => { c with queued := c.queued ++ [(m1.time.tai, (v, phase))], sampledAt := some m1.time.tb })

/-- The engine evaluates the earliest sample, the lowest channel of equal ones; a channel in FOLLOW evaluates nothing (R235, R247). -/
def M.nextSample (m : M) (n : Nat) : Option (Nat × (F32 × F64)) :=
  match (m.chan n).queued with
  | [] => none
  | (t, v) :: _ =>
    if !(m.chState n == chFollow) && (List.range 64).all (fun o => match (m.chan o).queued with
        | (u, _) :: _ => t < u || (t == u && n ≤ o)
        | [] => true) then some (t, v)
    else none

/-! ### One evaluation (R231 to R256) -/

/-- A value read for an evaluation, and whether its source is good (R245). -/
structure LoopInput where
  value : F32
  good : Bool
  deriving DecidableEq, Repr

/-- A point read through the gate with the channel's tag. -/
def M.loopRead (m : M) (n id : Nat) : LoopInput :=
  let d := ((m.who (.loop n)).map (fun w => m.readPoint w id)).getD absentEntry
  let v : F32 := BitVec.ofNat 32 d.toNat
  ⟨v, !tbit d.toNat 32 && !tbit d.toNat 33 && !tbit d.toNat 47 && f32Finite v⟩

/-- The process value; an input reports a fault until the filters have settled (R225, R245, R270). -/
def M.loopSource (m : M) (n : Nat) (captured : F32) : LoopInput :=
  let id := m.get F.LPE_CH_SRC_id n
  if m.bit F.LPE_CH_SRC_kind n then
    let mi := id % 64
    let flt := if mi < 32 then m.bitOf F.MTR_MIFLT0_flt mi else m.bitOf F.MTR_MIFLT1_flt (mi - 32)
    let live := m.bit F.MTR_STAT_run && m.mtr.settleAt ≤ m.time.tb
    ⟨captured, live && !flt && f32Finite captured⟩
  else m.loopRead n id

/-- The setpoint (R227, R246). -/
def M.loopSetpoint (m : M) (n : Nat) : LoopInput :=
  let reg (v : F32) : LoopInput := ⟨v, f32Finite v⟩
  if m.chMode n == mdCascade then reg (m.rd .LPE_CH_OUT (m.get F.LPE_CH_SPSRC_cas n))
  else if m.bit F.LPE_CH_SPSRC_kind n && !(m.chan n).cascadeOff then m.loopRead n (m.get F.LPE_CH_SPSRC_id n)
  else reg (m.rd .LPE_CH_SP n)

/-- The feed-forward or track input; ID 0xFFFF names none and reads 0.0 (R227). -/
def M.loopAux (m : M) (n id : Nat) : LoopInput := if id == 0xFFFF then ⟨0, true⟩ else m.loopRead n id

/-- Status and value of the sink as its entry stands at the start (R228). -/
structure SinkSeen where
  forced : Bool
  notDriven : Bool
  value : F32
  deriving DecidableEq, Repr

def M.loopSink (m : M) (n : Nat) : SinkSeen :=
  let id := m.get F.LPE_CH_SINK_id n
  if id == 0xFFFF then ⟨false, false, 0⟩
  else
    let d := ((m.who (.loop n)).map (fun w => m.readPoint w id)).getD absentEntry
    ⟨tbit d.toNat 35, tbit d.toNat 36, BitVec.ofNat 32 d.toNat⟩

/-- The cascade inner of a channel that is not in CASCADE now, and its present setpoint (Table 6-5, last row). -/
def M.idleInner (m : M) (n : Nat) : Option F32 :=
  ((List.range 64).find? (fun o => !(o == n) && (m.chan o).cascadeInner && !(m.chState o == chOff) &&
      m.get F.LPE_CH_SPSRC_cas o == n && !(m.chMode o == mdCascade))).map
    (fun o => if m.bit F.LPE_CH_SPSRC_kind o && !(m.chan o).cascadeOff then (m.chan o).lastSp else m.rd .LPE_CH_SP o)

/-- Why a channel is held, and its reference; `plain` marks the safe output, which takes no clamp (Table 6-5). -/
structure Hold where
  ref : F32
  plain : Bool
  deriving DecidableEq, Repr

/-- The first cause of Table 6-5. -/
def M.loopHold (m : M) (n : Nat) (srcGood : Bool) (s : SinkSeen) : Option Hold :=
  let c := m.chan n
  if s.forced then some ⟨s.value, false⟩
  else if !srcGood && m.bit F.LPE_CH_CTRL_sf_act n then some ⟨m.rd .LPE_CH_OSAFE n, true⟩
  else if !srcGood then some ⟨c.uPrev, false⟩
  else if s.notDriven then some ⟨c.uPrev, false⟩
  else if c.denied then some ⟨c.uPrev, false⟩
  else (m.idleInner n).map (fun r => ⟨r, false⟩)

/-- An inner channel in CASCADE whose outer is not in RUN falls back to AUTO with the last outer output (R246). -/
def M.cascadeFallback (m : M) (n : Nat) : M :=
  let o := m.get F.LPE_CH_SPSRC_cas n
  if m.chMode n == mdCascade && !(m.chState o == chRun) then
    let m1 := (m.wr .LPE_CH_SP (m.rd .LPE_CH_OUT o) n).put F.LPE_CH_STAT_mode mdAuto n
    (m1.loopPoint n 1 (m.rd .LPE_CH_OUT o)).modChan n (fun c =>
      { c with cascadeOff := true, feStart := none, handOver := some c.uPrev })
  else m

/-- Phase index of a sample, and whether it is valid (R250, R252). -/
def M.waltzPhase (m : M) (n t : Nat) (phase : F64) : Nat × Bool :=
  let len := m.eff F.LPE_CH_WZLEN_len n
  let off := m.get F.LPE_CH_WZCFG_offset n
  let mains := m.bit F.LPE_CH_WZCFG_phase_src n
  if m.phaseLost n then (m.get F.LPE_CH_WZIDX_j n, false)
  else if len == 0 then (0, true)
  else if mains then (((ratFloor (f64Rat phase * (len : Rat) / (2 * piRat)) + off) % (len : Int)).toNat, true)
  else ((t / (1000 * max 1 (m.get F.LPE_CH_PER_period n)) + off) % len, true)

/-- A value of the learning memory. -/
def M.waltzAt (m : M) (n j : Nat) : F32 :=
  let len := m.eff F.LPE_CH_WZLEN_len n
  if len == 0 then 0 else getd 0 (m.eff F.LPE_CH_WZBASE_base n + j % len) m.loop.waltz

/-- What one evaluation computes before it writes. -/
structure LoopResult where
  u : F32
  i : F32
  d : F32
  e : F32
  pv : F32
  w : F32
  nan : Bool
  satHi : Bool
  satLo : Bool
  rateLim : Bool
  intHold : Bool
  ramp : Bool
  /-- a hand-over stepped, or needs a ramp (R243) -/
  stepped : Bool
  deriving DecidableEq, Repr

/-- The control law of R231 with the hand-over of R242 and R243. -/
def M.loopLaw (m : M) (n : Nat) (pv sp ffin trk : F32) (w : F32) (hold : Option Hold) (ho : Option F32) : LoopResult :=
  let c := m.chan n
  let b := m.get F.LPE_CH_STAT_bank n
  let k (r : Reg) : F32 := m.rd r n b
  let mode := m.chMode n
  let olo := m.effWord .LPE_CH_OLO n
  let ohi := m.effWord .LPE_CH_OHI n
  let rate := m.rd .LPE_CH_RATE n
  let limited := f32Lt 0 rate
  let e := f32Sub sp pv
  let p := f32Mul (k .LPE_CH_KP) (f32Sub (f32Mul (k .LPE_CH_BW) sp) pv)
  let dr := f32Mul (f32Neg (k .LPE_CH_KDT)) (f32Sub pv c.pvPrev)
  let d0 := m.rd .LPE_CH_D n
  let d := f32Add d0 (f32Mul (k .LPE_CH_DF) (f32Sub dr d0))
  let ff := f32Add (f32Mul (k .LPE_CH_KFF) ffin) w
  let pdf := f32Add (f32Add p d) ff
  let i0 := m.rd .LPE_CH_I n
  let law := hold.isNone && (mode == mdAuto || mode == mdCascade)
  let want := ho.map (fun r => f32Sub r pdf)
  let i1 := match want with
    | some x => f32Clamp x olo ohi
    | none => i0
  let bites := law && want.any (fun x => !(f32Eq (f32Clamp x olo ohi) x))
  let inc0 := f32Mul (k .LPE_CH_KIT) e
  let v := f32Add (f32Add (f32Add (f32Add p i1) inc0) d) ff
  let block := (f32Lt ohi v && f32Lt 0 inc0) || (f32Lt v olo && f32Lt inc0 0)
  let inc := if block then 0 else inc0
  let i2 := f32Clamp (f32Add i1 inc) olo ohi
  let raw := match hold with
    | some h => h.ref
    | none => if mode == mdTrack then trk else if mode == mdMan then m.rd .LPE_CH_MAN n
      else f32Add (f32Add (f32Add p i2) d) ff
  let plain := hold.any Hold.plain
  let u1 := if plain then raw else f32Clamp raw olo ohi
  let rated := hold.isNone && !(mode == mdTrack) && limited
  let base := if bites then ho.getD c.uPrev else c.uPrev
  let u2 := if rated then f32Clamp u1 (f32Sub base rate) (f32Add base rate) else u1
  let nan := f32IsNan u2
  let track := !law
  { u := if nan then c.uPrev else u2
    i := if nan then i0 else if track then f32Clamp (f32Sub u2 pdf) olo ohi else i2
    d := if nan then d0 else d
    e := e
    pv := pv
    w := w
    nan := nan
    satHi := !nan && !plain && f32Lt ohi raw
    satLo := !nan && !plain && f32Lt raw olo
    rateLim := !nan && rated && !(f32Eq u2 u1)
    intHold := !nan && law && block
    ramp := !nan && law && (bites || c.ramp) && limited && !(f32Eq u2 u1)
    stepped := !nan && bites && (if limited then !(f32Eq u2 u1) else !(f32Eq u2 base)) }

/-- Following-error supervision after an evaluation (R255): the timer's start, its milliseconds, and whether it trips. -/
def M.feStep (m : M) (n t : Nat) (held : Bool) (sp e : F32) : Option Nat × (Nat × Bool) :=
  let c := m.chan n
  let lim := m.effWord .LPE_CH_FELIM n
  let fet := m.eff F.LPE_CH_FETIME_fetime n
  let mode := m.chMode n
  let old := m.get F.LPE_CH_FETMR_ms n
  if held then (c.feStart.map (fun s => s + (t - c.lastAt)), (old, false))
  else if !(mode == mdAuto || mode == mdCascade) then (none, (0, false))
  else
    let ovr := f32Lt lim (f32Abs e)
    let moved := c.prevSp.any (fun s => f32Lt lim (f32Abs (f32Sub sp s)))
    let start := if !ovr then none else if moved then some t else some (c.feStart.getD t)
    let cnt := min ((start.map (fun s => (t - s) / ms)).getD 0) fet
    let reached := start.isSome && fet ≤ cnt
    (start, (cnt, reached && !(m.bit F.LPE_CH_STAT_fe_trip n && fet ≤ old)))

/-- Write the sink (R228). -/
def M.sinkWrite (m : M) (n : Nat) (u : F32) : M :=
  let id := m.get F.LPE_CH_SINK_id n
  if id == 0xFFFF then (m.put F.LPE_CH_STAT_sink_bad 0 n).modChan n (fun c => { c with denied := false })
  else match m.who (.loop n) with
    | none => m
    | some w =>
      let r := m.writePoint w id u
      if r.1 == .granted then (r.2.put F.LPE_CH_STAT_sink_bad 0 n).modChan n (fun c => { c with denied := false })
      else
        let m1 := ((r.2.put F.LPE_CH_STAT_sink_bad 1 n).count F.LPE_SNKDENY_count).modChan n (fun c => { c with denied := true })
        m1.loopFlag F.LPE_EVT_sink

/-- A following-error trip (R256). -/
def M.feTrip (m : M) (n : Nat) (e u : F32) : M :=
  let tenant := m.get F.LPE_CH_TEN_tenant n
  let m1 := (m.put F.LPE_CH_STAT_fe_trip 1 n).loopFlag F.LPE_EVT_fe
  let m2 := m1.note 0x0C 3 tenant [n, e.toNat, u.toNat, (m.effWord .LPE_CH_FELIM n).toNat]
  let toMan (a : M) (v : F32) : M :=
    let a1 := (a.put F.LPE_CH_STAT_mode mdMan n).wr .LPE_CH_MAN v n
    (((a1.put F.LPE_CH_STAT_fe_warn 0 n).wr .LPE_CH_FETMR 0 n).loopPoint n 3 v).modChan n (fun c =>
      { c with feStart := none, handOver := some c.uPrev })
  match m.get F.LPE_CH_CTRL_fe_act n with
  | 1 => toMan m2 u
  | 2 =>
    let s := m2.rd .LPE_CH_OSAFE n
    let v := f32Clamp s (m.effWord .LPE_CH_OLO n) (m.effWord .LPE_CH_OHI n)
    let m3 := ((toMan m2 s).wr .LPE_CH_OUT v n).modChan n (fun c => { c with uPrev := v, handOver := some v })
    (m3.sinkWrite n v).loopPoint n 2 v
  | _ => m2

/-- Flag a fault once per episode (R245). -/
def M.episode (m : M) (bad was : Bool) : M := if bad && !was then m.loopFlag F.LPE_EVT_src else m

/-- What one evaluation reads before it writes anything: its inputs as R245 repairs them, its cause of HELD, its hand-over, its
phase and Waltz output, the control law's result and the following error's. -/
structure LoopRun where
  t : Nat
  src : LoopInput
  spIn : LoopInput
  trkIn : LoopInput
  ffIn : LoopInput
  sink : SinkSeen
  hold : Option Hold
  handOver : Option F32
  pv : F32
  sp : F32
  trk : F32
  ff : F32
  /-- the setpoint comes from a point -/
  spPoint : Bool
  phase : Nat
  phaseOk : Bool
  w : F32
  r : LoopResult
  feStart : Option Nat
  feMs : Nat
  trips : Bool
  deriving DecidableEq, Repr

/-- The setpoint comes from a point (R227, R246). -/
def M.spFromPoint (m : M) (n : Nat) : Bool :=
  !(m.chMode n == mdCascade) && m.bit F.LPE_CH_SPSRC_kind n && !(m.chan n).cascadeOff

/-- Source, setpoint or track input at fault (R245). -/
def LoopRun.bad (x : LoopRun) : Bool := !x.src.good || !x.spIn.good || !x.trkIn.good

/-- The reference of the hand-over that is due (R242, R243). -/
def loopHandOver (c : LoopChannel) (sink : SinkSeen) (hold : Option Hold) : Option F32 :=
  if c.wasForced && !sink.forced then some sink.value
  else if c.wasHeld && hold.isNone then some (c.handOver.getD c.uPrev)
  else c.handOver

/-- The Waltz output of a phase (R251, R252). -/
def M.waltzOut (m : M) (n j : Nat) (phaseOk : Bool) : F32 :=
  if m.effB F.LPE_CH_CTRL_wz_en n && phaseOk then m.waltzAt n (j + m.get F.LPE_CH_WZCFG_lead n) else 0

/-- What an evaluation of a sample reads and computes (R231). -/
def M.loopRun (m : M) (n t : Nat) (captured : F32) (phase : F64) : LoopRun :=
  let c := m.chan n
  let src := m.loopSource n captured
  let spIn := m.loopSetpoint n
  let trkIn := m.loopAux n (m.get F.LPE_CH_TRKSRC_id n)
  let ffIn := m.loopAux n (m.get F.LPE_CH_FFSRC_id n)
  let pv := if f32Finite src.value then src.value else c.pvPrev
  let sp := if spIn.good then spIn.value else if m.spFromPoint n then c.lastSp else c.lastReg
  let trk := if trkIn.good then trkIn.value else c.lastTrk
  let ff := if ffIn.good then ffIn.value else 0
  let sink := m.loopSink n
  let hold := m.loopHold n src.good sink
  let ho := loopHandOver c sink hold
  let ph := m.waltzPhase n t phase
  let w := m.waltzOut n ph.1 ph.2
  let r := m.loopLaw n pv sp ff trk w hold ho
  let fe := m.feStep n t hold.isSome sp r.e
  { t := t, src := src, spIn := spIn, trkIn := trkIn, ffIn := ffIn, sink := sink, hold := hold, handOver := ho, pv := pv, sp := sp,
    trk := trk, ff := ff, spPoint := m.spFromPoint n, phase := ph.1, phaseOk := ph.2, w := w, r := r, feStart := fe.1, feMs := fe.2.1, trips := fe.2.2 }

/-- The registers an evaluation leaves (Table 6-12). -/
def M.loopValues (m : M) (n : Nat) (x : LoopRun) : M :=
  let m1 := (((m.wr .LPE_CH_PV x.pv n).wr .LPE_CH_OUT x.r.u n).wr .LPE_CH_ERR x.r.e n).wr .LPE_CH_I x.r.i n
  let m2 := (((m1.wr .LPE_CH_D x.r.d n).wr .LPE_CH_WZOUT x.w n).put F.LPE_CH_WZIDX_j x.phase n).put F.LPE_CH_FETMR_ms x.feMs n
  if m.chMode n == mdMan then m2 else (m2.wr .LPE_CH_MAN x.r.u n).loopPoint n 3 x.r.u

/-- The flags of LPE_CHn_STAT that an evaluation leaves. -/
def M.loopStatus (m : M) (n : Nat) (x : LoopRun) : M :=
  let m4 := (((m.putB F.LPE_CH_STAT_sat_hi x.r.satHi n).putB F.LPE_CH_STAT_sat_lo x.r.satLo n).putB
    F.LPE_CH_STAT_int_hold x.r.intHold n).putB F.LPE_CH_STAT_rate_lim x.r.rateLim n
  let m5 := (((m4.putB F.LPE_CH_STAT_ho_ramp x.r.ramp n).putB F.LPE_CH_STAT_nan x.r.nan n).putB
    F.LPE_CH_STAT_src_bad x.bad n).putB F.LPE_CH_STAT_ff_bad (!x.ffIn.good) n
  ((m5.putB F.LPE_CH_STAT_fe_warn x.feStart.isSome n).put F.LPE_CH_STAT_state
    (if x.hold.isSome then chHeld else chRun) n).putB F.LPE_CH_STAT_wz_ph (!x.phaseOk) n

/-- Under fe_act 0 or 3 a trip clears once the error is small (R256). -/
def M.loopTripClears (m : M) (n : Nat) (e : F32) : M :=
  if m.get F.LPE_CH_CTRL_fe_act n == 0 || m.get F.LPE_CH_CTRL_fe_act n == 3 then
    (if f32Le (f32Abs e) (m.effWord .LPE_CH_FELIM n) then m.put F.LPE_CH_STAT_fe_trip 0 n else m)
  else m

/-- The events of an evaluation; `c` is the channel before it, `lost` says that its phase was lost before (R243, R245, R252). -/
def M.loopEvents (m : M) (x : LoopRun) (c : LoopChannel) (lost : Bool) : M :=
  let m8 := (((m.episode (!x.src.good) c.srcEpisode).episode (!x.spIn.good) c.spEpisode).episode (!x.trkIn.good)
    c.trkEpisode).episode (!x.ffIn.good) c.ffEpisode
  let m9 := if x.r.nan then m8.loopFlag F.LPE_EVT_nan else m8
  let m10 := if x.r.stepped then m9.loopFlag F.LPE_EVT_ho else m9
  if !x.phaseOk && !lost then m10.loopFlag F.LPE_EVT_wz_ph else m10

/-- Learning is allowed after an evaluation (R251). -/
def M.loopLearns (m : M) (n : Nat) (x : LoopRun) : Bool :=
  m.bit F.LPE_CH_CTRL_wz_learn n && x.hold.isNone && (m.chMode n == mdAuto || m.chMode n == mdCascade) && x.phaseOk &&
    0 < m.eff F.LPE_CH_WZLEN_len n && !x.r.satHi && !x.r.satLo && !x.r.rateLim && !x.r.ramp && !x.r.nan

/-- The value learned for the present phase (R231). -/
def M.loopLearned (m : M) (n : Nat) (x : LoopRun) : F32 :=
  let span := f32Sub (m.effWord .LPE_CH_OHI n) (m.effWord .LPE_CH_OLO n)
  f32Clamp (f32Add (f32Mul (m.rd .LPE_CH_WZQ n) (m.waltzAt n x.phase)) (f32Mul (m.rd .LPE_CH_WZKL n) x.r.e)) (f32Neg span) span

/-- The learning memory after an evaluation that began at `m`. -/
def M.loopMemory (m : M) (n : Nat) (x : LoopRun) : List (Nat × F32) :=
  if m.loopLearns n x then
    putd 0 (m.eff F.LPE_CH_WZBASE_base n + x.phase % max 1 (m.eff F.LPE_CH_WZLEN_len n)) (m.loopLearned n x) m.loop.waltz
  else m.loop.waltz

/-- What a channel keeps of an evaluation. -/
def LoopRun.keep (x : LoopRun) (c : LoopChannel) : LoopChannel :=
  { c with pvPrev := x.pv, uPrev := x.r.u, lastSp := if x.spPoint then x.sp else c.lastSp,
           lastReg := if x.spPoint then c.lastReg else x.sp, lastTrk := x.trk, prevSp := some x.sp, feStart := x.feStart, handOver := none,
           ramp := x.r.ramp, wasForced := x.sink.forced, wasHeld := x.hold.isSome, srcEpisode := !x.src.good, spEpisode := !x.spIn.good, trkEpisode := !x.trkIn.good, ffEpisode := !x.ffIn.good,
           lastAt := x.t }

/-- Everything an evaluation leaves before it writes the sink. -/
def M.loopBefore (m : M) (n : Nat) (x : LoopRun) : M :=
  let m7 := ((m.loopValues n x).loopStatus n x).loopTripClears n x.r.e
  let m11 := m7.loopEvents x (m.chan n) (m.bit F.LPE_CH_STAT_wz_ph n)
  { m11 with loop := { m11.loop with waltz := m.loopMemory n x } }

/-- The points of an evaluation (Table 6-1). -/
def M.loopPoints (m : M) (n : Nat) (x : LoopRun) : M :=
  (((m.loopPoint n 0 x.pv).loopPoint n 2 (m.rd .LPE_CH_OUT n)).loopPoint n 5 x.r.e).loopPoint n 7 x.w

/-- The sink is written, the channel keeps what it computed, a trip acts, the points show it. -/
def M.loopAfter (m : M) (n : Nat) (x : LoopRun) : M :=
  let m13 := (m.sinkWrite n x.r.u).modChan n x.keep
  let m14 := if x.trips then m13.feTrip n x.r.e x.r.u else m13
  m14.loopPoints n x

/-- LOOP_EVALUATION: one evaluation of the channel whose sample is next, and its boundary (R231, R224). -/
def M.loopEvaluate (m : M) (n : Nat) : M :=
  match m.nextSample n with
  | none => m
  | some (t, (captured, phase)) =>
    let m0 := (m.modChan n (fun c => { c with queued := c.queued.tail })).cascadeFallback n
    let x := m0.loopRun n t captured phase
    (((m0.loopBefore n x).loopAfter n x).loopBoundary n).loopShow n

/-! ### Waltz ranges in the historian (R253, R254) -/

/-- WALTZ_CLEAR. -/
def M.waltzClear (m : M) (n : Nat) : M := m.clearWaltz n

/-- WALTZ_SAVE: the range of every wz_keep channel goes to the historian while it is on. -/
def M.waltzSave (m : M) : M :=
  if !m.domainOn 13 then m
  else
    let keep (a : List (Nat × List F32)) (n : Nat) : List (Nat × List F32) :=
      if m.bit F.LPE_CH_CTRL_wz_keep n && 0 < m.eff F.LPE_CH_WZLEN_len n then
        aput n ((List.range (m.eff F.LPE_CH_WZLEN_len n)).map (fun j => m.waltzAt n j)) a
      else a
    let kept := (List.range 64).foldl keep m.loop.kept
    ({ m with loop := { m.loop with kept := kept } }).hstWrites ((kept.map (fun (p : Nat × List F32) => 4 * p.2.length)).sum + 32)

/-- Store values into the learning memory from an index. -/
def M.waltzStore (m : M) (first : Nat) (vs : List F32) : M :=
  let put (w : List (Nat × F32)) (p : F32 × Nat) : List (Nat × F32) := putd 0 (first + p.2) p.1 w
  { m with loop := { m.loop with waltz := (vs.zip (List.range vs.length)).foldl put m.loop.waltz } }

/-- A kept range is restored, with the historian on, when it is configured again at bring-up or when the domain returns (R248, R254). -/
def M.waltzRestore (m : M) : M :=
  if !m.domainOn 13 then m else (List.range 64).foldl (fun (a : M) n =>
    match aget n a.loop.kept with
    | some vs =>
      if a.bit F.LPE_CH_CTRL_wz_keep n && vs.length == a.eff F.LPE_CH_WZLEN_len n then
        a.waltzStore (a.eff F.LPE_CH_WZBASE_base n) vs
      else a
    | none => a) m

end Sys2Proof.Machine
end

