-- ==== Sys2Proof/Machine/Can.lean ====
section
/-! DEFINITION. CAN FD controllers and remote stations (chapter 8). -/

namespace Sys2Proof.Machine

/-- Event source of a controller (Table 20-1). -/
def canSource (n : Nat) : Nat := 0x30 + n

/-- Controller states of Table 8-17. -/
def canOff : Nat := 0
def canIntegrating : Nat := 1
def canActiveState : Nat := 2
def canRestricted : Nat := 3
def canSleep : Nat := 4
def canBusOff : Nat := 5

/-- Station states of Table 8-11. -/
def stUnconf : Nat := 0
def stIdent : Nat := 1
def stOnline : Nat := 2
def stDropped : Nat := 3
def stMismatch : Nat := 4
def stDuplicate : Nat := 5

def M.canState (m : M) (n : Nat) : Nat := m.get F.CAN_STAT_state n

/-- The state of a controller that has left INTEGRATING or bus-off (R307, R316). -/
def M.canRest (m : M) : Nat := if m.acting then canActiveState else canRestricted

/-- Set a station's state; CANn_ONL follows (R322). -/
def M.setStationState (m : M) (n s st : Nat) : M :=
  let m1 := m.put F.CAN_STA_STAT_state st n s
  if s < 32 then m1.putBit F.CAN_ONL0_online s (st == stOnline) n else m1.putBit F.CAN_ONL1_online (s - 32) (st == stOnline) n

/-- Points backed by a station, with their directions. -/
def M.stationPoints (m : M) (n s dir : Nat) : List Nat :=
  (m.pts.points.filter (fun p => p.2.backing == 4 && p.2.bus == n && p.2.station == s && p.2.dir == dir)).map Prod.fst

/-! ### Reference messages and the station dialogue, sending (R321, R323 to R325) -/

/-- A REF whose start of frame is at a TAI time (Table 8-7). -/
def M.refFrame (m : M) (n sof : Nat) : CanFrame :=
  dialogueFrame 0 (toBE 1 1 ++ toBE 1 (m.get F.RTC_STAT_lock) ++ toBE 2 (m.canBox n).refSeq ++ toBE 8 sof ++
    toBE 4 (m.get F.IBX_EPOCH_epoch))

/-- A REF is to be sent; one that waits is replaced by it (R321). -/
def M.sendRef (m : M) (n : Nat) : M :=
  if m.canSends n then (m.setCan n { m.canBox n with refWaiting := true }).canStart n else m

/-- An IDQ: step 2 of Table 8-12. -/
def M.sendIdq (m : M) (n s : Nat) : M :=
  if !m.canSends n then m
  else (m.setStation n s { m.stationOf n s with idqAt := some m.time.tb, serial := none, cfgAt := none }).canSend n (0x180 + s) []

/-- A CFG: step 4 of Table 8-12. -/
def M.sendCfg (m : M) (n s : Nat) : M :=
  if !m.canSends n then m
  else
    let body := toBE 2 (m.get F.CAN_STA_CFG_sup n s) ++ toBE 2 (m.get F.CAN_STA_CFG_refresh n s) ++
      toBE 4 (m.get F.IBX_EPOCH_epoch)
    (m.setStation n s { m.stationOf n s with cfgAt := some m.time.tb }).canSend n (0x100 + s) body

/-- The times of a station fit (R323). -/
def M.stationTimes (m : M) (n s : Nat) : Bool :=
  let sup := m.get F.CAN_STA_CFG_sup n s
  let ref := m.get F.CAN_STA_CFG_refresh n s
  2 ≤ sup && sup ≤ 10000 && 1 ≤ ref && 2 * ref ≤ sup

/-- Check an enabled station and start its identification: steps 1 and 2 of Table 8-12. -/
def M.stationStart (m : M) (n s : Nat) : M :=
  if m.stationTimes n s then
    let m1 := m.setStation n s ⟨none, none, none, 0, [], none⟩
    (m1.setStationState n s stIdent).sendIdq n s
  else (m.setStationState n s stUnconf).flag F.CAN_EVT_cfg (canSource n) n

/-- Points of a station that delivers no more: inputs stale and substituted, outputs stale (R48, R197; log 103). -/
def M.stationSilent (m : M) (n s : Nat) : M :=
  let m1 := (m.stationPoints n s 0).foldl (fun a id => a.setStatusBits id (stStale + stSubstituted)) m
  (m1.stationPoints n s 1).foldl (fun a id => a.setStatusBits id stStale) m1

/-- A station is UNCONF again; the points of one that was ONLINE show it. -/
def M.stationClear (m : M) (n s : Nat) : M :=
  let was := m.get F.CAN_STA_STAT_state n s == stOnline
  let m1 := (m.setStation n s ⟨none, none, none, 0, [], none⟩).setStationState n s stUnconf
  if was then m1.stationSilent n s else m1

/-- CANn_STAs_CFG.en written: 1 checks an UNCONF station, whatever the controller's state (R322, R323). -/
def M.stationEnable (m : M) (n s : Nat) (en : Bool) : M :=
  let m1 := m.putB F.CAN_STA_CFG_en en n s
  if !en then (if m.bit F.CAN_STA_CFG_en n s then m1.stationClear n s else m1)
  else if m.get F.CAN_STA_STAT_state n s == stUnconf then m1.stationStart n s
  else m1

/-- The controller has come up: every enabled station that is UNCONF is checked and started, one that waits in IDENT gets its IDQ. -/
def M.stationsStart (m : M) (n : Nat) : M :=
  (List.range 64).foldl (fun a s =>
    if !a.bit F.CAN_STA_CFG_en n s then a
    else if a.get F.CAN_STA_STAT_state n s == stUnconf then a.stationStart n s
    else if a.get F.CAN_STA_STAT_state n s == stIdent && (a.stationOf n s).idqAt.isNone then a.sendIdq n s
    else a) m

/-- REF first, then a full refresh of every ONLINE station (R316, R330). -/
def M.busTakeover (m : M) (n : Nat) : M :=
  (List.range 64).foldl (fun a s => a.fullRefresh n s) (m.sendRef n)

/-! ### Enable, lease, bus-off (R304, R307 to R309, R315, R316, R330) -/

/-- Timing checks of Table 8-2: the first code that fails, or 0. -/
def M.canTiming (m : M) (n : Nat) : Nat :=
  let nb := m.get F.CAN_NBT_nbrp n + 1
  let n1 := m.get F.CAN_NBT_ntseg1 n + 1
  let n2 := m.get F.CAN_NBT_ntseg2 n + 1
  let ns := m.get F.CAN_NBT_nsjw n + 1
  let db := m.get F.CAN_DBT_dbrp n + 1
  let d1 := m.get F.CAN_DBT_dtseg1 n + 1
  let d2 := m.get F.CAN_DBT_dtseg2 n + 1
  let ds := m.get F.CAN_DBT_dsjw n + 1
  let nq := 1 + n1 + n2
  let dq := 1 + d1 + d2
  if nb * nq < 80 || db * dq < 16 || nb * nq < db * dq then 1
  else if nq < 8 || dq < 5 then 2
  else if n1 < ns || n2 < ns || d1 < ds || d2 < ds then 3
  else if db * dq < 80 && !m.bit F.CAN_TDC_en n then 4
  else 0

/-- CANn_CTRL.en = 1 (R304, R307). -/
def M.canEnable (m : M) (n : Nat) : M :=
  let m1 := m.putB F.CAN_CTRL_en true n
  if !(m.canState n == canOff) then m1
  else
    let e := m1.canTiming n
    let m2 := m1.put F.CAN_STAT_cfg e n
    if e == 0 then m2.put F.CAN_STAT_state canIntegrating n else m2.flag F.CAN_EVT_cfg (canSource n) n

/-- CANn_CTRL.en = 0: OFF, queues, buffers and station states cleared (R309); a controller in bus-off leaves it with its counters at 0
(Table 8-17; log 103). -/
def M.canDisable (m : M) (n : Nat) : M :=
  if m.canState n == canOff then m.putB F.CAN_CTRL_en false n
  else
    let m0 := (List.range 64).foldl (fun a s => if a.get F.CAN_STA_STAT_state n s == stOnline then a.stationClear n s else a) m
    let mb := if m.canState n == canBusOff then (m0.wr .CAN_ERR 0 n).put F.CAN_STAT_fault 0 n else m0
    let m1 := ((mb.putB F.CAN_CTRL_en false n).put F.CAN_CTRL_sleep 0 n).put F.CAN_STAT_state canOff n
    let m2 := ((m1.wr .CAN_TXREQ 0 n).wr .CAN_RXQ_STAT 0 n).wr .CAN_TXDONE 0 n
    let m3 := (List.range 160).foldl (fun a i => a.wr .CAN_TXB_W 0 n (i / 20) (i % 20)) m2
    let m4 := (List.range 64).foldl (fun a s => (a.wr .CAN_STA_STAT 0 n s)) m3
    ((m4.wr .CAN_ONL0 0 n).wr .CAN_ONL1 0 n).setCan n CanState.empty

/-- INTEGRATION_DONE: 11 recessive bits (Table 8-4, step 3). -/
def M.canIntegrated (m : M) (n : Nat) : M :=
  if m.canState n == canIntegrating && !m.bitOf F.TIM_CLK_STAT_fo 3 then ((m.put F.CAN_STAT_state m.canRest n).stationsStart n).canStart n else m

/-- A lease is gained: each RESTRICTED controller becomes ACTIVE (R309, R330). -/
def M.canGain (m : M) : M :=
  (List.range 8).foldl (fun a n =>
    if a.canState n == canRestricted then (a.put F.CAN_STAT_state canActiveState n).busTakeover n
    else if (a.canBox n).ending == some canRestricted then (a.setCan n { a.canBox n with ending := none }).busTakeover n
    else a) m

/-- The lease is gone: each ACTIVE controller becomes RESTRICTED, after the frame it is sending (R309). -/
def M.canFence (m : M) : M :=
  (List.range 8).foldl (fun a n => if a.canState n == canActiveState then a.canLeave n canRestricted else a) m

/-- Store the error counters: error-passive while either exceeds 127 (R315). -/
def M.canCounters (m : M) (n tec recv : Nat) : M :=
  let was := m.get F.CAN_STAT_fault n
  let m1 := (m.put F.CAN_ERR_tec tec n).put F.CAN_ERR_rec (min recv 255) n
  let now := if 127 < tec || 127 < recv then 1 else 0
  let m2 := m1.put F.CAN_STAT_fault now n
  if was == 0 && now == 1 then m2.flag F.CAN_EVT_passive (canSource n) n else m2

/-- CAN_ERROR (R315, R316); in RESTRICTED the counters do not change (R308). -/
def M.canError (m : M) (n : Nat) (e : CanFault) : M :=
  if !m.canActive n then m
  else
    let tec := m.get F.CAN_ERR_tec n
    let recv := m.get F.CAN_ERR_rec n
    match e with
    | .receive => m.canCounters n tec (min (recv + 1) 255)
    | .receivePrimary => m.canCounters n tec (min (recv + 8) 255)
    | .transmit =>
      if 255 < tec + 8 then
        let m1 := (m.put F.CAN_ERR_tec 0x100 n).put F.CAN_STAT_fault 2 n
        let c := (m.canBox n).back
        let m2 := ((m1.put F.CAN_STAT_state canBusOff n).setCan n { c with
          ending := none, refWaiting := false, dialogue := c.dialogue.filter (fun f => !(f.id / 64 == 1)) }).flag F.CAN_EVT_boff
            (canSource n) n
        (m2.count F.CAN_BOCNT_boff n).note 6 3 0 [n]
      else ((m.canCounters n (tec + 8) recv).setCan n (m.canBox n).back).canFree n

/-- BUSOFF_RECOVERY (R316). -/
def M.canRecovered (m : M) (n : Nat) : M :=
  if !(m.canState n == canBusOff) then m
  else
    let m1 := ((m.wr .CAN_ERR 0 n).put F.CAN_STAT_fault 0 n).put F.CAN_STAT_state m.canRest n
    let m2 := (m1.flag F.CAN_EVT_recov (canSource n) n).count F.CAN_BOCNT_recov n
    if m2.canActive n then m2.busTakeover n else m2

/-- REF_DUE: a TAI multiple of the period in force, which is the block's boundary; an ACTIVE controller sends a REF (R321). -/
def M.refDue (m : M) (n : Nat) : M :=
  if m.time.tai % (max 1 (m.eff F.CAN_REF_period n) * ms) == 0 then (m.transferAt [Reg.CAN_REF.addr n 0 0]).sendRef n else m

/-! ### Receiving (R308, R310 to R313) -/

/-- Count a frame that no one takes (R311, R320). -/
def M.canDiscard (m : M) (n : Nat) : M := m.count F.CAN_LOST_disc n

/-- Payload of a station frame is long enough and its station enabled (R320). -/
def M.dialogueGood (m : M) (n s len : Nat) (d : Bytes) : Bool := m.bit F.CAN_STA_CFG_en n s && len ≤ d.length

/-- IDR (R323, R324). -/
def M.idr (m : M) (n : Nat) (d : Bytes) : M :=
  let s := be d 6 1
  if 64 ≤ s || !m.dialogueGood n s 16 d then m.canDiscard n
  else
    let st := m.stationOf n s
    let ser := be d 0 6
    let state := m.get F.CAN_STA_STAT_state n s
    let want := m.get F.CAN_STA_SERH_ser_hi n s * 2 ^ 32 + m.get F.CAN_STA_SERL_ser_lo n s
    let ty := m.get F.CAN_STA_SERH_type n s
    if !(state == stIdent || state == stOnline || state == stDropped) then m
    else if st.serial.any (fun x => !(x == ser)) && st.idqAt.any (fun t => m.time.tb ≤ t + 10 * ms) then
      (m.setStationState n s stDuplicate).flag F.CAN_EVT_dup (canSource n) n
    else if state == stOnline then m
    else if (!(want == 0) && !(want == ser)) || (!(ty == 0) && !(ty == be d 7 1)) then
      (m.setStationState n s stMismatch).flag F.CAN_EVT_mism (canSource n) n
    else (m.setStation n s { st with serial := some ser }).sendCfg n s

/-- CFGR: result 0x00 brings the station ONLINE with a full refresh (R323, R325). -/
def M.cfgr (m : M) (n s : Nat) (d : Bytes) : M :=
  if !m.dialogueGood n s 4 d then m.canDiscard n
  else
    let state := m.get F.CAN_STA_STAT_state n s
    if !(state == stIdent || state == stDropped) || !(be d 0 1 == 0) || (m.stationOf n s).serial.isNone then m
    else
      let st := { m.stationOf n s with superviseBy := some (m.time.tb + m.get F.CAN_STA_CFG_sup n s * ms) }
      let m1 := (m.setStation n s st).setStationState n s stOnline
      let m2 := if state == stDropped then
          let a := m1.flag F.CAN_EVT_ret (canSource n) n
          (a.stationPoints n s 1).foldl (fun b id => b.clearStatusBits id stStale) a
        else m1
      m2.fullRefresh n s

/-- Write the objects of an IN to their input entries (R326). -/
def M.inObjects (m : M) (n s : Nat) (d : Bytes) : Nat → M
  | 0 => m
  | k + 1 =>
    let m1 := m.inObjects n s d k
    let o := 8 + 7 * k
    let st := be d (o + 2) 1
    m1.pts.points.foldl (fun a p =>
      if p.2.backing == 4 && p.2.dir == 0 && p.2.bus == n && p.2.station == s && p.2.object == be d o 2 then
        a.backingUpdate p.1 (BitVec.ofNat 32 (be d (o + 3) 4)) (bitN st 0 * stFault + bitN st 1 * stOverrange)
      else a) m1

/-- IN (R326). -/
def M.inReport (m : M) (n s : Nat) (d : Bytes) : M :=
  let k := be d 1 1
  if !m.dialogueGood n s (8 + 7 * k) d || 8 < k then m.canDiscard n
  else
    let state := m.get F.CAN_STA_STAT_state n s
    if !(state == stOnline || state == stDropped) then m.canDiscard n
    else
      let m1 := (m.put F.CAN_STA_STAT_sstate (be d 0 1 % 4) n s).put F.CAN_STA_STAT_seq (be d 2 2) n s
      let st := { m1.stationOf n s with superviseBy := some (m1.time.tb + m1.get F.CAN_STA_CFG_sup n s * ms) }
      (m1.setStation n s st).inObjects n s d k

/-- REJ (R329). -/
def M.rejArrives (m : M) (n s : Nat) (d : Bytes) : M :=
  if !m.dialogueGood n s 10 d then m.canDiscard n
  else
    let m1 := (m.flag F.CAN_EVT_rej (canSource n) n).count F.CAN_STA_STAT_rej n s
    m1.note 6 3 0 [n, s, be d 0 4, be d 4 4]

/-- An OUT, CFG or IDQ of the unit that holds the lease, as a standby unit sees it: one that is short or of a station not enabled is
discarded; an IDQ is noted (R320, R323). -/
def M.peerFrame (m : M) (n s kind : Nat) (d : Bytes) : M :=
  let need := match kind with
    | 1 => 8 + 6 * be d 6 1
    | 4 => 8
    | _ => 0
  if !m.dialogueGood n s need d || (kind == 1 && d.length < 8) then m.canDiscard n
  else if kind == 6 then m.setStation n s { m.stationOf n s with idqAt := some m.time.tb, serial := none, cfgAt := none }
  else m

/-- A frame of the station dialogue (R310, R320). -/
def M.dialogue (m : M) (n : Nat) (f : CanFrame) : M :=
  let s := f.id % 64
  if f.ext then m.idr n f.data
  else if !f.fd || !f.brs then m.canDiscard n
  else match f.id / 64 with
    | 2 => m.inReport n s f.data
    | 3 => m.rejArrives n s f.data
    | 5 => m.cfgr n s f.data
    | 1 => m.peerFrame n s 1 f.data
    | 4 => m.peerFrame n s 4 f.data
    | 6 => m.peerFrame n s 6 f.data
    | 0 => if f.id == 0 && 16 ≤ f.data.length then m else m.canDiscard n
    | _ => m.canDiscard n

/-- Identifiers of the dialogue (R310). -/
def CanFrame.isDialogue (f : CanFrame) : Bool := if f.ext then 0x1FE00000 ≤ f.id else f.id < 0x400

/-- The first filter that takes a frame (R311). -/
def M.filterOf (m : M) (n : Nat) (f : CanFrame) : Option Nat :=
  (List.range 64).find? (fun x => m.bit F.CAN_FLT_ID_en n x && m.bit F.CAN_FLT_ID_ide n x == f.ext &&
    Nat.land (Nat.xor f.id (m.get F.CAN_FLT_ID_id n x)) (m.get F.CAN_FLT_MASK_mask n x) == 0)

/-- Queue fills as CANn_RXQ_STAT shows them. -/
def M.rxqShow (m : M) (n : Nat) : M :=
  (m.put F.CAN_RXQ_STAT_cnt0 (m.canBox n).rxq0.length n).put F.CAN_RXQ_STAT_cnt1 (m.canBox n).rxq1.length n

/-- Put a frame in a receive queue (R312). -/
def M.rxqPush (m : M) (n q : Nat) (f : CanQueued) : M :=
  let c := m.canBox n
  let l := if q == 0 then c.rxq0 else c.rxq1
  if 64 ≤ l.length then (m.count F.CAN_LOST_qovf n).flag F.CAN_EVT_qovf (canSource n) n
  else (m.setCan n (if q == 0 then { c with rxq0 := l ++ [f] } else { c with rxq1 := l ++ [f] })).rxqShow n

/-- The receive counter after a frame received without error (ISO 11898-1): one less, or a value from 119 to 127 (free). -/
def M.receiveCredit (m : M) (n : Nat) : M :=
  let r := m.get F.CAN_ERR_rec n
  if m.canActive n then
    if 127 < r then
      let (w, m1) := m.drawFree
      m1.canCounters n (m1.get F.CAN_ERR_tec n) (119 + w.toNat % 9)
    else m.canCounters n (m.get F.CAN_ERR_tec n) (r - 1)
  else m

/-- Where a valid frame goes: to the station engine, or through the filters (R310 to R312). -/
def M.canRoute (m : M) (n : Nat) (f : CanFrame) (sof : Nat) : M :=
  if f.isDialogue then m.dialogue n f
  else match m.filterOf n f with
    | some x => m.rxqPush n (m.get F.CAN_FLT_ID_q n x) ⟨f, sof⟩
    | none => m.canDiscard n

/-- CAN_FRAME_RECEIVED: a valid frame with the TAI time of its start; a frame of the module that was on the bus has lost arbitration to
it (R308, R310 to R312, R315, R321). -/
def M.canReceived (m : M) (n : Nat) (f : CanFrame) (sof : Nat) : M :=
  if !(m.canState n == canActiveState || m.canState n == canRestricted) then m
  else
    let lost := m.setCan n (m.canBox n).back
    let m1 := ((lost.count F.CAN_FCNT_rx n).receiveCredit n).canRoute n f sof
    m1.canFree n

/-- A frame of a station, as it is received: IN, REJ, CFGR, and the IDR, whose identifier carries the serial (Table 8-5). -/
def stationFrame (id : Nat) (d : Bytes) : CanFrame := { dialogueFrame id [] with data := d, dlc := dlcOf d.length }
def idrFrame (d : Bytes) : CanFrame := { stationFrame (0x1FE00000 + be d 0 6 % 2 ^ 21) d with ext := true }

/-- Word `w` of a queued frame (Table 8-6). -/
def CanQueued.word (q : CanQueued) (w : Nat) : Word :=
  let f := q.frame
  BitVec.ofNat 32 (match w with
    | 0 => b2n f.ext * 2 ^ 31 + b2n f.fd * 2 ^ 30 + b2n f.brs * 2 ^ 29 + f.id
    | 1 => b2n f.esi * 2 ^ 31 + b2n f.rtr * 2 ^ 30 + f.dlc * 2 ^ 16 + (if f.rtr then 0 else f.data.length)
    | 2 => q.sof % 2 ^ 32
    | 3 => q.sof / 2 ^ 32
    | _ => fromLE (padTo 4 (slice f.data (4 * (w - 4)) 4)))

/-- Word `w` of the head of queue `q` as it reads (R313). -/
def M.rxqWord (m : M) (n q w : Nat) : Word :=
  let c := m.canBox n
  match (if q == 0 then c.rxq0 else c.rxq1) with
  | [] => 0
  | h :: _ => h.word w

/-- CANn_RXQ_POP written (R313). -/
def M.rxqPop (m : M) (n v : Nat) : M :=
  let c := m.canBox n
  (m.setCan n { c with rxq0 := if tbit v 0 then c.rxq0.drop 1 else c.rxq0,
                       rxq1 := if tbit v 1 then c.rxq1.drop 1 else c.rxq1 }).rxqShow n

/-! ### Transmit buffers (R314) -/

/-- The controller refuses the buffer. -/
def M.bufferRefused (m : M) (n b : Nat) : Bool :=
  let f := m.bufferFrame n b
  let len := (m.rd .CAN_TXB_W n b 1).toNat % 128
  (if f.ext then f.id / 2 ^ 21 == 0xFF else f.id < 0x400) || (f.rtr && f.fd) ||
  !(len ≤ 8 || (f.fd && [12, 16, 20, 24, 32, 48, 64].contains len))

/-- The buffer is on the bus. -/
def M.bufferOnBus (m : M) (n b : Nat) : Bool := (m.canBox n).onBus == some (.buffer b)

/-- CANn_TXREQ written: a 1 requests, a 0 withdraws a request whose frame is not on the bus (R314). -/
def M.txRequest (m : M) (n v : Nat) : M :=
  M.canStart (n := n) <| (List.range 8).foldl (fun a b =>
    if tbit v b then
      if a.bitOf F.CAN_TXREQ_req b n then a
      else if a.bufferRefused n b then (a.putBit F.CAN_TXDONE_fail b true n).flag F.CAN_EVT_txerr (canSource n) n
      else a.putBit F.CAN_TXREQ_req b true n
    else if a.bufferOnBus n b then a
    else a.putBit F.CAN_TXREQ_req b false n) m

/-- The frame on the bus, which began at a TAI time. -/
def M.txFrame (m : M) (n sof : Nat) : CanTx → CanFrame
  | .ref => m.refFrame n sof
  | .dialogue f => f
  | .buffer b => m.bufferFrame n b

/-- What is left of a frame that was sent: a REF's number, or a buffer's result and start of frame (R314, R321). -/
def M.txDone (m : M) (n sof : Nat) : CanTx → M
  | .ref => m.setCan n { m.canBox n with refSeq := ((m.canBox n).refSeq + 1) % 65536 }
  | .dialogue _ => m
  | .buffer b =>
    let m1 := (m.putBit F.CAN_TXREQ_req b false n).putBit F.CAN_TXDONE_done b true n
    (m1.wr .CAN_TXB_W (BitVec.ofNat 32 sof) n b 2).wr .CAN_TXB_W (BitVec.ofNat 32 (sof / 2 ^ 32)) n b 3

/-- FRAME_SENT: the frame on the bus completes; `sof` is its TAI start, `tdcv` the delay measured on an FD frame (R306, R314,
R315). -/
def M.frameSent (m : M) (n sof tdcv : Nat) : M :=
  match (m.canBox n).onBus with
  | none => m
  | some x =>
    let f := m.txFrame n sof x
    let m2 := (m.txDone n sof x)
    let m3 := if f.fd && m2.bit F.CAN_TDC_en n then m2.put F.CAN_STAT_tdcv tdcv n else m2
    let m4 := m3.canCounters n (m3.get F.CAN_ERR_tec n - 1) (m3.get F.CAN_ERR_rec n)
    let m5 := (m4.count F.CAN_FCNT_tx n).emit (.canFrame n f)
    (m5.setCan n { m5.canBox n with onBus := none }).canFree n

/-! ### Sleep and wake (R317 to R319) -/

/-- CANn_CTRL.sleep = 1: SLEEP after the frame in progress; a controller that is OFF, in bus-off or asleep takes no request (DESIGN
CHOICE, log 103). -/
def M.canSleepReq (m : M) (n : Nat) : M :=
  let enabled := (List.range 64).any (fun s => m.bit F.CAN_STA_CFG_en n s)
  if enabled || !(m.get F.CAN_TXREQ_req n == 0) || !([1, 2, 3].contains (m.canState n)) then m
  else
    let w : WakeSettings := ⟨m.get F.CAN_WAKE_wmode n, m.bit F.CAN_WAKE_ide n, m.get F.CAN_WAKE_wdlc n, m.get F.CAN_WID_id n,
      m.get F.CAN_WIDM_mask n, m.get F.CAN_WDM1_dmask n * 2 ^ 32 + m.get F.CAN_WDM0_dmask n⟩
    ((m.put F.CAN_CTRL_sleep 1 n).setCan n { m.canBox n with asleep := some w }).canLeave n canSleep

/-- Sleep ends: INTEGRATING (R319). -/
def M.canWake (m : M) (n : Nat) : M :=
  if (m.canBox n).asleep.isNone then m
  else
    let m1 := (m.setCan n { m.canBox n with asleep := none, ending := none, onBus := none }).put F.CAN_CTRL_sleep 0 n
    if m1.bit F.CAN_CTRL_en n then m1.put F.CAN_STAT_state canIntegrating n else m1

/-- The bus wakes the controller (R318). -/
def WakeSettings.wakes (w : WakeSettings) (x : WakeSeen) : Bool :=
  match w.wmode, x with
  | 1, .pattern => true
  | 2, .frame f => !f.fd && !f.rtr && f.ext == w.ide && Nat.land (Nat.xor f.id w.id) w.mask == 0 && f.dlc == w.wdlc &&
      !(Nat.land (fromLE f.data) w.dmask == 0)
  | 2, .frameErrors => true
  | _, _ => false

/-- BUS_WAKE (R318, R319). -/
def M.busWake (m : M) (n : Nat) (x : WakeSeen) : M :=
  match (m.canBox n).asleep with
  | none => m
  | some w => if w.wakes x then (m.flag F.CAN_EVT_wake (canSource n) n).canWake n else m

/-! ### Retries, dropout and refresh (R196, R197, R324, R325, R327) -/

/-- IDQ_RETRY: no IDR within 10 ms of the IDQ (R324). -/
def M.idqRetry (m : M) (n s : Nat) : M :=
  let st := m.stationOf n s
  if m.get F.CAN_STA_STAT_state n s == stIdent && st.serial.isNone && !(st.idqAt.any (fun t => m.time.tb < t + 10 * ms)) then
    m.sendIdq n s
  else m

/-- CFG_RETRY: refused or missing CFGR (R324). -/
def M.cfgRetry (m : M) (n s : Nat) : M :=
  let state := m.get F.CAN_STA_STAT_state n s
  if (state == stIdent || state == stDropped) && (m.stationOf n s).serial.isSome then m.sendCfg n s else m

/-- STATION_DROPOUT (R196, R197, R325). -/
def M.stationDropout (m : M) (n s : Nat) : M :=
  if !(m.get F.CAN_STA_STAT_state n s == stOnline) || !m.due (m.stationOf n s).superviseBy then m
  else
    let st := { m.stationOf n s with superviseBy := none, idqAt := none, serial := none, cfgAt := none }
    (((m.setStation n s st).setStationState n s stDropped).flag F.CAN_EVT_drop (canSource n) n).stationSilent n s

/-- REJOIN_RETRY: a DROPPED station is identified again (R325). -/
def M.rejoinRetry (m : M) (n s : Nat) : M :=
  if m.get F.CAN_STA_STAT_state n s == stDropped then m.sendIdq n s else m

end Sys2Proof.Machine
end

