-- ==== Sys2Proof/Machine/PointCmd.lean ====
section
/-! DEFINITION. Directory, share-list and force commands, and subscriptions (chapter 2, R54 to R58, R67 to R88, R620). -/

namespace Sys2Proof.Machine

/-- Error codes of Table 2-8. -/
def ptOk : Nat := 0
def ptBusy : Nat := 1
def ptRights : Nat := 2
def ptLocal : Nat := 3
def ptForced : Nat := 4
def ptInval : Nat := 5
def ptFull : Nat := 6
def ptNotForced : Nat := 7

/-- Cyclic execution runs: neither STOP nor TRIPPED (R51, R81). -/
def M.executing (m : M) : Bool := !(m.get F.EXE_STAT_state == 0) && !(m.get F.EXE_STAT_state == 3)

/-- Directory commands that change an S field are refused: execution runs, or a full load is past its checks (R146, step 4). -/
def M.dirHeld (m : M) : Bool :=
  m.executing || (match m.img.job with
    | .full e _ _ => e == 0
    | .fullWaits _ => true
    | _ => false)

/-- The first code of a list of checks that fails (R620). -/
def firstError : List (Bool × Nat) → Nat
  | [] => 0
  | (bad, code) :: t => if bad then code else firstError t

/-! ### Directory commands (R80 to R84) -/

/-- An entry of a directory word pair at rest; the reserved bit [24] of word 0 holds nothing (R12, R51). -/
def freshEntry (w0 w1 : Word) : PointRec := ⟨w0 &&& 0xFEFFFFFF, w1, false, 0, 0, 0⟩

/-- Two entries differ outside share and forceable (bits [15:4] and [0]) and priv (bit [1]): what only tenant 0 OWNER may
change (Table 2-6). -/
def structural (a b : PointRec) : Bool :=
  !(a.owner == b.owner) || !(a.kind == b.kind) || !(a.dir == b.dir) || !(a.backing == b.backing) || !(a.ref == b.ref) ||
  !(a.mirror == b.mirror) || !(a.retain == b.retain)

/-- The tag may make a change from an old entry to a new one (Table 2-6, R84). -/
def dirRights (tag : Tag) (old : Option PointRec) (new : PointRec) : Bool :=
  match tag with
  | .system => true
  | .mk t role =>
    let top := t == 0 && role == .owner
    match old with
    | none => top
    | some o =>
      let own := o.owner == t && (role == .engineer || role == .owner)
      let soft := (!(o.share == new.share) && o.owner == new.owner) || !(o.forceable == new.forceable)
      (top || own) && (top || !(structural o new) && o.priv == new.priv) && (own || !soft)

/-- The S fields of an entry change (Table 2-2). -/
def stopFields (a b : PointRec) : Bool :=
  !(a.ref == b.ref) || !(a.kind == b.kind) || !(a.dir == b.dir) || !(a.backing == b.backing) || !(a.priv == b.priv)

/-- Send a change record and drop the sequence number: for changes whose answer no command waits for. -/
def M.tellPeer (m : M) (c : ChangeRec) : M := (m.sendChange c).2

/-- Remove an entry: its value and its places go with it (R69, R82). -/
def M.removeEntry (m : M) (id : Nat) : M :=
  ({ m with pts := { m.pts with points := adel id m.pts.points } }).noteChecks id

/-- Status bits the backing of an entry sets at once: a station that does not read ONLINE delivers nothing (R83, R325, R489). -/
def M.backingBits (m : M) (p : PointRec) : Nat :=
  let state := m.get F.CAN_STA_STAT_state p.bus p.station
  if p.backing == 4 && p.dir == 0 && !(state == 2) then stStale + stSubstituted
  else if p.backing == 4 && p.dir == 1 && state == 3 then stStale
  else if p.backing == 3 && 0x10 ≤ p.ref / 256 && p.ref / 256 ≤ 0x1B && m.bit F.MTR_C_STAT_cfg_bad (p.ref / 256 - 0x10) then stFault
  else 0

/-- Register that holds a loop channel's quantity (Table 6-1). -/
def M.loopQuantityNow (m : M) (n code : Nat) : Word :=
  match code with
  | 0 => m.rd .LPE_CH_PV n
  | 1 => m.rd .LPE_CH_SP n
  | 2 => m.rd .LPE_CH_OUT n
  | 3 => m.rd .LPE_CH_MAN n
  | 4 => BitVec.ofNat 32 (m.get F.LPE_CH_CTRL_mode n)
  | 5 => m.rd .LPE_CH_ERR n
  | 6 => m.rd .LPE_CH_STAT n
  | _ => m.rd .LPE_CH_WZOUT n

/-- What the backing of an entry presents now, where the module holds it: a cell's register, the sampled level of a line, a loop
channel's quantity (R103, R229, R460). -/
def M.backingValue (m : M) (p : PointRec) : Option Word :=
  match p.backing with
  | 1 => (m.cell (fieldN p.ref 16 2) (fieldN p.ref 5 11)).bind (fun c => c.body.register m.time.tai (fieldN p.ref 0 5))
  | 2 => if p.dir == 0 && m.lioRun && m.lineFits p then some (BitVec.ofNat 32 (b2n (tbit m.lio.pins p.ref))) else none
  | 5 => some (m.loopQuantityNow (p.ref % 64) (fieldN p.ref 8 4))
  | _ => none

/-- Put an entry in place of an old one (R80, R83): a new entry, and one whose backing is another, reads its backing; a new owner
clears value, status and age and is recorded, and nothing is delivered to the backing (DESIGN CHOICE, log 94). -/
def M.placeEntry (m : M) (id : Nat) (w0 w1 : Word) : M :=
  let f := freshEntry w0 w1
  let n := { f with status := m.backingBits f }
  let v := m.backingValue n
  if n.backing == 0 then (if (m.point id).isSome then m.removeEntry id else m)
  else match m.point id with
    | none => ({ m with pts := { m.pts with points := aput id { n with value := keepKind n.kind (v.getD 0) } m.pts.points } }).noteChecks id
    | some o =>
      if o.owner == n.owner then
        if o.backing == n.backing && o.ref == n.ref then
          m.putEntry id { o with w0 := n.w0, w1 := w1, value := keepKind n.kind o.value }
        else
          m.putEntry id { n with mirrorEff := o.mirrorEff, value := keepKind n.kind (v.getD o.value), age := if v.isSome then 0 else o.age }
      else
        let m1 := m.putEntry id { n with mirrorEff := o.mirrorEff }
        m1.note 2 4 n.owner [id + o.owner * 2 ^ 16 + n.owner * 2 ^ 24]

/-- Decide and apply a directory write: error code and module after (R54 to R56, R81 to R84, R620).  The creation of an absent
entry changes no owner, so it may name a share list of its owner (DESIGN CHOICE, log 94). -/
def M.dirWrite (m : M) (w : Who) (id : Nat) (w0 w1 : Word) : Nat × M :=
  let old := m.point id
  let n := freshEntry w0 w1
  let o := old.getD (freshEntry 0 0)
  let gone := n.backing == 0
  let forced := (m.forceOf id).isSome
  let err := firstError [
    (!dirRights w.tag old n, ptRights),
    (!m.entryValid id n || (old.isSome && !(o.owner == n.owner) && !(n.share == 0)), ptInval),
    (forced && (!(o.owner == n.owner) || !(o.backing == n.backing) || !(o.ref == n.ref) || (o.forceable && !n.forceable)),
      ptForced),
    (m.dirHeld && stopFields o n && !(old.isNone && (n.backing == 4 || n.backing == 6)), ptBusy),
    (n.isLocal && !o.isLocal && 16384 ≤ m.localCount, ptLocal),
    (n.retain && !gone && !o.retain && 4096 ≤ m.retainCount, ptFull)]
  if err == 0 then (0, (m.placeEntry id w0 w1).tellPeer (.directory id n.w0 w1)) else (err, m)

/-- Decide and apply a delete (R82, R84). -/
def M.dirDelete (m : M) (w : Who) (id : Nat) : Nat × M :=
  let old := m.point id
  let top := match w.tag with
    | .system => true
    | t => t.owner0
  let err := firstError [
    (!top, ptRights),
    (id == 0xFFFF, ptInval),
    ((m.forceOf id).isSome, ptForced),
    (m.dirHeld && old.isSome, ptBusy)]
  if err == 0 then (0, (m.removeEntry id).tellPeer (.directoryDelete id)) else (err, m)

/-- Words 0 and 1 of an entry as a tag reads them (R84). -/
def M.dirRead (m : M) (w : Who) (id : Nat) : Word × Word :=
  match m.point id with
  | some p => if w.tag == .system || w.tag.owner0 || m.sees w id then (p.w0, p.w1) else (0, 0)
  | none => (0, 0)

/-! ### Share-list commands (R58, R84) -/

/-- Owner and one grant of a list as a tag reads them. -/
def M.shareRead (m : M) (w : Who) (list slot : Nat) : Nat × Nat :=
  let l := m.shareList list
  let ok := w.tag == .system || w.tag.owner0 ||
    (match w.tag with
     | .mk t _ => (aget list m.pts.shares).isSome && l.owner == t
     | .system => true)
  if ok then (l.owner, l.grants.getD slot 0) else (0, 0)

/-- Bits of a grant that are held (Table 2-5). -/
def grantMask (g : Nat) : Nat := Nat.land g 0xFF0F

/-- Decide and apply a share-list write. -/
def M.shareWrite (m : M) (w : Who) (list slot owner grant : Nat) : Nat × M :=
  let l := m.shareList list
  let may := match w.tag with
    | .system => true
    | .mk t role =>
      let top := t == 0 && role == .owner
      let own := l.owner == t && (role == .engineer || role == .owner)
      (own || (top && l.grants.getD slot 0 == grantMask grant)) && (l.owner == owner || top)
  let g := fieldN grant 8 8
  let err := firstError [
    (!may, ptRights),
    (list == 0 || 4096 ≤ list || !ownerValid owner || !grantTenant g ||
      (!(l.owner == owner) && m.pts.points.any (fun p => p.2.share == list && !(p.2.owner == owner))), ptInval)]
  if err == 0 then
    let l' : ShareList := ⟨owner, listSet l.grants slot (grantMask grant)⟩
    let m1 := { m with pts := { m.pts with shares := aput list l' m.pts.shares } }
    let m2 := (m1.pts.points.filter (fun p => p.2.share == list)).foldl (fun a p => a.noteChecks p.1) m1
    (0, m2.tellPeer (.share list owner slot (grantMask grant)))
  else (err, m)

/-! ### Force commands (R71 to R79, R87) -/

/-- Descriptor and value of a point, as a record carries them (R513). -/
def descriptor (id status : Nat) (v : Word) : List RecItem := [(BitVec.ofNat 32 (id * 65536 + status), true), (v, false)]

/-- The FORCE event, record and entry (R78, Table 16-2). -/
def M.forceNote (m : M) (id action : Nat) (old new : Word) (tenant role : Nat) (persist : Bool) : M :=
  match m.point id with
  | none => m
  | some p =>
    let st := (m.shown id p).2
    (m.raise 0x14).noteItems 1 4 p.owner (descriptor id st old ++ descriptor id st new ++
      [(BitVec.ofNat 32 (action * 2 ^ 24 + tenant * 2 ^ 16 + role * 2 ^ 8 + b2n persist), false)])

/-- The tag may force the point (R72): its owner at ENGINEER, OWNER or SERVICE, or the system tag; forceable. -/
def M.mayForce (m : M) (w : Who) (id : Nat) : Bool :=
  match m.point id with
  | none => false
  | some p => p.forceable &&
    (match w.tag with
     | .system => true
     | .mk t r => p.owner == t && r.rank == 2)

/-- A force as FORCE_LIST and the parameter store hold it: 24 bytes (Tables 10-6, 17-1). -/
def forceBytes (i : Nat) (f : ForceRec) : Bytes :=
  toBE 2 i ++ toBE 2 f.point ++ toBE 1 (b2n f.persist) ++ toBE 1 f.tenant ++ toBE 1 f.role ++ toBE 1 0 ++
  toBE 4 f.value.toNat ++ toBE 4 f.requested.toNat ++ toBE 8 f.tai

/-- The stored copy of a point's force begins to be removed: the page commit is complete 3.6 ms later, and at once under a
supply-fail warning (R77, log 91). -/
def M.dropForce (m : M) (id : Nat) : M :=
  let now := m.bit F.PMC_SUP_STAT_warn
  { m with pts := { m.pts with
      forceStore := if now then m.pts.forceStore.filter (fun x => !(x.point == id)) else m.pts.forceStore
      forceDrops := if now || !m.pts.forceStore.any (fun x => x.point == id) then adel id m.pts.forceDrops
        else aput id (m.time.tb + 3600000) m.pts.forceDrops } }

/-- The stored copies of persistent forces: a persistent one is written, another one's copy is removed (R77). -/
def M.storeForce (m : M) (f : ForceRec) : M :=
  if f.persist then
    { m with pts := { m.pts with
        forceStore := m.pts.forceStore.filter (fun x => !(x.point == f.point)) ++ [f]
        forceDrops := adel f.point m.pts.forceDrops } }
  else m.dropForce f.point

/-- A supply-fail warning: removals under way complete (R77, Table 14-3, step 2). -/
def M.dropForcesNow (m : M) : M :=
  { m with pts := { m.pts with
      forceStore := m.pts.forceStore.filter (fun x => (aget x.point m.pts.forceDrops).isNone), forceDrops := [] } }

/-- Stored copies a reset finds: those whose removal is complete by then are gone (R77). -/
def M.forcesStored (m : M) : List ForceRec :=
  m.pts.forceStore.filter (fun f => !((aget f.point m.pts.forceDrops).any (fun t => t ≤ m.time.tb)))

/-- Put a force in place (R71, R73, R75): the index used and the module after. -/
def M.applyForce (m : M) (id : Nat) (value : Word) (persist : Bool) (tenant role : Nat) (port : Option Nat) : Option Nat × M :=
  match m.point id with
  | none => (none, m)
  | some p =>
    let v := keepKind p.kind value
    match m.forceOf id with
    | some (i, f) =>
      let f' := { f with value := v, persist := persist, tenant := tenant, role := role, port := port }
      let m1 := ({ m with pts := { m.pts with forces := aput i f' m.pts.forces } }).storeForce f'
      let m2 := (m1.putEntry id { p with value := v }).deliver p v
      (some i, m2.forceNote id 1 f.value v tenant role persist)
    | none => match freeKey 1024 m.pts.forces with
      | none => (none, m)
      | some i =>
        let f : ForceRec := ⟨id, v, m.timerValue id p, tenant, role, port, m.time.tai, persist, m.shownAge id p⟩
        let m1 := ({ m with pts := { m.pts with forces := aput i f m.pts.forces } }).storeForce f
        let m2 := (m1.putEntry id { p with value := v, age := 0 }).deliver p v
        (some i, m2.forceNote id 0 0 v tenant role persist)

/-- Decide and apply a force set (R72, R620): error, index used, module after. -/
def M.forceSet (m : M) (w : Who) (id : Nat) (value : Word) (persist : Bool) : Nat × (Option Nat × M) :=
  let err := firstError [
    (!m.mayForce w id, ptRights),
    ((m.forceOf id).isNone && 1024 ≤ m.pts.forces.length, ptFull)]
  if err == 0 then
    let (t, r) := w.tag.bytes
    let port := (w.session.bind m.openSession).map Session.port
    let (i, m1) := m.applyForce id value persist t r port
    (0, (i, match m1.forceOf id with
      | some (_, f) => m1.tellPeer (.force f)
      | none => m1))
  else (err, (none, m))

/-- A force entry goes: its point takes the requested value (R76). -/
def M.freeForce (m : M) (i : Nat) (f : ForceRec) : M :=
  let m1 := ({ m with pts := { m.pts with forces := adel i m.pts.forces } }).dropForce f.point
  match m.point f.point with
  | some p =>
    let v := keepKind p.kind (m.requestedNow f)
    (m1.putEntry f.point { p with value := v, age := if p.dir == 0 then m.requestedAge f else 0 }).deliver p v
  | none => m1

/-- End a force, with its event and record (R76, R78). -/
def M.endForce (m : M) (id : Nat) (tenant role : Nat) : M :=
  match m.point id, m.forceOf id with
  | some _, some (i, f) => (m.freeForce i f).forceNote id 2 f.value 0 tenant role f.persist
  | _, _ => m

/-- Decide and apply a force release. -/
def M.forceRelease (m : M) (w : Who) (id : Nat) : Nat × M :=
  let err := firstError [
    (!m.mayForce w id, ptRights),
    ((m.forceOf id).isNone, ptNotForced)]
  if err == 0 then
    let (t, r) := w.tag.bytes
    (0, (m.endForce id t r).tellPeer (.release id))
  else (err, m)

/-- Number of forces a tag counts (R79). -/
def M.forceCount (m : M) (tag : Tag) : Nat :=
  match tag with
  | .system => m.pts.forces.length
  | .mk 0 _ => m.pts.forces.length
  | .mk t _ => (m.pts.forces.filter (fun f => ((m.point f.2.point).map PointRec.owner) == some t)).length

/-- A force entry as a tag may read it, with its requested value as it stands; none when no one owns its point (R87). -/
def M.forceSeen (m : M) (tag : Tag) (i : Nat) : Option ForceRec :=
  ((aget i m.pts.forces).filter (fun f =>
    match m.point f.point, tag with
    | none, _ => false
    | some _, .system => true
    | some p, .mk t _ => tag.owner0 || p.owner == t)).map (fun f => { f with requested := m.requestedNow f })

/-! ### The command registers (R85, R88) -/

/-- Completion time of a command written now: 0.5 µs, 1.0005 ms on an ACTIVE unit whose peer reads STANDBY or SYNCING, and 3.6 ms
more for a persistent force set; the outcome has no part in it (R85). -/
def M.ptdDue (m : M) (persist : Bool) : Nat :=
  m.time.tb + 500 + (if m.unitState == 4 && (m.peerState == 1 || m.peerState == 2) then ms else 0) + (if persist then 3600000 else 0)

/-- A command's result waits for its completion time: busy reads 1 until then. -/
def M.dirPending (m : M) (err : Nat) : M :=
  ({ m with pts := { m.pts with dirCmd := some ⟨err, m.ptdDue false⟩ } }).putB F.PTD_DIR_STAT_busy true

/-- PTD_DIR_CMD written (R80, R82, R84). -/
def M.dirCommand (m : M) (w : Who) (op : Nat) : M :=
  if m.bit F.PTD_DIR_STAT_busy then m
  else
    let id := m.get F.PTD_DIR_SEL_id
    match op with
    | 1 =>
      let (a, b) := m.dirRead w id
      ((m.wr .PTD_DIR_W0 a).wr .PTD_DIR_W1 b).dirPending 0
    | 2 =>
      let (e, m1) := m.dirWrite w id (m.rd .PTD_DIR_W0) (m.rd .PTD_DIR_W1)
      m1.dirPending e
    | 3 =>
      let (e, m1) := m.dirDelete w id
      m1.dirPending e
    | _ => m

def M.shrPending (m : M) (err : Nat) : M :=
  ({ m with pts := { m.pts with shrCmd := some ⟨err, m.ptdDue false⟩ } }).putB F.PTD_SHR_STAT_busy true

/-- PTD_SHR_CMD written (R58, R84).  A read of list 0 completes with INVAL as Table 2-10 says, although R84 gives OK to every read
command (DEDUCED, log 94). -/
def M.shrCommand (m : M) (w : Who) (op : Nat) : M :=
  if m.bit F.PTD_SHR_STAT_busy then m
  else
    let list := m.get F.PTD_SHR_SEL_list
    let slot := m.get F.PTD_SHR_SEL_slot
    match op with
    | 1 =>
      if list == 0 then m.shrPending ptInval
      else
        let (o, g) := m.shareRead w list slot
        ((m.put F.PTD_SHR_DATA_owner o).put F.PTD_SHR_DATA_grant g).shrPending 0
    | 2 =>
      let (e, m1) := m.shareWrite w list slot (m.get F.PTD_SHR_DATA_owner) (m.get F.PTD_SHR_DATA_grant)
      m1.shrPending e
    | _ => m

def M.frcPending (m : M) (err : Nat) (persist : Bool) : M :=
  ({ m with pts := { m.pts with frcCmd := some ⟨err, m.ptdDue persist⟩ } }).putB F.PTD_FRC_STAT_busy true

/-- PTD_FRC_CMD written (R71, R76, R87). -/
def M.frcCommand (m : M) (w : Who) (op : Nat) : M :=
  if m.bit F.PTD_FRC_STAT_busy then m
  else
    match op with
    | 1 =>
      let m1 := match m.forceSeen w.tag (m.get F.PTD_FRC_SEL_index) with
        | some f => ((m.wr .PTD_FRC_PT (BitVec.ofNat 32 (2 ^ 31 + b2n f.persist * 2 ^ 16 + f.point))).wr .PTD_FRC_VAL f.value).wr
            .PTD_FRC_REQ f.requested
        | none => ((m.wr .PTD_FRC_PT 0).wr .PTD_FRC_VAL 0).wr .PTD_FRC_REQ 0
      m1.frcPending 0 false
    | 2 =>
      let (e, (i, m1)) := m.forceSet w (m.get F.PTD_FRC_PT_point) (m.rd .PTD_FRC_VAL) (m.bit F.PTD_FRC_PT_persist)
      let m2 := match i with
        | some n => m1.put F.PTD_FRC_SEL_index n
        | none => m1
      m2.frcPending e (m.bit F.PTD_FRC_PT_persist)
    | 3 =>
      let (e, m1) := m.forceRelease w (m.get F.PTD_FRC_PT_point)
      m1.frcPending e false
    | _ => m

/-- PTD_CMD_COMPLETE: at the fixed completion time busy returns to 0 and err takes the result (R85). -/
def M.ptdComplete (m : M) (u : PtdUnit) : M :=
  match u with
  | .directory => match m.pts.dirCmd with
    | some p => if m.time.tb < p.due then m
      else ({ m with pts := { m.pts with dirCmd := none } }).wr .PTD_DIR_STAT (BitVec.ofNat 32 p.err)
    | none => m
  | .share => match m.pts.shrCmd with
    | some p => if m.time.tb < p.due then m
      else ({ m with pts := { m.pts with shrCmd := none } }).wr .PTD_SHR_STAT (BitVec.ofNat 32 p.err)
    | none => m
  | .force => match m.pts.frcCmd with
    | some p => if m.time.tb < p.due then m
      else ({ m with pts := { m.pts with frcCmd := none } }).wr .PTD_FRC_STAT (BitVec.ofNat 32 p.err)
    | none => m

/-! ### Registers that show the reader's tenant only (R79, R86) -/

/-- Tenant a count is filtered by: none for tenant 0 and the system tag. -/
def Tag.filterTenant : Tag → Option Nat
  | .system => none
  | .mk 0 _ => none
  | .mk t _ => some t

/-- PTD_COUNT as a tag reads it. -/
def M.ptdCount (m : M) (tag : Tag) : Word :=
  let l := m.pts.points.filter (fun p => (tag.filterTenant).all (fun t => p.2.owner == t))
  BitVec.ofNat 32 (l.length * 65536 + (l.filter (fun p => p.2.isLocal)).length % 65536)

/-- Count a NOPOINT answer to a tenant (PTD_NOPT_CNT): the Krovtan engine counts each absent point of a request; the point window,
cells and transfers give no NOPOINT answer (DESIGN CHOICE, log 94). -/
def M.countNopoint (m : M) (tag : Tag) : M :=
  match tag with
  | .system => m
  | .mk t _ => { m with pts := { m.pts with nopt := aput t (satAdd (getd 0 t m.pts.nopt) 1 0xFFFFFFFF) m.pts.nopt } }

/-- A read of PTD_NOPT_CNT: the tenant's count, or the total for the system tag, and the module with it cleared.  The total is the
sum of the tenants' present counts, and its read clears them all (DESIGN CHOICE, log 94). -/
def M.readNopoint (m : M) (tag : Tag) : Word × M :=
  match tag with
  | .system =>
    (BitVec.ofNat 32 (min (m.pts.nopt.foldl (fun a p => a + p.2) 0) 0xFFFFFFFF), { m with pts := { m.pts with nopt := [] } })
  | .mk t _ => (BitVec.ofNat 32 (getd 0 t m.pts.nopt), { m with pts := { m.pts with nopt := adel t m.pts.nopt } })

/-! ### Subscriptions (R67 to R70) -/

/-- Outcome of a subscription request. -/
inductive SubAnswer where
  | ok
  | nopoint
  | readonly
  | resource
  deriving DecidableEq, Repr

/-- Create a subscription, or replace interval and deadband of the session's existing one (R67, R381). -/
def M.subscribe (m : M) (w : Who) (session id interval : Nat) (deadband : Word) : SubAnswer × M :=
  match m.gate w .subscribe id, m.point id with
  | .granted, some p =>
    let band := if p.kind == 3 then deadband else 0
    if m.pts.subs.any (fun s => s.session == session && s.point == id) then
      (.ok, { m with pts := { m.pts with subs := m.pts.subs.map (fun s =>
        if s.session == session && s.point == id then { s with interval := interval, deadband := band } else s) } })
    else if 8192 ≤ m.pts.subs.length || 1024 ≤ (m.pts.subs.filter (fun s => s.session == session)).length then (.resource, m)
    else
      let (v, st) := m.shown id p
      let s : Subscription := ⟨session, id, band, interval, v, st, m.time.tb, false, false⟩
      (.ok, { m with pts := { m.pts with subs := m.pts.subs ++ [s] } })
  | .readOnly, _ => (.readonly, m)
  | _, _ => (.nopoint, m)

/-- Cancel a session's subscription for a point, and what it has queued. -/
def M.unsubscribe (m : M) (session id : Nat) : M :=
  { m with pts := { m.pts with
      subs := m.pts.subs.filter (fun s => !(s.session == session && s.point == id))
      notes := amod session (fun q => q.filter (fun x => !(x.point == id))) m.pts.notes } }

/-- A closed session's subscriptions and notifications end (R373). -/
def M.dropSubscriptions (m : M) (session : Nat) : M :=
  { m with pts := { m.pts with subs := m.pts.subs.filter (fun s => !(s.session == session)), notes := adel session m.pts.notes } }

/-- NOTIFY_INTERVAL: the minimum interval of a subscription has passed (R68). -/
def M.notifyInterval (m : M) (session id : Nat) : M :=
  (m.pts.subs.filter (fun s => s.session == session && s.point == id)).foldl M.noteOne m

/-- Take the head of a session's queue after deciding its subscriptions again (R69, R70). -/
def M.takeNote (m : M) (session : Nat) : Option NoteItem × M :=
  let m1 := (m.pts.subs.filter (fun s => s.session == session)).foldl M.noteOne m
  match getd [] session m1.pts.notes with
  | [] => (none, m1)
  | x :: t =>
    let m2 := { m1 with pts := { m1.pts with notes := aput session t m1.pts.notes } }
    (some x, (m2.pts.subs.filter (fun s => s.session == session && s.pending)).foldl M.noteOne m2)

/-! ### POINT_ACCESS (R61 to R64) -/

/-- POINT_ACCESS: the gate decides and the answer leaves; absent and read-only change nothing (R61, R64); a subscription outside
1 ms to 60 s is not made (R67). -/
def M.pointAccess (m : M) (by_ : Master) (id : Nat) (op : PointOp) : M :=
  match m.who by_ with
  | none => m
  | some w => match op with
    | .read =>
      ((m.fitRead w id).accessEvents w.ini false true (m.gate w .read id == .absent)).emit (.pointData w.ini id (m.readPoint w id))
    | .write v =>
      let (d, m0) := m.writePoint w id v
      let m1 := m0.accessEvents w.ini true true (d == .absent)
      m1.emit (.pointData w.ini id (if d == .absent then absentEntry else m1.readPoint w id))
    | .subscribe i b => match w.session with
      | some s => if i < 1 || 60000 < i then m else (m.subscribe w s id i b).2
      | none => m

end Sys2Proof.Machine
end

