-- ==== Sys2Proof/Machine/ResetOps.lean ====
section
/-! DEFINITION. Closing sessions (R373), and what each reset keeps and loses (R475, R476, Table 14-2). -/

namespace Sys2Proof.Machine

/-- Transfers that a test picks are aborted; a package being received goes with its own (R382, R574). -/
def M.dropTransfers (m : M) (p : Transfer → Bool) : M :=
  let gone := m.krov.transfers.filter (fun t => p t.2)
  let m1 := { m with krov := { m.krov with transfers := m.krov.transfers.filter (fun t => !p t.2) } }
  if gone.any (fun t => t.2.kind == 7) && m1.get F.UPD_STAT_state == 1 then
    ({ m1 with upd := { m1.upd with headerOk := false } }).put F.UPD_STAT_state 0
  else m1

/-- Close the session at a place: its entry, its subscriptions, its transfers (R373). -/
def M.closeAt (m : M) (place reason : Nat) : M :=
  match aget place m.krov.sessions with
  | none => m
  | some s =>
    let m1 := ({ m with krov := { m.krov with sessions := adel place m.krov.sessions } }).dropTransfers (fun t => t.session == s.id)
    let body := toBE 4 s.id ++ toBE 4 s.account ++ toBE 4 s.tenant ++ toBE 4 reason
    if s.place == .open then (m1.dropSubscriptions s.id).logEntry 0x21 6 s.tenant 0 body else m1

/-- Close every session that a test picks. -/
def M.closeWhere (m : M) (reason : Nat) (p : Session → Bool) : M :=
  (m.krov.sessions.filter (fun x => p x.2)).foldl (fun a x => a.closeAt x.1 reason) m

/-- The unit gives up the active role: every session closes (R373). -/
def M.closeSessions (m : M) (reason : Nat) : M := m.closeWhere reason (fun _ => true)

/-- Registers of regions 0 and 1 of the parameter store that step 5 of bring-up restores: pair and Chamois settings and the
VLAN tables (Table 17-1). -/
def keptSetting (a : Nat) : Bool :=
  (0x403A800C ≤ a && a < 0x403A8030) || (0x403A8060 ≤ a && a < 0x403A806C) ||
  (a / 65536 == 0x4030 || a / 65536 == 0x4031 || a / 65536 == 0x4032) && (0x8100 ≤ a % 65536 && a % 65536 < 0x84EC)

/-- A register of the backup domain (Table 14-2): the RTC window. -/
def bakRegister (a : Nat) : Bool := a / 65536 == 0x4004

/-- A hosted pair as the parameter store keeps it: key, pair, epoch and bound (R411). -/
def HostedPair.stored (p : HostedPair) : HostedPair :=
  { p with holder := none, leaseEnd := none, missAt := 0, missed := 0, released := false, successor := none, windowEnd := 0,
           firstClaim := none, beatA := none, beatB := none, seqA := 0, seqB := 0, committing := false, waiting := none }

/-- An account of its record. -/
def readAccount (b : Bytes) : Account :=
  ⟨be b 2 1, be b 3 1, be b 4 1, be b 5 1, ⟨be b 8 4, slice b 12 16, slice b 28 32, slice b 60 32⟩⟩

/-- Offsets 0 to 27 of an account's record. -/
def Account.head (a : Account) (n : Nat) : Bytes :=
  toBE 2 n ++ toBE 1 a.tenant ++ toBE 1 a.role ++ toBE 1 a.kind ++ toBE 1 a.flags ++ toBE 2 0 ++ toBE 4 a.verifier.iterations ++
  padTo 16 a.verifier.salt

/-! ### Regions that hold what other chapters keep (Table 17-1, log 72) -/

/-- A page's words of its 256 bytes: byte 4w in bits [7:0] of word w (R531). -/
def pageWords (b : Bytes) : List (Nat × Word) :=
  (List.range 64).foldl (fun a w => putd 0 w (BitVec.ofNat 32 (fromLE (slice b (4 * w) 4))) a) []

/-- The 256 bytes of a page's words. -/
def pageBytes (l : List (Nat × Word)) : Bytes := (List.range 64).flatMap (fun w => toLE 4 (getd 0 w l).toNat)

/-- An account as region 2 holds it: the record of Table 10-5, at the beginning of half a page; 0 where there is none. -/
def M.accountBytes (m : M) (n : Nat) : Bytes :=
  padTo 128 (match aget n m.krov.accounts with
    | some a => a.head n ++ padTo 32 a.verifier.storedKey ++ padTo 32 a.verifier.serverKey
    | none => [])

/-- A retained value as region 3 holds it. -/
def retainedBytes (r : Nat × Word) : Bytes := toBE 2 r.1 ++ toBE 2 0 ++ toBE 4 r.2.toNat

/-- The content of regions 2 to 4, byte by byte: the entries one behind the other. -/
def M.regionBytes (m : M) (r : Nat) : Bytes :=
  match r with
  | 2 => (List.range 256).flatMap m.accountBytes
  | 3 => padTo 32768 (m.pts.retention.flatMap retainedBytes)
  | _ => padTo 24576 ((List.range m.pts.forceStore.length).zip m.pts.forceStore |>.flatMap (fun p => forceBytes p.1 p.2))

/-- Cut bytes in pieces of `k`, `n` of them. -/
def cutBytes (k : Nat) (n : Nat) (b : Bytes) : List Bytes := (List.range n).map (fun i => slice b (k * i) k)

/-- A force of its 24 bytes; the port is not among them. -/
def readForce (b : Bytes) : ForceRec :=
  { point := be b 2 2, value := BitVec.ofNat 32 (be b 8 4), requested := BitVec.ofNat 32 (be b 12 4), tenant := be b 5 1,
    role := be b 6 1, port := none, tai := be b 16 8, persist := tbit (be b 4 1) 0, reqAge := 0 }

/-- Regions 2 to 4 take their content of bytes; an entry of zeros is none. -/
def M.regionTaken (m : M) (r : Nat) (b : Bytes) : M :=
  let used (l : List Bytes) : List Bytes := l.filter (fun x => x.any (fun y => !(y == 0)))
  match r with
  | 2 =>
    let accounts := (used (cutBytes 128 256 b)).foldl (fun (a : List (Nat × Account)) x => aput (be x 0 2) (readAccount x) a) []
    { m with krov := { m.krov with accounts := accounts } }
  | 3 =>
    let values : List (Nat × Word) := (used (cutBytes 8 4096 b)).map (fun x => (be x 0 2, BitVec.ofNat 32 (be x 4 4)))
    { m with pts := { m.pts with retention := values } }
  | _ => { m with pts := { m.pts with forceStore := (used (cutBytes 24 1024 b)).map readForce, forceDrops := [] } }

/-- The region of Table 17-1 whose entries a page holds: accounts, retained values, persistent forces. -/
def heldRegion (p : Nat) : Option Nat :=
  [2, 3, 4].find? (fun r => (regionPages r).1 ≤ p && p ≤ (regionPages r).2)

/-- The words of a page as a load finds them. -/
def M.pageShown (m : M) (p : Nat) : List (Nat × Word) :=
  match heldRegion p with
  | some r => pageWords (slice (m.regionBytes r) (256 * (p - (regionPages r).1)) 256)
  | none => (aget p m.nvp.pages).getD []

/-- A page of words committed by command reaches what it holds. -/
def M.pageTaken (m : M) (p : Nat) (words : List (Nat × Word)) : M :=
  match heldRegion p with
  | some r =>
    let b := m.regionBytes r
    let o := 256 * (p - (regionPages r).1)
    m.regionTaken r (b.take o ++ pageBytes words ++ b.drop (o + 256))
  | none => m

/-- The commits in progress reach what their pages hold (R536). -/
def M.commitsTaken (m : M) : M := m.nvp.commits.foldl (fun (a : M) c => a.pageTaken c.page c.words) m

/-- Content a page commit leaves behind (R534). -/
def NvpState.store (n : NvpState) (page : Nat) (words : List (Nat × Word)) : NvpState :=
  { n with pages := aput page words n.pages, copies := aput page (getd 0 page n.copies + 1) n.copies,
           bad := n.bad.filter (fun p => !(p == page)),
           scanned := if n.scanned.contains page then n.scanned else page :: n.scanned }

/-- Every commit in progress completes on the hold-up reserve, and every open right ends (R533, R536). -/
def NvpState.afterReset (n : NvpState) : NvpState :=
  let n' := n.commits.foldl (fun a c => a.store c.page c.words) n
  { n' with commits := [], buffer := [], owner := none, rdOpen := [], wrOpen := [], authRun := [], lockUntil := [] }

/-- The record, log entry and content of a vault act (R567). -/
def M.kvNote (m : M) (w : Option Who) (op slot sev : Nat) (failed : Bool) : M :=
  let (t, r) := ((w.map Who.tag).getD .system).bytes
  m.note 0x0E sev 0 [op * 2 ^ 24 + slot * 2 ^ 16 + m.kv.lc * 2 ^ 8 + (w.map Who.ini).getD 0,
                     t * 2 ^ 24 + r * 2 ^ 16 + b2n failed]

/-- Gates opened for a time close at a reset, with a record where the recorder outlives it (R563, R567). -/
def M.gatesReset (m : M) (power : Bool) : M :=
  match m.kv.opened with
  | some (g, _) => if power then m else m.kvNote none 3 g 3 false
  | none => m

/-- What a power-on, module or watchdog reset leaves (Table 14-2); `power` tells a power-on reset. -/
def M.applyReset (m0 : M) (cause : Nat) (power : Bool) : M :=
  let m := ((m0.closeSessions 7).commitsTaken).gatesReset power
  let r := M.reset
  let count := if power then 0 else satAdd (m.get F.SYS_RST_STAT_count) 1 255
  let refused := if power then 0 else m.get F.SYS_RST_STAT_refused
  let recd : RecState :=
    if power then { r.frec with copyHead := m.frec.copyHead, copyReel := m.frec.copyReel, copyHeadSize := m.frec.copyHeadSize }
    else { m.frec with queue := [], lost := m.frec.lost || !m.frec.queue.isEmpty }
  let recd' := { recd with log := m.frec.log, nextLogSeq := m.frec.nextLogSeq, tseq := m.frec.tseq,
                           logLost := m.frec.logLost, nonce := m.rnd }
  let keepRec := if power then [] else
    m.regs.filter (fun p => p.1 == 0x40080000 || p.1 == 0x40080008 || p.1 == 0x4008000C || p.1 == 0x40080014)
  let keepWear := m.regs.filter (fun p => p.1 == 0x40060008)
  let keepEpoch := if power then [] else m.regs.filter (fun p => p.1 == 0x403A0004)
  let base := (m.regs.filter (fun p => bakRegister p.1)) ++ keepRec ++ keepEpoch ++ keepWear ++ pinRegs
  let m1 : M :=
    { r with
      regs := base.foldl (fun a p => aput p.1 p.2 a) []
      slotB := m.slotB
      time := { r.time with tb := m.time.tb, calDay := m.time.calDay, calSec := m.time.calSec, calSub := m.time.calSub,
                            calLeap := m.time.calLeap, everLocked := m.time.everLocked, monBad := m.time.monBad,
                            vinPresent := m.time.vinPresent, vbakPresent := m.time.vbakPresent }
      frec := recd'
      pts := { r.pts with retention := m.pts.retention, forceStore := m.forcesStored }
      img := { r.img with bank0 := m.img.bank0, bank1 := m.img.bank1, staging := m.img.staging }
      fab := { r.fab with quads := (if power then r.fab.quads else
        (r.fab.quads.zip m.fab.quads).map (fun p => { p.1 with failed := p.2.failed })) }
      loop := { r.loop with kept := m.loop.kept }
      mtr := { r.mtr with saved := m.mtr.saved }
      krov := { r.krov with accounts := m.krov.accounts, net := m.krov.net }
      ibx := { r.ibx with pairs := m.ibx.pairs.map HostedPair.stored, pairStore := m.ibx.pairStore, held := m.ibx.held }
      lio := { r.lio with pins := m.lio.pins, pinAt := m.lio.pinAt, inSwitch := m.lio.inSwitch }
      boot := { r.boot with since := m.time.tb, mwdBy := m.time.tb + 1000 * ms, marker := m.boot.marker,
                            epochSaved := m.boot.epochSaved, wipes := m.boot.wipes + 1,
                            settings := m.regs.filter (fun p => keptSetting p.1) }
      nvp := m.nvp.afterReset
      hst := { m.hst with logs := m.hst.logs.map (fun p => (p.1, { p.2 with fresh := true })) }
      kv := { m.kv with opened := none, statement := [], nonce := m.rnd + 1, authRun := 0, lockUntil := none }
      upd := { m.upd with windowEnd := none, restarting := none, peerReady := false, headerOk := false }
      rnd := m.rnd + 5
      free := m.free
      out := m.out }
  let m2 := ((m1.put F.SYS_SLOT_slot (b2n m.slotB)).put F.SYS_SLOT_peer_present (m.get F.SYS_SLOT_peer_present)
    |>.put F.LIO_STAT_lever (m.get F.LIO_STAT_lever)).put F.LIO_STAT_ena (m.get F.LIO_STAT_ena)
  ((m2.put F.SYS_RST_STAT_cause cause).put F.SYS_RST_STAT_count count).put F.SYS_RST_STAT_refused refused

/-- A reset that keeps the hardware: the host cores start again from the boot ROM, sessions close, their memories are lost
(R476, R481, R592).  `causeCode` is 0x5. -/
def M.coreRestart (m0 : M) : M :=
  let m := m0.closeSessions 7
  let m1 := { m with
    krov := { m.krov with sessions := [], transfers := [], held := [] }
    pts := { m.pts with subs := [], notes := [] }
    ev := { m.ev with stack0 := [], stack1 := [], entry0 := false, entry1 := false, smpTagged := false,
                      starts0 := m.ev.starts0 + 1 }
    boot := { m.boot with wipes := m.boot.wipes + 1, mgmt := false } }
  let m2 := (m1.put F.EVC_STAT_h0_lvl 16).put F.EVC_STAT_h1_lvl 16
  (m2.put F.SYS_RST_STAT_cause 5).put F.SYS_RST_STAT_count (satAdd (m.get F.SYS_RST_STAT_count) 1 255)

end Sys2Proof.Machine
end

