-- ==== Sys2Proof/Machine/Kv.lean ====
section
/-! DEFINITION. The key vault: life cycle, slots and their uses, owner password, attestation, field access (chapter 18). -/

namespace Sys2Proof.Machine

/-! ### Roots and derivation (R549) -/

def serialBytes : Bytes := toBE 8 Config.serial.toNat

/-- HKDF-Extract: the HMAC of the input key material under the salt. -/
def hkdfExtract (salt ikm : Bytes) : Bytes := digestBytes (Config.hmac salt ikm)

/-- A label: ASCII text padded with 0x00 to 16 bytes. -/
def label (s : String) : Bytes := padTo 16 (ascii s)

/-- The root the vault derives from in its present state; none in BLANK and VOID. -/
def M.derivationRoot (m : M) : Option Bytes :=
  match m.kv.lc with
  | 1 => some Config.mfgRoot
  | 2 => m.kv.ownerRoot.map Config.ownerRoot
  | 3 => m.kv.ownerRoot.map (fun g => hkdfExtract Config.fieldRoot (Config.ownerRoot g))
  | 4 => some Config.returnRoot
  | _ => none

/-- A key derived under a label in the present state. -/
def M.deriveKey (m : M) (lbl : Bytes) : Option Bytes :=
  m.derivationRoot.map (fun r => digestBytes (Config.hkdfExpand (hkdfExtract serialBytes r) lbl))

/-- The key of vendor responses. -/
def M.vendorKey (m : M) : Bytes :=
  let v := match m.kv.lc with
    | 1 => Config.mfgRoot
    | 4 => Config.returnRoot
    | _ => Config.fieldRoot
  digestBytes (Config.hkdfExpand (hkdfExtract serialBytes v) (label "KV vendor"))

/-- Code of the derivation root as KV_STAT.root shows it (Table 18-8). -/
def rootCode (lc : Nat) : Nat :=
  match lc with
  | 2 => 1
  | 3 => 2
  | 4 => 3
  | _ => 0

/-! ### Slots -/

/-- A slot, when it is filled. -/
def M.kvSlot (m : M) (s : Nat) : Option KvSlot := aget s m.kv.slots

def M.putSlot (m : M) (s : Nat) (k : KvSlot) : M := { m with kv := { m.kv with slots := aput s k m.kv.slots } }

def M.dropSlot (m : M) (s : Nat) : M := { m with kv := { m.kv with slots := adel s m.kv.slots } }

/-- The check value of a slot (R553). -/
def M.checkValue (m : M) (s : Nat) : Word :=
  match m.kvSlot s with
  | none => 0
  | some k => BitVec.ofNat 32 (be (digestBytes (Config.hmac k.key (ascii "KCV"))) 0 4)

/-- A slot erased by its count or its expiry: its event, record and entry (R557, R558, R567). -/
def M.slotGone (m : M) (s : Nat) : M :=
  ((m.dropSlot s).flag F.KV_EVT_gone 0x26).kvNote none 0 s 3 false

/-- One use of a slot by the user of a bit of Table 18-4: the key, and the vault after the use; none when it fails (R555,
R557). -/
def M.useSlot (m : M) (s bit : Nat) : Option Bytes × M :=
  match m.kvSlot s with
  | none => (none, m)
  | some k =>
    if !tbit k.users (bit - 24) || !m.domainOn 6 then (none, m)
    else if !k.counted then (some k.key, m)
    else if k.count ≤ 1 then (some k.key, m.slotGone s)
    else (some k.key, m.putSlot s { k with count := k.count - 1 })

/-! ### Commands -/

/-- Result of a KV command. -/
def M.kvResult (m : M) (err : Nat) : M := (m.put F.KV_CMD_STAT_err err).put F.KV_CMD_STAT_busy 0

/-- The data registers are cleared when a command ends, whatever its result (R554). -/
def M.clearKeyData (m : M) : M := (List.range 8).foldl (fun a i => a.wr .KV_KEYD 0 i) m

def M.clearProof (m : M) : M := (List.range 8).foldl (fun a i => a.wr .KV_PROOF 0 i) m

/-- Bytes of a run of KV registers, byte 4k in bits [31:24] (R568). -/
def M.kvBytes (m : M) (r : Reg) (n : Nat) : Bytes := (List.range n).flatMap (fun i => toBE 4 (m.rd r i).toNat)

/-- The KV_NONCE in force. -/
def M.kvNonce (m : M) : Bytes := randomBytes m.kv.nonce 4

def M.replaceNonce (m : M) : M :=
  let (i, m') := m.draw 4
  { m' with kv := { m'.kv with nonce := i } }

/-- Table 18-5, row by row. -/
def tagReads (t : Tag) : Bool :=
  t.isSystem || t.owner0 || t.service255 || (match t with | .mk 0 .engineer => true | _ => false)
def tagStores (t : Tag) : Bool := t.isSystem || t.owner0

/-- KV_CMD op 0x1: load attributes and check value (R553, R554). -/
def M.slotRead (m : M) (w : Who) : M :=
  let s := m.get F.KV_SEL_slot
  if !tagReads w.tag then (m.clearKeyData).kvResult 1
  else
    let m1 := match m.kvSlot s with
      | none => m.wr .KV_ATTR 0
      | some k => m.wr .KV_ATTR (BitVec.ofNat 32
          (2 ^ 31 + b2n k.expire * 2 ^ 30 + b2n k.counted * 2 ^ 29 + k.users * 2 ^ 24 + k.count))
    ((m1.wr .KV_KCV (m.checkValue s)).clearKeyData).kvResult 0

/-- The slot that KV_ATTR describes, with a key. -/
def M.attrSlot (m : M) (key : Bytes) : KvSlot :=
  ⟨key, m.get F.KV_ATTR_users, m.bit F.KV_ATTR_expire, m.bit F.KV_ATTR_counted, m.get F.KV_ATTR_count⟩

/-- Fill the selected slot and tell of it. -/
def M.fillSlot (m : M) (w : Who) (op : Nat) (key : Bytes) : M :=
  let s := m.get F.KV_SEL_slot
  (((m.putSlot s (m.attrSlot key)).clearKeyData.kvResult 0).flag F.KV_EVT_key 0x26).kvNote (some w) op s 3 false

/-- A counted slot with no use left is refused (KV_ATTR.count, Table 18-8). -/
def M.attrBad (m : M) : Bool := m.bit F.KV_ATTR_counted && m.get F.KV_ATTR_count == 0

/-- KV_CMD op 0x2. -/
def M.slotWrite (m : M) (w : Who) : M :=
  if !tagStores w.tag then (m.clearKeyData).kvResult 1
  else if m.attrBad then (m.clearKeyData).kvResult 6
  else m.fillSlot w 2 (m.kvBytes .KV_KEYD 8)

/-- KV_CMD op 0x3. -/
def M.slotDerive (m : M) (w : Who) : M :=
  if !tagStores w.tag then (m.clearKeyData).kvResult 1
  else if m.attrBad then (m.clearKeyData).kvResult 6
  else match m.deriveKey (m.kvBytes .KV_KEYD 4) with
    | none => (m.clearKeyData).kvResult 5
    | some k => m.fillSlot w 3 k

/-- KV_CMD op 0x4. -/
def M.slotErase (m : M) (w : Who) : M :=
  let s := m.get F.KV_SEL_slot
  if !tagStores w.tag then (m.clearKeyData).kvResult 1
  else ((((m.dropSlot s).clearKeyData).kvResult 0).flag F.KV_EVT_key 0x26).kvNote (some w) 4 s 3 false

/-- KV_CMD op 0x5: set the owner password verifier (R565). -/
def M.ownerPassword (m : M) (w : Who) : M :=
  let b := m.kvBytes .KV_OPW 21
  let it := be b 0 4
  if !tagStores w.tag then (m.clearKeyData).kvResult 1
  else if it < 10000 || 10000000 < it then (m.clearKeyData).kvResult 6
  else
    let m1 := { m with kv := { m.kv with opw := some ⟨it, slice b 4 16, slice b 20 32, slice b 52 32⟩ } }
    (((m1.clearKeyData).kvResult 0).flag F.KV_EVT_opw 0x26).kvNote (some w) 5 0 3 false

/-- AuthMessage of a proof (R564). -/
def M.authMessage (m : M) (op arg duration : Nat) : Bytes :=
  ascii "KVACC" ++ serialBytes ++ m.kvNonce ++ toBE 1 op ++ toBE 2 arg ++ toBE 2 duration

/-- Exclusive or of byte strings. -/
def xorBytes (a b : Bytes) : Bytes := List.zipWith (fun x y => x ^^^ y) a b

/-- The owner proof in KV_PROOF fits (R564). -/
def M.ownerProof (m : M) (op arg duration : Nat) : Bool :=
  match m.kv.opw with
  | none => false
  | some v =>
    let ck := xorBytes (m.kvBytes .KV_PROOF 8) (digestBytes (Config.hmac v.storedKey (m.authMessage op arg duration)))
    digestBytes (Config.sha256 ck) == v.storedKey

/-- The vendor response in KV_PROOF fits, and vendor responses are accepted (R564). -/
def M.vendorProof (m : M) (op arg duration : Nat) : Bool :=
  m.bit F.KV_CTRL_vend_ok &&
  m.kvBytes .KV_PROOF 8 == digestBytes (Config.hmac m.vendorKey (m.authMessage op arg duration))

/-- Table 18-2: may the tag ask for the change, and with which proof: owner proof, vendor response, none.  `none` outside:
the change is not in the table. -/
def lifeCycleRow (fromLc toLc : Nat) (t : Tag) : Option (Bool × (Bool × Bool)) :=
  -- (owner proof serves, vendor response serves, no proof needed)
  let all := t.isSystem || t.owner0 || t.service255
  match fromLc, toLc with
  | 1, 2 => some (false, all, false)
  | 2, 3 => some (false, false, tagStores t)
  | 3, 2 => some (t.owner0, false, false)
  | 2, 4 | 3, 4 => some (t.owner0, all, false)
  | 4, 1 => some (false, all, false)
  | 0, 5 | 1, 5 | 4, 5 => some (false, all, false)
  | 2, 5 | 3, 5 => some (t.owner0, false, false)
  | 0, 1 => some (false, false, false)
  | _, _ => none

/-- The owner root is destroyed: what is encrypted under it, in regions 1 to 7 of the parameter store and in the historian, is
unreadable from then on (R550). -/
def M.storesLost (m : M) : M :=
  let gone := (m.nvp.pages.map Prod.fst).filter (fun p => 0x20 ≤ p)
  { m with
    nvp := { m.nvp with pages := m.nvp.pages.filter (fun p => p.1 < 0x20)
                        bad := m.nvp.bad ++ gone.filter (fun p => !m.nvp.bad.contains p) }
    pts := { m.pts with retention := [], forceStore := [], forceDrops := [] }
    mtr := { m.mtr with saved := none }
    loop := { m.loop with kept := [] }
    img := { m.img with bank0 := [], bank1 := [], staging := [] }
    frec := { m.frec with copyHead := [], copyReel := [], log := [] }
    hst := { m.hst with logs := [] } }

/-- Steps 2 to 4 of Table 18-3: slots erased, owner root made or destroyed, password erased where named, the new state. -/
def M.enterLifeCycle (m0 : M) (target : Nat) : M :=
  let m := if (target == 4 || target == 5) && m0.kv.ownerRoot.isSome then m0.storesLost else m0
  let fromMfg := m.kv.lc == 1
  let root := if target == 4 || target == 5 then none
    else if target == 2 && fromMfg then some m.rnd else m.kv.ownerRoot
  let opwGone := target == 1 || target == 4 || target == 5
  { m with rnd := m.rnd + 1,
           kv := { m.kv with lc := target, marker := none, slots := [], ownerRoot := root, opened := none,
                             opw := if opwGone then none else m.kv.opw } }

/-- KV_CMD op 0x6 (R551, R552): the change and the module reset that ends it. -/
def M.lifeCycle (m : M) (w : Who) (key target : Nat) : M :=
  let fin (m : M) (e : Nat) : M := ((m.clearKeyData.clearProof).replaceNonce).kvResult e
  if !(key == 0x4B56) then fin m 6
  else if !(w.tag.isSystem || w.tag.owner0 || w.tag.service255) then fin m 1
  else match lifeCycleRow m.kv.lc target w.tag with
    | none => fin m 9
    | some (owner, vendor, free) =>
      let needVend := (m.kv.lc == 2 || m.kv.lc == 3) && target == 4 && !w.tag.owner0
      if !(owner || vendor || free) || (needVend && !m.bit F.KV_CTRL_vend_ok) then fin m 1
      else if m.leased then fin m 7
      else if free && m.kv.opw.isNone then fin m 8
      else if !(free || (owner && m.ownerProof 6 target 0) || (vendor && m.vendorProof 6 target 0)) then
        ((fin m 2).flag F.KV_EVT_acc_fail 0x26).kvNote (some w) 6 0 3 true
      else
        let m1 := (fin m 0).enterLifeCycle target
        ((m1.flag F.KV_EVT_lc 0x26).kvNote (some w) 6 0 2 false).applyReset 3 false

/-! ### Field access (R563, R564) -/

/-- The opens are locked. -/
def M.opensLocked (m : M) : Bool := m.kv.lockUntil.isSome

/-- An AUTH answer: five in a row lock the opens for 60 s (R564). -/
def M.kvAuthFail (m : M) (w : Who) (op gates : Nat) : M :=
  let run := m.kv.authRun + 1
  let m1 := { m with kv := { m.kv with authRun := (if run == 5 then 0 else run),
                                       lockUntil := if run == 5 then some (m.time.tb + 60 * sec) else m.kv.lockUntil } }
  let m2 := if run == 1 then m1.flag F.KV_EVT_lock 0x26 else m1
  (m2.flag F.KV_EVT_acc_fail 0x26).kvNote (some w) op gates 3 true

/-- Open gates by a proof that was found to fit, or not; op 0x1 owner, 0x2 vendor. -/
def M.openGates (m : M) (w : Who) (op gates duration : Nat) (fits : M → Bool) : M :=
  let fin (m : M) (e : Nat) : M := (m.clearProof.replaceNonce).kvResult e
  if !tagReads w.tag || (op == 1 && tbit gates 0) then fin m 1
  else if duration < 1 || 480 < duration then fin m 6
  else if m.opensLocked then fin m 3
  else if !fits m then (fin m 2).kvAuthFail w op gates
  else
    let m1 := fin m 0
    let held := (m1.kv.opened.map Prod.fst).getD 0
    let o := some (Nat.lor held gates, (op, m1.time.tb + duration * 60 * sec))
    let m2 := { m1 with kv := { m1.kv with authRun := 0, opened := o } }
    (m2.flag F.KV_EVT_acc 0x26).kvNote (some w) op gates 3 false

/-- KV_ACC_CMD op 0x1. -/
def M.openOwner (m : M) (w : Who) (gates duration : Nat) : M :=
  m.openGates w 1 gates duration (fun m => m.ownerProof 1 gates duration)

/-- KV_ACC_CMD op 0x2. -/
def M.openVendor (m : M) (w : Who) (gates duration : Nat) : M :=
  m.openGates w 2 gates duration (fun m => m.vendorProof 2 gates duration)

/-- H0 is halted, which pauses the management watchdog, or runs on (R566). -/
def M.haltH0 (m : M) (b : Bool) : M :=
  let was := m.bit F.KV_DBG_h0_halt
  let m1 := m.put F.KV_DBG_h0_halt (b2n b)
  if was == b then m1
  else if b then { m1 with boot := { m1.boot with mwdLeft := some (m.boot.mwdBy - m.time.tb) } }
  else { m1 with boot := { m1.boot with mwdBy := (m.boot.mwdLeft.map (fun l => m.time.tb + l)).getD m.boot.mwdBy, mwdLeft := none } }

/-- A halt clears when its gate closes (R566). -/
def M.haltsFollowGates (m : M) : M :=
  let m1 := if tbit m.gates 0 then m else m.haltH0 false
  if tbit m1.gates 1 then m1 else m1.put F.KV_DBG_h1_halt 0

/-- KV_ACC_CMD op 0x3: close gates; those open by default stay (R564). -/
def M.closeGates (m : M) (w : Who) (gates : Nat) : M :=
  if !tagReads w.tag then m.clearProof.kvResult 1
  else
    let o := m.kv.opened.bind (fun p =>
      let g := Nat.land p.1 (7 - gates % 8)
      if g == 0 then none else some (g, p.2))
    let m1 := ({ m with kv := { m.kv with opened := o } }).clearProof.kvResult 0
    if o == m.kv.opened then m1
    else ((m1.haltsFollowGates).flag F.KV_EVT_acc 0x26).kvNote (some w) 3 gates 3 false

/-- A gate opened for a duration closes when it ends (R563). -/
def M.gateExpiry (m : M) : M :=
  match m.kv.opened with
  | none => m
  | some (g, (_, until_)) =>
    if m.time.tb < until_ then m
    else
      let m1 := ({ m with kv := { m.kv with opened := none } }).haltsFollowGates
      (m1.flag F.KV_EVT_acc 0x26).kvNote none 3 g 3 false

/-- Opens are unlocked 60 s after the fifth AUTH answer (R564). -/
def M.openUnlock (m : M) : M :=
  if m.due m.kv.lockUntil then { m with kv := { m.kv with lockUntil := none } } else m

/-- KV_DBG written: a halt needs its gate; H0 halts only without a lease and in MAINT (R566). -/
def M.coreHalt (m : M) (w : Who) (h0 h1 : Bool) : M :=
  if !tagReads w.tag then m.kvResult 1
  else
    let m1 := if h1 && !tbit m.gates 1 then m else m.put F.KV_DBG_h1_halt (b2n h1)
    if !h0 then (m1.haltH0 false).kvResult 0
    else if !tbit m1.gates 0 then m1
    else if m1.leased then m1.kvResult 7
    else if !(m1.unitState == 7) then m1.kvResult 9
    else (m1.haltH0 true).kvResult 0

/-! ### Check and attestation (R561, R562) -/

/-- The vault check ends with a result; `passed` is what the tests of R561 found. -/
def M.vaultCheck (m : M) (passed : Bool) : M :=
  let m1 := (m.put F.KV_STAT_kv_ok (b2n passed)).put F.KV_STAT_chk_busy 0
  if passed then m1 else m1.flag F.KV_EVT_chk_fail 0x26

/-- Standalone statements are signed, others carry a MAC. -/
def M.standalone (m : M) : Bool := m.get F.IBX_PAIR_pair == 0 && m.get F.IBX_CHOST_en == 0

/-- The digests of the firmware as started and of the image in force (Table 18-6, offset 64). -/
def M.runningDigests (m : M) : Bytes :=
  let set := m.get F.SYS_BOOT_STAT_fw_bank
  (List.range 4).flatMap (fun c =>
    digestBytes (Config.sha256 (((aget (8 * set + c + 1) m.upd.firmware).map Component.image).getD []))) ++
  digestBytes (Config.sha256 m.img.inForce)

/-- The statement body of Table 18-6. -/
def M.attestBody (m : M) (mode : Nat) : Bytes :=
  toBE 4 0x4B415454 ++ toBE 2 1 ++ toBE 1 mode ++ toBE 1 m.kv.lc ++ serialBytes ++
  toBE 4 (m.rd .SYS_ID).toNat ++ toBE 4 (m.rd .SYS_REV).toNat ++ toBE 8 m.time.tai ++
  toBE 4 (m.get F.IBX_EPOCH_epoch) ++ toBE 2 (m.get F.IBX_PAIR_pair) ++ toBE 1 (b2n m.slotB) ++ toBE 1 m.unitState ++
  toBE 4 (m.rd .UPD_IMG_ID).toNat ++ toBE 4 (m.rd .UPD_IMG_VER).toNat ++
  (List.range 4).flatMap (fun c => toBE 4 (m.rd .UPD_VER c).toNat) ++ m.runningDigests ++
  toBE 1 m.gates ++ toBE 1 (m.get F.UPD_IMG_STAT_dirty + 2 * m.get F.UPD_IMG_STAT_partial) ++ toBE 2 0 ++
  m.kvBytes .KV_ATT_CHAL 8

/-- A byte string as words, byte 0 of each in bits [31:24]. -/
def wordsBE (bs : Bytes) (n : Nat) : List Word := (List.range n).map (fun i => BitVec.ofNat 32 (be bs (4 * i) 4))

/-- KV_ATT_CMD.go: build a statement over the challenge; a tag that may not have one changes nothing but the answer (R556). -/
def M.attest (m : M) (w : Who) : M :=
  let done (m : M) (mode words err : Nat) : M :=
    (((m.put F.KV_ATT_STAT_mode mode).put F.KV_ATT_STAT_words words).put F.KV_ATT_STAT_err err).put F.KV_ATT_STAT_busy 0
  let held (m : M) (st : List Word) : M := { m with kv := { m.kv with statement := st } }
  if !tagReads w.tag then m.put F.KV_ATT_STAT_err 1
  else if m.standalone then
    let b := m.attestBody 1
    let sig := padTo 64 (Config.identitySign (digestBytes (Config.sha256 b)))
    done (held m (wordsBE (b ++ sig) 81)) 1 81 0
  else
    match m.useSlot (m.get F.KV_CTRL_att_key) 26 with
    | (none, m1) => done (held m1 []) 0 0 5
    | (some k, m1) =>
      let b := m1.attestBody 2
      done (held m1 (wordsBE (b ++ digestBytes (Config.hmac k b)) 73)) 2 73 0

/-- SLOT_USE by software through KV_SW (Table 18-4, bit 27) or another user: the use alone. -/
def M.slotUse (m : M) (slot bit : Nat) : M :=
  match m.useSlot slot bit with
  | (none, m1) => if bit == 27 then m1.kvResult 5 else m1
  | (some _, m1) => m1

/-- Slots that expire are erased at every reset other than a core restart (R558); a change marker left by a power loss is
completed (R552). -/
def M.vaultAtReset (m : M) : M :=
  let m0 := match m.kv.marker with
    | some t => m.enterLifeCycle t
    | none => m
  (m0.kv.slots.filter (fun p => p.2.expire)).foldl (fun a p => a.slotGone p.1) m0

end Sys2Proof.Machine
end

