-- ==== Sys2Proof/Machine/Eth.lean ====
section
/-! DEFINITION. The Ethernet ports: link, carrying port, tenant VLANs, pause, low-power idle, rate step-down, wake patterns
(chapter 9).  Ports 0 and 1 are E0 and E1, port 2 is SP. -/

namespace Sys2Proof.Machine

/-- Event source of a port (Table 20-1). -/
def ethSource (x : Nat) : Nat := 0x38 + x

/-- Port states of Table 9-5. -/
def ethOff : Nat := 0
def ethNegotiating : Nat := 1
def ethUp : Nat := 2
def ethWakeListen : Nat := 3
def ethRenegotiating : Nat := 4

def M.ethState (m : M) (x : Nat) : Nat := m.get F.ETH_STAT_state x

def EthPort.empty : EthPort := EthPort.reset

def M.ethPort (m : M) (x : Nat) : EthPort := (m.eth.ports[x]?).getD EthPort.empty

def M.setEth (m : M) (x : Nat) (p : EthPort) : M := { m with eth := { m.eth with ports := listSet m.eth.ports x p } }

/-- The carrying port, none when carry reads none. -/
def M.carrying (m : M) : Option Nat :=
  match m.get F.ETH_BB_STAT_carry with
  | 1 => some 0
  | 2 => some 1
  | _ => none

/-! ### Transmit queues (R334, R335, R342) -/

/-- PTP event messages and announcements, which go ahead of other frames (R335). -/
def EthBody.ahead : EthBody → Bool
  | .krovtan _ _ _ | .chamois _ _ _ => false
  | _ => true

/-- Messages of the peer delay mechanism, which runs on both ports (R355). -/
def EthBody.peerDelay : EthBody → Bool
  | .pdelayReq | .pdelayResp _ _ => true
  | _ => false

/-- Bytes of a frame from destination address to FCS, with the longer headers of IPv6 and a tag. -/
def EthBody.length (b : EthBody) : Nat :=
  match b with
  | .krovtan _ _ p => 70 + p.length
  | .chamois _ _ d => 70 + d.length
  | _ => 128

/-- Longest frame of a port (Table 9-1). -/
def frameLimit (x : Nat) : Nat := if x == 2 then 1518 else 1522

/-- A queue with one more frame: those that go ahead stand before the others, each group in the order queued (R335). -/
def queued (q : List EthTx) (f : EthTx) : List EthTx :=
  if f.body.ahead then q.takeWhile (fun g => g.body.ahead) ++ [f] ++ q.dropWhile (fun g => g.body.ahead) else q ++ [f]

/-- A frame enters a port's queue; one queued during low-power idle waits for the link to wake (R347). -/
def M.enqueue (m : M) (x : Nat) (f : EthTx) : M :=
  let p := m.ethPort x
  let wake := m.time.tb + (if m.get F.ETH_STAT_speed x == 2 then 16500 else 30000)
  m.setEth x { p with txq := queued p.txq f, lpi := false, wakeEnd := if p.lpi then some wake else p.wakeEnd }

/-- Offer a frame to a port's transmit queue: no frame exceeds the port's limit, a full queue drops it (R334, R335). -/
def M.queueTx (m : M) (x : Nat) (f : EthTx) : M :=
  if frameLimit x < f.body.length then m
  else if 64 ≤ (m.ethPort x).txq.length then m.count F.ETH_TXDROP_count x
  else m.enqueue x f

/-- Offer a frame to the backbone: the carrying port (R337); without one it is not sent. -/
def M.backboneSend (m : M) (tenant : Nat) (body : EthBody) : M :=
  match m.carrying with
  | some x => m.queueTx x ⟨some tenant, body⟩
  | none => m

/-- Announcements enter the queue as it has room for them (log 105); `n` bounds them. -/
def M.feedAnnouncements (m : M) (x : Nat) : Nat → M
  | 0 => m
  | n + 1 =>
    let p := m.ethPort x
    match p.waiting with
    | [] => m
    | f :: t => if 64 ≤ p.txq.length then m else ((m.setEth x { p with waiting := t }).enqueue x f).feedAnnouncements x n

/-- Tag control information of a frame for a tenant on a port: none untagged; no value when the frame is discarded (R342). -/
def M.frameTag (m : M) (x : Nat) (tenant : Option Nat) : Option (Option Nat) :=
  match tenant with
  | none => some none
  | some t =>
    if x == 2 then some none
    else if m.bit F.ETH_VLAN_valid x t then some (some (m.get F.ETH_VLAN_pcp x t * 2 ^ 13 + m.get F.ETH_VLAN_vid x t))
    else if t == 0 then some none
    else none

/-- A frame as it leaves: PTP times are inserted now (R347, R355). -/
def EthBody.stamped (b : EthBody) (tai : Nat) : EthBody :=
  match b with
  | .delayReq _ => .delayReq tai
  | .pdelayResp r _ => .pdelayResp r (tai - r)
  | _ => b

/-- The frame is a request whose time of leaving is kept. -/
def EthBody.timed : EthBody → Bool
  | .delayReq _ | .pdelayReq => true
  | _ => false

/-- A port may start a frame: a backbone port carries, but for the peer delay mechanism; no hold, and the link awake (R337, R345,
R347). -/
def M.mayTransmit (m : M) (x : Nat) (b : EthBody) : Bool :=
  m.ethState x == ethUp && !m.bit F.ETH_STAT_paused x && (2 ≤ x || m.carrying == some x || b.peerDelay) &&
  (m.ethPort x).wakeEnd.all (fun t => t ≤ m.time.tb)

/-- A frame passes on a port: the jack shows it on SP (R466). -/
def M.framePasses (m : M) (x : Nat) : M := if x == 2 then { m with eth := { m.eth with spFrame := some m.time.tb } } else m

/-- FRAME_TRANSMIT: the head of the queue leaves (R335, R342, R345, R347). -/
def M.frameTransmit (m : M) (x : Nat) : M :=
  let p := m.ethPort x
  match p.txq with
  | [] => m
  | f :: t =>
    if !m.mayTransmit x f.body then m
    else
      let m1 := m.setEth x { p with txq := t, wakeEnd := none, idleSince := if t.isEmpty then m.time.tb else p.idleSince
                                    reqSent := if f.body.timed then some m.time.tai else p.reqSent }
      let m2 := match m1.frameTag x f.tenant with
        | none => m1
        | some tag => ((m1.framePasses x).count F.ETH_TXOK_count x).emit (.ethFrame x tag (f.body.stamped m1.time.tai))
      m2.feedAnnouncements x 1

/-! ### The carrying port (R337 to R340) -/

/-- sb_ok: the port that does not carry reads UP. -/
def M.showStandby (m : M) : M :=
  m.putB F.ETH_BB_STAT_sb_ok (match m.carrying with
    | some x => m.ethState (1 - x) == ethUp
    | none => m.ethState 0 == ethUp || m.ethState 1 == ethUp)

/-- The records of an interface. -/
def NetRecord.at_ (r : NetRecord) (kind port tenant : Nat) : Bool := r.kind == kind && r.port == port && r.tenant == tenant

/-- The addresses of an interface: records that stand, and the service jack's default while it has no IPv4 record (R540). -/
def M.addressesOf (m : M) (port tenant : Nat) : List Bytes :=
  (m.krov.net.filter (fun r => r.at_ 2 port tenant)).map (fun r => slice r.data 0 4) ++
  (m.krov.net.filter (fun r => r.at_ 3 port tenant)).map (fun r => slice r.data 0 16) ++
  (if port == 2 then
    Config.spLinkLocal :: (if m.krov.net.any (fun r => r.at_ 2 2 0) && !(m.boot.phase == .recovery) then []
      else [[192, 168, 96, 40]])
   else [])

/-- The announcements of a port: every tenant's addresses in its VLAN, tenant 0's untagged as well (R338, log 105). -/
def M.announcements (m : M) (x : Nat) : List EthTx :=
  ((List.range 251).filter (fun t => m.bit F.ETH_VLAN_valid x t)).flatMap (fun t =>
    (m.addressesOf 0 t).map (fun a => (⟨some t, .announce a⟩ : EthTx))) ++
  (m.addressesOf 0 0).map (fun a => (⟨none, .announce a⟩ : EthTx))

/-- The announcements are queued on a port, while the unit answers for its addresses (R338, R415). -/
def M.announceOn (m : M) (x : Nat) : M :=
  if !m.ibx.addresses then m
  else
    let p := m.ethPort x
    (m.setEth x { p with waiting := p.waiting ++ m.announcements x }).feedAnnouncements x 64

/-- Announce the unit's addresses on the carrying port. -/
def M.announceAddresses (m : M) : M :=
  match m.carrying with
  | none => m
  | some x => m.announceOn x

/-- Module time runs on without Syncs: holdover begins for a locked unit (R504). -/
def M.startHoldover (m : M) : M :=
  if m.get F.RTC_CFG_src == 1 && m.bit F.RTC_STAT_lock && m.time.holdEnd.isNone then
    { m.put F.RTC_STAT_hold 1 with time := { m.time with holdEnd := some (m.time.tb + 60 * sec) } }
  else m

/-- The frames queued on one backbone port move to the other, but for the peer delay mechanism's (R338). -/
def M.moveFrames (m : M) (new : Nat) : M :=
  let p := m.ethPort (1 - new)
  let a := m.setEth (1 - new) { p with txq := p.txq.filter (fun f => f.body.peerDelay), waiting := [] }
  (p.txq.filter (fun f => !f.body.peerDelay)).foldl (fun (b : M) f => b.queueTx new f) a

/-- Move carrying to a port, with the frames queued on the other; announcements, event and record (R338, R339). -/
def M.moveCarry (m : M) (new : Option Nat) : M :=
  let old := m.carrying
  if old == new then m.showStandby
  else
    let m1 := match new with
      | some x => (m.announceOn x).moveFrames x
      | none => m
    let code : Option Nat → Nat := fun o => (o.map (fun x => x + 1)).getD 0
    let m2 := (m1.put F.ETH_BB_STAT_carry (code new)).flag F.ETH_EVT_carry (ethSource 0) 0
    let m3 := m2.showStandby.startHoldover
    m3.note 7 5 0 [code old, code new, (new.map (fun x => m3.get F.ETH_STAT_speed x)).getD 3]

/-- The carrying port has left UP: carrying moves to the other port when it reads UP, else to none (R338). -/
def M.carryLost (m : M) (x : Nat) : M :=
  if m.carrying == some x then m.moveCarry (if m.ethState (1 - x) == ethUp then some (1 - x) else none) else m.showStandby

/-! ### Negotiation (R333, R345, R347, R349 to R351) -/

/-- The link of a port falls: its fields show no link, its hold and low-power idle end. -/
def M.linkDown (m : M) (x state : Nat) : M :=
  let p := { m.ethPort x with pauseEnd := none, lpi := false, wakeEnd := none, upSince := none, sdLow := 0, sdHigh := 0 }
  let keep := m.get F.ETH_STAT_p1000 x
  let sd := m.get F.ETH_STAT_sd x
  (((((m.setEth x p).wr .ETH_STAT 6 x).put F.ETH_STAT_p1000 keep x).put F.ETH_STAT_sd sd x).put F.ETH_STAT_state state x)

/-- Start a new negotiation of a port (R339, R351). -/
def M.renegotiate (m : M) (x : Nat) : M := m.linkDown x ethRenegotiating

/-- The step in progress is abandoned: the ports renegotiate with all of adv where they were held (R350). -/
def M.abandonStep (m : M) : M :=
  match m.eth.step with
  | none => m
  | some st =>
    let m1 := { m with eth := { m.eth with step := none, change := none } }
    let p := m1.ethPort st.port
    let m2 := (m1.setEth st.port { p with only := if st.moved then none else p.only }).put F.ETH_STAT_sd 0 st.port
    if st.moved && !(m2.ethState st.port == ethUp) then m2.renegotiate st.port else m2

/-- PORT_ENABLE: en set by the management firmware; with no speed in adv the port stays OFF (R336). -/
def M.portEnable (m : M) (w : Who) (x : Nat) : M :=
  if !w.tag.isSystem then m
  else
    let m1 := m.putB F.ETH_CTRL_en true x
    if m1.ethState x == ethOff && !(m1.get F.ETH_CTRL_adv x % 8 == 0) then
      (m1.linkDown x ethNegotiating).setEth x { m1.ethPort x with only := none }
    else m1

/-- PORT_DISABLE: the transmit queue is dropped, OFF (R336). -/
def M.portDisable (m : M) (w : Who) (x : Nat) : M :=
  if !w.tag.isSystem then m
  else
    let m1 := (m.abandonStep).putB F.ETH_CTRL_en false x
    let m2 := m1.linkDown x ethOff
    let m3 := (m2.setEth x EthPort.empty).put F.ETH_STAT_sd 0 x
    if x ≤ 1 then m3.carryLost x else m3

/-- Speed and duplex two ends agree on: the fastest both offer. -/
def M.agreed (m : M) (x : Nat) (q : EthPartner) : Option (Nat × Bool) :=
  let adv := m.get F.ETH_CTRL_adv x
  let slow := m.bit F.ETH_CTRL_wl x || (m.ethPort x).only == some 1
  let duplex := q.fullDuplex || (x == 2 && tbit adv 3)
  if !duplex then none
  else if x ≤ 1 && tbit adv 2 && q.m1000 && !slow then some (2, q.fullDuplex)
  else if tbit adv 1 && q.m100 then some (1, q.fullDuplex)
  else if tbit adv 0 && q.m10 then some (0, q.fullDuplex)
  else none

/-- A waiting step begins once the other port reads UP (R350). -/
def M.deferredStep (m : M) : M :=
  match m.carrying with
  | none => m
  | some x =>
    if m.bit F.ETH_STAT_sd_defer x && m.bit F.ETH_CTRL_sd_en x && m.ethState (1 - x) == ethUp && m.eth.step.isNone then
      let s := if m.get F.ETH_STAT_speed x == 2 then 1 else 2
      ({ m with eth := { m.eth with step := some ⟨x, s, false⟩ } }).put F.ETH_STAT_sd_defer 0 x |>.put F.ETH_STAT_sd 2 x
    else m

/-- A port that carrying has left is changed 10 ms later (R339). -/
def M.changeLater (m : M) (x : Nat) : M := { m with eth := { m.eth with change := some (x, m.time.tb + 10 * ms) } }

/-- The new negotiation of the port that carrying left begins, when it still reads UP (R339, R349, R351). -/
def M.oldPortChanges (m : M) : M :=
  match m.eth.change with
  | some (x, t) =>
    if m.time.tb < t then m
    else
      let m1 := { m with eth := { m.eth with change := none } }
      if m1.ethState x == ethUp && !(m1.carrying == some x) then (m1.renegotiate x).showStandby else m1
  | none => m

/-- Step 5 of Table 9-3 on the port that carries again: event, hold time, record; the other port is to negotiate with the same
advertisement (step 6). -/
def M.rateStepDone (m : M) (st : RateStep) : M :=
  let y := st.port
  let m1 := m.flag (if st.speed == 1 then F.ETH_EVT_sd_down else F.ETH_EVT_sd_up) (ethSource y) y
  let m2 := m1.setEth y { m1.ethPort y with sdHoldEnd := some (m1.time.tb + m1.eff F.ETH_SDCFG_hold y * 10 * sec) }
  let m3 := (m2.put F.ETH_STAT_sd 3 y).note 7 5 0 [2 - y, y + 1, m2.get F.ETH_STAT_speed y]
  let m4 := m3.setEth (1 - y) { m3.ethPort (1 - y) with only := if st.speed == 1 then some 1 else none }
  ({ m4 with eth := { m4.eth with step := none } }).changeLater (1 - y)

/-- LINK_UP: negotiation completes (R337, R345, R347, R351). -/
def M.linkUp (m : M) (x : Nat) (q : EthPartner) : M :=
  if !(m.ethState x == ethNegotiating || m.ethState x == ethRenegotiating) then m
  else match m.agreed x q with
    | none => m
    | some (speed, fdx) =>
      let wl := m.bit F.ETH_CTRL_wl x
      let pause := m.bit F.ETH_CTRL_pause_rx x && (q.pause || q.asmDir) && fdx
      let eee := m.bit F.ETH_CTRL_eee x && q.eee && 1 ≤ speed
      let sd := m.get F.ETH_STAT_sd x
      let word := (if wl then ethWakeListen else ethUp) * 2 ^ 13 + sd * 2 ^ 10 + b2n q.m1000 * 2 ^ 9 + b2n pause * 2 ^ 6 +
        b2n eee * 2 ^ 5 + b2n fdx * 2 ^ 4 + speed * 2 + 1
      let m1 := (m.wr .ETH_STAT (BitVec.ofNat 32 word) x).flag F.ETH_EVT_link (ethSource x) x
      let m2 := m1.setEth x { m1.ethPort x with upSince := some m1.time.tb, idleSince := m1.time.tb }
      if 2 ≤ x || wl then m2.showStandby
      else if m2.carrying.isNone then
        let m3 := m2.moveCarry (some x)
        match m3.eth.step with
        | some st => if st.port == x && st.moved then m3.rateStepDone st else m3
        | none => m3
      else m2.showStandby.deferredStep

/-- Renegotiation of a step's port failed: the hold time starts, carrying stays (R350). -/
def M.stepFailed (m : M) (x : Nat) : M :=
  match m.eth.step with
  | some st =>
    if st.port == x && st.moved then
      let m1 := { m with eth := { m.eth with step := none } }
      let p := { m1.ethPort x with only := none, sdHoldEnd := some (m1.time.tb + m1.eff F.ETH_SDCFG_hold x * 10 * sec) }
      ((m1.setEth x p).put F.ETH_STAT_sd 3 x).renegotiate x
    else m
  | none => m

/-- LINK_LOSS: the link of a port is gone (R338); a port that fails to come back
in a step gives the step up (R350). -/
def M.linkLoss (m : M) (x : Nat) : M :=
  if !(m.bit F.ETH_STAT_link x) then m.stepFailed x
  else
    let m1 := (m.linkDown x ethNegotiating).flag F.ETH_EVT_link (ethSource x) x
    let held := m1.eth.step.any (fun st => st.port == x && st.moved)
    let m2 := if held then m1 else m1.setEth x { m1.ethPort x with only := none }
    if x ≤ 1 then m2.carryLost x else m2

/-- CARRY_HANDOVER: the planned hand-over that stands: into a rate step, back after it, or before wake-listen (R339, R349,
R351). -/
def M.carryHandover (m : M) : M :=
  match m.carrying with
  | none => m
  | some x =>
    let y := 1 - x
    match m.eth.step with
    | some st =>
      if st.port == x && !st.moved && m.ethState y == ethUp then
        let m1 := m.moveCarry (some y)
        let m2 := m1.setEth x { m1.ethPort x with only := if st.speed == 1 then some 1 else none }
        ({ m2 with eth := { m2.eth with step := some { st with moved := true } } }).changeLater x
      else if st.port == y && st.moved && m.ethState y == ethUp then
        (m.moveCarry (some y)).rateStepDone st
      else m
    | none =>
      if m.bit F.ETH_CTRL_wl x && m.ethState x == ethUp && m.ethState y == ethUp then
        (m.moveCarry (some y)).changeLater x
      else m

/-- CARRY_RETURN: carrying returns to the preferred port after `hold` seconds UP (R340). -/
def M.carryReturn (m : M) : M :=
  let p := m.get F.ETH_BB_CTRL_pref
  let since := (m.ethPort p).upSince
  if m.bit F.ETH_BB_CTRL_ret && m.ethState p == ethUp && !(m.carrying == some p) && m.eth.step.isNone &&
      since.any (fun t => t + m.get F.ETH_BB_CTRL_hold * sec ≤ m.time.tb) then m.moveCarry (some p)
  else m

/-! ### Receiving (R334, R341 to R344, R346, R351, R352) -/

/-- CRC-16 of one byte: polynomial 0x1021, not reflected (R352). -/
def crc16Byte (c : Nat) (b : Byte) : Nat :=
  (List.range 8).foldl (fun a _ => if a / 2 ^ 15 == 1 then Nat.xor (a * 2 % 65536) 0x1021 else a * 2 % 65536)
    (Nat.xor c (b.toNat * 256))

/-- Bytes that a pattern's effective mask selects; none when one lies beyond the frame (R352). -/
def M.selected (m : M) (x p : Nat) (bytes : Bytes) : Option Bytes :=
  (List.range 128).foldr (fun k a =>
    if tbit (m.effWord .ETH_WP_M x p (k / 32)).toNat (k % 32) then
      match bytes[k]?, a with
      | some b, some t => some (b :: t)
      | _, _ => none
    else a) (some [])

/-- An enabled pattern matches a frame (R352). -/
def M.wakeMatch (m : M) (x : Nat) (bytes : Bytes) : Bool :=
  (List.range 8).any (fun p => m.effB F.ETH_WP_CRC_en x p &&
    (m.selected x p bytes).any (fun l => l.foldl crc16Byte 0xFFFF == m.eff F.ETH_WP_CRC_crc x p))

/-- The tenant a backbone frame belongs to; none when it is discarded (R341). -/
def M.vlanOf (m : M) (x : Nat) (vid : Option Nat) (content : EthContent) : Option Nat :=
  match vid with
  | some (v + 1) => (List.range 251).find? (fun t => m.bit F.ETH_VLAN_valid x t && m.get F.ETH_VLAN_vid x t == v + 1)
  | _ =>
    let ok := match content with
      | .macControl | .resolution => true
      | .delayResp .. | .pdelayResp .. | .announce .. | .ptpOther => !m.bit F.ETH_PTP_CFG_vlan x
      | .chamois => !m.bit F.ETH_VLAN_valid x 0
      | .other => false
    if ok then some 0 else none

/-- The network of a good frame at a port: a tenant's, 0 for SP; none when the frame is discarded (R341, R344). -/
def M.frameNet (m : M) (x : Nat) (vid : Option Nat) (content : EthContent) : Option Nat :=
  if x == 2 then (if vid.isSome then none else some 0) else m.vlanOf x vid content

/-- A frame of no network is discarded and counted; only backbone frames raise the event (R341, R344, Table 9-5). -/
def M.dropVlan (m : M) (x : Nat) : M :=
  let m1 := m.count F.ETH_RXDROP_vlan x
  if x == 2 then m1 else m1.flag F.ETH_EVT_vlan (ethSource x) x

/-- A good frame that carries a command's message is taken for its network and counted, or discarded (R341, R344, log 106). -/
def M.takeFrame (m : M) (x : Nat) (vid : Option Nat) (content : EthContent) : Option Nat × M :=
  if !(m.ethState x == ethUp) then (none, m)
  else match m.frameNet x vid content with
    | none => (none, (m.framePasses x).dropVlan x)
    | some t => (some t, (m.framePasses x).count F.ETH_RXOK_count x)

/-- A PTP message stands in the network PTP uses: untagged, or tenant 0's VLAN (Table 9-5). -/
def M.ptpHere (m : M) (x : Nat) (vid : Option Nat) (net : Nat) : Bool :=
  if m.bit F.ETH_PTP_CFG_vlan x then net == 0 && vid.any (fun v => !(v == 0)) else vid.all (· == 0)

/-- Store a mean path delay; the request it answers is spent. -/
def M.putDelay (m : M) (x : Nat) (mpd : Int) : M :=
  (m.wr .ETH_PTP_MPD (BitVec.ofNat 32 (min mpd.toNat 0xFFFFFFFF)) x).setEth x { m.ethPort x with reqSent := none }

/-- Mean path delay from a Delay_Resp or a Pdelay_Resp, by the mechanism in use (R355). -/
def M.delayResponse (m : M) (x : Nat) (content : EthContent) : M :=
  let p := m.ethPort x
  let here (domain : Nat) (dm : Bool) : Bool := m.bit F.ETH_PTP_CFG_en x && m.bit F.ETH_PTP_CFG_dm x == dm && domain == m.get F.ETH_PTP_CFG_domain x
  match content, p.reqSent with
  | .delayResp domain receipt corr, some t3 =>
    match p.syncDiff with
    | some d => if here domain false then m.putDelay x ((d + ((receipt : Int) - t3 - corr)) / 2) else m
    | none => m
  | .pdelayResp domain receipt turn, some t1 => if here domain true then m.putDelay x (((receipt : Int) - t1 - turn) / 2) else m
  | _, _ => m

/-- The master's Announce on the carrying port gives a locked module its UTC offset and a leap second to come (R502). -/
def M.leapData (m : M) (x : Nat) (content : EthContent) : M :=
  match content with
  | .announce domain ofs leap61 leap59 =>
    if m.carrying == some x && m.bit F.ETH_PTP_CFG_en x && domain == m.get F.ETH_PTP_CFG_domain x && m.bit F.RTC_CFG_auto_leap &&
      m.bit F.RTC_STAT_lock then
      (m.putLater F.RTC_LEAP_tai_utc ofs).putLater F.RTC_LEAP_pend (if leap61 then 1 else if leap59 then 2 else 0)
    else m
  | _ => m

/-- FRAME_RECEIVED (R334, R341, R343, R344, R351). -/
def M.frameReceived (m : M) (x : Nat) (f : EthRx) : M :=
  let st := m.ethState x
  let m0 := (m.transferAt [Reg.ETH_SDCFG.addr x 0 0, Reg.ETH_SDUP.addr x 0 0]).framePasses x
  if !(st == ethUp || st == ethWakeListen) then m
  else if !f.fcsOk then m0.count F.ETH_RXERR_fcs x
  else if f.length < 64 || frameLimit x < f.length then m0.count F.ETH_RXERR_size x
  else if st == ethWakeListen then (if m0.wakeMatch x f.bytes then m0.flag F.ETH_EVT_wake 0x3B x else m0)
  else match m0.frameNet x f.vid f.content with
    | none => m0.dropVlan x
    | some t =>
      if (x < 2 && 16 * 1024 < f.heldVlan + f.length) || 128 * 1024 < f.heldAll + f.length then
        (m0.count F.ETH_RXDROP_buf x).flag F.ETH_EVT_buf (ethSource x) x
      else
        let m1 := m0.count F.ETH_RXOK_count x
        if x < 2 && m1.ptpHere x f.vid t then (m1.delayResponse x f.content).leapData x f.content else m1

/-! ### Pause and low-power idle (R345 to R347) -/

/-- Nanoseconds of one bit at a speed code. -/
def bitTime (speed : Nat) : Nat :=
  match speed with
  | 0 => 100
  | 1 => 10
  | _ => 1

/-- PAUSE_FRAME: counted; obeyed while receive pause is resolved on (R345, R346). -/
def M.pauseFrame (m : M) (x quanta : Nat) : M :=
  if !(m.ethState x == ethUp) then m
  else
    let m1 := (m.count F.ETH_PAUSE_count x).flag F.ETH_EVT_pause (ethSource x) x
    if !m1.bit F.ETH_STAT_pause_en x then m1
    else if quanta == 0 then (m1.setEth x { m1.ethPort x with pauseEnd := none }).put F.ETH_STAT_paused 0 x
    else
      let t := m1.time.tb + quanta * 512 * bitTime (m1.get F.ETH_STAT_speed x)
      (m1.setEth x { m1.ethPort x with pauseEnd := some t }).put F.ETH_STAT_paused 1 x

/-- PAUSE_HOLD_END (R345). -/
def M.pauseHoldEnd (m : M) (x : Nat) : M :=
  if m.due (m.ethPort x).pauseEnd then
    (m.setEth x { m.ethPort x with pauseEnd := none, idleSince := m.time.tb }).put F.ETH_STAT_paused 0 x
  else m

/-- LPI_ENTRY: lpi_idle µs with an empty queue and no hold (R347). -/
def M.lpiEntry (m : M) (x : Nat) : M :=
  let p := m.ethPort x
  if m.ethState x == ethUp && m.bit F.ETH_STAT_eee_act x && p.txq.isEmpty && !m.bit F.ETH_STAT_paused x && !p.lpi &&
      p.idleSince + max 1 (m.get F.ETH_EEE_lpi_idle x) * 1000 ≤ m.time.tb then
    (m.setEth x { p with lpi := true }).count F.ETH_LPI_tx x
  else m

/-- LPI_RECEIVED (R347). -/
def M.lpiReceived (m : M) (x : Nat) : M :=
  if m.bit F.ETH_STAT_eee_act x then m.count F.ETH_LPI_rx x else m

/-! ### Rate step-down (R348 to R350) -/

/-- One 1 s load window of the carrying port: bytes received and sent, and samples of 1,000 with qthr or more frames queued. -/
def M.loadWindow (m : M) (x rx tx deep : Nat) : M :=
  let p := m.ethPort x
  if !(m.carrying == some x) || !(m.ethState x == ethUp) || p.sdHoldEnd.isSome || m.eth.step.isSome then m
  else
    let below (b : Nat) : Bool := b * 100 < min 100 (m.eff F.ETH_SDCFG_dthr x) * 12500000
    let speed := m.get F.ETH_STAT_speed x
    let lowOk := speed == 2 && below rx && below tx
    let highOk := speed == 1 && p.only == some 1 &&
      (500 ≤ deep || min 100 (m.eff F.ETH_SDUP_rthr x) * 12500000 < rx * 100)
    let low := if lowOk then p.sdLow + 1 else 0
    let high := if highOk then p.sdHigh + 1 else 0
    let m1 := m.setEth x { p with sdLow := low, sdHigh := high }
    let down := max 1 (m.eff F.ETH_SDCFG_dtime x) ≤ low
    let up := max 1 (m.eff F.ETH_SDUP_utime x) ≤ high && m.bit F.ETH_STAT_p1000 x
    let m2 := m1.put F.ETH_STAT_sd (if 0 < low || 0 < high then 1 else 0) x
    if (down || up) && m.bit F.ETH_CTRL_sd_en x then
      if m.ethState (1 - x) == ethUp then
        ({ m2 with eth := { m2.eth with step := some ⟨x, if down then 1 else 2, false⟩ } }).put F.ETH_STAT_sd 2 x
          |>.put F.ETH_STAT_sd_defer 0 x
      else m2.put F.ETH_STAT_sd_defer 1 x
    else m2.put F.ETH_STAT_sd_defer 0 x

/-- STEP_HOLD_END (R348). -/
def M.stepHoldEnd (m : M) (x : Nat) : M :=
  if m.due (m.ethPort x).sdHoldEnd then (m.setEth x { m.ethPort x with sdHoldEnd := none }).put F.ETH_STAT_sd 0 x else m

/-! ### Wake-listen (R351) and writes of ETHx_CTRL -/

/-- WAKE_LISTEN: wl written. -/
def M.wakeListen (m : M) (x : Nat) (on : Bool) : M :=
  let was := m.bit F.ETH_CTRL_wl x
  let m1 := m.putB F.ETH_CTRL_wl on x
  if was == on || m1.ethState x == ethOff then m1
  else if !on && m1.eth.change.any (fun c => c.1 == x) then { m1 with eth := { m1.eth with change := none } }
  else if on && m1.carrying == some x && m1.ethState (1 - x) == ethUp then m1
  else
    let m2 := m1.renegotiate x
    if x ≤ 1 then m2.carryLost x else m2

/-- A port's domain is lost: its state, and carrying by R338; the carrying port is known while EA is off (R337). -/
def M.portLost (m : M) (x : Nat) (lose : M → M) : M :=
  let m1 := (if m.eth.step.isSome then { m with eth := { m.eth with step := none, change := none } } else m).linkDown x ethOff
  let m2 := if x ≤ 1 then m1.carryLost x else m1
  ((lose m2).setEth x EthPort.empty).wr .ETH_BB_STAT (m2.rd .ETH_BB_STAT)

/-- A write of a whole ETHx_CTRL: en by the system tag only; adv only while OFF; each other field by its class (R336, R350). -/
def M.ethCtrl (m : M) (w : Who) (x v : Nat) : M :=
  let m1 := ((m.put F.ETH_CTRL_sd_en (if x ≤ 1 then bitN v 4 else 0) x).put F.ETH_CTRL_eee (bitN v 3) x).put
    F.ETH_CTRL_pause_rx (bitN v 2) x
  let m2 := if m.ethState x == ethOff then m1.put F.ETH_CTRL_adv (if x == 2 then Nat.land (fieldN v 8 4) 0xB
    else fieldN v 8 3) x else m1
  let m3 := if x ≤ 1 && !tbit v 4 then (if m2.eth.step.any (fun s => s.port == x) then m2.abandonStep else m2) else m2
  let m4 := m3.wakeListen x (tbit v 1)
  if !w.tag.isSystem || tbit v 0 == m4.bit F.ETH_CTRL_en x then m4
  else if tbit v 0 then m4.portEnable w x else m4.portDisable w x

/-- A write of ETHx_VLANt: a bad VID with valid set is ignored (R342). -/
def M.vlanWrite (m : M) (x t : Nat) (v : Word) : M :=
  let vid := wfield v 0 12
  let taken := (List.range 251).any (fun u => !(u == t) && m.bit F.ETH_VLAN_valid x u && m.get F.ETH_VLAN_vid x u == vid)
  if tbit v.toNat 31 && (vid == 0 || vid == 0xFFF || taken) then m
  else m.wr .ETH_VLAN (BitVec.ofNat 32 (Nat.land v.toNat 0x80007FFF)) x t

end Sys2Proof.Machine
end

