-- ==== Sys2Proof/Machine/Time.lean ====
section
/-! DEFINITION. Module time, calendar, rate trim and alarm (chapter 15), network time (R354, R355). -/

namespace Sys2Proof.Machine

/-! ### The timebase (R29, R435, R505) -/

/-- Nanoseconds of one timebase period at the level in force (Table 12-6). -/
def M.tbPeriod (m : M) : Nat :=
  match m.get F.PMC_LVL_STAT_level with
  | 0 => 40
  | 1 => 10
  | _ => 5

/-- Time runs for one timebase period: module time at its trim and slew (R504, R505). -/
def M.tick (m : M) : M :=
  let dt := m.tbPeriod
  let lim : Int := dt * 16777
  let s := max (-lim) (min lim m.time.slew)
  let mt := signedN (m.get F.RTC_TRIM_mt) 16
  let total : Int := (m.time.rateAcc : Int) + (dt : Int) * (2 ^ 25 + mt) + s
  let m1 : M := { m with time := { m.time with
      tb := m.time.tb + dt
      tai := m.time.tai + total.toNat / 2 ^ 25
      rateAcc := total.toNat % 2 ^ 25
      slew := m.time.slew - s } }
  m1.periodEvents.oldPortChanges

/-- Sources and islands as TIM_CLK_STAT shows them (R449, R507): ok of an island needs its source good and no failover. -/
def islandMonitor (i : Nat) : Nat :=
  match i with
  | 0 => 3
  | 1 => 4
  | 2 => 0
  | 3 => 5
  | 4 => 6
  | _ => 2

def M.showClocks (m : M) : M :=
  let bad := m.time.monBad
  let fo := m.get F.TIM_CLK_STAT_fo
  let ok := (List.range 6).foldl (fun a i => if tbit fo i || tbit bad (islandMonitor i) then a else a + 2 ^ i) 0
  (((m.put F.TIM_CLK_STAT_ok ok).putB F.TIM_CLK_STAT_rc_ok (!tbit bad 1)).putB F.TIM_CLK_STAT_xo_ok (!tbit bad 0)).putB
    F.TIM_CLK_STAT_xr_ok (!tbit bad 2 && !m.bit F.RTC_STAT_osf)

/-! ### Steps of module time (R503, Table 15-2) -/

/-- Tasks whose due times lie inside a forward step count one skip each. -/
def M.skipTasks (m : M) (old new : Nat) : M :=
  if !(m.get F.EXE_STAT_state == 1) || new ≤ old then m
  else m.exe.taskRecs.foldl (fun a t =>
    if !t.etask && a.effB F.EXE_TCFG_en t.task && 0 < t.period && old / (1000 * t.period) < new / (1000 * t.period) then
      a.count F.EXE_TSTAT_skip t.task
    else a) m

/-- Running timers keep their elapsed counts, and CYC cells wait for the first boundary after the step, or after the last token
issued (R97, R102). -/
def M.shiftTimers (m : M) (old new : Nat) : M :=
  let one (c : Cell) : Cell := match c.body with
    | .t t =>
      let u := t.unitNs
      if t.frozen.isSome then c
      else if old < new then
        { c with body := .t { t with startTick := t.startTick + (new / u - old / u), lastPeriod := new
                                     presetTick := t.presetTick + (new / u - old / u) } }
      else { c with body := .t { t with least := t.elapsedAt old } }
    | _ => c
  { m with fab := { m.fab with quads := m.fab.quads.map (fun q =>
      { q with cells := q.cells.map (fun p => (p.1, one p.2)) }) } }

/-- Demand intervals end short after a step (R284). -/
def M.demandShort (m : M) : M :=
  { m with mtr := { m.mtr with circuits := m.mtr.circuits.map (fun c => { c with short := true, stepped := true }), demandAt := m.calMinute } }

/-- Step module time: its effects, the event and the record of the step (R503). -/
def M.stepTime (m : M) (new : Nat) : M :=
  let old := m.time.tai
  let m1 := ((m.skipTasks old new).shiftTimers old new).demandShort
  let m2 : M := { m1 with time := { m1.time with tai := new, slew := 0 }, tth := { m1.tth with capture := [] } }
  (m2.flag F.RTC_EVT_step 0x23).note 8 5 0 [old / 2 ^ 32, old % 2 ^ 32, new / 2 ^ 32, new % 2 ^ 32]

/-! ### The calendar (R497 to R502, R508) -/

/-- Day number of the last day of 2399 (R497). -/
def lastDay : Nat := 146096

/-- A calendar minute matches RTC_ALM (R508). -/
def M.alarmMatch (m : M) (day hour min : Nat) : Bool :=
  let (_, (_, d)) := dateOf day
  m.bit F.RTC_ALM_en && (m.get F.RTC_ALM_day == 0 || m.get F.RTC_ALM_day == d) &&
  (m.get F.RTC_ALM_hour == 0x1F || m.get F.RTC_ALM_hour == hour) && m.get F.RTC_ALM_min == min

/-- The alarm latch sets; PWRON pulls low (R508). -/
def M.alarmLatch (m : M) : M := (m.put F.RTC_STAT_alm 1).flag F.RTC_EVT_alm 0x23

/-- PWRON pulls low (R508). -/
def M.pwronLow (m : M) : Bool := m.bit F.RTC_STAT_alm || m.bit F.RTC_ALM_hold

/-- A matching minute begins strictly between two calendar times, given in seconds since 2000 (R508). -/
def M.alarmBetween (m : M) (lo hi : Nat) : Bool :=
  (List.range 64).any (fun k => (List.range 24).any (fun h =>
    let day := lo / 86400 + k
    let t := day * 86400 + h * 3600 + m.get F.RTC_ALM_min * 60
    lo < t && t < hi && m.alarmMatch day h (m.get F.RTC_ALM_min)))

/-- Module time of a calendar time in seconds since 2000 (R501). -/
def M.taiAt (m : M) (t : Nat) : Nat :=
  let s : Int := (t : Int) + secondsTo2000 - 60 * signedN (m.eff F.RTC_CFG_ofs) 12 + m.eff F.RTC_LEAP_tai_utc
  s.toNat * 1000000000

/-- The calendar counts by itself: while VIN is absent, and until module time is set from it (R498, R503). -/
def M.calendarAlone (m : M) : Bool := !m.time.vinPresent || m.get F.SYS_BOOT_STAT_step ≤ 1

/-- Module time is set from the calendar (R503; Table 14-4, step 2). -/
def M.timeFromCalendar (m : M) : M :=
  { m with time := { m.time with
    tai := m.taiAt (m.time.calDay * 86400 + m.time.calSec) + m.time.calSub * 1000000000 / 32768, slew := 0, rateAcc := 0 } }

/-- The calendar jumps from one time to another, in seconds since 2000: alarm and demand see a step (R501, R508). -/
def M.calendarStep (m : M) (old new : Nat) : M :=
  let d := new / 86400
  let s := new % 86400
  let m1 := m.demandShort
  if m1.alarmMatch d (s / 3600) (s / 60 % 60) then m1.alarmLatch
  else if m1.alarmBetween (min old new) (max old new) then m1.flag F.RTC_EVT_alm_miss 0x23
  else m1

/-- Put the calendar at a time, in seconds since 2000, held at the end of 2399 (R497). -/
def M.setCalendar (m : M) (t : Nat) : M :=
  if lastDay < t / 86400 then
    let m1 := { m with time := { m.time with calDay := lastDay, calSec := 86399, calSub := 0, calLeap := false } }
    if m1.bit F.RTC_STAT_end then m1 else (m1.put F.RTC_STAT_end 1).flag F.RTC_EVT_end 0x23
  else { m with time := { m.time with calDay := t / 86400, calSec := t % 86400, calSub := 0, calLeap := false } }

/-- Second 0 of a matching minute is entered (R508). -/
def M.alarmTick (m : M) : M :=
  let s := m.time.calSec
  if s % 60 == 0 && m.alarmMatch m.time.calDay (s / 3600) (s / 60 % 60) then m.alarmLatch else m

/-- UTC seconds of a module time. -/
def M.utc (m : M) : Nat := m.time.tai / 1000000000 - m.eff F.RTC_LEAP_tai_utc

/-- Set tai_utc and pend in written and effective copies: the module's own change (R502). -/
def M.setLeap (m : M) (taiUtc pend : Nat) : M :=
  ((m.transferAt [Reg.RTC_LEAP.addr 0 0 0]).put F.RTC_LEAP_tai_utc taiUtc).put F.RTC_LEAP_pend pend

/-- CALENDAR_SECOND: the block's boundary; the calendar advances, with leap seconds, a changed offset and the alarm (R498,
R501, R502, R508). -/
def M.calendarSecond (m : M) : M :=
  let shown (a : M) : Nat := (a.localTime a.time.tai).1
  let before := shown m
  let pend0 := m.eff F.RTC_LEAP_pend
  let m0 := m.transferAt [Reg.RTC_LEAP.addr 0 0 0, Reg.RTC_CFG.addr 0 0 0]
  if m0.bit F.RTC_STAT_end then m0
  else if m0.calendarAlone then (m0.setCalendar (m0.time.calDay * 86400 + m0.time.calSec + 1)).alarmTick
  else if m0.time.calLeap then
    let m1 := (m0.setLeap (m0.get F.RTC_LEAP_tai_utc + 1) 0).flag F.RTC_EVT_leap 0x23
    (m1.setCalendar (shown m1)).alarmTick
  else if pend0 == 1 && m0.utc % 86400 == 0 then { m0 with time := { m0.time with calLeap := true, calSub := 0 } }
  else if pend0 == 2 && m0.utc % 86400 == 86399 then
    let m1 := (m0.setLeap (m0.get F.RTC_LEAP_tai_utc - 1) 0).flag F.RTC_EVT_leap 0x23
    (m1.setCalendar (shown m1)).alarmTick
  else
    let after := shown m0
    if after == before then (m0.setCalendar after).alarmTick else (m0.setCalendar after).calendarStep before after

/-- Shadow words of the calendar (R499): the subsecond follows module time while VIN is present. -/
def M.calendarTime (m : M) : Word :=
  let (s, ns) := m.localTime m.time.tai
  let sub := if m.calendarAlone then m.time.calSub
    else if s % 86400 == m.time.calSec || m.time.calLeap then ns * 32768 / 1000000000 else 32767
  BitVec.ofNat 32 (timeWord m.time.calSec sub + (if m.time.calLeap then 2 ^ 15 else 0))

def M.calendarDate (m : M) : Word := BitVec.ofNat 32 (dateWord m.time.calDay)

/-- RTC_TIME_READ: a 32-bit read latches RTC_DATE for the initiator (R499). -/
def M.rtcTimeRead (m : M) (w : Who) : M :=
  { m with time := { m.time with latDate := aput w.ini m.calendarDate m.time.latDate } }

/-- TAI_READ: a 32-bit read of TIM_TAI_LO latches TIM_TAI_HI for the initiator (R449). -/
def M.taiRead (m : M) (w : Who) : M :=
  { m with time := { m.time with latTaiHi := aput w.ini (BitVec.ofNat 32 (m.time.tai / 2 ^ 32)) m.time.latTaiHi } }

/-- A set of the oscillator-stopped flag (R507). -/
def M.setOsf (m : M) : M :=
  let m1 := (m.put F.RTC_STAT_osf 1).flag F.RTC_EVT_osf 0x23
  { m1 with time := { m1.time with everLocked := false } }.showClocks

/-- osf clears when monitor 2 shows XR good (R507). -/
def M.clearOsf (m : M) : M := if tbit m.time.monBad 2 then m else (m.put F.RTC_STAT_osf 0).showClocks

/-- CALENDAR_SET (R500). -/
def M.calendarSet (m : M) : M :=
  let y := m.get F.RTC_SET_DATE_year
  let mo := m.get F.RTC_SET_DATE_month
  let d := m.get F.RTC_SET_DATE_day
  let h := m.get F.RTC_SET_TIME_hour
  let mi := m.get F.RTC_SET_TIME_min
  let s := m.get F.RTC_SET_TIME_sec
  if m.get F.RTC_CFG_src == 1 && m.bit F.RTC_STAT_lock then m.put F.RTC_STAT_set_err 2
  else if y < 2000 || 2399 < y || mo < 1 || 12 < mo || d < 1 || monthDays y mo < d || 23 < h || 59 < mi || 59 < s then
    m.put F.RTC_STAT_set_err 1
  else
    let t := dayNumber y mo d * 86400 + h * 3600 + mi * 60 + s
    let old := m.time.calDay * 86400 + m.time.calSec
    let oldD := m.calendarDate
    let oldT := m.calendarTime
    let m1 := (((m.put F.RTC_STAT_set_err 0).put F.RTC_STAT_end 0).setCalendar t).stepTime (m.taiAt t)
    let m2 := (m1.calendarStep old t).clearOsf
    m2.note 8 5 0 [oldD.toNat, oldT.toNat, m2.calendarDate.toNat, m2.calendarTime.toNat]

/-- ALARM_RELEASE: RTC_ALM.rel = 1 (R508). -/
def M.alarmRelease (m : M) : M := m.put F.RTC_STAT_alm 0

/-- VBAK below 2.0 V for 1 s (R495). -/
def M.vbakLow (m : M) : M :=
  if m.time.vinPresent && !m.bit F.RTC_STAT_vbak_low then (m.put F.RTC_STAT_vbak_low 1).flag F.RTC_EVT_vbak 0x23 else m

/-- VBAK at 2.1 V or above (R495). -/
def M.vbakRise (m : M) : M := { m.put F.RTC_STAT_vbak_low 0 with time := { m.time with vbakPresent := true } }

/-- BACKUP_RESET: VIN and VBAK both absent: the backup domain at its reset values, osf set (R494). -/
def M.backupReset (m : M) : M :=
  let m1 := { m with
    regs := m.regs.filter (fun p => !(p.1 / 65536 == 0x4004))
    effs := m.effs.filter (fun p => !(p.1 / 65536 == 0x4004))
    time := { m.time with calDay := 0, calSec := 0, calSub := 0, calLeap := false, vinPresent := false, vbakPresent := false,
                          mainsApplied := false } }
  m1.setOsf

/-! ### Network time (R354, R355, R504) -/

/-- A signed count as a word that holds at its ends. -/
def holdSigned (i : Int) : Word := BitVec.ofInt 32 (max (-2147483648) (min 2147483647 i))

/-- The mean of offsets. -/
def meanInt (l : List Int) : Int := if l.isEmpty then 0 else l.foldl (fun a x => a + x) 0 / (l.length : Int)

/-- Module time follows an offset from the master (R504). -/
def M.followOffset (m : M) (ofs : Int) : M :=
  let small := ofs.natAbs < 1000
  let good := if small then m.time.syncGood + 1 else 0
  let lock := 8 ≤ good
  let big := if 1000000 < ofs.natAbs then (ofs :: m.time.syncBig).take 8 else []
  let was := m.bit F.RTC_STAT_lock
  let m1 := { m with time := { m.time with syncGood := min good 8, syncBig := big, holdEnd := none } }
  let m2 := (m1.put F.RTC_STAT_hold 0).putB F.RTC_STAT_lock lock
  let m3 := if lock && !was && !m2.time.everLocked then
      let a := m2.flag F.RTC_EVT_lock 0x23
      ({ a with time := { a.time with everLocked := true } }).clearOsf
    else m2
  if big.isEmpty then { m3 with time := { m3.time with slew := -ofs * 2 ^ 25 } }
  else if big.length < 8 then m3
  else if m3.bit F.RTC_CFG_step_ok then
    let m4 := m3.stepTime ((m3.time.tai : Int) - meanInt big).toNat
    { m4 with time := { m4.time with syncBig := [] } }
  else { m3 with time := { m3.time with slew := -ofs * 2 ^ 25 } }

/-- A PTP message of the configured transport and domain is taken, on a port that runs PTP; one of no network is discarded
(R341, R355). -/
def M.takePtp (m : M) (x : Nat) (f : PtpRx) : Bool × M :=
  if 2 ≤ x then (false, m)
  else
    let fits := f.transport == m.get F.ETH_PTP_CFG_transport x
    match m.takeFrame x f.vid (if fits then .ptpOther else .other) with
    | (none, m1) => (false, m1)
    | (some t, m1) => (fits && m1.ptpHere x f.vid t && m1.bit F.ETH_PTP_CFG_en x && f.domain == m1.get F.ETH_PTP_CFG_domain x, m1)

/-- No timestamps at 10 Mb/s: ETHx_EVT.ptp is set (R354). -/
def M.stamps (m : M) (x : Nat) : Bool × M :=
  if m.get F.ETH_STAT_speed x == 0 then (false, m.flag F.ETH_EVT_ptp (ethSource x) x) else (true, m)

/-- SYNC: origin time, receive time and correction of a Sync message (R354, R355, R504). -/
def M.syncArrives (m : M) (x : Nat) (f : PtpRx) (origin receipt corr : Nat) : M :=
  match m.takePtp x f with
  | (false, m0) => m0
  | (true, m0) => match m0.stamps x with
    | (false, m1) => m1
    | (true, m1) =>
      let diff : Int := (receipt : Int) - origin - corr
      let ofs := diff - m1.get F.ETH_PTP_MPD_mpd x
      let m2 := (m1.setEth x { m1.ethPort x with syncDiff := some diff }).wr .ETH_PTP_OFS (holdSigned ofs) x
      if m2.carrying == some x && m2.get F.RTC_CFG_src == 1 then m2.followOffset ofs else m2

/-- PDELAY_REQ: a one-step Pdelay_Resp is queued ahead; its correction is the turnaround time (R355). -/
def M.pdelayReq (m : M) (x : Nat) (f : PtpRx) (receipt : Nat) : M :=
  match m.takePtp x f with
  | (false, m0) => m0
  | (true, m0) =>
    if !m0.bit F.ETH_PTP_CFG_dm x then m0
    else match m0.stamps x with
      | (false, m1) => m1
      | (true, m1) => m1.queueTx x ⟨if m1.bit F.ETH_PTP_CFG_vlan x then some 0 else none, .pdelayResp receipt 0⟩

/-- DELAY_REQ_SEND: a Delay_Req is queued on the carrying port, or with dm = 1 a Pdelay_Req on either port; its time is inserted as it
leaves (R337, R355). -/
def M.delayReqSend (m : M) (x : Nat) : M :=
  let dm := m.bit F.ETH_PTP_CFG_dm x
  if 2 ≤ x || !(m.ethState x == ethUp) || !m.bit F.ETH_PTP_CFG_en x || (!dm && !(m.carrying == some x)) then m
  else match m.stamps x with
    | (false, m1) => m1
    | (true, m1) => m1.queueTx x ⟨if m1.bit F.ETH_PTP_CFG_vlan x then some 0 else none, if dm then .pdelayReq else .delayReq 0⟩

/-- SYNC_TIMEOUT: no Sync on the carrying port for 3 announce intervals; holdover begins (R355, R504). -/
def M.syncTimeout (m : M) (x : Nat) : M :=
  if !(m.carrying == some x) || !m.bit F.ETH_PTP_CFG_en x then m
  else (m.flag F.ETH_EVT_ptp (ethSource x) x).startHoldover

/-- HOLDOVER_EXPIRY (R504). -/
def M.holdoverExpiry (m : M) : M :=
  if !m.due m.time.holdEnd then m
  else
    let m1 := { m with time := { m.time with holdEnd := none, syncGood := 0 } }
    ((m1.put F.RTC_STAT_hold 0).put F.RTC_STAT_lock 0).flag F.RTC_EVT_unlock 0x23

/-! ### Rate trim (R505, R506) -/

/-- A trim held within its limit, and whether it was held. -/
def trimLimit (t : Int) : Int × Bool := (max (-17180) (min 17180 t), decide (t < -17180 ∨ 17180 < t))

/-- Put mt, with the limit flag (R505). -/
def M.putMt (m : M) (t : Int) : M :=
  let (v, lim) := trimLimit t
  (m.put F.RTC_TRIM_mt (encodeInt v 16)).putB F.RTC_STAT_trim_lim lim

/-- TRIM_WINDOW: the frequency error of module time over a network window, in steps, or the L1 cycles of a mains window
(Table 15-3). -/
def M.trimWindow (m : M) (err : Int) (cycles : Nat) : M :=
  let mt := signedN (m.get F.RTC_TRIM_mt) 16
  match m.get F.RTC_CFG_src with
  | 1 => if m.bit F.RTC_STAT_lock then m.putMt (mt - err) else m
  | 2 =>
    let m1 := { m with mtr := { m.mtr with cyclesBad := false } }
    if m.mtr.cyclesBad || !m.bit F.MTR_STAT_run then m1
    else
      let nom : Int := (if m.bit F.MTR_VS_CFG_fnom 0 then 60 else 50) * 3600
      let e : Rat := (((cycles : Int) - nom : Int) : Rat) / (nom : Rat)
      let m2 := m1.putMt (mt + ratRound (e * ((2 ^ 23 : Nat) : Rat)))
      { m2 with time := { m2.time with mainsApplied := true } }
  | _ => m

/-- XR_CALIBRATION: XR cycles counted over 1,024 s of module time (R506). -/
def M.xrCalibration (m : M) (cycles : Nat) : M :=
  if (m.bit F.RTC_CFG_xrcal && m.bit F.RTC_STAT_lock) || (m.get F.RTC_CFG_src == 2 && m.time.mainsApplied) then
    let n0 : Nat := 32768 * 1024
    let e := ((cycles : Int) - (n0 : Int))
    let (v, lim) := trimLimit e
    (m.put F.RTC_TRIM_xr (encodeInt v 16)).putB F.RTC_STAT_trim_lim lim
  else m

end Sys2Proof.Machine
end

