-- ==== Sys2Proof/Machine/PairBase.lean ====
section
/-! DEFINITION. What the pair asks of other blocks: matching images (R401, R583). -/

namespace Sys2Proof.Machine

/-- The peer's image counts as this unit's (R401, R583). -/
def M.imagesMatch (m : M) : Bool :=
  let mine := m.get F.UPD_IMG_ID_id
  let theirs := m.ibx.peerImage.toNat
  mine == theirs || m.upd.swapIds.any (fun p => (mine == p.1 || mine == p.2) && (theirs == p.1 || theirs == p.2))

end Sys2Proof.Machine
end

