-- ==== Sys2Proof/Machine/IbxCore.lean ====
section
/-! DEFINITION. Ibex and Chamois: lease, unit state, health word, BEATs, the witness, planned hand-over (chapter 11, R385 to
R390, R401 to R422). -/

namespace Sys2Proof.Machine

/-! ### Unit state and health (R389, R390, R401, R412) -/

/-- Bits [19:13] of a health word all read 1. -/
def healthy (h : Word) : Bool := wfield h 13 7 == 127

/-- The peer's health word shows it eligible, as the witness would judge it (R412). -/
def M.peerEligible (m : M) : Bool :=
  healthy m.peerHealth && [0, 2, 3, 4].contains m.peerState && m.ibx.peerAt.isSome

/-- The peer reads ACTIVE. -/
def M.peerActive (m : M) : Bool := m.ibx.peerAt.isSome && m.peerState == 4

/-- A time stamp lies no more than `d` ago. -/
def M.within (m : M) (t : Option Nat) (d : Nat) : Bool := t.any (fun x => m.time.tb ≤ x + d)

/-- pwr_ok: no supply warning, the core supply in range, every domain in its requested state, one in transition included (Table
11-6, R446, R448). -/
def M.powerOk (m : M) : Bool :=
  !m.bit F.PMC_SUP_STAT_warn && m.bit F.PMC_SUP_STAT_core_ok && (List.range 16).all (fun d =>
    let s := fieldN (m.get F.PMC_PD_STAT_state) (2 * d) 2
    s == 2 || (s == 1 && m.bitOf F.PMC_PD_REQ_on d) || (s == 0 && !m.bitOf F.PMC_PD_REQ_on d))

/-- The bits of Table 11-6 without state and count. -/
def M.healthBits (m : M) : Nat :=
  let up := m.get F.TTH_STAT_link == 2
  let tetherOk := up && m.get F.TTH_STAT_lanes == 3 && !m.within m.tth.errorAt (10 * sec)
  let fabOk := m.fab.quads.all (fun q => q.failed.isEmpty) && m.ibx.rotationOk
  let memOk := m.fab.quads.all (fun q => q.failed.all (fun c => c < 0x700))
  let ioOk := m.rd .LIO_RBF 0 == 0 && m.rd .LIO_RBF 1 == 0
  let clkOk := m.get F.TIM_CLK_STAT_fo == 0 && Nat.land m.time.monBad 7 == 0
  let canOk := (List.range 8).all (fun n => !(m.bit F.CAN_CTRL_en n) || !(m.get F.CAN_STAT_state n == 5))
  let mtrOk := (List.range 56).all (fun i => m.get F.MTR_MI_CFG_use i == 0 ||
    !(if i < 32 then m.bitOf F.MTR_MIFLT0_flt i else m.bitOf F.MTR_MIFLT1_flt (i - 32)))
  b2n (m.unitState == 2 && m.tth.applied) * 2 ^ 27 + b2n m.leased * 2 ^ 26 + b2n tetherOk * 2 ^ 25
  + b2n (m.within m.ibx.witAt (15 * ms)) * 2 ^ 24 + b2n m.ibx.peerAt.isSome * 2 ^ 23
  + b2n (m.ibx.peerAt.isSome && m.imagesMatch) * 2 ^ 22
  + b2n fabOk * 2 ^ 19 + b2n memOk * 2 ^ 18 + b2n ioOk * 2 ^ 17 + b2n (m.bit F.KV_STAT_kv_ok) * 2 ^ 16
  + b2n (!(m.get F.EXE_STAT_state == 3)) * 2 ^ 15 + b2n clkOk * 2 ^ 14 + b2n m.powerOk * 2 ^ 13
  + b2n (!m.within m.ibx.paceLowAt (10 * ms)) * 2 ^ 12 + b2n canOk * 2 ^ 11
  + b2n (m.get F.ETH_STAT_state 0 == ethUp || m.get F.ETH_STAT_state 1 == ethUp) * 2 ^ 10 + b2n mtrOk * 2 ^ 9

/-- Bits [19:13] of the present condition all read 1. -/
def M.selfHealthy (m : M) : Bool := fieldN m.healthBits 13 7 == 127

/-- The unit is eligible for a lease (R412, Table 11-1). -/
def M.eligible (m : M) : Bool :=
  m.selfHealthy &&
  (match m.unitState with
   | 0 => m.get F.UPD_IMG_STAT_state == 1
   | 2 | 4 | 5 => true
   | 3 => m.bit F.IBX_CTRL_stale_ok
   | _ => false)

/-- The tether STATE frame of this unit (Table 11-4). -/
def M.stateFrame (m : M) : M :=
  m.sendTether (.state (m.rd .IBX_HEALTH) (m.rd .IBX_EPOCH) (m.rd .UPD_IMG_ID) m.time.tai)

/-- Every enabled loop channel of a standby unit is in FOLLOW, and evaluates nothing more (R247). -/
def M.loopsFollow (m : M) : M :=
  (List.range 64).foldl (fun (a : M) n =>
    if a.chState n == chOff then a
    else ((a.put F.LPE_CH_STAT_state chFollow n).modChan n (fun c => { c with queued := [] })).loopShow n) m

/-- The first evaluation of every channel after a lease is gained is a hand-over from u_prev (R242). -/
def M.loopsHandOver (m : M) : M :=
  (List.range 64).foldl (fun (a : M) n =>
    if a.chState n == chOff then a else a.modChan n (fun c => { c with handOver := some c.uPrev })) m

/-- The unit changes state: event, record, STATE frame at once; the self-tests follow (R390, R391, R402). -/
def M.setUnit (m : M) (new : Nat) : M :=
  let old := m.unitState
  if old == new then m
  else
    let m1 := (m.put F.IBX_STAT_state new).flag F.IBX_EVT_trans 0x20
    let m2 := m1.note 5 3 0 [old, new, m.get F.IBX_EPOCH_epoch]
    let m3 := { m2 with ibx := { m2.ibx with
      selfTest := (if new == 4 then false else m2.ibx.selfTest || [1, 2, 3, 6].contains new), okSince := none } }
    (m3.put F.IBX_HEALTH_health (setFieldN (m3.get F.IBX_HEALTH_health) 28 4 new)).stateFrame |> (fun (a : M) => if new == 2 then a.loopsFollow else a)

/-- The unit stops answering for the pair: addresses withdrawn, sessions closed (R415, R373). -/
def M.withdraw (m : M) : M :=
  ({ m with ibx := { m.ibx with addresses := false } }).closeSessions 5

/-- Add to a task's count of calls. -/
def M.countCalls (m : M) (caller k : Nat) : M :=
  m.put F.EXE_TSTAT_ecall (satAdd (m.get F.EXE_TSTAT_ecall caller) k 255) caller

/-- Pending error calls are discarded and counted at their callers (R187, R189). -/
def M.discardCalls (m : M) : M :=
  let m1 := m.exe.tasks.foldl (fun (a : M) t => t.2.calls.foldl (fun (b : M) c => b.countCalls c.caller 1) a) m
  { m1 with exe := { m1.exe with tasks := m1.exe.tasks.map (fun t => (t.1, { t.2 with calls := [] })) } }

/-- An orderly stop begins while execution runs (Table 5-5, steps 1 and 2). -/
def M.beginStop (m : M) : M :=
  if m.get F.EXE_STAT_state == 1 then ((m.put F.EXE_STAT_state 2).put F.EXE_CMD_STAT_busy 1).discardCalls else m

/-- The unit enters SYNCING: synchronisation counts from now, execution stops (Table 11-1), and it answers only on SP (R415). -/
def M.enterSyncing (m : M) : M :=
  let m1 := { m with ibx := { m.ibx with fullCycles := 0 }, tth := { m.tth with applied := false } }
  (m1.beginStop.withdraw).setUnit 1

/-- The highest epoch held or seen rises, and its copy with it (R8, R480). -/
def M.seeEpoch (m : M) (e : Nat) : M :=
  if m.get F.IBX_EPOCH_epoch < e then
    let m1 := m.put F.IBX_EPOCH_epoch e
    { m1 with boot := { m1.boot with epochSaved := e } }
  else m

/-! ### Chamois messages (R403) -/

/-- A Chamois datagram taken apart. -/
structure ChMsg where
  kind : Nat
  pair : Nat
  sender : Nat
  seq : Nat
  epoch : Nat
  echo : Nat
  body : Bytes
  /-- header and body as the MAC covers them, and the MAC -/
  covered : Bytes
  mac : Bytes
  deriving DecidableEq, Repr

/-- Body length of a message type (Table 11-8). -/
def chBody (kind : Nat) : Nat :=
  match kind with
  | 1 => 8
  | _ => 4

/-- Magic, version, type and lengths fit (Table 11-7). -/
def parseChamois (d : Bytes) : Option ChMsg :=
  let kind := be d 3 1
  if be d 0 2 == 0xC4A3 && be d 2 1 == 1 && 1 ≤ kind && kind ≤ 4 && be d 20 2 == chBody kind &&
     d.length == 24 + chBody kind + 16 then
    some ⟨kind, be d 4 2, be d 6 1, be d 8 4, be d 12 4, be d 16 4, slice d 24 (chBody kind),
          d.take (24 + chBody kind), d.drop (24 + chBody kind)⟩
  else none

/-- A datagram is taken from tenant 0's network on the backbone; one that is no Chamois message is dropped (R341, R403). -/
def M.takeChamois (m : M) (f : ChRx) : Option ChMsg × M :=
  if 2 ≤ f.port then (none, m)
  else match m.takeFrame f.port f.vid .chamois with
    | (some 0, m1) => (parseChamois f.bytes, m1)
    | (_, m1) => (none, m1)

/-- Header bytes of a message. -/
def chHeader (kind pair sender seq epoch echo len : Nat) : Bytes :=
  toBE 2 0xC4A3 ++ toBE 1 1 ++ toBE 1 kind ++ toBE 2 pair ++ toBE 1 sender ++ toBE 1 0 ++ toBE 4 seq ++ toBE 4 epoch ++
  toBE 4 echo ++ toBE 2 len ++ toBE 2 0

/-- Send a message under a vault slot; a failed use sends nothing (Table 18-4). -/
def M.sendChamois (m : M) (src dst : Bytes) (slot kind pair sender seq epoch echo : Nat) (body : Bytes) : M :=
  match m.useSlot slot 24 with
  | (none, m1) => m1
  | (some k, m1) =>
    let c := chHeader kind pair sender seq epoch echo body.length ++ body
    m1.backboneSend 0 (.chamois src dst (c ++ (digestBytes (Config.hmac k c)).take 16))

/-- The MAC of a message fits the key of a vault slot. -/
def M.macGood (m : M) (slot : Nat) (c : ChMsg) : Bool × M :=
  match m.useSlot slot 24 with
  | (none, m1) => (false, m1)
  | (some k, m1) => (decide ((digestBytes (Config.hmac k c.covered)).take 16 = c.mac), m1)

/-- The sender byte of this unit. -/
def M.slotByte (m : M) : Nat := b2n m.slotB

/-- The witness's address (R403). -/
def M.witnessAddress (m : M) : Bytes := (List.range 4).flatMap (fun k => toBE 4 (m.rd .IBX_WADDR k).toNat)

/-- The address this unit sends Chamois messages from (R403). -/
def M.unitAddress (m : M) : Bytes := (List.range 4).flatMap (fun k => toBE 4 (m.rd .IBX_UADDR k).toNat)

/-- A message of this unit to its witness. -/
def M.unitSend (m : M) (kind epoch echo : Nat) (body : Bytes) : M :=
  let seq := m.ibx.txSeq
  let m1 := { m with ibx := { m.ibx with txSeq := seq + 1 } }
  m1.sendChamois m1.unitAddress m1.witnessAddress (m1.get F.IBX_PAIR_key) kind (m1.get F.IBX_PAIR_pair) m1.slotByte seq epoch echo body

/-- The unit may claim: ACTIVE, FENCED or eligible, no extraction warning, no RELEASE of a hand-over outstanding (R404, R416,
R470), and no bring-up still before step 11 (Table 14-4). -/
def M.claims (m : M) : Bool :=
  (m.unitState == 4 || m.unitState == 5 || m.eligible) && !m.bit F.LIO_STAT_warn &&
  (match m.ibx.handover with
   | .released _ by_ => by_ ≤ m.time.tb
   | _ => true) &&
  (m.unitState != 0 || m.boot.phase == .service || 11 ≤ m.get F.SYS_BOOT_STAT_step)

/-- Chamois acts: IBX_CTRL.en, with a pair ID other than 0 (Table 11-15). -/
def M.chamoisOn (m : M) : Bool := m.bit F.IBX_CTRL_en && !(m.get F.IBX_PAIR_pair == 0)

/-- Send a BEAT (R404, Table 11-8). -/
def M.beat (m : M) : M :=
  if !m.chamoisOn || m.unitState == 7 then m
  else
    let e := m.get F.IBX_EPOCH_epoch
    let flags := b2n m.claims + 2 * b2n (m.ibx.held == some e) + 4 * b2n (m.get F.IBX_CTRL_pref == m.slotByte)
    let b := toBE 4 (m.rd .IBX_HEALTH).toNat ++ toBE 1 flags ++ toBE 3 0
    let recent := m.ibx.beats.filter (fun p => m.time.tb ≤ p.2 + 12 * ms)
    let m1 := { m with ibx := { m.ibx with beats := (m.ibx.txSeq, m.time.tb) :: recent } }
    let m2 := if m.claims && m.boot.claimAt.isNone then { m1 with boot := { m1.boot with claimAt := some m.time.tb } } else m1
    m2.unitSend 1 e 0 b

/-- BEAT_SLOT acts at TAI multiples of 5 ms, shifted by 2.5 ms for slot B (R404). -/
def M.beatSlot (m : M) : M :=
  if (m.time.tai + (if m.slotB then 2500000 else 0)) % (5 * ms) == 0 then m.beat else m

/-- Send a RELEASE naming a successor byte (R407, R408). -/
def M.sendRelease (m : M) (epoch successor : Nat) : M :=
  if m.chamoisOn then m.unitSend 4 epoch 0 (toBE 1 successor ++ toBE 3 0) else m

/-! ### Chamois hosting: the function starts and stops with ACTIVE (R410, R413) -/

/-- The function starts: every hosted pair goes on from its reserved bound, after quiet time and start window. -/
def M.hostStart (m : M) : M :=
  if !m.bit F.IBX_CHOST_en || !(m.unitState == 4) || !m.leased || m.ibx.hostStart.isSome then m
  else
    let t := m.time.tb
    let fresh (p : HostedPair) : HostedPair :=
      { p.stored with epoch := max p.epoch p.bound, windowEnd := t + 1000 * ms }
    { m with ibx := { m.ibx with hostStart := some t, quietEnd := some (t + 21 * ms), pairs := m.ibx.pairs.map fresh } }

/-- The function stops within 10 µs of leaving ACTIVE. -/
def M.hostStop (m : M) : M := { m with ibx := { m.ibx with hostStart := none, quietEnd := none } }

/-! ### The lease (R385 to R388, R408) -/

/-- ACT rises: the buses become ACTIVE (R330); LIO lines and loop channels follow by their own rules. -/
def M.actRises (m : M) : M := if m.acting then m.canGain else m

/-- A lease is gained: events, ACTIVE, ACT or the PACT bound, BEAT and STATE frame at once, addresses announced (R388, R408,
Table 11-10 steps 5 to 7). -/
def M.gainLease (m : M) : M :=
  let m1 := ((m.pwmAllStill.put F.IBX_STAT_lease 1).flag F.IBX_EVT_gained 0x20).count F.IBX_SWCNT_gained
  let m2 := { m1 with ibx := { m1.ibx with handover := .none, healthSafe := false, addresses := true, prefSince := none } }
  let m3 := m2.loopsHandOver.setUnit 4
  let m4 := if m3.bit F.IBX_STAT_pact then
      let a := m3.flag F.IBX_EVT_pact 0x02
      { a with ibx := { a.ibx with pactBy := some (a.time.tb + 5 * ms) } }
    else m3.actRises
  ((m4.stateFrame).beat.announceAddresses).hostStart

/-- The lease is gone, expired or given up: events, ACT deasserted, every bus RESTRICTED, hosting stopped, a STATE frame at once
(R385, R387, R413, Table 11-4). -/
def M.dropLease (m : M) : M :=
  let m1 := ((m.captureDriven.put F.IBX_STAT_lease 0).flag F.IBX_EVT_lost 0x02).count F.IBX_SWCNT_lost
  ((({ m1.pwmAllStill with ibx := { m1.ibx with leaseEnd := none, pactBy := none } }).canFence).hostStop).stateFrame

/-- FENCED keeps the pair addresses only while the tether is up and the peer does not read ACTIVE (R415). -/
def M.fencedAddresses (m : M) : M :=
  if m.get F.TTH_STAT_link == 2 && !m.peerActive then m else m.withdraw

/-- A LEASE datagram (R408): accepted under all its conditions, else answered with RELEASE naming 0xFF. -/
def M.leaseArrives (was : M) (d : ChRx) : M :=
  match was.takeChamois d with
  | (none, m) => m
  | (some c, m) =>
    if !m.chamoisOn || !(c.kind == 2) || !(c.pair == m.get F.IBX_PAIR_pair) || !(c.sender == 255) then m
    else match m.macGood (m.get F.IBX_PAIR_key) c with
      | (false, m1) => m1
      | (true, m1) =>
        if c.seq ≤ m1.ibx.rxSeq then m1
        else
          let m2 := { m1 with ibx := { m1.ibx with rxSeq := c.seq, witAt := some m1.time.tb } }
          let sent := (m2.ibx.beats.find? (fun p => p.1 == c.echo)).map Prod.snd
          let fresh := sent.any (fun t => m2.time.tb ≤ t + 12 * ms)
          if fresh && m2.get F.IBX_EPOCH_epoch ≤ c.epoch && [0, 2, 3, 4, 5].contains m2.unitState then
            let m3 := m2.seeEpoch c.epoch
            let until_ := sent.getD 0 + be c.body 0 2 * ms
            let m4 := { m3 with ibx := { m3.ibx with held := some c.epoch, leaseEnd := some until_ } }
            if m4.leased then m4 else m4.gainLease
          else m2.sendRelease c.epoch 255

/-- LEASE_END: the unit's lease has run out: fenced within 10 µs (R387, R390). -/
def M.leaseExpires (m : M) : M :=
  if m.leased && m.due m.ibx.leaseEnd then (m.dropLease.setUnit 5).fencedAddresses else m

/-- A Chamois STATE message (R390, R403, R415). -/
def M.stateArrives (was : M) (d : ChRx) : M :=
  match was.takeChamois d with
  | (none, m) => m
  | (some c, m) =>
    if !m.chamoisOn || !(c.kind == 3) || !(c.pair == m.get F.IBX_PAIR_pair) || !(c.sender == 255) then m
    else match m.macGood (m.get F.IBX_PAIR_key) c with
      | (false, m1) => m1
      | (true, m1) =>
        if c.seq ≤ m1.ibx.rxSeq then m1
        else
          let m2 := { m1 with ibx := { m1.ibx with rxSeq := c.seq, witAt := some m1.time.tb } }
          let higher := m2.get F.IBX_EPOCH_epoch < c.epoch
          let m3 := m2.seeEpoch c.epoch
          let m4 := if be c.body 1 1 == 1 then m3.flag F.IBX_EVT_deny 0x20 else m3
          let holder := be c.body 0 1
          let other := !(holder == 255) && !(holder == m4.slotByte)
          if m4.unitState == 4 && m4.leased && (other || higher) then (m4.dropLease.setUnit 5).fencedAddresses
          else if m4.unitState == 5 && (other || higher) then m4.enterSyncing
          else m4

/-- A change of the PACT input (R388). -/
def M.pactChange (m : M) (level : Bool) : M :=
  let was := m.acting
  let m1 := m.putB F.IBX_STAT_pact level
  let m2 := if level then m1 else { m1 with ibx := { m1.ibx with pactBy := none } }
  if m2.acting == was then m2
  else if m2.acting then m2.actRises
  else { m2.canFence with lio := { m2.canFence.lio with driven := m.captureDriven.lio.driven } }

/-- PACT still asserted 5 ms after the lease was gained: RELEASE naming no successor, FENCED (R388). -/
def M.pactTimeout (m : M) : M :=
  if m.leased && m.bit F.IBX_STAT_pact && m.due m.ibx.pactBy then
    let e := m.get F.IBX_EPOCH_epoch
    (((m.dropLease).sendRelease e 255).setUnit 5).fencedAddresses
  else m

/-! ### Planned hand-over and takeback (R416 to R419) -/

/-- Step 3: ACT deasserted, buses RESTRICTED, RELEASE naming the peer. -/
def M.releaseToPeer (m : M) (cause : HandoverCause) : M :=
  let e := m.get F.IBX_EPOCH_epoch
  let m1 := m.dropLease.sendRelease e (1 - m.slotByte)
  { m1 with ibx := { m1.ibx with handover := .released cause (m1.time.tb + 30 * ms) } }

/-- A hand-over may be started: the peer is STANDBY and eligible (R418). -/
def M.peerReadyFor (m : M) : Bool := m.peerState == 2 && m.peerEligible

/-- Result of an IBX command. -/
def M.ibxResult (m : M) (err : Nat) : M := (m.put F.IBX_CMD_STAT_err err).put F.IBX_CMD_STAT_busy 0

/-- Ibex begins or ends to drive safe values for a lost health bit; at the end each output in an image waits for the next release
of its task (R194, R419, R421). -/
def M.driveSafe (m : M) (on : Bool) : M :=
  if m.ibx.healthSafe == on then m
  else
    let m1 : M := { m with ibx := { m.ibx with healthSafe := on } }
    let m2 : M := if on then m1
      else { m1 with exe := { m1.exe with tasks := m1.exe.tasks.map (fun t => (t.1, { t.2 with released := false })) } }
    m2.safeChanged

/-- HANDOVER cancel received: the hand-over ends, unless it follows an extraction warning (R416, R470); an update of a pair
stops (R582). -/
def M.handoverCancel (m : M) : M :=
  match m.ibx.handover with
  | .requested .extraction => m.releaseToPeer .extraction
  | .requested .reset | .completing .reset => m.releaseToPeer .reset
  | .requested .health | .completing .health | .requested .trip | .completing .trip =>
    ({ m with ibx := { m.ibx with handover := .none } }).driveSafe true
  | .requested c | .completing c =>
    let m1 := ({ m with ibx := { m.ibx with handover := .none } })
    let m2 := if m1.get F.UPD_STAT_pair == 2 then (m1.put F.UPD_STAT_pair 5).put F.UPD_STAT_err 0x2E else m1
    if c == .switch then m2.ibxResult 0 else m2
  | _ => m

/-- A hand-over that still waits for the peer can no longer be answered once the tether is down: it ends as on a cancel (DEDUCED,
log 109). -/
def M.handoverLost (m : M) : M := m.handoverCancel

/-- Start a planned hand-over (Table 11-11, step 1). -/
def M.startHandover (m : M) (cause : HandoverCause) : M :=
  if !(m.ibx.handover == .none) then m
  else
    let m1 := ({ m with ibx := { m.ibx with handover := .requested cause } }).sendTether (.handover 1)
    if m1.get F.TTH_STAT_link == 2 then m1 else m1.handoverLost

/-- IBX_CMD op switch (R418). -/
def M.cmdSwitch (m : M) : M :=
  if m.bit F.IBX_CMD_STAT_busy then m
  else if !(m.unitState == 4) then m.ibxResult 3
  else if !(m.ibx.handover == .none) then m.ibxResult 1
  else if !m.peerReadyFor then m.ibxResult 2
  else ((m.ibxResult 0).put F.IBX_CMD_STAT_busy 1).startHandover .switch

/-- IBX_CMD op maint (R390): any state but ACTIVE. -/
def M.cmdMaint (m : M) : M :=
  if m.bit F.IBX_CMD_STAT_busy then m
  else if m.unitState == 4 then m.ibxResult 3
  else (m.setUnit 7).ibxResult 0

/-- SYNCING, or INIT with no peer present (Table 11-2). -/
def M.syncOrInit (m : M) : M := if m.bit F.SYS_SLOT_peer_present then m.enterSyncing else m.setUnit 0

/-- IBX_CMD op resume: from MAINT only. -/
def M.cmdResume (m : M) : M :=
  if m.bit F.IBX_CMD_STAT_busy then m
  else if !(m.unitState == 7) then m.ibxResult 3
  else m.syncOrInit.ibxResult 0

/-- HANDOVER request received: ready when STANDBY and eligible and no extraction warning stands, otherwise cancel (R416,
R470). -/
def M.handoverRequest (m : M) : M :=
  if m.unitState == 2 && m.eligible && !m.bit F.LIO_STAT_warn then m.sendTether (.handover 2)
  else m.sendTether (.handover 3)

/-- HANDOVER ready received: the cycle in progress completes first, except after an extraction warning (Table 11-11). -/
def M.handoverReady (m : M) : M :=
  match m.ibx.handover with
  | .requested .extraction => m.releaseToPeer .extraction
  | .requested c => { m with ibx := { m.ibx with handover := .completing c } }
  | _ => m

/-- The mirror cycle in progress has been sent whole: step 2 ends, step 3 follows. -/
def M.handoverCycleDone (m : M) : M :=
  match m.ibx.handover with
  | .completing c => m.releaseToPeer c
  | _ => m

/-- The peer has gained the lease: the former active unit enters STANDBY, or FAILED when the hand-over followed a trip or a
lost health bit (R416, R419). -/
def M.handoverDone (m : M) : M :=
  match m.ibx.handover with
  | .released c _ =>
    let m1 := ({ m with ibx := { m.ibx with handover := .none } }).flag F.IBX_EVT_tb 0x20
    let m2 := if c == .switch then m1.ibxResult 0 else m1
    let m3 := if m2.unitState == 4 then (if c == .trip || c == .health then m2.setUnit 6 else m2.setUnit 2) else m2
    let m4 := m3.withdraw
    if m4.boot.resetWaits then m4.applyReset 3 false else m4
  | _ => m

/-- No lease gained by the peer 30 ms after RELEASE: the former active unit claims again (R416), and a module reset that
waited asserts (R477). -/
def M.handoverTimeout (m : M) : M :=
  match m.ibx.handover with
  | .released c by_ =>
    if m.time.tb < by_ then m
    else
      let m1 := { m with ibx := { m.ibx with handover := .none } }
      let m2 := if c == .switch then m1.ibxResult 0 else m1
      if m2.boot.resetWaits then m2.applyReset 3 false
      else if m2.unitState == 4 then (m2.setUnit 5).fencedAddresses else m2
  | _ => m

/-- The health word of the preferred unit shows everything a takeback asks for (R417). -/
def preferredHealthy (h : Word) : Bool :=
  wfield h 27 1 == 1 && wfield h 24 2 == 3 && wfield h 22 1 == 1 && wfield h 9 11 == 2 ^ 11 - 1

/-- The takeback hold-off starts, goes on or restarts with each STATE frame of the peer (R417). -/
def M.watchPreferred (m : M) : M :=
  let ok := m.bit F.IBX_CTRL_auto_tb && m.unitState == 4 && !(m.get F.IBX_CTRL_pref == m.slotByte) &&
    m.ibx.peerAt.isSome && !m.ibx.peerStale && preferredHealthy m.peerHealth
  { m with ibx := { m.ibx with prefSince := if !ok then none else some (m.ibx.prefSince.getD m.time.tb) } }

/-- TAKEBACK: the hold-off has passed; while a hand-over runs it waits (R417, R418). -/
def M.takeback (m : M) : M :=
  let hold := max 1 (m.get F.IBX_CTRL_holdoff) * sec
  if m.ibx.prefSince.any (fun t => t + hold ≤ m.time.tb) && m.unitState == 4 && m.ibx.handover == .none then
    m.startHandover .takeback
  else m

/-- An ACTIVE unit that tripped or lost a required health bit hands over when the peer is eligible, else drives safe values
(R390, R419). -/
def M.handOverOrSafe (m : M) (cause : HandoverCause) : M :=
  if m.peerEligible then m.startHandover cause
  else if cause == .health then m.driveSafe true else m

/-- A peer that has become eligible takes over from a unit that drives safe values or stays tripped (R419). -/
def M.heldHandover (m : M) : M :=
  if !(m.unitState == 4) || !(m.ibx.handover == .none) || !m.peerEligible then m
  else if m.ibx.healthSafe then m.startHandover .health
  else if m.get F.EXE_STAT_state == 3 && m.bit F.IBX_CTRL_trip_act then m.startHandover .trip
  else m

/-! ### Periodic steps of a unit (R390, R401) -/

/-- What an ACTIVE unit with a required bit at 0 does: a trip alone counts as IBX_CTRL.trip_act says, any other bit always (R419). -/
def M.bitLost (m : M) (bits : Nat) : M :=
  if !(fieldN (setBitN bits 15) 13 7 == 127) then m.handOverOrSafe .health
  else if m.bit F.IBX_CTRL_trip_act then m.handOverOrSafe .trip
  else m.driveSafe false

/-- HEALTH_PUBLISH: compose and publish the health word; act on a lost required bit (R401, R390, R419). -/
def M.publishHealth (m : M) : M :=
  let old := m.get F.IBX_HEALTH_health
  let bits := m.healthBits
  let count := (fieldN old 0 8 + 1) % 256
  let m1 := m.put F.IBX_HEALTH_health (m.unitState * 2 ^ 28 + bits + count)
  let m2 := if tbit old 24 && !tbit bits 24 then m1.flag F.IBX_EVT_wit 0x20 else m1
  let okNow := fieldN bits 13 7 == 127
  let since := if !okNow then none else some (m2.ibx.okSince.getD m2.time.tb)
  let m3 : M := { m2 with ibx := { m2.ibx with okSince := since } }
  if okNow then m3.driveSafe false
  else if m3.unitState == 7 || m3.unitState == 6 then m3
  else if m3.unitState == 4 then m3.bitLost bits
  else if m3.bit F.IBX_CTRL_en then m3.setUnit 6
  else m3

/-- FAILED_RECOVERY: bits [19:13] have read 1 for 10 s. -/
def M.failedRecovery (m : M) : M :=
  if m.unitState == 6 && m.ibx.okSince.any (fun t => t + 10 * sec ≤ m.time.tb) then m.syncOrInit else m

/-- PEER_SILENCE: no STATE frame for 10 ms (R401). -/
def M.peerSilence (m : M) : M :=
  if m.ibx.peerAt.isSome && !m.within m.ibx.peerAt (10 * ms) then
    let m1 := ({ m with ibx := { m.ibx with peerAt := none, prefSince := none } }).put F.IBX_PHEALTH_health 0
    m1.flag F.IBX_EVT_peer 0x20
  else m

/-- DETACH_TIMEOUT: a STANDBY unit whose tether has been down for 1 ms (R390). -/
def M.detach (m : M) : M :=
  if m.unitState == 2 && m.tth.downSince.any (fun t => t + ms ≤ m.time.tb) then m.setUnit 3 else m

/-! ### The witness (R405 to R413) -/

/-- The slot of a hosted pair that is valid. -/
def M.hostedSlot (m : M) (pair : Nat) : Option Nat :=
  (List.range 16).find? (fun i => (m.ibx.pairs[i]?).any (fun p => p.valid && p.pair == pair))

/-- The hosted pair of a slot; an unused slot reads as none in service. -/
def HostedPair.empty : HostedPair :=
  ⟨false, 0, 0, 0, 0, none, none, 0, 0, false, none, 0, none, none, none, 0, 0, false, none⟩

def M.hosted (m : M) (i : Nat) : HostedPair := (m.ibx.pairs[i]?).getD HostedPair.empty

def M.setHosted (m : M) (i : Nat) (p : HostedPair) : M :=
  let base := m.ibx.pairs ++ List.replicate (16 - m.ibx.pairs.length) HostedPair.empty
  { m with ibx := { m.ibx with pairs := base.set i p } }

def HostedPair.beatOf (p : HostedPair) (u : Nat) : Option BeatSeen := if u == 0 then p.beatA else p.beatB

def HostedPair.seqOf (p : HostedPair) (u : Nat) : Nat := if u == 0 then p.seqA else p.seqB

/-- The witness judges a claiming BEAT eligible (R412). -/
def BeatSeen.eligible (b : BeatSeen) : Bool := healthy b.health && [0, 2, 3, 4].contains (wfield b.health 28 4)

def BeatSeen.claim (b : BeatSeen) : Bool := tbit b.flags 0
def BeatSeen.holding (b : BeatSeen) : Bool := tbit b.flags 1
def BeatSeen.preferred (b : BeatSeen) : Bool := tbit b.flags 2

/-- Decisions of Table 11-9, from order 2 on. -/
inductive WitnessAnswer where
  | renewal
  | refuse (reason : Nat)
  | grant
  deriving DecidableEq, Repr

/-- Another unit's lease stands in the way (order 5). -/
def HostedPair.leaseElsewhere (p : HostedPair) (u now : Nat) : Bool :=
  !p.released && p.holder.any (fun h => !(h == u)) &&
  ((p.leaseEnd.any (fun t => now ≤ t + ms)) || p.missed < 3)

/-- Table 11-9, orders 2 to 7. -/
def HostedPair.decide (p : HostedPair) (u now : Nat) (b : BeatSeen) : WitnessAnswer :=
  if p.holder == some u && b.holding && b.epoch == p.epoch && b.claim then .renewal
  else if b.epoch < p.epoch && b.holding then .refuse 1
  else if !b.claim || !b.eligible then .refuse 2
  else if p.leaseElsewhere u now then .refuse 3
  else if now < p.windowEnd then .refuse 4
  else if p.epoch + 1 > 0xFFFFFFFF then .refuse 5
  else .grant

/-- A message of the witness to a unit of a pair: from the address its latest BEAT was sent to, to the one it came from. -/
def M.witnessSend (m : M) (i u kind epoch echo : Nat) (body : Bytes) : M :=
  let p := m.hosted i
  let dst := ((p.beatOf u).map BeatSeen.src).getD []
  let src := ((p.beatOf u).map BeatSeen.dst).getD []
  let seq := m.ibx.hostSeq + 1
  ({ m with ibx := { m.ibx with hostSeq := seq } }).sendChamois src dst p.key kind p.pair 255 seq epoch echo body

/-- LEASE to a unit: 20 ms, and whether its peer is heard (Table 11-8). -/
def M.witnessLease (m : M) (i u echo : Nat) : M :=
  let p := m.hosted i
  let hears := (p.beatOf (1 - u)).any (fun b => m.time.tb ≤ b.at_ + 15 * ms)
  m.witnessSend i u 2 p.epoch echo (toBE 2 20 ++ toBE 1 (b2n hears) ++ toBE 1 0)

/-- STATE to a unit. -/
def M.witnessState (m : M) (i u reason echo : Nat) : M :=
  let p := m.hosted i
  let left := (p.leaseEnd.map (fun t => (t - m.time.tb) / ms)).getD 0
  m.witnessSend i u 3 p.epoch echo (toBE 1 (p.holder.getD 255) ++ toBE 1 reason ++ toBE 2 left)

/-- Order 7: the next epoch is granted, or waits for a new reserved bound (R411); the next block is asked for when 128 epochs
remain. -/
def M.grant (m : M) (i u : Nat) (b : BeatSeen) : M :=
  let p := m.hosted i
  let e := p.epoch + 1
  if p.bound < e then m.setHosted i { p with committing := true, waiting := some u }
  else
    let p' := { p with epoch := e, holder := some u, leaseEnd := some (b.at_ + 20 * ms), missAt := b.at_ + 6 * ms,
                       missed := 0, released := false, successor := none, waiting := none,
                       committing := p.committing || p.bound - e ≤ 128 }
    (m.setHosted i p').witnessLease i u b.seq

/-- The conditions of order 7 hold for a unit whose latest BEAT arrived within 6 ms: grant at once (R406); a named successor
alone (R407), else the earlier claim. -/
def M.tryGrant (m : M) (i : Nat) : M :=
  let p := m.hosted i
  let ready (u : Nat) : Bool := (p.beatOf u).any (fun b =>
    m.time.tb ≤ b.at_ + 6 * ms && p.decide u m.time.tb b == .grant)
  let early (u : Nat) : Nat := ((p.beatOf u).map BeatSeen.at_).getD 0
  let order := match p.successor with
    | some s => [s]
    | none => if early 1 < early 0 then [1, 0] else [0, 1]
  if m.ibx.hostStart.isNone || !p.valid || m.ibx.quietEnd.isSome then m
  else match order.find? ready with
    | none => m
    | some u => match p.beatOf u with
      | none => m
      | some b => m.grant i u b

/-- A datagram of a hosted pair with good MAC and seq: the slot, the message, and the module after; none when dropped. -/
def M.hostAccept (was : M) (kind : Nat) (d : ChRx) : Option (Nat × ChMsg) × M :=
  match was.takeChamois d with
  | (none, m) => (none, m)
  | (some c, m) =>
    if !(c.kind == kind) || !(c.sender ≤ 1) || m.ibx.hostStart.isNone then (none, m)
    else match m.hostedSlot c.pair with
      | none => (none, m)
      | some i =>
        match m.macGood (m.hosted i).key c with
        | (false, m1) => (none, m1)
        | (true, m1) =>
          let p := m1.hosted i
          if c.seq ≤ p.seqOf c.sender then (none, m1)
          else
            let p' := if c.sender == 0 then { p with seqA := c.seq } else { p with seqB := c.seq }
            (some (i, c), m1.setHosted i p')

/-- BEAT: the witness decides in the order of Table 11-9. -/
def M.beatArrives (m : M) (d : ChRx) : M :=
  match m.hostAccept 1 d with
  | (none, m1) => m1
  | (some (i, c), m1) =>
    let b : BeatSeen := ⟨c.seq, m1.time.tb, c.epoch, BitVec.ofNat 32 (be c.body 0 4), be c.body 4 1, d.src, d.dst⟩
    let p := m1.hosted i
    let first := if b.claim && p.firstClaim.isNone then some c.sender else p.firstClaim
    let p' := if c.sender == 0 then { p with beatA := some b, firstClaim := first }
      else { p with beatB := some b, firstClaim := first }
    let m2 := m1.setHosted i p'
    if m2.ibx.quietEnd.isSome then m2
    else match p'.decide c.sender m2.time.tb b with
      | .renewal =>
        let p2 := { p' with leaseEnd := some (b.at_ + 20 * ms), missAt := b.at_ + 6 * ms, missed := 0 }
        (m2.setHosted i p2).witnessLease i c.sender b.seq
      | .refuse r => m2.witnessState i c.sender r b.seq
      | .grant => m2.grant i c.sender b

/-- RELEASE: the recorded holder gives its lease up (R407). -/
def M.releaseArrives (m : M) (d : ChRx) : M :=
  match m.hostAccept 4 d with
  | (none, m1) => m1
  | (some (i, c), m1) =>
    let p := m1.hosted i
    if !(p.holder == some c.sender) || !(c.epoch == p.epoch) then m1
    else
      let s := be c.body 0 1
      let p' := { p with holder := none, leaseEnd := none, released := true, successor := if s ≤ 1 then some s else none }
      (m1.setHosted i p').tryGrant i

/-- RENEWAL_MISSED: 6 ms without a renewal (R405). -/
def M.renewalMissed (m : M) (i : Nat) : M :=
  let p := m.hosted i
  if m.ibx.hostStart.isNone || !p.valid || p.holder.isNone || m.time.tb < p.missAt then m
  else (m.setHosted i { p with missed := p.missed + 1, missAt := p.missAt + 6 * ms }).tryGrant i

/-- WITNESS_LEASE_END: the count and the guard have passed (R386). -/
def M.witnessLeaseEnd (m : M) (i : Nat) : M :=
  let p := m.hosted i
  if p.leaseEnd.any (fun t => t + ms < m.time.tb) then m.tryGrant i else m

/-- QUIET_TIME_END: higher epochs that BEATs with holder carried are taken as current (R410). -/
def M.quietTimeEnd (m : M) : M :=
  if !m.due m.ibx.quietEnd then m
  else
    let adopt (p : HostedPair) : HostedPair :=
      let cands := [(0, p.beatA), (1, p.beatB)].filterMap (fun q => q.2.bind (fun b =>
        if b.holding && p.epoch ≤ b.epoch && b.epoch ≤ p.bound + 256 then some (q.1, b.epoch) else none))
      match cands.foldl (fun (a : Option (Nat × Nat)) c => match a with
          | none => some c
          | some x => if x.2 < c.2 then some c else some x) none with
      | none => p
      | some (u, e) => { p with epoch := e, holder := some u, leaseEnd := some m.time.tb, missed := 0,
                                missAt := m.time.tb + 6 * ms }
    { m with ibx := { m.ibx with quietEnd := none, pairs := m.ibx.pairs.map adopt } }

/-- START_WINDOW_END: the grant follows by order of preference (R409). -/
def M.startWindowEnd (m : M) (i : Nat) : M :=
  let p := m.hosted i
  if m.ibx.hostStart.isNone || !p.valid || m.ibx.quietEnd.isSome || m.time.tb < p.windowEnd then m
  else
    let ok (u : Nat) : Bool := (p.beatOf u).any (fun b =>
      b.claim && b.eligible && m.time.tb ≤ b.at_ + 6 * ms && p.decide u m.time.tb b == .grant)
    let holds (u : Nat) : Bool := (p.beatOf u).any (fun b => b.holding && b.epoch == p.epoch)
    let pref (u : Nat) : Bool := (p.beatOf u).any BeatSeen.preferred
    let pick := ([0, 1].find? (fun u => ok u && holds u)).or
      (([0, 1].find? (fun u => ok u && pref u)).or
        (([0, 1].find? (fun u => ok u && p.firstClaim == some u)).or ([0, 1].find? ok)))
    match pick with
    | none => m
    | some u => match p.beatOf u with
      | none => m
      | some b => m.grant i u b

/-- RESERVED_BOUND_COMMITTED: the new bound stands, the peer of the host learns of it, and a waiting grant is sent (R411). -/
def M.boundCommitted (m : M) (i : Nat) : M :=
  let p := m.hosted i
  if !p.committing then m
  else
    let p' := { p with bound := min (p.bound + 256) 0xFFFFFFFF, committing := false, waiting := none }
    let m1 := (m.setHosted i p').tellPeer (.epochs i p'.epoch p'.bound)
    match p.waiting with
    | none => m1
    | some u => match p.beatOf u with
      | none => m1
      | some b => m1.grant i u b

end Sys2Proof.Machine
end

