-- ==== Sys2Proof/Machine/Exec.lean ====
section
/-! DEFINITION. Cyclic execution: tasks, input and output images, error tasks, watchdog, stop and run, patches (chapter 5). -/

namespace Sys2Proof.Machine

/-! ### Tasks as the image defines them (R170 to R174) -/

def M.taskRec (m : M) (n : Nat) : Option TaskRec := m.exe.taskRecs.find? (fun t => t.task == n)

/-- Units of a task. -/
def M.taskUnits (m : M) (n : Nat) : List UnitRec := m.exe.units.filter (fun u => u.task == n)

/-- The task holds a privileged unit (R214). -/
def M.taskPriv (m : M) (n : Nat) : Bool := (m.taskUnits n).any UnitRec.priv

/-- Every quadrant of the task is in the run state (R174). -/
def M.taskRuns (m : M) (n : Nat) : Bool := (m.taskUnits n).all (fun u => m.qstate u.quadrant == 2)

/-- The task is enabled (R209). -/
def M.taskOn (m : M) (n : Nat) : Bool := m.effB F.EXE_TCFG_en n

/-- EXE_TSTATn.state (Table 5-12). -/
def M.taskShown (m : M) (n : Nat) : Nat :=
  match m.taskState n with
  | none => 3
  | some t => if t.phase == .running then 1 else if !m.taskOn n then 2 else 0

/-- Execution states of EXE_STAT. -/
def M.exeState (m : M) : Nat := m.get F.EXE_STAT_state
def M.exeRuns (m : M) : Bool := m.exeState == 1
/-- The block is stopped (STOP or TRIPPED). -/
def M.exeStopped (m : M) : Bool := m.exeState == 0 || m.exeState == 3

/-- An execution flag with its source (R222). -/
def M.exeFlag (m : M) (x : FRef) : M := m.flag x 0x11

/-! ### Images of a task (R175 to R178) -/

/-- Insert by key, after equal keys. -/
def insertBy {α : Type} (key : α → Nat) (a : α) : List α → List α
  | [] => [a]
  | b :: t => if key a < key b then a :: b :: t else b :: insertBy key a t

/-- Sort by a key. -/
def sortBy {α : Type} (key : α → Nat) (l : List α) : List α := l.foldl (fun a x => insertBy key x a) []

/-- Constant point IDs of the access slots of a task's units: point, unit, write (R175); a path's final write has its own lane
(R118). -/
def M.namedPoints (m : M) (n : Nat) : List (Nat × (Nat × Bool)) :=
  let us := (m.taskUnits n).map UnitRec.unit
  (List.range 4).flatMap (fun q => (m.quad q).cells.flatMap (fun p =>
    if !us.contains p.2.unit then []
    else match p.2.body with
      | .a b => b.slots.filterMap (fun s =>
          if s.valid && s.isAccess && s.constId && !(s.isWrite && (m.finalPath q p.1).isSome) then
            some (s.const.toNat, (p.2.unit, s.isWrite)) else none)
      | _ => []))

/-- Entries of an image: one per point and tag, with the lowest unit that names it, in ascending order (R175, R180). -/
def M.imageOf (m : M) (l : List (Nat × Nat)) : List ImageEntry :=
  let sorted := sortBy (fun p => p.1 * 256 + p.2) l
  sorted.foldl (fun a p =>
    if a.any (fun e => e.point == p.1 && m.sameTag e.unit p.2) then a else a ++ [⟨p.1, p.2, 0, false⟩]) []

/-- status.substituted of a latched entry. -/
def entrySubstituted (d : DWord) : Bool := tbit d.toNat 34
def entryForced (d : DWord) : Bool := tbit d.toNat 35
def entryAbsent (d : DWord) : Bool := tbit d.toNat 47

/-- What the gate answers an entry's tag (R179). -/
def M.entryRead (m : M) (e : ImageEntry) : DWord := ((m.who (.unit e.unit)).map (fun w => m.readPoint w e.point)).getD absentEntry

/-- The entry's point reads as substituted. -/
def M.readsSubstituted (m : M) (e : ImageEntry) : Bool := !entryAbsent (m.entryRead e) && entrySubstituted (m.entryRead e)

/-- Build the images of a task from its units as they stand (R175, R207, R211).  Of its input points, those newly read count as
substituted before as they stand, the others as the previous latch found them (R199). -/
def M.buildTask (m : M) (n : Nat) : M :=
  let named := m.namedPoints n
  let ins := m.imageOf (named.filterMap (fun p => if p.2.2 then none else some (p.1, p.2.1)))
  let outs := m.imageOf (named.filterMap (fun p => if p.2.2 then some (p.1, p.2.1) else none))
  m.modTask n (fun t =>
    let was (e : ImageEntry) : Bool :=
      if t.inputs.any (fun o => o.point == e.point) then t.substituted.contains e.point else m.readsSubstituted e
    { t with inputs := ins, outputs := outs, substituted := (ins.filter was).map ImageEntry.point })

/-- The entries of all images keep their limits, no point is in the outputs of two tasks, and none is the sink of a loop
channel or the final write of a Springbok path (R177, R178); `sinks` are the points of the last two. -/
def M.imagesFit (m : M) (sinks : List Nat) : Bool :=
  let ins := m.exe.tasks.foldl (fun (a : Nat) t => a + t.2.inputs.length) 0
  let outs := m.exe.tasks.foldl (fun (a : Nat) t => a + t.2.outputs.length) 0
  decide (ins ≤ 16384) && decide (outs ≤ 8192) &&
  m.exe.tasks.all (fun t => t.2.outputs.all (fun e =>
    !sinks.contains e.point &&
    m.exe.tasks.all (fun u => u.1 == t.1 || u.2.outputs.all (fun f => !(f.point == e.point)))))

/-- Points that final writes of the loaded paths name (R118). -/
def M.springbokPoints (m : M) : List Nat :=
  m.fab.paths.flatMap (fun p => match m.cell p.quadrant p.finalCell with
    | some cl => (match cl.body with
      | .a b => b.slots.filterMap (fun s => if s.valid && s.isWrite then some s.const.toNat else none)
      | _ => [])
    | none => [])

/-- Sinks of the loop channels in force; 0xFFFF names none (R178). -/
def M.loopSinks (m : M) : List Nat :=
  (List.range 64).filterMap (fun n =>
    let s := m.get F.LPE_CH_SINK_id n
    if s == 0xFFFF then none else some s)

/-- A task as the loader builds it. -/
def TaskState.new : TaskState :=
  { phase := .idle, began := 0, payload := 0, inputs := [], outputs := [], substituted := [], reasons := 0, detail := 0,
    calls := [], held := 0, released := false, failedUnit := none, lastDue := none }

/-! ### Watchdog trip (R186, R187) -/

/-- The EXEC record (Table 16-2). -/
def M.exeRecord (m : M) (sev cause task : Nat) : M :=
  m.note 4 sev 0 [m.exeState, cause, task, (m.rd .EXE_TLAST task).toNat, ((m.taskRec task).map TaskRec.bound).getD 0]

/-- Freeze every quadrant. -/
def M.freezeAll (m : M) : M := (List.range 4).foldl (fun (a : M) q => a.freezeQuad q) m

/-- Advance the wave of every unit. -/
def M.advanceAll (m : M) (all : Bool) : M := m.exe.units.foldl (fun (a : M) u => a.advanceWave u.unit all) m

/-- A watchdog trip (Table 5-4): safe values, instances abandoned, waves advanced, TRIPPED; the pair's part is R419. -/
def M.trip (m : M) (cause task : Nat) : M :=
  if m.exeStopped then m
  else
    let m1 := m.captureDriven.discardCalls
    let idle (t : TaskState) : TaskState := { t with phase := .idle }
    let m2 : M := { m1 with exe := { m1.exe with tasks := m1.exe.tasks.map (fun t => (t.1, idle t.2)) } }
    let m3 := (m2.advanceAll true).freezeAll
    let m4 := ((m3.put F.EXE_STAT_state 3).put F.EXE_STAT_cause cause).put F.EXE_STAT_trip_task task
    let m5 := ((m4.put F.EXE_CMD_STAT_busy 0).flag F.EXE_EVT_trip 0x10).exeRecord 2 cause task
    let m6 := m5.safeChanged
    if m6.unitState == 4 && m6.bit F.IBX_CTRL_trip_act then m6.handOverOrSafe .trip else m6

def tripOverrun : Nat := 1
def tripStall : Nat := 2
def tripPace : Nat := 3
def tripFault : Nat := 4
def tripEtask : Nat := 5

/-! ### Calling error tasks (R199 to R203) -/

def reasonDropout : Nat := 1
def reasonRecover : Nat := 2
def reasonFault : Nat := 4

/-- A task calls its error task: merged, discarded, or pending (R202, R203, R189). -/
def M.callError (m : M) (caller reasons detail : Nat) : M :=
  match m.taskRec caller with
  | none => m
  | some r =>
    if r.errorTask == 0xFF then m
    else
      let m1 := m.countCalls caller 1
      if !m1.exeRuns then m1
      else if !m1.taskOn r.errorTask then m1.exeFlag F.EXE_EVT_elost
      else m1.modTask r.errorTask (fun t =>
        if t.calls.any (fun c => c.caller == caller) then
          { t with calls := t.calls.map (fun c => if c.caller == caller then { c with reasons := Nat.lor c.reasons reasons } else c) }
        else { t with calls := insertBy ErrorCall.caller ⟨caller, reasons, detail, m.time.tb⟩ t.calls })

/-! ### Instances of tasks (R171, R182, R185) -/

/-- A start is held while a quadrant of the task is not in run (R174, R210). -/
def M.holdStart (m : M) (n : Nat) : M := m.modTask n (fun t => { t with held := t.held + 1 })

/-- Module time is a multiple of the period, and that due time has not been served (R171). -/
def M.dueNow (m : M) (r : TaskRec) (t : TaskState) : Bool := m.time.tai % (1000 * r.period) == 0 && !(t.lastDue == some m.time.tb)

/-- TASK_DUE: a due time of a periodic task (R171); the boundary of its B fields while idle (R209); an instance still running
overruns (R185). -/
def M.taskDue (m0 : M) (n : Nat) : M :=
  match m0.taskRec n, m0.taskState n with
  | some r, some t =>
    let m := m0.modTask n (fun x => { x with lastDue := some m0.time.tb })
    if r.etask || !m0.dueNow r t || !(m.exeRuns || m.exeState == 2) then m0
    else if !(t.phase == .idle) then m.trip tripOverrun n
    else if !m.exeRuns then m
    else
      let m1 := m.transferAt [Reg.EXE_TCFG.addr n 0 0]
      if !m1.taskOn n then m1
      else if !m1.taskRuns n then m1.holdStart n
      else m1.modTask n (fun x => { x with phase := .due, began := m.time.tb, payload := 0 })
  | _, _ => m0

/-- Payload of the start token of a called error task (Table 5-7). -/
def callPayload (c : ErrorCall) : Word :=
  BitVec.ofNat 32 (bitN c.reasons 2 * 2 ^ 26 + bitN c.reasons 1 * 2 ^ 25 + bitN c.reasons 0 * 2 ^ 24 + c.caller * 2 ^ 16 + c.detail)

/-- A disabled error task starts no pending call: its calls are discarded (R203, R209; DEDUCED, log 99). -/
def M.dropCallsIfOff (m : M) (n : Nat) : M :=
  if m.taskOn n || !((m.taskRec n).any TaskRec.etask) || !((m.taskState n).any (fun t => !t.calls.isEmpty)) then m
  else (m.modTask n (fun x => { x with calls := [] })).exeFlag F.EXE_EVT_elost

/-- ERROR_TASK_START: the pending call of the lowest caller starts (R202), once the task's enable has transferred (R209). -/
def M.errorTaskStart (m : M) (n : Nat) : M :=
  match m.taskRec n, m.taskState n with
  | some r, some t =>
    match t.calls with
    | [] => m
    | c :: rest =>
      if !r.etask || !m.exeRuns || !(t.phase == .idle) then m
      else
        let m0 := m.transferAt [Reg.EXE_TCFG.addr n 0 0]
        if !m0.taskOn n then m0.dropCallsIfOff n
        else if !m0.taskRuns n then (m0.modTask n (fun x => { x with calls := rest })).holdStart n
        else m0.modTask n (fun x => { x with phase := .due, began := c.at_, payload := callPayload c, calls := rest })
  | _, _ => m

/-- ERROR_TASK_DEADLINE: the period has passed since the call without step 7 (R185). -/
def M.errorTaskDeadline (m : M) (n : Nat) : M :=
  match m.taskRec n, m.taskState n with
  | some r, some t =>
    let late (at_ : Nat) : Bool := at_ + r.period * 1000 ≤ m.time.tb
    if r.etask && ((!(t.phase == .idle) && late t.began) || t.calls.any (fun c => late c.at_)) then m.trip tripOverrun n else m
  | _, _ => m

/-- Every wave of a running task has ended (Table 5-1, step 5). -/
def M.wavesEnded (m : M) (n : Nat) (t : TaskState) : Bool :=
  t.phase == .running && (m.taskUnits n).all (fun u => !m.exe.active.contains u.unit)

/-- Place of a task in the service order of the transfer engine (R173). -/
def M.serviceKey (m : M) (n : Nat) : Nat :=
  b2n (!m.taskPriv n) * 2 ^ 16 + ((m.taskRec n).map TaskRec.priority).getD 0 * 2 ^ 8 + n

/-- No task that waits for the engine comes before this one (R173). -/
def M.servedFirst (m : M) (n : Nat) : Bool :=
  m.exe.tasks.all (fun t => t.1 == n || !(t.2.phase == .due || m.wavesEnded t.1 t.2) || m.serviceKey n < m.serviceKey t.1)

/-- Station number of a point, bus × 64 + station, when a remote station backs it. -/
def M.stationNumber (m : M) (id : Nat) : Option Nat :=
  (m.point id).bind (fun p => if p.backing == 4 then some (p.bus * 64 + p.station) else none)

/-- Lowest number of a list. -/
def lowest (l : List Nat) : Nat := l.foldl min (l.headD 0)

/-- One input entry latched through the gate with its tag (R179, R198, R217). -/
def M.latchEntry (m : M) (n : Nat) (e : ImageEntry) : ImageEntry :=
  let d := m.entryRead e
  let zero := entrySubstituted d && !entryForced d && !entryAbsent d && m.bit F.EXE_TCFG_subst n
  { e with data := if zero then BitVec.ofNat 64 (d.toNat / 2 ^ 32 * 2 ^ 32) else d }

/-- An output entry at the first latch after its build: the value its tag reads, 0 when absent (R180). -/
def M.firstOutput (m : M) (e : ImageEntry) : ImageEntry :=
  if e.set then e
  else
    let d := m.entryRead e
    { e with data := BitVec.ofNat 64 (if entryAbsent d then 0 else d.toNat % 2 ^ 32), set := true }

/-- The quadrants of a task have room for its start tokens (Table 3-9; DEDUCED, log 98). -/
def M.startRoom (m : M) (n : Nat) : Bool :=
  (List.range 4).all (fun q => m.roomFor q 0 ((m.quad q).cells.filter (fun p =>
    p.2.start && (m.taskUnits n).any (fun u => u.unit == p.2.unit && u.quadrant == q))).length)

/-- IMAGE_LATCH: the input image, what it met of substitutions, and the start tokens of new waves (R179, R182, R199), in quadrants
that run (R174). -/
def M.imageLatch (m : M) (n : Nat) : M :=
  match m.taskState n with
  | none => m
  | some t =>
    if !(t.phase == .due) || !m.taskRuns n || !m.servedFirst n || !m.startRoom n then m
    else
      let ins := t.inputs.map (m.latchEntry n)
      let outs := t.outputs.map m.firstOutput
      let subst := (ins.filter (fun e => !entryAbsent e.data && entrySubstituted e.data)).map ImageEntry.point
      let newly := subst.filter (fun p => !t.substituted.contains p)
      let ended := t.substituted.filter (fun p => !subst.contains p)
      let reasons := b2n (!newly.isEmpty) * reasonDropout + b2n (!ended.isEmpty) * reasonRecover
      let detail := lowest ((if newly.isEmpty then ended else newly).filterMap m.stationNumber)
      let denied := (ins.filter (fun e => entryAbsent e.data)).length
      let m1 := m.put F.EXE_DENY_count (satAdd (m.get F.EXE_DENY_count) denied 0xFFFFFFFF)
      let m2 := if newly.isEmpty then m1 else m1.exeFlag F.EXE_EVT_dropout
      let m3 := if ended.isEmpty then m2 else m2.exeFlag F.EXE_EVT_recover
      let m4 := (m3.putB F.EXE_TSTAT_subst (!subst.isEmpty) n).modTask n (fun x => { x with
        phase := .running, inputs := ins, outputs := outs, substituted := subst, reasons := reasons, detail := detail,
        failedUnit := none })
      (m.taskUnits n).foldl (fun (a : M) u => a.startWave u.unit t.payload) m4

/-! ### Patches (R204 to R208) -/

/-- Item word of a patch as EXE_OLC_SEL and the record show it. -/
def Patch.item (p : Patch) : Nat := p.kind * 2 ^ 28 + p.quadrant * 2 ^ 26 + p.cell * 2 ^ 15 + p.index

/-- Apply one patch to the running cell (R204, R207). -/
def M.patchOne (m : M) (p : Patch) : M :=
  match m.cell p.quadrant p.cell with
  | none => m
  | some cl => match cl.body with
    | .a b =>
      if p.kind == 1 then m.storeReg p.quadrant p.cell p.index p.value
      else m.setCell p.quadrant p.cell { cl with body := .a { b with slots := listMod b.slots p.index (fun s => { s with const := p.value }) } }
    | .t t =>
      let m1 := m.putT p.quadrant p.cell (t.newPreset p.value m.time.tai)
      if t.preset == p.value then m1.backedUpdate 1 (cellRef p.quadrant p.cell 3) p.value 0 else m1
    | .m b => m.setCell p.quadrant p.cell { cl with body := .m { b with words := putd 0 p.index p.value b.words } }

/-- The patch changes the point a slot names (R207). -/
def M.patchesPoint (m : M) (p : Patch) : Bool :=
  p.kind == 2 && (match m.cell p.quadrant p.cell with
    | some cl => (match cl.body with
      | .a b => (b.slots[p.index]?).any (fun s => s.valid && s.isAccess && s.constId)
      | _ => false)
    | none => false)

/-- Apply a patch set: every item in order, the record, dirty, and images rebuilt when a point ID changed (R206, R207). -/
def M.applyPatches (m : M) : M :=
  match m.exe.patchTask with
  | none => m
  | some n =>
    let set := m.exe.patches
    let rebuild := set.any m.patchesPoint
    let m1 := set.foldl (fun (a : M) p => a.patchOne p) m
    let m2 := if rebuild then m1.buildTask n else m1
    let m3 : M := { m2 with exe := { m2.exe with patchTask := none, patches := [] } }
    let m4 := ((m3.put F.EXE_OLC_STAT_armed 0).put F.EXE_OLC_STAT_count 0).put F.UPD_IMG_STAT_dirty 1
    m4.note 4 5 0 ([n, set.length] ++ set.flatMap (fun p => [p.item, p.value.toNat]))

/-- A forced value goes into an A-cell register; the points on it that are not forced are updated (R49, R218). -/
def M.forceReg (m : M) (q c r : Nat) (v : Word) : M :=
  match m.cell q c with
  | some cl => (match cl.body with
    | .a b =>
      let m1 := m.setCell q c { cl with body := .a { b with g := listSet b.g r v } }
      ((m1.backed 1 (cellRef q c r)).filter (fun p => (m1.forceOf p.1).isNone)).foldl (fun a p => a.backingUpdate p.1 v 0) m1
    | _ => m)
  | none => m

/-- Forced values of points backed by A-cell registers go into the registers at each boundary (R218). -/
def M.forceRegisters (m : M) (n : Nat) : M :=
  let us := (m.taskUnits n).map UnitRec.unit
  m.pts.forces.foldl (fun (a : M) f => match a.point f.2.point with
    | some p =>
      let q := fieldN p.ref 16 2
      let c := fieldN p.ref 5 11
      if p.backing == 1 && (a.cell q c).any (fun cl => us.contains cl.unit) then a.forceReg q c (fieldN p.ref 0 4) f.2.value else a
    | none => a) m

/-- Put a mirrored cell state in place of a configured cell of the same kind (R397). -/
def M.putMirrored (m : M) (key : Nat) (b : CellBody) : M :=
  let q := key / 2048
  let c := key % 2048
  match m.cell q c with
  | some cl => (match cl.body, b with
    | .a _, .a _ | .t _, .t _ | .m _, .m _ => m.setCell q c { cl with body := b }
    | _, _ => m)
  | none => m

/-- Mirrored cell state of a task is applied at its boundary (R397). -/
def M.mirrorCells (m : M) (n : Nat) : M :=
  let (now, later) := m.tth.pendingCells.partition (fun p => p.1 == n)
  now.foldl (fun (a : M) p => a.putMirrored p.2.1 p.2.2) { m with tth := { m.tth with pendingCells := later } }

/-- Step 8: B fields of the task, then an armed patch set, then forced registers (Table 5-1). -/
def M.taskBoundary (m : M) (n : Nat) : M :=
  let m1 := m.transferAt [Reg.EXE_TCFG.addr n 0 0]
  let m2 := if m1.bit F.EXE_OLC_STAT_armed && m1.exe.patchTask == some n then m1.applyPatches else m1
  ((m2.mirrorCells n).forceRegisters n).dropCallsIfOff n

/-- A wave of a unit fails: its instance fails, releases nothing and calls the error task, or the watchdog trips (R109, R201).  The
boundary of step 8 follows, so that the next wave starts with forced values (R218). -/
def M.instanceFail (m : M) (u : Nat) : M :=
  match m.taskOf u with
  | none => m
  | some n =>
    match m.taskState n, m.taskRec n with
    | some t, some r =>
      if !(t.phase == .running) || !m.exe.active.contains u then m
      else
        let m1 := (m.taskUnits n).foldl (fun (a : M) x => a.advanceWave x.unit true) m
        let m2 := m1.modTask n (fun x => { x with phase := .idle, failedUnit := some u })
        let m3 := ((m2.count F.EXE_TSTAT_fault n).exeFlag F.EXE_EVT_fault).wr .EXE_TCNT (m2.rd .EXE_TCNT n + 1) n
        if r.etask then m3.trip tripEtask n
        else if r.errorTask == 0xFF then m3.trip tripFault n
        else (m3.callError n (Nat.lor t.reasons reasonFault) u).taskBoundary n
    | _, _ => m

/-- One release write through the gate (R180). -/
def M.releaseEntry (m : M) (e : ImageEntry) : M :=
  match m.who (.unit e.unit) with
  | none => m
  | some w =>
    let (v, m1) := m.writePoint w e.point (e.data.setWidth 32)
    if v == .granted then m1 else m1.count F.EXE_DENY_count

/-- Measure an instance that reached step 7 (R184). -/
def M.measure (m : M) (n : Nat) (began bound : Nat) : M :=
  let d := min (m.time.tb - began) 0xFFFFFFFF
  let m1 := ((m.put F.EXE_TLAST_ns d n).put F.EXE_TMAX_ns (max d (m.get F.EXE_TMAX_ns n)) n).wr .EXE_TCNT (m.rd .EXE_TCNT n + 1) n
  if d ≤ bound then m1
  else
    let m2 := (m1.put F.EXE_TSTAT_ovb 1 n).put F.EXE_EVT_ovb 1
    if m2.bit F.EXE_CTRL_ovb_evt then m2.raise 0x11 else m2

/-- OUTPUT_RELEASE: every wave has ended; the output image is released, the instance measured, the error task called, and the
task's boundary runs (R180, R182, R184, R199). -/
def M.outputRelease (m : M) (n : Nat) : M :=
  match m.taskRec n, m.taskState n with
  | some r, some t =>
    if !m.wavesEnded n t || !m.servedFirst n || m.exeStopped then m
    else
      let m1 := t.outputs.foldl (fun (a : M) e => a.releaseEntry e) m
      let m2 := (m1.modTask n (fun x => { x with phase := .idle, released := true })).measure n t.began r.bound
      let m3 := if t.released then m2 else m2.safeChanged
      let m4 := if t.reasons == 0 then m3 else m3.callError n t.reasons t.detail
      m4.taskBoundary n
  | _, _ => m

/-! ### Stop, run, acknowledge (R189 to R194) -/

/-- Result of an execution command. -/
def M.exeResult (m : M) (err : Nat) : M := (m.put F.EXE_CMD_STAT_err err).put F.EXE_CMD_STAT_busy 0

/-- STOP: an orderly stop begins (Table 5-5, steps 1 and 2). -/
def M.exeStop (m : M) : M :=
  if m.exeStopped then m.exeResult 0
  else if m.exeState == 2 then m
  else m.beginStop

/-- STOP_COMPLETE: every instance has released; waves advance, Ibex drives safe values, timers freeze (Table 5-5, steps 4, 5). -/
def M.stopComplete (m : M) : M :=
  if !(m.exeState == 2) || m.exe.tasks.any (fun t => !(t.2.phase == .idle)) then m
  else
    let m1 := (m.captureDriven.advanceAll false).freezeAll
    ((m1.put F.EXE_STAT_state 0).exeResult 0).safeChanged.exeRecord 5 0 0

/-- First reason that refuses a run command (R192). -/
def M.runRefusal (m : M) : Nat :=
  if !(m.get F.UPD_IMG_STAT_state == 1) then 2
  else if m.exeState == 3 then 3
  else if m.get F.PMC_LVL_STAT_level < m.img.level then 4
  else if !(m.exeState == 0) then 1
  else if m.exe.units.any (fun u => m.unitHolds u.unit) then 5
  else 0

/-- Input points of a task whose station has not read ONLINE yet: they count as substituted before the first latch (R489). -/
def M.notYetOnline (m : M) (t : TaskState) : List Nat :=
  (t.inputs.map ImageEntry.point).filter (fun id => (m.point id).any (fun p =>
    p.backing == 4 && tbit p.status 2 && !(m.get F.CAN_STA_STAT_state p.bus p.station == 3)))

/-- A cold run returns every cell to its image values; a task whose slots name other points again has its images rebuilt
(R191, R207; DEDUCED, log 42). -/
def M.coldStart (m : M) : M :=
  let c := m.coldCells
  (m.exe.taskRecs.map TaskRec.task).foldl (fun (a : M) n =>
    if c.namedPoints n == m.namedPoints n then a else a.buildTask n) c

/-- RUN_WARM and RUN_COLD (Table 5-6); `arm` applies the arm-phase records of the image (R149). -/
def M.exeRun (m : M) (cold : Bool) (arm : M → M) : M :=
  let e := m.runRefusal
  if !(e == 0) then m.put F.EXE_CMD_STAT_err e
  else
    let m1 := if cold then m.coldStart else m
    let m2 := if m1.bit F.EXE_STAT_first then (arm m1).put F.EXE_STAT_first 0 else m1
    let fresh (t : TaskState) : TaskState := { t with
      phase := .idle, released := false, failedUnit := none,
      substituted := t.substituted ++ (m2.notYetOnline t).filter (fun id => !t.substituted.contains id) }
    let m3 : M := { m2 with exe := { m2.exe with tasks := m2.exe.tasks.map (fun t => (t.1, fresh t.2)) } }
    let m4 := ((m3.put F.EXE_STAT_state 1).put F.EXE_STAT_cause 0).put F.EXE_STAT_trip_task 0
    let m5 := (List.range 4).foldl (fun (a : M) q => a.resumeQuad q) m4
    ((m5.exeResult 0).safeChanged).exeRecord 5 0 0

/-- EXE_ACK (R193). -/
def M.exeAck (m : M) : M :=
  if m.exeState == 3 then (m.put F.EXE_STAT_state 0).exeResult 0 else m.exeResult 6

/-! ### Patch commands (R205, R206, R208, R221) -/

/-- Cells reached from a cell by the links of its slots, in one quadrant; `n` bounds the steps. -/
def M.reachCells (m : M) (q : Nat) : Nat → List Nat → List Nat → List Nat
  | 0, seen, _ => seen
  | _, seen, [] => seen
  | n + 1, seen, c :: rest =>
    if seen.contains c then m.reachCells q n seen rest
    else
      let next : List Nat := match m.cell q c with
        | some cl => (match cl.body with
          | .a b => b.slots.flatMap (fun (s : ASlot) => if s.valid then [s.link0, s.link1] else [])
          | .t t => [t.outLink]
          | .m b => [b.link])
        | none => []
      let ds : List Nat := (next.filter (fun (l : Nat) => tbit l 15)).map (fun l => fieldN l 2 11)
      m.reachCells q n (c :: seen) (ds ++ rest)

/-- The cell lies on a Springbok path of the loaded image (R118). -/
def M.onPath (m : M) (q c : Nat) : Bool :=
  m.fab.paths.any (fun p => p.quadrant == q && (m.reachCells q 40000 [] [p.edgeCell]).contains c)

/-- The item the selection registers name. -/
def M.selectedPatch (m : M) : Patch :=
  ⟨m.get F.EXE_OLC_SEL_kind, m.get F.EXE_OLC_SEL_quadrant, m.get F.EXE_OLC_SEL_cell, m.get F.EXE_OLC_SEL_index,
   m.rd .EXE_OLC_DATA⟩

/-- The item kind fits the cell's type and the index is in range. -/
def Patch.fits (p : Patch) : Bool :=
  match p.kind with
  | 1 => p.cell < 0x600 && p.index < 16
  | 2 => p.cell < 0x600 && p.index < 8
  | 3 => 0x600 ≤ p.cell && p.cell < 0x700 && p.index == 0
  | 4 => 0x700 ≤ p.cell
  | _ => false

/-- The images rebuilt with a point-ID patch would keep R177 and R178. -/
def M.patchImagesFit (m : M) (n : Nat) (p : Patch) : Bool :=
  !m.patchesPoint p ||
  ((m.exe.patches.foldl (fun (a : M) x => a.patchOne x) m).patchOne p |>.buildTask n).imagesFit (m.loopSinks ++ m.springbokPoints)

/-- The register an item names backs a forced point (R208). -/
def M.patchForced (m : M) (p : Patch) : Bool :=
  p.kind == 1 && (m.backed 1 (cellRef p.quadrant p.cell p.index)).any (fun x => (m.forceOf x.1).isSome)

/-- First refusal of an add (R208). -/
def M.patchRefusal (m : M) (n : Nat) (p : Patch) : Nat :=
  let cl := m.cell p.quadrant p.cell
  if m.bit F.EXE_OLC_STAT_armed then 1
  else if (m.taskRec n).isNone || m.exe.patchTask.any (fun x => !(x == n)) then 6
  else if !p.fits || !m.patchImagesFit n p then 4
  else if !cl.any (fun c => m.taskOf c.unit == some n) || m.onPath p.quadrant p.cell then 3
  else if cl.any (fun c => m.exe.units.any (fun u => u.unit == c.unit && u.priv)) then 2
  else if m.patchForced p then 7
  else if 64 ≤ m.exe.patches.length then 5
  else 0

/-- Result of a patch command. -/
def M.olcResult (m : M) (err : Nat) : M := m.put F.EXE_OLC_STAT_err err

/-- PATCH_ADD. -/
def M.patchAdd (m : M) (n : Nat) : M :=
  let p := m.selectedPatch
  let e := m.patchRefusal n p
  if !(e == 0) then m.olcResult e
  else
    let m1 : M := { m with exe := { m.exe with patchTask := some n, patches := m.exe.patches ++ [p] } }
    (m1.put F.EXE_OLC_STAT_count m1.exe.patches.length).olcResult 0

/-- PATCH_COMMIT. -/
def M.patchCommit (m : M) : M :=
  if m.bit F.EXE_OLC_STAT_armed then m.olcResult 1
  else if m.exe.patches.isEmpty then m.olcResult 9
  else if m.exeStopped then m.applyPatches.olcResult 0
  else (m.put F.EXE_OLC_STAT_armed 1).olcResult 0

/-- Empty the set. -/
def M.emptyPatches (m : M) (err : Nat) : M :=
  let m1 : M := { m with exe := { m.exe with patchTask := none, patches := [] } }
  ((m1.put F.EXE_OLC_STAT_armed 0).put F.EXE_OLC_STAT_count 0).olcResult err

/-- PATCH_ABORT. -/
def M.patchAbort (m : M) : M := if m.bit F.EXE_OLC_STAT_armed then m.olcResult 1 else m.emptyPatches 0

/-! ### Fabric steps that meet execution (R109, R111, R120, R123 to R129) -/

/-- A token parity error while a full load configures makes it fail with APPLY (R150). -/
def M.loadParity (m : M) : M :=
  match m.img.job with
  | .full 0 l b => { m with img := { m.img with job := .full 0x10 l b } }
  | _ => m

/-- TOKEN_ACCEPT: the first token of a link reaches its cell; `flipped` tells that the link changed a bit of it (R108, R109,
R623). -/
def M.tokenAccept (m : M) (q : Nat) (l : LinkId) (flipped : Bool) : M :=
  match takeFlight l (m.quad q).flight with
  | none => m
  | some (t0, rest) =>
    let t : Token := if flipped then { t0 with tag := t0.tag ^^^ 1 } else t0
    let dest := (m.cell q t.cell).map Cell.unit
    let out (a : M) : M := a.modQuad q (fun x => { x with flight := rest })
    match m.arrival q t with
    | .waits => m
    | .dropped => ((out m).dropToken q dest).edgeCompare q l.cell
    | .parity => (((((out m).dropToken q dest).fabFlag F.FAB_EVT_tok_par q).instanceFail t.unit).edgeCompare q l.cell).loadParity
    | .taken =>
      (match m.cell q t.cell with
       | some cl => ((out m).setCell q t.cell { cl with ports := listSet cl.ports t.port (some t) }).edgeCompare q l.cell
       | none => m)

/-- STALL_TIMEOUT: tokens held and no firing for the stall time (R111, R186). -/
def M.stallTimeout (m : M) (q : Nat) : M :=
  let x := m.quad q
  if x.held == 0 || m.time.tb < x.lastFire + max 1 (m.get F.FAB_CTRL_stall_tmo) * 10000 then m
  else
    let m1 := (m.modQuad q (fun y => { y with lastFire := m.time.tb })).fabFlag F.FAB_EVT_stall q
    let tasks := (m.exe.units.filter (fun u => u.quadrant == q && m.exe.active.contains u.unit)).map UnitRec.task
    if tasks.isEmpty then m1 else m1.trip tripStall (lowest tasks)

/-- Bound of a Springbok path at the present level, ns (Table 1-5, R119). -/
def M.springbokBound (m : M) (filter : Nat) : Nat :=
  match m.get F.PMC_LVL_STAT_level with
  | 0 => 1900 + 40 * filter
  | 1 => 1100 + 10 * filter
  | _ => if filter ≤ 16 then 800 else 800 + 5 * filter

/-- Take the oldest start of a path's measurement. -/
def takeStart (n : Nat) : List (Nat × Nat) → Option (Nat × List (Nat × Nat))
  | [] => none
  | x :: xs => if x.1 == n then some (x.2, xs) else (takeStart n xs).map (fun r => (r.1, x :: r.2))

/-- A write of a path takes its oldest start; when it made an edge at the pin, the time from that start is stored (R122). -/
def M.springbokMeasure (m0 : M) (p : SbkPath) (edge : Bool) : M :=
  match takeStart p.path m0.fab.sbkStart with
  | none => m0
  | some (t0, rest) =>
    let m : M := { m0 with fab := { m0.fab with sbkStart := rest } }
    if !edge then m else
    let d := (m.time.tai % 2 ^ 32 + 2 ^ 32 - t0) % 2 ^ 32
    let v := min d 0xFFFF
    let filter := ((m.tcell p.quadrant p.edgeCell).map (fun x => x.2.filter)).getD 0
    let m1 := (m.put F.FAB_SBK_LAT_last v p.path).put F.FAB_SBK_LAT_max (max v (m.get F.FAB_SBK_LAT_max p.path)) p.path
    if m1.springbokBound filter < d then (m1.putBit F.FAB_SBK_STAT_over p.path true).raise 0x1C else m1

/-- SPRINGBOK_WRITE: the final write of a path, once the earlier accesses of its cell have completed, is decided in its lane; an edge
it causes at the pin is measured (R96, R120, R122). -/
def M.springbokWrite (m : M) (n : Nat) : M :=
  match m.fab.paths.find? (fun p => p.path == n) with
  | none => m
  | some p =>
    match takeAccess (fun a => a.cell == p.finalCell) (m.quad p.quadrant).waiting with
    | none => m
    | some (a, rest) =>
      if !a.write || (m.quad p.quadrant).outstanding.any (fun o => o.cell == p.finalCell) then m else
      let m1 := m.modQuad p.quadrant (fun w => { w with waiting := rest })
      match m1.who (.unit a.unit) with
      | none => m1
      | some w =>
        let line := ((m1.point a.point).filter (fun r => r.backing == 2)).map (fun r => r.ref % 64)
        let m2 := (m1.writePoint w a.point a.value).2
        m2.springbokMeasure p (line.any (fun l => !(m2.lineDrive l == m1.lineDrive l)))

/-- SPRINGBOK_ARM: bits of undefined paths are ignored; arming starts a new longest measurement (R121, Table 3-11). -/
def M.springbokArm (m : M) (v : Nat) : M :=
  (List.range 8).foldl (fun (a : M) n =>
    if !m.bitOf F.FAB_SBK_STAT_defined n then a
    else
      let a1 := if tbit v n && !m.bitOf F.FAB_SBK_ARM_arm n then a.put F.FAB_SBK_LAT_max 0 n else a
      a1.putBit F.FAB_SBK_ARM_arm n (tbit v n)) m

/-- Held starts of the tasks of a quadrant are discarded (R210). -/
def M.releaseHeld (m : M) (q : Nat) : M :=
  m.exe.tasks.foldl (fun (a : M) t =>
    if t.2.held == 0 || !(m.taskUnits t.1).any (fun u => u.quadrant == q) then a
    else
      let a1 := a.put F.EXE_TSTAT_skip (satAdd (a.get F.EXE_TSTAT_skip t.1) t.2.held 255) t.1
      (a1.exeFlag F.EXE_EVT_skip).modTask t.1 (fun x => { x with held := 0 })) m

/-- A quadrant returns to run: its request clears, held starts go, timers and sampling resume (R124, R125). -/
def M.returnToRun (m : M) (q : Nat) : M :=
  let m1 := (m.putBit F.FAB_QCTRL_req q false).setQstate q 2
  ((m1.modQuad q (fun x => { x with quiesceBy := none })).releaseHeld q).resumeQuad q

/-- Starts that fell due before the request and have not begun a wave are held with the later ones (Table 3-8, step 2; R210). -/
def M.holdDueStarts (m : M) (q : Nat) : M :=
  let hold (n : Nat) (t : TaskState) : TaskState :=
    if t.phase == .due && (m.taskUnits n).any (fun u => u.quadrant == q) then { t with phase := .idle, held := t.held + 1 } else t
  { m with exe := { m.exe with tasks := m.exe.tasks.map (fun p => (p.1, hold p.1 p.2)) } }

/-- QUIESCE_REQUEST (Table 3-8, steps 1 and 2); a quadrant that is quiescing, quiesced, empty or off is left as it is. -/
def M.quiesceRequest (m : M) (q : Nat) : M :=
  if !(m.qstate q == 2) then m
  else
    let by_ := m.time.tb + max 1 (m.get F.FAB_QCTRL_tmo) * ms
    (((m.putBit F.FAB_QCTRL_req q true).setQstate q 3).holdDueStarts q).modQuad q (fun x => { x with quiesceBy := some by_ })

/-- A unit of the quadrant has an active wave, or its task an instance that has not released (R210, Table 3-8, step 3). -/
def M.quadBusy (m : M) (q : Nat) : Bool :=
  m.exe.units.any (fun u => u.quadrant == q && (m.exe.active.contains u.unit || (m.taskState u.task).any (fun t => !(t.phase == .idle))))

/-- QUIESCED: no instance, access or token remains; timers freeze (Table 3-8, steps 3 to 5). -/
def M.quiesced (m : M) (q : Nat) : M :=
  let x := m.quad q
  let busy := m.quadBusy q
  if !(m.qstate q == 3) || busy || !(x.held == 0) || !x.waiting.isEmpty || !x.outstanding.isEmpty || m.due x.quiesceBy then m
  else ((m.freezeQuad q).setQstate q 4).modQuad q (fun y => { y with quiesceBy := none })

/-- A partial load that waits for the quadrant's quiesce ends with QUIESCE (R153). -/
def M.abandonPartial (m : M) (q : Nat) : M :=
  match m.img.job with
  | .partialQuiesce q' b => if q == q' then { m with img := { m.img with job := .partialDone 0x12 0 b } } else m
  | _ => m

/-- QUIESCE_TIMEOUT (R124, R153). -/
def M.quiesceTimeout (m : M) (q : Nat) : M :=
  if !(m.qstate q == 3) || !m.due (m.quad q).quiesceBy then m
  else ((m.fabFlag F.FAB_EVT_qtmo q).abandonPartial q).returnToRun q

/-- QUIESCE_CANCEL: the quadrant returns to run at once (R124). -/
def M.quiesceCancel (m : M) (q : Nat) : M :=
  if m.qstate q == 3 then (m.abandonPartial q).returnToRun q
  else if m.qstate q == 4 then m.returnToRun q
  else m.putBit F.FAB_QCTRL_req q false

/-- CLR_HWM (R131). -/
def M.clrHwm (m : M) : M := (List.range 4).foldl (fun (a : M) q => a.put F.FAB_QSTAT_hwm (a.quad q).held q) m

/-! ### Self-test (R127 to R129, R150) -/

/-- Mark a cell failed: its ports are emptied, the failure recorded and counted (R129). -/
def M.markFailed (m : M) (q c kind : Nat) : M :=
  if (m.quad q).failed.contains c then m
  else
    let n := ((m.cell q c).map (fun cl => cl.tokens.length)).getD 0
    let unit := (m.cell q c).map Cell.unit
    let m1 := match m.cell q c with
      | some cl => m.setCell q c { cl with ports := List.replicate 4 none }
      | none => m
    let m2 := m1.modQuad q (fun x => { x with failed := x.failed ++ [c] })
    let m3 := (List.range n).foldl (fun (a : M) _ => a.dropToken q unit) m2
    let word := 2 ^ 31 + kind * 2 ^ 28 + q * 2 ^ 11 + c
    let cnt := setFieldN (m3.get F.FAB_FAILED_failed) (8 * q) 8 (min (m3.quad q).failed.length 255)
    ((m3.wr .FAB_ST_FAIL (BitVec.ofNat 32 word)).put F.FAB_FAILED_failed cnt).fabFlag F.FAB_EVT_st_fail q

/-- A cell counts as idle: of no unit, or its unit has no active wave and it holds no token, in a port, as an EDGE or CYC cell, or
in an access (R101, R102, R127). -/
def M.cellIdle (m : M) (q c : Nat) : Bool :=
  match m.cell q c with
  | none => true
  | some cl => !m.exe.active.contains cl.unit && cl.tokens.isEmpty && !m.tokenHeld q c &&
    !((m.quad q).waiting ++ (m.quad q).outstanding).any (fun a => a.cell == c)

/-- Quadrants of a load in progress past check 13 take no test tokens (R150). -/
def M.loadHoldsTests (m : M) (q : Nat) : Bool :=
  match m.img.job with
  | .full _ _ _ | .fullWaits _ => true
  | .partialQuiesce q' _ => q == q'
  | _ => false

/-- Cells of the armed Springbok paths of a quadrant. -/
def M.armedCells (m : M) (q : Nat) : List Nat :=
  (m.fab.paths.filter (fun p => p.quadrant == q && m.pathArmed p)).flatMap (fun p => m.reachCells q 40000 [] [p.edgeCell])

/-- Every idle cell that may be tested has been in this rotation: in quadrants with power, not marked failed, on no armed path
(R127, R129, R150). -/
def M.rotationDone (m : M) : Bool :=
  (List.range 4).all (fun q =>
    let armed := m.armedCells q
    m.qstate q == 0 || m.loadHoldsTests q || (List.range 2048).all (fun c =>
      tbit (m.quad q).tested c || (m.quad q).failed.contains c || !m.cellIdle q c || armed.contains c))

/-- A self-test is enabled: by FAB_ST_CTRL, or on a unit without a lease by its state (R127, R402). -/
def M.testsOn (m : M) (x : FRef) : Bool := m.bit x || (m.ibx.selfTest && !m.leased)

/-- The first test of a rotation: its time counts from now (log 110). -/
def M.startRotation (m : M) : M :=
  if m.fab.quads.all (fun x => x.tested == 0) then { m with ibx := { m.ibx with rotationAt := m.time.tb } } else m

/-- A rotation that is complete is counted, told in time or late, and the next one begins (R127, R401). -/
def M.endRotation (m : M) : M :=
  if !m.rotationDone then m
  else
    let m1 := m.wr .FAB_ST_CNT (m.rd .FAB_ST_CNT + 1)
    let inTime := m1.time.tb ≤ m1.ibx.rotationAt + max 1 (m1.get F.FAB_ST_CTRL_period) * 10 * ms
    { m1 with ibx := { m1.ibx with rotationOk := inTime }
              fab := { m1.fab with quads := m1.fab.quads.map (fun x => { x with tested := 0 }) } }

/-- SELF_TEST_FIRING: a test token fires an idle cell; one marked failed drops it; a rotation completes once every idle cell has
been tested (R127, R129). -/
def M.selfTestFiring (m : M) (q c : Nat) (r : SelfTest) : M :=
  if 4 ≤ q || 2048 ≤ c || !m.testsOn F.FAB_ST_CTRL_en || m.qstate q == 0 || !m.cellIdle q c || m.loadHoldsTests q ||
     (m.armedCells q).contains c then m
  else if (m.quad q).failed.contains c then m.dropToken q ((m.cell q c).map Cell.unit)
  else
    let kind := if c < 0x600 then 1 else if c < 0x700 then 2 else 3
    let m0 := (m.startRotation.fabricEvent 8 q ((m.cell q c).map Cell.unit)).modQuad q (fun x => { x with tested := putBitN x.tested c true })
    let m1 := match r with
      | .pass => m0
      | .cell => m0.markFailed q c kind
      | .path => m0.markFailed q c 4
    m1.endRotation

/-- MCELL_WORD_TEST: a word of an M-cell in use is tested and restored, at most one word per cell in 10 µs, or an unused M-cell
is march tested; only a failure shows (R128, R129). -/
def M.mcellWordTest (m : M) (q c _word : Nat) (pass : Bool) : M :=
  let used := (m.cell q c).isSome
  let soon := used && ((m.quad q).wordTests.any (fun p => p.1 == c && decide (m.time.tb < p.2 + 10000)))
  if c < 0x700 || m.qstate q == 0 || m.loadHoldsTests q || soon ||
     !(if used then m.bit F.FAB_ST_CTRL_mused else m.testsOn F.FAB_ST_CTRL_munused) then m
  else
    let m1 := if used then m.modQuad q (fun x => { x with wordTests := aput c m.time.tb x.wordTests }) else m
    if pass then m1 else m1.markFailed q c 3

end Sys2Proof.Machine
end

