-- ==== Sys2Proof/Machine/SbkCheck.lean ====
section
/-! DEFINITION. Limits of the fabric that the loader checks: Springbok paths and counter chains (R113, R118, Table 3-9). -/

namespace Sys2Proof.Machine

/-! ### Firings one edge can cause (R118) -/

/-- A firing an edge can cause in a quadrant: a slot of an A-cell, or a request of an M-cell (slot 0 read, slot 1 with two
operands). -/
structure Firing where
  cell : Nat
  slot : Nat
  deriving DecidableEq, Repr

def ASlot.links (s : ASlot) : List Nat := if s.isWrite then [] else [s.link0, s.link1].filter (fun l => tbit l 15)

/-- Ports a firing takes tokens from, links it sends on, firing time in cell operation times (Table 3-2). -/
def Cell.firing (c : Cell) (slot : Nat) : Option (List Nat × (List Nat × Nat)) :=
  match c.body with
  | .a b => (b.slots[slot]?).bind (fun s =>
      if s.valid && s.trigger % 8 == 0 then
        some (s.ports, (s.links, if s.opcode == 0x38 then 3 else if s.opcode / 16 == 2 || s.opcode / 16 == 3 then 2 else 1))
      else none)
  | .m b =>
    let out := if tbit b.link 15 then [b.link] else []
    if slot == 0 then some ([0], (out, 1)) else if slot == 1 then some ([1, 2], (out, 1)) else none
  | .t _ => none

def M.firing (m : M) (q : Nat) (f : Firing) : Option (List Nat × (List Nat × Nat)) :=
  (m.cell q f.cell).bind (fun c => c.firing f.slot)

/-- Firings that take a token from the end of a link. -/
def M.firingsAt (m : M) (q link : Nat) : List Firing :=
  (List.range 8).filterMap (fun s =>
    let f : Firing := ⟨fieldN link 2 11, s⟩
    match m.firing q f with
    | some (ps, _) => if ps.contains (fieldN link 13 2) then some f else none
    | none => none)

/-- Firings directly after one. -/
def M.firingsAfter (m : M) (q : Nat) (f : Firing) : List Firing :=
  match m.firing q f with
  | some (_, (ls, _)) => ls.flatMap (m.firingsAt q)
  | none => []

/-- Firings reached from a list; `n` bounds the steps. -/
def M.firingsFrom (m : M) (q : Nat) : Nat → List Firing → List Firing → List Firing
  | 0, seen, _ => seen
  | _, seen, [] => seen
  | n + 1, seen, f :: rest =>
    if seen.contains f then m.firingsFrom q n seen rest
    else m.firingsFrom q n (f :: seen) (m.firingsAfter q f ++ rest)

/-- Times one edge fires a firing of a set: the fewest tokens that reach one of its ports, at least 1; `n` bounds the
chains followed. -/
def M.timesFired (m : M) (q edgeLink : Nat) (all : List Firing) : Nat → Firing → Nat
  | 0, _ => 1
  | n + 1, f =>
    match m.firing q f with
    | none => 0
    | some (ps, _) =>
      let tokens (p : Nat) : Nat :=
        let first := if fieldN edgeLink 2 11 == f.cell && fieldN edgeLink 13 2 == p then 1 else 0
        all.foldl (fun (a : Nat) g =>
          let sent := match m.firing q g with
            | some (_, (ls, _)) => (ls.filter (fun l => fieldN l 2 11 == f.cell && fieldN l 13 2 == p)).length
            | none => 0
          if sent == 0 then a else a + sent * m.timesFired q edgeLink all n g) first
      max 1 ((ps.map tokens).foldl min ((ps.map tokens).headD 1))

/-- What a chain adds where it passes a cell: every firing of the cell for the same edge that does not come after the firing on
the chain. -/
def M.costAt (m : M) (q edgeLink : Nat) (all : List Firing) (f : Firing) : Nat :=
  let after := m.firingsFrom q 4096 [] (m.firingsAfter q f)
  all.foldl (fun (a : Nat) g =>
    if g.cell == f.cell && !after.contains g then
      a + m.timesFired q edgeLink all 49 g * ((m.firing q g).map (fun p => p.2.2)).getD 0
    else a) 0

/-- Cost of a chain given from its last firing back: a cell passed again counts at its last place. -/
def M.chainCost (m : M) (q edgeLink : Nat) (all : List Firing) : List Nat → List Firing → Nat
  | _, [] => 0
  | seen, f :: rest =>
    if seen.contains f.cell then m.chainCost q edgeLink all seen rest
    else m.costAt q edgeLink all f + m.chainCost q edgeLink all (f.cell :: seen) rest

/-- Every chain from a firing on keeps the limit of 48 cell operation times up to the final cell; `n` bounds the firings of a
chain, which each take at least one. -/
def M.chainsFit (m : M) (q edgeLink final : Nat) (all : List Firing) : Nat → List Firing → Firing → Bool
  | 0, _, _ => false
  | n + 1, back, f =>
    let chain := f :: back
    (!(f.cell == final) || m.chainCost q edgeLink all [] chain ≤ 48) &&
    (m.firingsAfter q f).all (fun g => m.chainsFit q edgeLink final all n chain g)

/-! ### Paths (R118) -/

/-- Cells of a path, its EDGE cell among them. -/
def M.pathCells (m : M) (p : SbkPath) : List Nat := m.reachCells p.quadrant 40000 [] [p.edgeCell]

/-- Valid write slots of a cell. -/
def Cell.writes (c : Cell) : List ASlot :=
  match c.body with
  | .a b => b.slots.filter (fun s => s.valid && s.isWrite)
  | _ => []

/-- Links a cell can send on. -/
def Cell.links (c : Cell) : List Nat :=
  (match c.body with
   | .a b => b.slots.flatMap (fun (s : ASlot) => if s.valid then s.links else [])
   | .t t => [t.outLink, t.carryLink, t.snapLink]
   | .m b => [b.link]).filter (fun l => tbit l 15)

/-- Slots of a cell that hold a valid write. -/
def Cell.writeSlots (c : Cell) : List Nat :=
  match c.body with
  | .a b => (List.range b.slots.length).filter (fun i => (b.slots[i]?).any (fun s => s.valid && s.isWrite))
  | _ => []

/-- No cell outside a list sends to one of it: its cells serve their path alone (R118). -/
def M.servesAlone (m : M) (q : Nat) (cells : List Nat) : Bool :=
  (m.quad q).cells.all (fun p => cells.contains p.1 || p.2.links.all (fun l => !cells.contains (fieldN l 2 11)))

/-- One path keeps the conditions of R118 that concern it alone. -/
def M.pathValid (m : M) (p : SbkPath) : Bool :=
  let cells := m.pathCells p
  match m.tcell p.quadrant p.edgeCell, m.cell p.quadrant p.finalCell with
  | some (_, t), some fin =>
    let firsts := if tbit t.outLink 15 then m.firingsAt p.quadrant t.outLink else []
    let all := m.firingsFrom p.quadrant 4096 [] firsts
    t.mode == .edge && fin.writeSlots.any (fun i => all.contains ⟨p.finalCell, i⟩) && m.servesAlone p.quadrant cells &&
    cells.all (fun c => c == p.edgeCell || (match m.cell p.quadrant c with
      | some cl => !cl.start && (c == p.finalCell || cl.writes.isEmpty) && (match cl.body with
        | .t _ => false
        | _ => true)
      | none => false)) &&
    (match fin.writes with
     | [s] => s.constId && (match m.point s.const.toNat with
       | some e => e.dir == 1 && e.backing == 2
       | none => false)
     | _ => false) &&
    firsts.all (fun f => m.chainsFit p.quadrant t.outLink p.finalCell all 49 [] f)
  | _, _ => false

/-- First path record that breaks a condition of R118: number, paths per quadrant and module, cells that serve two paths. -/
def M.badPath (m : M) (paths : List SbkPath) : Option SbkPath :=
  paths.find? (fun p =>
    decide (8 < paths.length) || decide (2 < (paths.filter (fun x => x.quadrant == p.quadrant)).length) ||
    decide (1 < (paths.filter (fun x => x.path == p.path)).length) || !m.pathValid p ||
    paths.any (fun x => !(x.path == p.path) && x.quadrant == p.quadrant &&
      (m.pathCells x).any (fun c => (m.pathCells p).contains c)))

/-! ### Counter chains (R113) -/

/-- Cells of the chain that starts at a cell, following its linked cells; `n` bounds them. -/
def M.chainLength (m : M) (q : Nat) : Nat → Nat → Nat
  | 0, _ => 0
  | n + 1, c =>
    match m.tcell q c with
    | some (_, t) => if t.chained then 1 + m.chainLength q n (c + 1) else 1
    | none => 0

/-- A chain from a CNT cell holds more than four cells (Table 3-9). -/
def M.chainTooLong (m : M) (q c : Nat) : Bool :=
  match m.tcell q c with
  | some (_, t) => t.mode == .cnt && 4 < m.chainLength q 8 c
  | none => false

/-- The cell is the lowest of a chain that is too long, or one of the seven above it. -/
def M.inLongChain (m : M) (q c : Nat) : Bool :=
  (List.range 8).any (fun k => decide (k ≤ c) && m.chainTooLong q (c - k) && decide (k < m.chainLength q 8 (c - k)))

end Sys2Proof.Machine
end

