-- ==== Sys2Proof/Machine/EvcRec.lean ====
section
/-! DEFINITION. Event controller, counters and sampling (chapter 20), and the parts of recorder and event log that move or
clear what is held (chapter 16). -/

namespace Sys2Proof.Machine

/-! ### Delivery (R588 to R593) -/

/-- Level of a source: 0 for the non-maskable; 0 written acts as 1. -/
def M.sourceLevel (m : M) (s : Nat) : Nat := if s < 4 then 0 else max 1 (m.get F.EVC_SRC_CFG_level s)

/-- Running level L_c. -/
def M.coreLevel (m : M) (c : Nat) : Nat := if c == 0 then m.get F.EVC_STAT_h0_lvl else m.get F.EVC_STAT_h1_lvl

def M.setCoreLevel (m : M) (c l : Nat) : M := if c == 0 then m.put F.EVC_STAT_h0_lvl l else m.put F.EVC_STAT_h1_lvl l

/-- Threshold of a core: 0 acts as 1, above 16 acts as 16. -/
def M.threshold (m : M) (c : Nat) : Nat := min 16 (max 1 (m.get F.EVC_THR_thr c))

/-- Source `s` is offered to core `c` (R589). -/
def M.offered (m : M) (c s : Nat) : Bool :=
  m.bitOf F.EVC_PEND_pend (s % 32) (s / 32) && (if s < 4 then c == 0 else m.get F.EVC_SRC_CFG_dest s == c) &&
  (s < 4 || m.bit F.EVC_SRC_CFG_en s) && m.sourceLevel s < m.coreLevel c && (s < 4 || m.sourceLevel s < m.threshold c)

/-- The offered source of lowest level, and among equal levels of lowest number (R590). -/
def M.nextSource (m : M) (c : Nat) : Option Nat :=
  ((List.range 256).filter (m.offered c)).foldl (fun a s => match a with
    | none => some s
    | some x => if m.sourceLevel s < m.sourceLevel x then some s else some x) none

def EventState.stack (e : EventState) (c : Nat) : List (Nat × Nat) := if c == 0 then e.stack0 else e.stack1

def EventState.setStack (e : EventState) (c : Nat) (l : List (Nat × Nat)) : EventState :=
  if c == 0 then { e with stack0 := l } else { e with stack1 := l }

def EventState.setEntry (e : EventState) (c : Nat) (b : Bool) : EventState :=
  if c == 0 then { e with entry0 := b } else { e with entry1 := b }

/-- A core is halted (R566), or has no power. -/
def M.coreStands (m : M) (c : Nat) : Bool :=
  !m.domainOn 4 || (if c == 0 then m.bit F.KV_DBG_h0_halt else m.bit F.KV_DBG_h1_halt)

/-- EVENT_ENTRY: a core to which a source is offered enters its event entry (R589). -/
def M.eventEntry (m : M) (c : Nat) : M :=
  if m.coreStands c || (m.nextSource c).isNone then m else { m with ev := m.ev.setEntry c true }

/-- What a read of EVC_CLAIMc returns (R590, Table 20-8). -/
def M.claimWord (m : M) (c : Nat) : Nat :=
  match m.nextSource c with
  | none => 0
  | some s => 2 ^ 31 + m.sourceLevel s * 256 + s

/-- EVC_CLAIM: the read's effect (R590). -/
def M.evcClaim (m : M) (c : Nat) : M :=
  match m.nextSource c with
  | none => m
  | some s =>
    let m1 := m.putBit F.EVC_PEND_pend (s % 32) false (s / 32)
    let m2 := if s < 4 then m1.putBit F.EVC_STAT_nm s false else m1
    let e := (m2.ev.setStack c ((m2.coreLevel c, s) :: m2.ev.stack c)).setEntry c false
    (({ m2 with ev := e }).setCoreLevel c (m2.sourceLevel s)).coreEvent c 9 false

/-- EVC_DONE: only of the source last claimed and not yet done (R590). -/
def M.evcDone (m : M) (c s : Nat) : M :=
  match m.ev.stack c with
  | (l, top) :: rest =>
    if top == s then (({ m with ev := m.ev.setStack c rest }).setCoreLevel c l).put F.EVC_STAT_done_err 0
    else m.put F.EVC_STAT_done_err 1
  | [] => m.put F.EVC_STAT_done_err 1

/-- SOFTWARE_RAISE (R593). -/
def M.softwareRaise (m : M) (s : Nat) : M := if 0x80 ≤ s && s ≤ 0xFF then m.raise s else m

/-! ### Precise sampling (R599, R600) -/

/-- SAMPLE_RECORD: the tagged instruction completes: one record of Table 20-6, whole (R599, R600). -/
def M.sampleRecord (m : M) (addr : Word) (user : Bool) (latency : Nat) (data : Word) : M :=
  let count := m.get F.EVC_SMP_STAT_count
  let stopped := m.bit F.EVC_SMP_CFG_stop && count == 512
  if !m.bit F.EVC_SMP_CFG_en || !([1, 2, 3, 4, 5, 7].contains (m.get F.EVC_SMP_CFG_event)) then m
  else if stopped then { m with ev := { m.ev with smpTagged := false } }
  else
    let i := m.get F.EVC_SMP_STAT_next
    let w1 := m.get F.EVC_SMP_CFG_event * 2 ^ 24 + m.get F.EVC_SMP_CFG_core * 2 ^ 23 + b2n user * 2 ^ 22 +
      b2n m.ev.smpLost * 2 ^ 21 + min latency 0xFFFF
    let data' := if m.get F.EVC_SMP_CFG_event == 4 then 0 else data
    let m1 := (((m.wr .EVC_SMP_W addr i 0).wr .EVC_SMP_W (BitVec.ofNat 32 w1) i 1).wr .EVC_SMP_W data' i 2).wr
      .EVC_SMP_W (BitVec.ofNat 32 m.time.tai) i 3
    let n := min 512 (count + 1)
    let m2 := (((m1.put F.EVC_SMP_STAT_next ((i + 1) % 512)).put F.EVC_SMP_STAT_count n).put F.EVC_SMP_STAT_wrap
      (if count == 512 then 1 else m1.get F.EVC_SMP_STAT_wrap)).put F.EVC_SMP_STAT_full
      (b2n (m.bit F.EVC_SMP_CFG_stop && n == 512))
    let m3 := { m2 with ev := { m2.ev with smpTagged := false, smpLost := false } }
    if (n == 256 && count == 255) || (n == 512 && count == 511) then m3.raise 0x4B else m3

/-- A sample word as a tag sees it: word 2 of a user-partition record reads 0 to all but the system tag (R600). -/
def M.sampleWord (m : M) (t : Tag) (r w : Nat) : Word :=
  if w == 2 && !t.isSystem && wfield (m.rd .EVC_SMP_W r 1) 22 1 == 1 then 0 else m.rd .EVC_SMP_W r w

/-- SAMPLE_READ: a read of word 0 latches words 1 to 3 for the initiator's next reads (R600). -/
def M.sampleLatch (m : M) (w : Who) (r : Nat) : M :=
  let v := (r, (m.sampleWord w.tag r 1, (m.sampleWord w.tag r 2, m.sampleWord w.tag r 3)))
  { m with ev := { m.ev with smpLatch := aput w.ini v m.ev.smpLatch } }

/-- SAMPLE_CLEAR (R600). -/
def M.sampleClear (m : M) : M := m.wr .EVC_SMP_STAT 0

/-! ### Event log (R520, R521) -/

/-- Remove the oldest entry that satisfies a condition; none when there is none. -/
def removeOldest (p : LogEntry → Bool) (l : List LogEntry) : Option (List LogEntry) :=
  (l.find? p).map (fun e => l.erase e)

/-- Entries a tenant may hold: below 16 acts as 16. -/
def M.quota (m : M) : Nat := max 16 (m.get F.REC_LOG_CFG_quota)

/-- The log with room for an entry of a severity and tenant: free place or a replaced entry; none when it is dropped. -/
def M.logRoom (m : M) (sev tenant : Nat) : Option (List LogEntry) :=
  let l := m.frec.log
  if 1 ≤ tenant && tenant ≤ 250 && m.quota ≤ (l.filter (fun e => e.tenant == tenant)).length then
    removeOldest (fun e => e.tenant == tenant && sev ≤ e.sev) l
  else if l.length < 1048576 then some l
  else removeOldest (fun e => sev ≤ e.sev) l

/-- LOG_ENTRY: the oldest queued entry is written to the historian (R520, R521). -/
def M.logWrite (m : M) : M :=
  match m.frec.logQueue with
  | [] => m
  | e :: rest =>
    if !m.domainOn 13 then m
    else
      let m1 := { m with frec := { m.frec with logQueue := rest } }
      if m.hstReadOnly then m1.dropEntry e.tenant
      else match m1.logRoom e.sev e.tenant with
      | none => m1.dropEntry e.tenant
      | some l =>
        let r := m1.frec
        let tseq := getd 0 e.tenant r.tseq
        let entry : LogEntry := ⟨r.nextLogSeq, tseq, e.tai, e.code, e.sev, e.tenant, r.logLost.contains e.tenant, e.rseq,
          padTo 104 e.body, e.map⟩
        let r' := { r with log := l ++ [entry], nextLogSeq := (r.nextLogSeq + 1) % 2 ^ 32,
                           tseq := aput e.tenant ((tseq + 1) % 2 ^ 32) r.tseq,
                           logLost := r.logLost.filter (fun t => !(t == e.tenant)) }
        (({ m1 with frec := r' }).put F.REC_LOG_SEQ_seq r.nextLogSeq).hstWrites 128

/-- An entry as its 128 bytes (Table 16-3). -/
def LogEntry.bytes (e : LogEntry) : Bytes :=
  toBE 4 e.seq ++ toBE 4 e.tseq ++ toBE 8 e.tai ++ toBE 1 e.code ++ toBE 1 e.sev ++ toBE 1 e.tenant ++ toBE 1 (b2n e.lost) ++
  toBE 4 e.rseq ++ padTo 104 e.body

/-- RECORD_COPY: the oldest record not yet copied reaches the recorder area of the historian (R522). -/
def M.recordCopy (m : M) : M :=
  match m.frec.uncopied with
  | [] => m
  | _ :: rest =>
    if !m.domainOn 13 || m.hstReadOnly then m
    else
      let keep (l : List FrRecord) := l.filter (fun x => !(rest.contains x.seq))
      let r := { m.frec with uncopied := rest, copyHead := keep m.frec.head, copyReel := keep m.frec.reel,
                             copyHeadSize := m.get F.REC_STAT_head }
      ({ m with frec := r }).hstWrites 64

/-- Copies pending are completed at once (R522: supply-fail warning). -/
def M.copyAll (m : M) : M :=
  if !m.domainOn 13 || m.hstReadOnly then m
  else
    let r := { m.frec with uncopied := [], copyHead := m.frec.head, copyReel := m.frec.reel,
                           copyHeadSize := m.get F.REC_STAT_head }
    ({ m with frec := r }).hstWrites (64 * m.frec.uncopied.length)

/-- At step 4 of bring-up the recorder is restored from the historian after a power-on reset (R522). -/
def M.restoreRecorder (m : M) : M :=
  if m.frec.ready then m
  else
    let r := m.frec
    let last := ((r.copyHead ++ r.copyReel).map FrRecord.seq).getLast?
    let r' := { r with ready := true, head := r.copyHead, reel := r.copyReel, lost := true,
                       nextSeq := (last.map (fun s => (s + 1) % 2 ^ 32)).getD 0 }
    let m1 := ({ m with frec := r' }).put F.REC_STAT_head r.copyHeadSize
    ((m1.put F.REC_STAT_restored 1).put F.REC_SEQ_seq (last.getD 0)).put F.REC_OLD_seq
      ((r.copyReel.head?.map FrRecord.seq).getD 0)

/-! ### Clearing (R526, R527) -/

/-- Result of a clear command. -/
def M.clrResult (m : M) (err : Nat) : M := (m.put F.REC_CLR_STAT_err err).put F.REC_CLR_STAT_busy 0

/-- The clearing nonce in force. -/
def M.clrNonce (m : M) : Word := Config.random m.frec.nonce

def M.newClrNonce (m : M) : M :=
  let (i, m1) := m.draw 1
  { m1 with frec := { m1.frec with nonce := i } }

/-- Content of a CLEAR record (Table 16-2). -/
def clearWords (w : Who) (op first last : Nat) (nonce : Word) : List Nat :=
  [op * 2 ^ 24 + w.tag.bytes.1 * 2 ^ 16 + w.tag.bytes.2 * 2 ^ 8 + w.ini, first, last, nonce.toNat]

/-- A refused clear: event and a record with op 0 and a removed range of 0 to 0 (R527). -/
def M.clrRefused (m : M) (w : Who) (nonce : Word) (err : Nat) : M :=
  ((m.clrResult err).flag F.REC_EVT_clr_fail 0x24).note 0x0D 1 0 (clearWords w 0 0 0 nonce)

/-- Tag, lock and MAC of a clear command are checked, the nonce replaced whether or not they pass; `act` clears. -/
def M.clearCommand (m : M) (w : Who) (op : Nat) (act : M → Word → M) : M :=
  let nonce := m.clrNonce
  let m0 := m.newClrNonce
  let allowed := (w.tag.isSystem && w.ini == 0) || w.tag.owner0
  if !allowed then m0.clrRefused w nonce 1
  else if m0.frec.lockUntil.any (fun t => m0.time.tb < t) then m0.clrResult 3
  else
    let good := m0.useSlot (m0.get F.REC_CTRL_clr_key) 25
    let mac := m0.kvBytes .REC_CLR_AUTH 4
    let fits := good.1.any (fun k =>
      (digestBytes (Config.hmac k (ascii "RECCLR" ++ toBE 4 nonce.toNat ++ toBE 1 op))).take 16 == mac)
    let m1 := good.2
    if !fits then
      let run := m1.frec.authRun + 1
      let lock := if run == 5 then some (m1.time.tb + 60 * sec) else m1.frec.lockUntil
      ({ m1 with frec := { m1.frec with authRun := run % 5, lockUntil := lock } }).clrRefused w nonce 2
    else act { m1 with frec := { m1.frec with authRun := 0 } } nonce

/-- First and last sequence of a list of records. -/
def seqRange (l : List FrRecord) : Nat × Nat := ((l.head?.map FrRecord.seq).getD 0, (l.getLast?.map FrRecord.seq).getD 0)

/-- CLEAR_REEL (op 0b01). -/
def M.clearReel (m : M) (w : Who) : M :=
  m.clearCommand w 1 (fun m nonce =>
    let (a, b) := seqRange m.frec.reel
    let r := { m.frec with reel := [], copyReel := [], uncopied := m.frec.uncopied.filter (fun s => m.frec.head.any (fun x => x.seq == s)) }
    ((({ m with frec := r }).note 0x0D 1 0 (clearWords w 1 a b nonce)).flag F.REC_EVT_cleared 0x24).clrResult 0)

/-- CLEAR_RECORDER (op 0b10): the new head takes effect (R518). -/
def M.clearRecorder (m : M) (w : Who) : M :=
  m.clearCommand w 2 (fun m nonce =>
    let (a, b) := seqRange (m.frec.head ++ m.frec.reel)
    let r := { m.frec with head := [], reel := [], copyHead := [], copyReel := [], uncopied := [] }
    let m1 := (({ m with frec := r }).transferAt [Reg.REC_CTRL.addr 0 0 0]).put F.REC_STAT_head (m.get F.REC_CTRL_head)
    ((m1.note 0x0D 1 0 (clearWords w 2 a b nonce)).flag F.REC_EVT_cleared 0x24).clrResult 0)

/-- CLEAR_LOG (op 0b11): the CLEAR entry is the first after it. -/
def M.clearLog (m : M) (w : Who) : M :=
  m.clearCommand w 3 (fun m nonce =>
    let a := (m.frec.log.head?.map LogEntry.seq).getD 0
    let b := (m.frec.log.getLast?.map LogEntry.seq).getD 0
    let held := m.frec.logQueue
    let m1 := { m with frec := { m.frec with log := [], logQueue := [] } }
    let m2 := m1.note 0x0D 1 0 (clearWords w 3 a b nonce)
    ((({ m2 with frec := { m2.frec with logQueue := m2.frec.logQueue ++ held } }).flag F.REC_EVT_cleared 0x24)).clrResult 0)

/-- CLEAR_UNLOCK (R527). -/
def M.clearUnlock (m : M) : M :=
  if m.due m.frec.lockUntil then { m with frec := { m.frec with lockUntil := none } } else m

end Sys2Proof.Machine
end

