-- ==== Sys2Proof/Machine/Meter.lean ====
section
/-! DEFINITION. Energy and quantity metering (chapter 7). -/

namespace Sys2Proof.Machine

/-! ### Inputs, clock and supply (R262 to R271, R290) -/

/-- A metering event flag with its source (R302). -/
def M.mtrFlag (m : M) (x : FRef) : M := m.flag x 0x40

def M.mtrRuns (m : M) : Bool := m.bit F.MTR_STAT_run

/-- The module drives the modulator clock; with src 0b10 as the lease stood at the last frame boundary (R266). -/
def M.clockDriven (m : M) : Bool :=
  m.get F.MTR_CLK_src == 0 || (m.get F.MTR_CLK_src == 2 && m.mtr.driving)

/-- The clock's source follows the lease (R266). -/
def M.clockFollows (m : M) : M := { m with mtr := { m.mtr with driving := m.leased } }

/-- An input counts as faulted (R264, R266, R269). -/
def M.miFaulted (m : M) (n : Nat) : Bool :=
  !(m.get F.MTR_MI_CFG_use n == 0) &&
  (tbit m.mtr.stream n || (m.mtrRuns && !m.bit F.MTR_STAT_clk) || m.get F.MTR_MI_SCALE_fs n == 0)

/-- Show the fault bits; a new one sets the flag. -/
def M.showFaults (m : M) : M :=
  let bits := (List.range 56).foldl (fun (a : Nat) n => a + b2n (m.miFaulted n) * 2 ^ n) 0
  let old := m.get F.MTR_MIFLT0_flt + m.get F.MTR_MIFLT1_flt * 2 ^ 32
  let m1 := (m.put F.MTR_MIFLT0_flt (bits % 2 ^ 32)).put F.MTR_MIFLT1_flt (bits / 2 ^ 32)
  if (List.range 56).any (fun n => tbit bits n && !tbit old n) then m1.mtrFlag F.MTR_EVT_mifault else m1

/-- MTR_STAT.clk as the clock stands; on its backup the modulator island counts as out of tolerance (R266, R432). -/
def M.showClock (m : M) : M :=
  m.putB F.MTR_STAT_clk (m.mtrRuns && (m.clockDriven || m.mtr.clockIn) && !m.bitOf F.TIM_CLK_STAT_fo 4)

/-- Circuit and energy names of a METER record's words. -/
def energyWords (c : Circuit) : List Nat := c.energies.flatMap (fun e => [e.xe / 2 ^ 32, e.xe % 2 ^ 32])

def M.circuit (m : M) (c : Nat) : Circuit := (m.mtr.circuits[c]?).getD Circuit.reset

def M.modCircuit (m : M) (c : Nat) (f : Circuit → Circuit) : M :=
  { m with mtr := { m.mtr with circuits := listMod m.mtr.circuits c f } }

/-- First input of the voltage set a circuit uses. -/
def M.circuitSet (m : M) (c : Nat) : Nat := m.get F.MTR_C_CFG_vset c

/-- Inputs a circuit uses (R263, R289). -/
def M.circuitInputs (m : M) (c : Nat) : List Nat :=
  let v := 4 * m.circuitSet c
  let i := 8 + 4 * c
  [v, v + 1, v + 2, v + 3, i, i + 1, i + 2] ++ (if m.get F.MTR_C_CFG_mode c == 1 then [i + 3] else [])

/-- The circuit's inputs match its mode (R263). -/
def M.circuitMatches (m : M) (c : Nat) : Bool :=
  let mode := m.get F.MTR_C_CFG_mode c
  (mode == 1 || mode == 2) && (m.circuitInputs c).all (fun n => m.get F.MTR_MI_CFG_use n == 1)

/-- A circuit's `on` and `cfg_bad` as its configuration stands; a mismatch shows on its points at once (R263). -/
def M.showMatch (m : M) (c : Nat) : M :=
  let bad := !m.circuitMatches c && !(m.get F.MTR_C_CFG_mode c == 0)
  let m1 := (m.putB F.MTR_C_STAT_on (m.mtrRuns && m.circuitMatches c) c).putB F.MTR_C_STAT_cfg_bad bad c
  if bad then
    (m1.pts.points.filter (fun p => p.2.backing == 3 && p.2.ref / 256 == 0x10 + c)).foldl (fun (a : M) p => a.setStatusBits p.1 stFault) m1
  else m1

def M.showMatches (m : M) : M := (List.range 12).foldl (fun (a : M) c => a.showMatch c) m

/-- Circuits that meter. -/
def M.meteringCircuits (m : M) : List Nat := (List.range 12).filter m.circuitMatches

/-- The record of a start or a stop (R271). -/
def M.meterStartStop (m : M) (run : Bool) : M :=
  m.note 9 4 0 (b2n run :: m.meteringCircuits.flatMap (fun c => c :: energyWords (m.circuit c)))

/-- METER_ENABLE (Table 7-3, step 2). -/
def M.meterEnable (m : M) : M :=
  let m0 := m.put F.MTR_CTRL_en 1
  if m.mtrRuns then { m0 with mtr := { m0.mtr with stopping := false } }
  else
    let m1 := { m0 with mtr := { m0.mtr with frames := 0, settleAt := m0.time.tb + 2100000, stopping := false, stream := 0,
                                              condition := 0, overrange := 0 } }
    ((m1.clockFollows.put F.MTR_STAT_run 1).showClock.showFaults.showMatches).meterStartStop true

/-- The block has stopped: armed groups are applied by the caller (R271). -/
def M.meterStopped (m : M) : M :=
  let m1 := { m with mtr := { m.mtr with stopping := false } }
  ((m1.put F.MTR_STAT_run 0).put F.MTR_STAT_clk 0).showFaults.showMatches.meterStartStop false

/-- SUPPLY_ENABLE: a supply that has switched off needs 0 and then 1 (R270, R290). -/
def M.supplyEnable (m : M) (on : Bool) : M :=
  let was := m.bit F.MTR_CTRL_sup_en
  let m1 := m.putB F.MTR_CTRL_sup_en on
  if !on then m1.put F.MTR_STAT_sup_ok 0 else if was then m1 else m1.put F.MTR_STAT_sup_ok 1

/-- SENSOR_SUPPLY_FAULT (R290). -/
def M.supplyFault (m : M) : M :=
  if m.bit F.MTR_STAT_sup_ok then (m.put F.MTR_STAT_sup_ok 0).mtrFlag F.MTR_EVT_sup else m

/-- All 56 inputs. -/
def allInputs : Nat := 2 ^ 56 - 1

/-- MOD_CLOCK_FAULT: the received clock is absent or out of tolerance (R266). -/
def M.modClockFault (m : M) : M :=
  let m1 := { m with mtr := { m.mtr with clockIn := false } }
  if !m.mtrRuns || m.clockDriven then m1
  else ({ m1 with mtr := { m1.mtr with stream := allInputs, condition := allInputs } }).showClock.showFaults

/-- MOD_CLOCK_RETURN (R266). -/
def M.modClockReturn (m : M) : M :=
  (({ m with mtr := { m.mtr with clockIn := true } }).showClock).showFaults

/-- INPUT_FAULT: a stream has held one level for 128 clocks (R269). -/
def M.inputFault (m : M) (n : Nat) : M :=
  if 56 ≤ n || !m.mtrRuns then m
  else ({ m with mtr := { m.mtr with stream := putBitN m.mtr.stream n true, condition := putBitN m.mtr.condition n true } }).showFaults

/-! ### Correction (R273 to R275) -/

def l64 (l : List F64) (k : Nat) : F64 := (l[k]?).getD 0

/-- A signed register value as binary64. -/
def wordInt64 (w : Word) : F64 := f64Of ((signedN w.toNat 32 : Int) : Rat)
def nat64 (n : Nat) : F64 := f64Of (n : Rat)

/-- 1 + g × 10⁻⁷. -/
def gainOf (g : F64) : F64 := f64Add (nat64 1) (f64Mul g (f64Of (1 / 10000000)))

/-- A value in full scales as V or A. -/
def M.scaled (m : M) (n : Nat) (x : F64) : F64 := f64Div (f64Mul x (nat64 (m.get F.MTR_MI_SCALE_fs n))) (nat64 1000)

/-- Gain (10⁻⁷) and phase (10⁻⁴ °) of a current channel at an RMS current (R274). -/
def M.lookup (m : M) (k : Nat) (i : F64) : F64 × F64 :=
  let n := m.eff F.MTR_CK_NSEG_n k
  let gain (j : Nat) : F64 := wordInt64 (m.effWord .MTR_CK_GAIN k j)
  let phase (j : Nat) : F64 := wordInt64 (m.effWord .MTR_CK_PHASE k j)
  let knot (j : Nat) : F64 := f64Div (nat64 (m.effWord .MTR_CK_KNOT k (j - 1)).toNat) (nat64 1000)
  if n == 0 || f64Le i 0 then (gain 0, phase 0)
  else if f64Le (knot n) i then (gain n, phase n)
  else
    let s := ((List.range n).find? (fun j => f64Lt i (knot (j + 1)))).getD 0 + 1
    let lo := if s == 1 then 0 else knot (s - 1)
    let t := f64Div (f64Sub i lo) (f64Sub (knot s) lo)
    let mix (f : Nat → F64) : F64 := f64Add (f (s - 1)) (f64Mul t (f64Sub (f s) (f (s - 1))))
    (mix gain, mix phase)

/-- Corrected RMS of a voltage input. -/
def M.voltage (m : M) (v : Nat) (x : F64) : F64 :=
  f64Mul (gainOf (wordInt64 (m.effWord .MTR_VC_GAIN v))) (m.scaled v x)

/-- RMS of the corrected difference of two voltages `x` and `y` of a set, pair `k` of the frame; their product is corrected as P is
(R275; DESIGN CHOICE, log 101). -/
def M.lineVoltage (m : M) (f : FrameMeasure) (x y k : Nat) : F64 :=
  let ux := m.voltage x (l64 f.u x)
  let uy := m.voltage y (l64 f.u y)
  let e4 := f64Of (1 / 10000)
  let a := f64Mul (f64Sub (wordInt64 (m.effWord .MTR_VC_PHASE y)) (wordInt64 (m.effWord .MTR_VC_PHASE x))) e4
  let g := f64Mul (gainOf (wordInt64 (m.effWord .MTR_VC_GAIN x))) (gainOf (wordInt64 (m.effWord .MTR_VC_GAIN y)))
  let prod := m.scaled x (m.scaled y (l64 f.pair k))
  let quad := m.scaled x (m.scaled y (l64 f.pairQ k))
  let c := f64Mul g (f64Add (f64Mul prod (cosDeg a)) (f64Mul quad (sinDeg a)))
  f64Sqrt (f64Sub (f64Add (f64Mul ux ux) (f64Mul uy uy)) (f64Add c c))

/-- Result of one phase of a circuit (R275). -/
structure PhaseResult where
  p : F64
  q : F64
  s : F64
  i : F64
  deriving DecidableEq, Repr

/-- Phase `ph` of circuit `c` (R275). -/
def M.phaseLaw (m : M) (f : FrameMeasure) (c ph : Nat) : PhaseResult :=
  let v := 4 * m.circuitSet c + ph
  let k := 4 * c + ph
  let u := m.scaled v (l64 f.u v)
  let i := m.scaled (8 + k) (l64 f.i k)
  let p := m.scaled v (m.scaled (8 + k) (l64 f.p (3 * c + ph)))
  let q := m.scaled v (m.scaled (8 + k) (l64 f.q (3 * c + ph)))
  let (gi0, phi0) := m.lookup k i
  let e4 := f64Of (1 / 10000)
  let gu := gainOf (wordInt64 (m.effWord .MTR_VC_GAIN v))
  let phu := f64Mul (wordInt64 (m.effWord .MTR_VC_PHASE v)) e4
  let gi := gainOf gi0
  let a := f64Sub (f64Mul phi0 e4) phu
  let cs := cosDeg a
  let sn := sinDeg a
  let g := f64Mul gu gi
  let ic := f64Mul gi i
  { p := f64Mul g (f64Add (f64Mul p cs) (f64Mul q sn)), q := f64Mul g (f64Sub (f64Mul q cs) (f64Mul p sn))
    s := f64Mul (f64Mul gu u) ic, i := ic }

/-! ### Energies (R276 to R280) -/

/-- Add watt-hours to an energy: whole units of 10⁻⁴ Wh move into the accumulator (R277). -/
def Energy.add (e : Energy) (wh : Rat) : Energy :=
  let total := e.residue + wh * 10000
  let n := (ratFloor total).toNat
  { xe := (e.xe + n) % 2 ^ 64, residue := total - n }

/-- Basic register and wrap count of an accumulator (R277). -/
def basicOf (xe : Nat) : Nat := xe / 100 % 2 ^ 32
def wrapOf (xe : Nat) : Nat := xe / (100 * 2 ^ 32) % 256

/-- The magnitude reaches the start threshold; a negative threshold acts as 0.0 (R276). -/
def reaches (x : Rat) (start : F32) : Bool :=
  match f32fmt.decode start.toNat with
  | .fin neg mag => neg || decide (mag ≤ x)
  | .inf neg => neg
  | .nan _ => false

/-- Quadrant of a frame: 0 to 3 for Q1 to Q4 (Table 7-5). -/
def quadrantOf (p q : Rat) : Nat := if 0 ≤ p then (if 0 ≤ q then 0 else 3) else (if 0 ≤ q then 1 else 2)

/-- One frame's energy goes to its registers (Table 7-5, R276). -/
def Circuit.addFrame (c : Circuit) (p q s : Rat) (dt : Rat) (start : F32) : Circuit :=
  let quad := quadrantOf p q
  let abs (x : Rat) : Rat := if x < 0 then -x else x
  let h := dt / 3600
  let one (i : Nat) (e : Energy) : Energy :=
    if i == (if p < 0 then 1 else 0) then (if reaches (abs p) start then e.add (abs p * h) else e)
    else if i == quad + 2 then (if reaches (abs q) start then e.add (abs q * h) else e)
    else if i == 6 then (if reaches s start then e.add (s * h) else e)
    else e
  { c with energies := (c.energies.zip (List.range 7)).map (fun x => one x.2 x.1) }

def Circuit.xe (c : Circuit) (q : Nat) : Nat := ((c.energies[q]?).map Energy.xe).getD 0

/-! ### Demand (R282 to R284) -/

/-- Mean power in W of an energy difference over a time on the timebase, as binary32 (R283). -/
def demandOf (dxe ns : Nat) : F32 := f32Of ((dxe : Rat) / 10000 * 60 / ((ns : Rat) / 60000000000))

/-- Begin an interval. -/
def Circuit.beginInterval (c : Circuit) (tb : Nat) (short : Bool) : Circuit :=
  { c with epi0 := c.xe 0, epe0 := c.xe 1, start := tb, short := short, stepped := false, waiting := false }

/-- End an interval: demands, and the maximum unless it is short (R283, R284). -/
def Circuit.endInterval (c : Circuit) (tb tai : Nat) : Circuit :=
  let d (x x0 : Nat) : F32 := demandOf ((x + 2 ^ 64 - x0) % 2 ^ 64) (tb - c.start)
  let dpi := d (c.xe 0) c.epi0
  let c1 := { c with dpi := dpi, dpe := d (c.xe 1) c.epe0 }
  if !c.short && f32Lt c.maxd dpi then { c1 with maxd := dpi, maxdt := tai / 1000000000 % 2 ^ 32 } else c1

/-- End a circuit's interval and show whether it was short. -/
def M.closeInterval (m : M) (c : Nat) : M :=
  let x := m.circuit c
  (m.putB F.MTR_C_STAT_short x.short c).modCircuit c (fun y => y.endInterval m.time.tb m.time.tai)

/-! ### Registers and points (R277, R278, R293, R294) -/

/-- Show a circuit's energies, wraps and demand in its registers (R278). -/
def M.showCircuit (m : M) (c : Nat) : M :=
  let x := m.circuit c
  let m1 := (List.range 7).foldl (fun (a : M) q =>
    ((a.wr .MTR_C_E (BitVec.ofNat 32 (basicOf (x.xe q))) c q).wr .MTR_C_XE_LO (BitVec.ofNat 32 (x.xe q)) c q).wr .MTR_C_XE_HI
      (BitVec.ofNat 32 (x.xe q / 2 ^ 32)) c q) m
  let w (q : Nat) : Nat := wrapOf (x.xe q)
  let m2 := (m1.wr .MTR_C_WRAP0 (BitVec.ofNat 32 (w 6 * 2 ^ 16 + w 1 * 256 + w 0)) c).wr .MTR_C_WRAP1
    (BitVec.ofNat 32 (w 5 * 2 ^ 24 + w 4 * 2 ^ 16 + w 3 * 256 + w 2)) c
  (((m2.wr .MTR_C_DPI x.dpi c).wr .MTR_C_DPE x.dpe c).wr .MTR_C_MAXD x.maxd c).wr .MTR_C_MAXDT (BitVec.ofNat 32 x.maxdt) c

/-- A metering point's value (Table 7-8). -/
def M.mtrPoint (m : M) (source code : Nat) (v : Word) (st : Nat) : M := m.backedUpdate 3 (source * 256 + code) v st

/-- Every point of one circuit (R294); freeze does not act on points (R278). -/
def M.circuitPoints (m : M) (c st : Nat) : M :=
  let s := 0x10 + c
  let x := m.circuit c
  let w (q : Nat) : Nat := wrapOf (x.xe q)
  let m1 := (List.range 11).foldl (fun (a : M) k => a.mtrPoint s (k + 1) (a.rd .MTR_C_MEAS c k) st) m
  let m2 := m1.mtrPoint s 0x0C (m1.rd .MTR_C_STAT c) st
  let m3 := (List.range 7).foldl (fun (a : M) q => a.mtrPoint s (0x10 + q) (BitVec.ofNat 32 (basicOf (x.xe q))) st) m2
  let m4 := (m3.mtrPoint s 0x17 (BitVec.ofNat 32 (w 6 * 2 ^ 16 + w 1 * 256 + w 0)) st).mtrPoint s 0x18
    (BitVec.ofNat 32 (w 5 * 2 ^ 24 + w 4 * 2 ^ 16 + w 3 * 256 + w 2)) st
  ((m4.mtrPoint s 0x20 x.dpi st).mtrPoint s 0x21 x.dpe st).mtrPoint s 0x22 x.maxd st

/-- Every point of one voltage set. -/
def M.setPoints (m : M) (s st : Nat) : M :=
  let m1 := (List.range 7).foldl (fun (a : M) k => a.mtrPoint s (k + 1) (a.rd .MTR_VS_RMS s k) st) m
  (m1.mtrPoint s 8 (m1.rd .MTR_VS_FREQ s) st).mtrPoint s 9 (m1.rd .MTR_VS_STAT s) st

/-! ### Detectors (Table 7-6) -/

/-- A METER record of a detector: set and phase, then duration and extreme at the end (R286). -/
def M.detectorNote (m : M) (s ph kind : Nat) (fin : Option (Nat × F32)) : M :=
  m.note 9 4 0 (match fin with
    | none => [s, ph, kind]
    | some (n, x) => [s, ph, kind + 16, n, x.toNat])

def M.vset (m : M) (s : Nat) : VoltageSet := (m.mtr.sets[s]?).getD VoltageSet.reset

def M.modSet (m : M) (s : Nat) (f : VoltageSet → VoltageSet) : M :=
  { m with mtr := { m.mtr with sets := listMod m.mtr.sets s f } }

/-- A share of the nominal voltage, in tenths of a per cent, as volts. -/
def M.ofNominal (m : M) (s k : Nat) : Rat := (m.get F.MTR_VS_CFG_unom s : Rat) / 10 * k / 1000

def lesser (a b : F32) : F32 := if f32Lt b a then b else a
def greater (a b : F32) : F32 := if f32Lt a b then b else a

/-- Sag of one phase. -/
def M.sagStep (m : M) (s ph : Nat) (u : Rat) (rms : F32) : M :=
  let on := m.bitOf F.MTR_VS_STAT_sag ph s
  let lim := m.eff F.MTR_VS_SAG_sag s
  let x := m.vset s
  if !on && u < m.ofNominal s lim then
    let m1 := (m.putBit F.MTR_VS_STAT_sag ph true s).mtrFlag F.MTR_EVT_sag
    let m2 := if m1.bit F.MTR_VS_STAT_intr s then m1 else m1.count F.MTR_VS_EVCNT_sags s
    (m2.modSet s (fun y => { y with sagLen := listSet y.sagLen ph 1, sagExt := listSet y.sagExt ph rms })).detectorNote s ph 0 none
  else if on && m.ofNominal s (lim + m.eff F.MTR_VS_SWELL_hyst s) ≤ u then
    ((m.putBit F.MTR_VS_STAT_sag ph false s).mtrFlag F.MTR_EVT_sag).detectorNote s ph 0
      (some ((x.sagLen[ph]?).getD 0, (x.sagExt[ph]?).getD 0))
  else if on then m.modSet s (fun y =>
    { y with sagLen := listMod y.sagLen ph (· + 1), sagExt := listMod y.sagExt ph (lesser rms) })
  else m

/-- Swell of one phase. -/
def M.swellStep (m : M) (s ph : Nat) (u : Rat) (rms : F32) : M :=
  let on := m.bitOf F.MTR_VS_STAT_swell ph s
  let lim := m.eff F.MTR_VS_SWELL_swell s
  let x := m.vset s
  if !on && m.ofNominal s lim < u then
    let m1 := ((m.putBit F.MTR_VS_STAT_swell ph true s).mtrFlag F.MTR_EVT_swell).count F.MTR_VS_EVCNT_swells s
    (m1.modSet s (fun y => { y with swellLen := listSet y.swellLen ph 1, swellExt := listSet y.swellExt ph rms })).detectorNote s ph 1 none
  else if on && u ≤ m.ofNominal s (lim - m.eff F.MTR_VS_SWELL_hyst s) then
    ((m.putBit F.MTR_VS_STAT_swell ph false s).mtrFlag F.MTR_EVT_swell).detectorNote s ph 1
      (some ((x.swellLen[ph]?).getD 0, (x.swellExt[ph]?).getD 0))
  else if on then m.modSet s (fun y =>
    { y with swellLen := listMod y.swellLen ph (· + 1), swellExt := listMod y.swellExt ph (greater rms) })
  else m

/-- Interruption of a set; phase 3 in its record stands for all. -/
def M.intrStep (m : M) (s : Nat) (us : List Rat) (least : F32) : M :=
  let on := m.bit F.MTR_VS_STAT_intr s
  let lim := m.eff F.MTR_VS_SAG_intr s
  let back := m.ofNominal s (lim + m.eff F.MTR_VS_SWELL_hyst s)
  let x := m.vset s
  if !on && us.all (fun u => decide (u < m.ofNominal s lim)) then
    let m1 := (m.put F.MTR_VS_STAT_intr 1 s).mtrFlag F.MTR_EVT_intr
    (m1.modSet s (fun y => { y with intrLen := 1, intrExt := least })).detectorNote s 3 2 none
  else if on && us.any (fun u => decide (back ≤ u)) then
    ((m.put F.MTR_VS_STAT_intr 0 s).mtrFlag F.MTR_EVT_intr).detectorNote s 3 2 (some (x.intrLen, x.intrExt))
  else if on then m.modSet s (fun y => { y with intrLen := y.intrLen + 1, intrExt := lesser y.intrExt least })
  else m

/-- Class of the phase sequence: 0 OK, 1 REVERSED, 2 INVALID (R287). -/
def sequenceClass (low : Bool) (lag2 lag3 : Rat) : Nat :=
  let near (x y : Rat) : Bool := decide (y - 20 ≤ x) && decide (x ≤ y + 20)
  if low then 2 else if near lag2 120 && near lag3 240 then 0 else if near lag2 240 && near lag3 120 then 1 else 2

/-- Phase sequence with its hold (Table 7-6). -/
def M.sequenceStep (m : M) (s cls : Nat) : M :=
  let shown := m.get F.MTR_VS_STAT_seq s
  let hold := m.eff F.MTR_VS_NTHR_hold s
  let run := (m.vset s).seqRun + 1
  if (shown == 0) == (cls == 0) then
    (if shown == 0 then m else m.put F.MTR_VS_STAT_seq cls s).modSet s (fun y => { y with seqRun := 0 })
  else if hold ≤ run then
    ((m.put F.MTR_VS_STAT_seq cls s).mtrFlag F.MTR_EVT_seq).modSet s (fun y => { y with seqRun := 0 })
  else m.modSet s (fun y => { y with seqRun := run })

/-- Missing neutral of a set with its hold. -/
def M.neutralStep (m : M) (s : Nat) (un : Rat) : M :=
  let on := m.bit F.MTR_VS_STAT_nmiss s
  let thr : Rat := (m.eff F.MTR_VS_NTHR_nthr s : Rat) / 10
  let away := if on then decide (un ≤ thr * 8 / 10) else decide (thr < un)
  let run := (m.vset s).neutralRun + 1
  if !away then m.modSet s (fun y => { y with neutralRun := 0 })
  else if m.eff F.MTR_VS_NTHR_hold s ≤ run then
    ((m.putB F.MTR_VS_STAT_nmiss (!on) s).mtrFlag F.MTR_EVT_vneut).modSet s (fun y => { y with neutralRun := 0 })
  else m.modSet s (fun y => { y with neutralRun := run })

/-- Missing neutral of a circuit without IN is its voltage set's (Table 7-6, mode 0b10). -/
def M.neutralOfSet (m : M) (c : Nat) : M :=
  let now := m.bit F.MTR_VS_STAT_nmiss (m.circuitSet c)
  if !(m.get F.MTR_C_CFG_mode c == 2) || now == m.bit F.MTR_C_STAT_nmiss c then m
  else (m.putB F.MTR_C_STAT_nmiss now c).mtrFlag F.MTR_EVT_cneut

/-- Missing neutral of a circuit (Table 7-6). -/
def M.circuitNeutral (m : M) (f : FrameMeasure) (c : Nat) : M :=
  let on := m.bit F.MTR_C_STAT_nmiss c
  let s := m.circuitSet c
  if m.get F.MTR_C_CFG_mode c == 2 then m.neutralOfSet c
  else
    let res := f64Rat (l64 f.res c)
    let inn := f64Rat (m.scaled (11 + 4 * c) (l64 f.i (4 * c + 3)))
    let cond := decide ((m.eff F.MTR_C_NTHR_thr c : Rat) / 10 < res) && decide (inn < res / 10)
    let run := (m.circuit c).neutralRun + 1
    if cond == on then m.modCircuit c (fun y => { y with neutralRun := 0 })
    else if m.eff F.MTR_VS_NTHR_hold s ≤ run then
      ((m.putB F.MTR_C_STAT_nmiss cond c).mtrFlag F.MTR_EVT_cneut).modCircuit c (fun y => { y with neutralRun := 0 })
    else m.modCircuit c (fun y => { y with neutralRun := run })

/-! ### Attribution, clears and the boundary (R279, R285, R291, R292, R299) -/

/-- A valid change of a circuit's tenant (Table 7-7). -/
def M.attribute (m : M) (c old : Nat) : M :=
  let new := m.eff F.MTR_C_TEN_tenant c
  if old == new then m
  else
    let m1 := m.modCircuit c (fun x => { x with short := true })
    let m2 := if m.mtrRuns && !(m.circuit c).waiting then (m1.closeInterval c).modCircuit c (fun x => x.beginInterval m.time.tb false) else m1
    let x := m2.circuit c
    let items : List RecItem := ([c, old * 256 + new] ++ energyWords x ++ [x.maxd.toNat]).map (fun w => (BitVec.ofNat 32 w, false))
    let seq := m2.nextRecord
    let m3 := ((m2.recordItems 9 items).logEntry 9 3 old seq (bodyOf items)).logEntry 9 3 new seq (bodyOf items)
    let entries := m3.pts.points.filter (fun p => p.2.backing == 3 && p.2.ref / 256 == 0x10 + c)
    let m4 := entries.foldl (fun (a : M) p =>
      let w0 := wset (wset p.2.w0 16 8 new) 4 12 0
      (a.placeEntry p.1 w0 p.2.w1).tellPeer (.directory p.1 w0 p.2.w1)) m3
    (m4.put F.MTR_C_STAT_tenant new c).mtrFlag F.MTR_EVT_attr

/-- Validation of a group (Table 7-11). -/
def M.meterGroupValid (m : M) (g : Nat) : Bool :=
  match g with
  | 0 => (List.range 48).all (fun k =>
      let n := m.get F.MTR_CK_NSEG_n k
      let knot (j : Nat) : Nat := (m.rd .MTR_CK_KNOT k (j - 1)).toNat
      let within (w : Word) (lim : Int) : Bool := let v := signedN w.toNat 32; decide (-lim ≤ v) && decide (v ≤ lim)
      n ≤ 8 && (List.range n).all (fun j => (if j == 0 then 0 else knot j) < knot (j + 1)) &&
      (List.range (n + 1)).all (fun j => within (m.rd .MTR_CK_GAIN k j) 1000000 && within (m.rd .MTR_CK_PHASE k j) 50000))
  | 1 => (List.range 2).all (fun s =>
      let intr := m.get F.MTR_VS_SAG_intr s
      let sag := m.get F.MTR_VS_SAG_sag s
      let swell := m.get F.MTR_VS_SWELL_swell s
      let hyst := m.get F.MTR_VS_SWELL_hyst s
      let hold := m.get F.MTR_VS_NTHR_hold s
      0 < intr && intr < sag && sag < 1000 && 1000 < swell && swell ≤ 2000 && hyst < sag - intr && hyst < swell - 1000 &&
      0 < m.get F.MTR_VS_NTHR_nthr s && 1 ≤ hold && hold ≤ 6000) &&
    (List.range 12).all (fun c => 0 < m.get F.MTR_C_NTHR_thr c)
  | _ => (List.range 12).all (fun c => m.get F.MTR_C_TEN_tenant c ≤ 250)

/-- Validate and apply the armed groups (R163, R292). -/
def M.meterGroups (m : M) : M :=
  (List.range 3).foldl (fun (a : M) g =>
    let olds := (List.range 12).map (fun c => (c, a.eff F.MTR_C_TEN_tenant c))
    a.commitGroup .mtr g (a.meterGroupValid g) (fun b =>
      if g == 2 then olds.foldl (fun (x : M) o => x.attribute o.1 o.2) b else b)) m

/-- The clear command in progress is carried out (R279, R285). -/
def M.meterClears (m : M) : M :=
  match m.mtr.clear with
  | none => m
  | some k =>
    let cs := (List.range 12).filter (fun c => k.circ == 15 || k.circ == c)
    let one (a : M) (c : Nat) : M :=
      let x := a.circuit c
      if k.energies then
        (a.note 9 4 (a.eff F.MTR_C_TEN_tenant c) ([c] ++ energyWords x)).modCircuit c (fun y =>
          { y with energies := List.replicate 7 Energy.reset, epi0 := (2 ^ 64 + y.epi0 - y.xe 0) % 2 ^ 64,
                   epe0 := (2 ^ 64 + y.epe0 - y.xe 1) % 2 ^ 64 })
      else (a.recordOnly 9 [c, x.maxd.toNat, x.maxdt]).modCircuit c (fun y => { y with maxd := 0, maxdt := 0 })
    let m1 := cs.foldl one m
    (({ m1 with mtr := { m1.mtr with clear := none } }).put F.MTR_CMD_STAT_err 0).put F.MTR_CMD_STAT_busy 0

/-- Addresses of the B fields that a frame boundary transfers. -/
def meterB : List Nat :=
  Reg.MTR_CTRL.addr 0 0 0 :: ((List.range 8).flatMap (fun v => [Reg.MTR_VC_GAIN.addr v 0 0, Reg.MTR_VC_PHASE.addr v 0 0]) ++
    (List.range 12).map (fun c => Reg.MTR_C_START.addr c 0 0))

/-- The boundary of the block: clears, B and P fields, freeze and the registers it holds (R159, R278, chapter 7). -/
def M.meterBoundary (m : M) : M :=
  let was := m.bit F.MTR_STAT_frozen
  let m1 := (m.meterClears.transferAt meterB).meterGroups
  let now := m1.effB F.MTR_CTRL_freeze
  let m2 := if was && now then m1 else (List.range 12).foldl (fun (a : M) c => a.showCircuit c) m1
  ((m2.putB F.MTR_STAT_frozen now).clockFollows.showClock).showFaults

/-- CLEAR_MAXD and CLEAR_ENERGIES: accepted till the next boundary; ignored while one waits (Table 7-14). -/
def M.meterClear (m : M) (w : Who) (energies : Bool) (circ : Nat) : M :=
  if m.mtr.clear.isSome then m
  else if energies && !(w.tag.isSystem || w.tag.owner0) then m.put F.MTR_CMD_STAT_err 1
  else if 12 ≤ circ && !(circ == 15) then m.put F.MTR_CMD_STAT_err 2
  else (({ m with mtr := { m.mtr with clear := some ⟨energies, circ⟩ } }).put F.MTR_CMD_STAT_err 0).put F.MTR_CMD_STAT_busy 1

/-! ### The frame (R276, R286, R289, R294) -/

/-- An input was overranged within the frame (R269). -/
def M.overranged (m : M) (f : FrameMeasure) (n : Nat) : Bool := tbit f.ovr n || tbit m.mtr.overrange n

/-- An input of a voltage set serves its metering role (R262). -/
def M.serves (m : M) (s k : Nat) : Bool := m.get F.MTR_MI_CFG_use (4 * s + k) == 1

/-- One voltage set at a frame end; inputs that do not serve the set read 0.0 and drive no detector (R262). -/
def M.setFrame (m : M) (f : FrameMeasure) (s : Nat) : M :=
  let v (k : Nat) : F64 := if m.serves s k then m.voltage (4 * s + k) (l64 f.u (4 * s + k)) else 0
  let line (k : Nat) : F64 :=
    if m.serves s k && m.serves s ((k + 1) % 3) then m.lineVoltage f (4 * s + k) (4 * s + (k + 1) % 3) (3 * s + k) else 0
  let three := m.serves s 0 && m.serves s 1 && m.serves s 2
  let us := [f64Rat (v 0), f64Rat (v 1), f64Rat (v 2)]
  let rms (k : Nat) : F32 := f64To32 (v k)
  let m1 := (List.range 4).foldl (fun (a : M) k => a.wr .MTR_VS_RMS (rms k) s k) m
  let m2 := (List.range 3).foldl (fun (a : M) k => a.wr .MTR_VS_RMS (f64To32 (line k)) s (4 + k)) m1
  let fault := (List.range 4).any (fun k => m.serves s k && m.miFaulted (4 * s + k))
  let ovr := (List.range 4).any (fun k => m.serves s k && m.overranged f (4 * s + k))
  let half := m.ofNominal s 500
  let m3 := m2.putB F.MTR_VS_STAT_fault fault s
  let m4 := if three then m3.intrStep s us (lesser (rms 0) (lesser (rms 1) (rms 2))) else m3
  let m5 := (List.range 3).foldl (fun (a : M) p =>
    let u := (us[p]?).getD 0
    if m.serves s p then (a.sagStep s p u (rms p)).swellStep s p u (rms p) else a) m4
  let low := us.any (fun u => decide (u < half))
  let m6 := if three then m5.sequenceStep s (sequenceClass low (f64Rat (l64 f.lag2 s)) (f64Rat (l64 f.lag3 s))) else m5
  let m7 := if m.serves s 3 then m6.neutralStep s (f64Rat (v 3)) else m6
  let fr := f64Rat (l64 f.freq s)
  let valid := m.serves s 0 && decide (half ≤ us.headD 0) && decide (45 ≤ fr) && decide (fr ≤ 65)
  let m8 := if valid == m7.bit F.MTR_VS_STAT_fvalid s then m7 else ((m7.putB F.MTR_VS_STAT_fvalid valid s).mtrFlag F.MTR_EVT_freq).showPhases
  let m9 := m8.wr .MTR_VS_FREQ (if valid then f64To32 (l64 f.freq s) else 0) s
  m9.setPoints s (b2n fault * stFault + b2n ovr * stOverrange)

/-- Totals of a circuit over a frame, and what its measurement registers show (R275). -/
structure CircuitTotals where
  p : F64
  q : F64
  s : F64
  meas : List F64
  deriving DecidableEq, Repr

/-- The totals of a circuit that meters (R275). -/
def M.circuitTotals (m : M) (f : FrameMeasure) (c : Nat) : CircuitTotals :=
  let r0 := m.phaseLaw f c 0
  let r1 := m.phaseLaw f c 1
  let r2 := m.phaseLaw f c 2
  let sum (g : PhaseResult → F64) : F64 := f64Add (f64Add (g r0) (g r1)) (g r2)
  let p := sum PhaseResult.p
  let q := sum PhaseResult.q
  let s := sum PhaseResult.s
  let pf := if f64Rat s == 0 then 0 else f64Div p s
  let inn := if m.get F.MTR_C_CFG_mode c == 1 then
      f64Mul (gainOf (m.lookup (4 * c + 3) (m.scaled (11 + 4 * c) (l64 f.i (4 * c + 3)))).1) (m.scaled (11 + 4 * c) (l64 f.i (4 * c + 3)))
    else 0
  { p := p, q := q, s := s, meas := [r0.i, r1.i, r2.i, inn, p, q, s, pf, r0.p, r1.p, r2.p] }

/-- The measurement registers and flags of a frame that is metered (R275, R276, R289). -/
def M.circuitStore (m : M) (c : Nat) (t : CircuitTotals) (ovr : Bool) : M :=
  let m2 := (t.meas.zip (List.range 11)).foldl (fun (a : M) x => a.wr .MTR_C_MEAS (f64To32 x.1) c x.2) m
  let m3 := ((m2.put F.MTR_C_STAT_fault 0 c).putB F.MTR_C_STAT_ovr ovr c).putB F.MTR_C_STAT_exp (decide (f64Rat t.p < 0)) c
  m3.put F.MTR_C_STAT_quad (quadrantOf (f64Rat t.p) (f64Rat t.q)) c

/-- The energies of a frame that is metered (R276, R277). -/
def M.circuitEnergy (m : M) (c : Nat) (t : CircuitTotals) (dt : Rat) : M :=
  let old := m.circuit c
  let new := old.addFrame (f64Rat t.p) (f64Rat t.q) (f64Rat t.s) dt (m.effWord .MTR_C_START c)
  let m5 := m.modCircuit c (fun _ => new)
  if (List.range 7).any (fun e => !(old.xe e / (100 * 2 ^ 32) == new.xe e / (100 * 2 ^ 32))) then m5.mtrFlag F.MTR_EVT_wrap else m5

/-- A frame that is not metered (R289). -/
def M.circuitLost (m : M) (c : Nat) : M :=
  let lost := satAdd (m.circuit c).lost 1 0xFFFFFFFF
  let m2 := (m.put F.MTR_C_STAT_fault 1 c).modCircuit c (fun x => { x with lost := lost, short := true })
  ((m2.wr .MTR_C_LOST (BitVec.ofNat 32 lost) c).neutralOfSet c).circuitPoints c stFault

/-- One circuit at a frame end (R275, R276, R289). -/
def M.circuitFrame (m : M) (f : FrameMeasure) (c : Nat) : M :=
  let m1 := m.showMatch c
  if !m.circuitMatches c then m1.circuitPoints c (if m.get F.MTR_C_CFG_mode c == 0 then 0 else stFault)
  else if (m.circuitInputs c).any m.miFaulted then m1.circuitLost c
  else
    let t := m.circuitTotals f c
    let ovr := (m.circuitInputs c).any (m.overranged f)
    let dt : Rat := if m.clockDriven then 1 / 100 else (f.dt : Rat) / 1000000000
    (((m1.circuitStore c t ovr).circuitEnergy c t dt).circuitNeutral f c).circuitPoints c (b2n ovr * stOverrange)

/-- Process-analog points; those of an input in another role are updated with the value they hold (Table 7-8, R294, R295). -/
def M.analogFrame (m : M) (f : FrameMeasure) : M :=
  (List.range 56).foldl (fun (a : M) n =>
    if !(a.get F.MTR_MI_CFG_use n == 2) then
      (a.backed 3 ((0x40 + n) * 256)).foldl (fun (b : M) p => b.backingUpdate p.1 p.2.value (b2n (a.miFaulted n) * stFault)) a
    else
      let v := f32Of (f32Rat ((f.mean[n]?).getD 0) * (a.get F.MTR_MI_SCALE_fs n : Rat) / 1000 + f32Rat (a.rd .MTR_MI_OFS n))
      a.mtrPoint (0x40 + n) 0 v (b2n (a.miFaulted n) * stFault + b2n (m.overranged f n) * stOverrange)) m

/-- Intervals end or start now (R282, R284). -/
def M.demandNow (m : M) : M := { m with mtr := { m.mtr with demandAt := m.calMinute } }

/-- Intervals at a frame end: the first frame begins them short, a calendar step ends them (R284). -/
def M.intervalFrame (m : M) (dt : Nat) (c : Nat) : M :=
  let x := m.circuit c
  if m.mtr.frames == 0 then (m.demandNow).modCircuit c (fun y => y.beginInterval (m.time.tb - dt) true)
  else if x.stepped && !x.waiting then (m.closeInterval c).modCircuit c (fun y => { y with stepped := false, waiting := true })
  else m.modCircuit c (fun y => { y with stepped := false })

/-- Units of 10⁻⁴ Wh of an energy, with its residue. -/
def Energy.total (e : Energy) : Rat := (e.xe : Rat) + e.residue

/-- An energy received of a stamped frame, with what this unit has added since (R296). -/
def Energy.continue_ (mir now then_ : Energy) : Energy :=
  let t := mir.total + (now.total - then_.total)
  let n := ratFloor t
  { xe := encodeInt n 64, residue := t - n }

/-- A circuit received of a stamped frame, with what this unit has metered since: energies, frames lost, and an interval that has
ended since then, over the joined energies (R296).  `x` and `then_` are as logged, `stamp` is the frame's end on the timebase. -/
def Circuit.continue_ (x now then_ : Circuit) (stamp taiOff : Nat) : Circuit :=
  let es := (x.energies.zip (now.energies.zip then_.energies)).map (fun p => p.1.continue_ p.2.1 p.2.2)
  let lost := min (x.lost + (now.lost - then_.lost)) 0xFFFFFFFF
  let base := { x with start := stamp - x.start, lost := lost, neutralRun := now.neutralRun, stepped := now.stepped, waiting := now.waiting }
  if now.start ≤ stamp then { base with energies := es, short := x.short || then_.lost < now.lost }
  else
    let at_ (q : Nat) (e0 : Nat) : Nat := (x.xe q + (e0 + 2 ^ 64 - then_.xe q)) % 2 ^ 64
    let mid := { base with energies := [⟨at_ 0 now.epi0, 0⟩, ⟨at_ 1 now.epe0, 0⟩] }
    { (mid.endInterval now.start (now.start + taiOff)) with
      energies := es, epi0 := mid.xe 0, epe0 := mid.xe 1, start := now.start, short := now.short }

/-- Received circuits are taken at the frame boundary, with this unit's frames after the stamped one (R296). -/
def M.takeMirrored (m : M) : M :=
  let one (a : M) (x : Nat × (Nat × Circuit)) : M :=
    let now := a.circuit x.1
    let then_ := ((aget x.2.1 a.mtr.frameLog).bind (fun l => l[x.1]?)).getD now
    let new := x.2.2.continue_ now then_ (a.time.tb - (a.time.tai - x.2.1)) (a.time.tai - a.time.tb)
    (a.modCircuit x.1 (fun _ => new)).wr .MTR_C_LOST (BitVec.ofNat 32 new.lost) x.1
  let m1 := m.mtr.mirrored.foldl one m
  { m1 with mtr := { m1.mtr with mirrored := [] } }

/-- Keep the circuits of this frame end, as far back as the longest mirror cycle reaches. -/
def M.logFrame (m : M) : M :=
  let kept := m.mtr.circuits.map (fun c => { c with start := m.time.tb - c.start })
  { m with mtr := { m.mtr with frameLog := ((m.time.tai, kept) :: m.mtr.frameLog).take 256 } }

/-- Length of a frame: 10 ms under a driven clock (R276). -/
def M.frameLength (m : M) (f : FrameMeasure) : Nat := if m.clockDriven then 10000000 else f.dt

/-- The intervals of all circuits at a frame end. -/
def M.intervalFrames (m : M) (dt : Nat) : M := (List.range 12).foldl (fun (a : M) c => a.intervalFrame dt c) m

/-- Streams that were stuck within the frame fault their inputs, overranged inputs in use set their flag. -/
def M.frameFaults (m : M) (f : FrameMeasure) : M :=
  let m1 := ({ m with mtr := { m.mtr with stream := Nat.lor m.mtr.stream f.stuck, condition := Nat.lor m.mtr.condition f.stuck } } :
    M).showFaults
  if (List.range 56).any (fun n => m.overranged f n && !(m.get F.MTR_MI_CFG_use n == 0)) then m1.mtrFlag F.MTR_EVT_ovr else m1

/-- A frame is counted. -/
def M.frameCount (m : M) : M := { m with mtr := { m.mtr with frames := m.mtr.frames + 1 } }

/-- A fault clears after a whole frame without its condition; the next frame begins, and without a clock every input stays at
fault (R266, R269). -/
def M.frameClears (m : M) : M :=
  ({ m with mtr := { m.mtr with stream := Nat.land m.mtr.stream m.mtr.condition, overrange := 0
                                condition := if m.bit F.MTR_STAT_clk then 0 else allInputs } }).showFaults

/-- The sets, circuits and process-analog inputs of a frame. -/
def M.frameMeter (m : M) (f : FrameMeasure) : M :=
  ((List.range 12).foldl (fun (a : M) c => a.circuitFrame f c) ((List.range 2).foldl (fun (a : M) s => a.setFrame f s) m)).analogFrame f

/-- A frame without set A's frequency spoils the mains trim window it lies in (Table 15-3). -/
def M.frameCycles (m : M) : M :=
  if m.bit F.MTR_VS_STAT_fvalid 0 then m else { m with mtr := { m.mtr with cyclesBad := true } }

/-- The boundary that ends a frame; a block that was stopped stops with it (R271). -/
def M.frameClose (m : M) : M :=
  let m1 := m.takeMirrored.logFrame.meterBoundary
  if m1.mtr.stopping then m1.meterStopped.meterGroups else m1

/-- FRAME_END: a frame of 80 samples has ended. -/
def M.frameEnd (m : M) (f : FrameMeasure) : M :=
  if !m.mtrRuns then m
  else
    let dt := m.frameLength f
    let m2 := m.frameFaults f
    let b := (if m2.mtr.frames == 0 then m2.intervalFrames dt else m2).frameCount.frameMeter f
    (if m2.mtr.frames == 0 then b else b.intervalFrames dt).frameCycles.frameClears.frameClose

/-- Metering stops: the frame in progress ends first; with no clock there is none (R271). -/
def M.meterHalt (m : M) : M :=
  if !m.mtrRuns then m
  else if m.bit F.MTR_STAT_clk then { m with mtr := { m.mtr with stopping := true } }
  else m.meterStopped.meterGroups

/-- METER_STOP (R271). -/
def M.meterStop (m : M) : M := (m.put F.MTR_CTRL_en 0).meterHalt

/-- An aligned calendar minute has come since intervals last ended or started (R282). -/
def M.demandDue (m : M) : Bool :=
  let len := max 1 (m.eff F.MTR_DMD_CFG_len)
  m.mtr.demandAt < m.calMinute - m.calMinute % 60 % len

/-- DEMAND_INTERVAL_END: the frame boundary at or after an aligned calendar minute (R282, R283). -/
def M.demandEnd (m0 : M) : M :=
  if !m0.demandDue then m0
  else
  let m := m0.demandNow
  let m1 := if !m.mtrRuns || m.mtr.frames == 0 then m
    else (List.range 12).foldl (fun (a : M) c =>
      let b := if (a.circuit c).waiting then a else a.closeInterval c
      b.modCircuit c (fun x => x.beginInterval m.time.tb false)) m
  let m2 := m1.transferAt [Reg.MTR_DMD_CFG.addr 0 0 0]
  if m2.bit F.MTR_STAT_frozen then m2 else (List.range 12).foldl (fun (a : M) c => a.showCircuit c) m2

/-- METER_SAVE: of a block that has power (R272). -/
def M.meterSave (m : M) : M := if m.domainOn 11 then { m with mtr := { m.mtr with saved := some ⟨m.mtr.circuits⟩ } } else m

/-- Saved accumulators and demand state return (R272). -/
def M.meterRestore (m : M) : M :=
  match m.mtr.saved with
  | none => m
  | some s => (List.range 12).foldl (fun (a : M) c => a.showCircuit c)
      { m with mtr := { m.mtr with circuits := s.circuits.map (fun c => { c with lost := 0, neutralRun := 0 }) } }

end Sys2Proof.Machine
end

