-- ==== Sys2Proof/Machine/Nvp.lean ====
section
/-! DEFINITION. The parameter store: page buffer, passwords, commits, margin scan (chapter 17). -/

namespace Sys2Proof.Machine

/-- The region a page lies in, by NVP_RGN (R529). -/
def M.regionOfPage (m : M) (p : Nat) : Nat :=
  ((List.range 8).find? (fun r => m.get F.NVP_RGN_first r ≤ p && p ≤ m.get F.NVP_RGN_last r)).getD 7

/-- Result of an NVP command: busy cleared, passwords cleared where the command took them. -/
def M.nvpResult (m : M) (err : Nat) : M := (m.put F.NVP_STAT_err err).put F.NVP_STAT_busy 0

def M.clearPw (m : M) : M := (m.wr .NVP_PW 0 0).wr .NVP_PW 0 1

def M.nvpBusy (m : M) : Bool := m.bit F.NVP_STAT_busy

/-! ### Rights (R532, R533) -/

/-- The read right of a region is the tag's. -/
def M.mayRead (m : M) (t : Tag) (r : Nat) : Bool :=
  (t.isSystem && (aget r m.nvp.rdPw).isNone) || (aget r m.nvp.rdOpen).any (fun p => p.1 == t)

/-- The write right of a region is the tag's. -/
def M.mayWrite (m : M) (t : Tag) (r : Nat) : Bool :=
  (t.isSystem && (aget r m.nvp.wrPw).isNone) || (aget r m.nvp.wrOpen).any (fun p => p.1 == t)

/-- A load or commit by a right's holder restarts its timeout (R533). -/
def M.touchRights (m : M) (t : Tag) (r : Nat) : M :=
  let f (p : Tag × Nat) : Tag × Nat := if p.1 == t then (t, m.time.tb) else p
  { m with nvp := { m.nvp with rdOpen := amod r f m.nvp.rdOpen, wrOpen := amod r f m.nvp.wrOpen } }

/-- The password in NVP_PW0 and NVP_PW1. -/
def M.pwWritten (m : M) : Word × Word := (m.rd .NVP_PW 0, m.rd .NVP_PW 1)

/-- An AUTH answer on a region: five in a row lock its open commands for 60 s (R533). -/
def M.nvpAuthFail (m : M) (r : Nat) : M :=
  let run := getd 0 r m.nvp.authRun + 1
  let locks := if run == 5 then aput r (m.time.tb + 60 * sec) m.nvp.lockUntil else m.nvp.lockUntil
  let m1 := { m with nvp := { m.nvp with authRun := aput r (run % 5) m.nvp.authRun, lockUntil := locks } }
  let m2 := if run == 1 then m1.flag F.NVP_EVT_lock 0x25 else m1
  m2.nvpResult 2

def M.nvpLocked (m : M) (r : Nat) : Bool := (aget r m.nvp.lockUntil).any (fun t => m.time.tb < t)

/-- op 0x3: open a region's read right. -/
def M.openRd (m : M) (w : Who) (r : Nat) : M :=
  if m.nvpBusy then m
  else if m.nvpLocked r then m.clearPw.nvpResult 3
  else if aget r m.nvp.rdPw == some m.pwWritten then
    let n := { m.nvp with rdOpen := aput r (w.tag, m.time.tb) m.nvp.rdOpen, authRun := adel r m.nvp.authRun }
    ({ m with nvp := n }).clearPw.nvpResult 0
  else m.clearPw.nvpAuthFail r

/-- op 0x4: open a region's write right. -/
def M.openWr (m : M) (w : Who) (r : Nat) : M :=
  if m.nvpBusy then m
  else if m.nvpLocked r then m.clearPw.nvpResult 3
  else if aget r m.nvp.wrPw == some m.pwWritten then
    let n := { m.nvp with wrOpen := aput r (w.tag, m.time.tb) m.nvp.wrOpen, authRun := adel r m.nvp.authRun }
    ({ m with nvp := n }).clearPw.nvpResult 0
  else m.clearPw.nvpAuthFail r

/-- op 0x5: close both rights of a region for the tag. -/
def M.closeRights (m : M) (w : Who) (r : Nat) : M :=
  if m.nvpBusy then m
  else
    let keep (l : List (Nat × (Tag × Nat))) := l.filter (fun p => !(p.1 == r && p.2.1 == w.tag))
    let n := { m.nvp with rdOpen := keep m.nvp.rdOpen, wrOpen := keep m.nvp.wrOpen }
    ({ m with nvp := n }).clearPw.nvpResult 0

/-- Who may set a password of a region (Table 17-2). -/
def M.maySetPw (m : M) (t : Tag) (r : Nat) : Bool :=
  t.isSystem || (t.owner0 && (m.mayWrite t r || (6 ≤ r && (aget r m.nvp.wrPw).isNone)))

/-- A password table after a set: eight zero bytes unset it (R532). -/
def setPw (l : List (Nat × (Word × Word))) (r : Nat) (pw : Word × Word) : List (Nat × (Word × Word)) :=
  if pw == (0, 0) then adel r l else aput r pw l

/-- op 0x6. -/
def M.setRd (m : M) (w : Who) (r : Nat) : M :=
  if m.nvpBusy then m
  else if !m.maySetPw w.tag r then m.clearPw.nvpResult 1
  else
    let n := { m.nvp with rdPw := setPw m.nvp.rdPw r m.pwWritten, rdOpen := adel r m.nvp.rdOpen }
    (({ m with nvp := n }).put F.NVP_RGN_rd_set (b2n (aget r n.rdPw).isSome) r).clearPw.nvpResult 0

/-- op 0x7. -/
def M.setWr (m : M) (w : Who) (r : Nat) : M :=
  if m.nvpBusy then m
  else if !m.maySetPw w.tag r then m.clearPw.nvpResult 1
  else
    let n := { m.nvp with wrPw := setPw m.nvp.wrPw r m.pwWritten, wrOpen := adel r m.nvp.wrOpen }
    (({ m with nvp := n }).put F.NVP_RGN_wr_set (b2n (aget r n.wrPw).isSome) r).clearPw.nvpResult 0

/-- Open rights unused for NVP_CTRL.tmo seconds end (R533). -/
def M.openTimeout (m : M) : M :=
  let tmo := max 1 (m.get F.NVP_CTRL_tmo) * sec
  let keep (l : List (Nat × (Tag × Nat))) := l.filter (fun p => m.time.tb < p.2.2 + tmo)
  { m with nvp := { m.nvp with rdOpen := keep m.nvp.rdOpen, wrOpen := keep m.nvp.wrOpen } }

/-! ### Buffer (R530, R531) -/

/-- A write to NVP_DATA. -/
def M.bufferWrite (m : M) (w : Who) (v : Word) : M :=
  let i := m.get F.NVP_ADDR_word
  let base := if m.nvp.owner == some w.tag then m.nvp.buffer else []
  ({ m with nvp := { m.nvp with owner := some w.tag, buffer := putd 0 i v base } }).put F.NVP_ADDR_word ((i + 1) % 64)

/-- What a read of NVP_DATA returns. -/
def M.bufferWord (m : M) (w : Who) : Word :=
  if m.nvp.owner == some w.tag then getd 0 (m.get F.NVP_ADDR_word) m.nvp.buffer else 0

/-- A read of NVP_DATA moves the word on. -/
def M.bufferRead (m : M) : M := m.put F.NVP_ADDR_word ((m.get F.NVP_ADDR_word + 1) % 64)

/-! ### Load and commit (R531, R534 to R538) -/

/-- Wear in percent of a store levelled over its 2,048 physical pages (Table 17-4). -/
def M.nvpWear (m : M) : Nat := min 100 ((m.nvp.copies.map Prod.snd).sum * 100 / (2048 * 100000000))

/-- NVP_WEAR follows, with its event at 80 %. -/
def M.wearFollows (m : M) : M :=
  let old := m.get F.NVP_WEAR_wear
  let m1 := m.put F.NVP_WEAR_wear m.nvpWear
  if old ≤ 80 && 80 < m.nvpWear then m1.flag F.NVP_EVT_wear 0x25 else m1

/-- Regions 1 to 5 are committed to the settings snapshot as well during a trial (R581). -/
def M.snapshotToo (m : M) (page : Nat) (words : List (Nat × Word)) : M :=
  let s := m.get F.UPD_STAT_state
  if (s == 3 || s == 4) && 0x20 ≤ page && page < 0x1C0 then
    { m with upd := { m.upd with snapshot := aput page words m.upd.snapshot } }
  else m

/-- The commit point of a page (R534, step 4). -/
def M.commitPage (m : M) (page : Nat) (words : List (Nat × Word)) : M :=
  (({ m with nvp := m.nvp.store page words }).snapshotToo page words).wearFollows

/-- The module's own save of a page: written only when it differs (R536). -/
def M.savePage (m : M) (page : Nat) (words : List (Nat × Word)) : M :=
  if (aget page m.nvp.pages).getD [] == words then m else m.commitPage page words

/-- op 0x1: fill the buffer from the addressed page. -/
def M.pageLoad (m : M) (w : Who) : M :=
  let p := m.get F.NVP_ADDR_page
  let r := m.regionOfPage p
  if m.nvpBusy then m
  else if !m.mayRead w.tag r then m.nvpResult 1
  else
    let m1 := (m.touchRights w.tag r).put F.NVP_STAT_page p
    if m.nvp.bad.contains p then
      let m2 := { m1 with nvp := { m1.nvp with buffer := [], owner := some w.tag } }
      ((m2.flag F.NVP_EVT_uncorr 0x25).logEntry Config.uncorrCode.toNat Config.uncorrSeverity.toNat 0 0 (toBE 4 p)).nvpResult 4
    else
      ({ m1 with nvp := { m1.nvp with buffer := m.pageShown p, owner := some w.tag } }).nvpResult 0

/-- op 0x2, step 1: rights, owner and free pages checked, the commit begun. -/
def M.pageCommit (m : M) (w : Who) : M :=
  let p := m.get F.NVP_ADDR_page
  let r := m.regionOfPage p
  if m.nvpBusy then m
  else if !(m.nvp.owner == some w.tag) || !m.mayWrite w.tag r then m.nvpResult 1
  else if m.get F.NVP_WEAR_spare == 0 then m.nvpResult 5
  else
    let m1 := (m.touchRights w.tag r).put F.NVP_STAT_page p
    ({ m1 with nvp := { m1.nvp with commits := m1.nvp.commits ++ [NvpCommit.mk p m1.nvp.buffer true] } }).put F.NVP_STAT_busy 1

/-- Steps 4 and 5: the oldest commit of a bank passes its commit point and ends; `retired` tells that a physical page failed
its margin check twice and left the pool (R538). -/
def M.pageCommitDone (m : M) (bank : Nat) (retired : Bool) : M :=
  match m.nvp.commits.find? (fun c => c.page % 8 == bank) with
  | none => m
  | some c =>
    let m1 := { m with nvp := { m.nvp with commits := m.nvp.commits.erase c } }
    let m2 := (m1.pageTaken c.page c.words).commitPage c.page c.words
    let m3 := if retired then
        (m2.put F.NVP_WEAR_spare (m2.get F.NVP_WEAR_spare - 1)).flag F.NVP_EVT_retire 0x25
      else m2
    if c.commanded then m3.nvpResult 0 else m3

/-- The margin scan reads a page: skipped once when the page was committed since its last scan; refreshed when its margin is
poor, which is its scan of the pass and leaves no mark. -/
def M.marginScan (m : M) (page : Nat) (found : ScanResult) : M :=
  if m.nvp.scanned.contains page then
    { m with nvp := { m.nvp with scanned := m.nvp.scanned.filter (fun p => !(p == page)) } }
  else match found with
    | .good => m
    | .uncorrectable =>
      { m with nvp := { m.nvp with bad := if m.nvp.bad.contains page then m.nvp.bad else page :: m.nvp.bad } }
    | .poor =>
      if m.nvp.bad.contains page then m
      else
        let m1 := (m.commitPage page (m.pageShown page)).flag F.NVP_EVT_refresh 0x25
        { m1 with nvp := { m1.nvp with scanned := m1.nvp.scanned.filter (fun p => !(p == page)) } }

end Sys2Proof.Machine
end

