-- ==== Sys2Proof/Machine/Tether.lean ====
section
/-! DEFINITION. The tether link: acceptance and acknowledgment of frames, retransmission, link and lanes (R391 to R393), change
records waiting for their answer (R399), and the hand-over frames (R416). -/

namespace Sys2Proof.Machine

/-- TTH_EVT flags raise the redundancy source (R423). -/
def M.tthFlag (m : M) (x : FRef) : M := m.flag x 0x20

def M.tetherUp (m : M) : Bool := m.get F.TTH_STAT_link == 2

/-- A code or CRC error on a lane (R393). -/
def M.tetherError (m : M) : M :=
  ({ m with tth := { m.tth with errorAt := some m.time.tb } }).tthFlag F.TTH_EVT_ber

/-- An acknowledgment leaves; `nak` is the seq asked for again, or 0 (R392). -/
def M.sendAck (m : M) (nak : Nat) : M :=
  ({ m with tth := { m.tth with rxOwed := 0, rxAckBy := none } }).emit (.tetherAck (m.tth.rxSeq - 1) nak)

/-- A frame taken in order is owed an acknowledgment: every 64 frames, and at least every 100 µs (R392). -/
def M.oweAck (m : M) : M :=
  let m1 : M := { m with tth := { m.tth with
    rxOwed := m.tth.rxOwed + 1, rxAckBy := some (m.tth.rxAckBy.getD (m.time.tb + 100000)) } }
  if 64 ≤ m1.tth.rxOwed || m1.tth.rxAckBy.any (fun t => t ≤ m1.time.tb) then m1.sendAck 0 else m1

/-- The 100 µs of an acknowledgment owed have passed (R392). -/
def M.ackOwed (m : M) : M := if m.due m.tth.rxAckBy then m.sendAck 0 else m

/-- A frame is discarded, counted and answered with nak (R392, Table 11-4). -/
def M.tetherDiscard (m : M) : M :=
  ((m.count F.TTH_CRCERR_count).tthFlag F.TTH_EVT_crc).sendAck m.tth.rxSeq

/-- A frame arrives: `good` tells that its CRC fits.  It is taken in order and owed an acknowledgment, or discarded (R392). -/
def M.tetherTake (m : M) (seq : Nat) (good : Bool) (f : M → M) : M :=
  if !m.tetherUp then m
  else if !good then m.tetherError.tetherDiscard
  else if !(seq == m.tth.rxSeq) then m.tetherDiscard
  else f ({ m with tth := { m.tth with rxSeq := seq + 1 } }).oweAck

/-- Every frame not acknowledged from a seq on is sent again (R392). -/
def M.resend (m : M) (fromSeq : Nat) : M :=
  (m.tth.unacked.filter (fun f => fromSeq ≤ f.seq)).foldl (fun (a : M) f => a.emit (.tether f true))
    { m with tth := { m.tth with ackAt := m.time.tb } }

/-- ACK: frames up to a seq are acknowledged; a nak asks for frames again (R392). -/
def M.ackArrives (m : M) (good : Bool) (seq nak : Nat) : M :=
  if !m.tetherUp then m
  else if !good then m.tetherError.tetherDiscard
  else
    let m1 := { m with tth := { m.tth with
      unacked := m.tth.unacked.filter (fun f => seq < f.seq)
      changes := m.tth.changes.filter (fun p => seq < p.1)
      ackAt := m.time.tb } }
    if nak == 0 then m1 else m1.resend nak

/-- ACK_TIMEOUT: no acknowledgment for 1 ms (R392). -/
def M.ackTimeout (m : M) : M :=
  if m.tetherUp && !m.tth.unacked.isEmpty && m.tth.ackAt + ms ≤ m.time.tb then m.resend 0 else m

/-- CHANGE_ACK_TIMEOUT: a change is answered without its acknowledgment, and the peer counts as out of sync (R399). -/
def M.changeAckTimeout (m : M) : M :=
  if m.tth.changes.any (fun p => p.2 ≤ m.time.tb) then
    { m with tth := { m.tth with changes := m.tth.changes.filter (fun p => m.time.tb < p.2) }
             ibx := { m.ibx with peerStale := true } }
  else m

/-- A TEST frame with a number of code errors found (R393). -/
def M.testFrame (m : M) (errors : Nat) : M :=
  if m.tetherUp && !(errors == 0) then m.tetherError else m

/-- The cycle being received is discarded whole (R397). -/
def M.discardCycle (m : M) : M :=
  let m1 := { m with tth := { m.tth with rxFrames := 0, rxBytes := 0, rxItems := [], applied := false },
                     ibx := { m.ibx with fullCycles := 0 } }
  (m1.count F.TTH_DISC_count).tthFlag F.TTH_EVT_disc

/-- The link goes down: frames in flight are lost with it, a hand-over that waits for the peer ends, and training begins while the
block is enabled (R393). -/
def M.tetherFalls (m : M) : M :=
  if !m.tetherUp then m
  else
    let m1 := if m.tth.rxFrames == 0 then m else m.discardCycle
    let m2 := { m1 with tth := { m1.tth with downSince := some m1.time.tb, unacked := [], rxOwed := 0, rxAckBy := none } }
    let m3 := (m2.put F.TTH_STAT_lanes 0).put F.TTH_STAT_link (if m2.bit F.TTH_CTRL_en && m2.domainOn 12 then 1 else 0)
    let m4 := (m3.tthFlag F.TTH_EVT_lane).tthFlag F.TTH_EVT_link
    (if m4.unitState == 5 then m4.fencedAddresses else m4).handoverLost

/-- TETHER_LINK_DOWN: lanes that still work; the link runs on one of them, or falls (R393). -/
def M.tetherLanes (m : M) (lanes : Nat) : M :=
  if !m.tetherUp then m
  else if lanes % 4 == 0 then m.tetherFalls
  else if m.get F.TTH_STAT_lanes == lanes % 4 then m
  else (m.put F.TTH_STAT_lanes (lanes % 4)).tthFlag F.TTH_EVT_lane

/-- TETHER_LINK_UP: training has completed on both lanes; both directions number their frames from 1 again (log 40). -/
def M.tetherRises (m : M) : M :=
  if !m.bit F.TTH_CTRL_en || !m.domainOn 12 then m
  else
    let was := m.tetherUp
    let fresh (t : TetherState) : TetherState :=
      if was then t else { t with txSeq := 1, rxSeq := 1, unacked := [], downSince := none, rxFrames := 0, rxBytes := 0, rxItems := [] }
    let boot := if m.boot.linkAt.isNone then { m.boot with linkAt := some m.time.tb } else m.boot
    let m1 := { m with tth := fresh m.tth, boot := boot }
    let m2 := if m1.get F.TTH_STAT_lanes == 3 then m1 else (m1.put F.TTH_STAT_lanes 3).tthFlag F.TTH_EVT_lane
    if was then m2 else ((m2.put F.TTH_STAT_link 2).tthFlag F.TTH_EVT_link).stateFrame

/-- TTH_CTRL.en written by the management firmware (R423): training begins, or the link falls. -/
def M.tetherEnable (m : M) (en : Bool) : M :=
  let m1 := m.putB F.TTH_CTRL_en en
  if en then (if m1.get F.TTH_STAT_link == 0 && m1.domainOn 12 then m1.put F.TTH_STAT_link 1 else m1)
  else m1.tetherFalls.put F.TTH_STAT_link 0

/-- TETHER_STATE_SLOT: every 1 ms a STATE frame (Table 11-4). -/
def M.tetherStateSlot (m : M) : M := m.stateFrame

/-- HANDOVER frames (R416). -/
def M.handoverFrame (m : M) (op seq : Nat) (good : Bool) : M :=
  m.tetherTake seq good (fun a =>
    match op with
    | 1 => a.handoverRequest
    | 2 => a.handoverReady
    | 3 => a.handoverCancel
    | _ => a)

/-- BULK: image or package data at an offset in units of 4,096 bytes (Table 11-4); a block at offset 0 begins anew. -/
def M.bulkFrame (m : M) (seq : Nat) (good : Bool) (offset : Nat) (data : Bytes) : M :=
  m.tetherTake seq good (fun a =>
    let old := if offset == 0 then [] else padTo (offset * 4096) a.tth.bulk
    { a with tth := { a.tth with bulk := old ++ data } })

/-- Send a byte string as BULK frames (R400, R582). -/
def M.sendBulkFrom (m : M) : Nat → Nat → Bytes → M
  | 0, _, _ => m
  | n + 1, off, bs =>
    let m1 := m.sendTether (.bulk off (bs.take 4096))
    if bs.length ≤ 4096 then m1 else m1.sendBulkFrom n (off + 1) (bs.drop 4096)

def M.sendBulk (m : M) (bs : Bytes) : M := m.sendBulkFrom (bs.length / 4096 + 1) 0 bs

end Sys2Proof.Machine
end

