-- ==== Sys2Proof/Machine/Power.lean ====
section
/-! DEFINITION. Clock monitors and failover, performance levels, power domains, core supply and pace probes (chapters 12 and
1: R31 to R34, R41, R429 to R448). -/

namespace Sys2Proof.Machine

/-- A PMC flag that raises the power-management source (R451). -/
def M.pmcFlag (m : M) (x : FRef) : M := m.flag x 0x21

/-! ### Performance levels (R435 to R440) -/

/-- Pace floor of a level (Table 1-6). -/
def paceFloor (level : Nat) : Nat :=
  match level with
  | 0 => 134
  | 1 => 228
  | 2 => 320
  | _ => 400

/-- Result of a level request (R436). -/
def M.levelErr (m : M) (err : Nat) : M :=
  let m1 := m.put F.PMC_LVL_STAT_err err
  if err == 0 then m1 else m1.pmcFlag F.PMC_EVT_lvl_fail

/-- A register's word as the records of the image in force set it over a word. -/
def M.imageWord (m : M) (r : Reg) (n : Nat) (base : Word) : Nat :=
  (m.img.configure ++ m.img.arm).foldl (fun (x : Nat) c =>
    if c.addr == r.addr n 0 0 then x - Nat.land x c.mask + Nat.land c.value c.mask else x) base.toNat

/-- The channel is enabled, or the image in force enables it when it is armed or when domain LE is back. -/
def M.loopCounts (m : M) (n : Nat) : Bool := m.effB F.LPE_CH_CTRL_en n || tbit (m.imageWord .LPE_CH_CTRL n 0) 0

/-- Its period: the running value, and the image's while domain LE is off. -/
def M.loopPeriod (m : M) (n : Nat) : Nat :=
  if m.domainOn 5 then m.get F.LPE_CH_PER_period n
  else fieldN (m.imageWord .LPE_CH_PER n (BitVec.ofNat 32 (Reg.LPE_CH_PER.resetAt n))) F.LPE_CH_PER_period.lo F.LPE_CH_PER_period.width

/-- The channels of the running image exceed a level's rates (R28). -/
def M.loopsExceed (m : M) (level : Nat) : Bool :=
  let on := (List.range 64).filter m.loopCounts
  on.any (fun n => m.loopPeriod n < loopPeriodMin level) ||
  decide (loopCap level < (on.map (fun n => ceilDiv 1000000 (m.loopPeriod n))).sum)

/-- Clock, floor and level take a target (Tables 12-8, step 5, and 12-9, step 2). -/
def M.takeLevel (m : M) (t : Nat) : M :=
  (m.put F.PMC_LVL_STAT_level t).put F.SYS_PACE_FLOOR_floor (paceFloor t)

/-- A level change is accepted (Tables 12-8 and 12-9, step 1). -/
def M.levelStarts (m : M) (t : Nat) : M :=
  (((m.put F.PMC_LVL_STAT_busy 1).put F.PMC_LVL_STAT_target t).put F.PMC_LVL_STAT_err 0).put F.PMC_LVL_STAT_step 2

/-- A change is under way; the present pace window overlaps it (R33). -/
def M.changing (m : M) (b : PmcBusy) : M := { m with power := { m.power with busy := b, windowDirty := true } }

/-- Start a level change that no transition holds back, or refuse it (Table 12-7, orders 2 to 6). -/
def M.startLevel (m : M) (t : Nat) : M :=
  let now := m.get F.PMC_LVL_STAT_level
  if t == now then m.levelErr 0
  else if m.bitOf F.TIM_CLK_STAT_fo 0 then m.levelErr 6
  else if now < t && m.bit F.PMC_SUP_STAT_warn then m.levelErr 5
  else if m.loopsExceed t then m.levelErr 2
  else if (m.exeState == 1 || m.exeState == 2) && t < m.img.level then m.levelErr 3
  else
    if now < t then (m.levelStarts t).changing (.raising now 0 none)
    else ((m.levelStarts t).takeLevel t).changing (.lowering now)

/-! ### Power domains (R441 to R445) -/

def M.pdState (m : M) (d : Nat) : Nat := fieldN (m.get F.PMC_PD_STAT_state) (2 * d) 2

def M.setPd (m : M) (d s : Nat) : M := m.put F.PMC_PD_STAT_state (setFieldN (m.get F.PMC_PD_STAT_state) (2 * d) 2 s)

/-- A record of PMC_PD_ERR with its flag (R443, R444). -/
def M.pdError (m : M) (d err : Nat) (x : FRef) : M :=
  (((m.put F.PMC_PD_ERR_valid 1).put F.PMC_PD_ERR_err err).put F.PMC_PD_ERR_domain d).pmcFlag x

/-- Controllers of four buses are all OFF or SLEEP. -/
def M.busesQuiet (m : M) (first : Nat) : Bool :=
  (List.range 4).all (fun k => [canOff, canSleep].contains (m.canState (first + k)))

/-- The condition of Table 12-11 under which a domain may be switched off, as an error code: 0 when it holds; the
vault counts as running an operation while IBX_CTRL.en or IBX_CHOST.en is 1 (R561). -/
def M.offRefused (m : M) (d : Nat) : Nat :=
  let need (b : Bool) : Nat := if b then 0 else 1
  match d with
  | 0 | 1 | 2 | 3 => if [0, 1, 4].contains (m.qstate d) then 0 else 2
  | 5 => need (!m.bit F.LPE_CTRL_en)
  | 6 => need (!m.bit F.KV_CMD_STAT_busy && !m.bit F.KV_STAT_chk_busy && !m.bit F.IBX_CTRL_en && !m.bit F.IBX_CHOST_en)
  | 7 => need (!m.bit F.ETH_CTRL_en 0)
  | 8 => need (!m.bit F.ETH_CTRL_en 1)
  | 9 => need (m.busesQuiet 0)
  | 10 => need (m.busesQuiet 4)
  | 11 => need (!m.bit F.MTR_STAT_run)
  | 12 => need (!m.bit F.TTH_CTRL_en)
  | 13 => need (m.frec.logQueue.isEmpty && m.frec.uncopied.isEmpty)
  | 14 => need (!m.leased && !m.bit F.LIO_CTRL_en)
  | 15 => need (!m.bit F.ETH_CTRL_en 2)
  | _ => 0

/-- The registers of a domain's windows are lost, with what stood pending and effective in them (R166, R443). -/
def M.loseWindows (m : M) (d : Nat) : M :=
  let mine (a : Nat) : Bool := windowDomain (a / 65536) == some (some d)
  { m with regs := m.regs.filter (fun p => !mine p.1), effs := m.effs.filter (fun p => !mine p.1) }

/-- The state of a domain is lost (Table 12-12, step 5). -/
def M.loseDomain (m : M) (d : Nat) : M :=
  let bare := m.loseWindows d
  match d with
  | 0 | 1 | 2 | 3 =>
    let gone (q : Quadrant) : Quadrant := { Quadrant.reset with failed := q.failed }
    ({ m with fab := { m.fab with quads := listMod m.fab.quads d gone } }).setQstate d 0
  | 4 => { m with boot := { m.boot with wipes := m.boot.wipes + 1, mgmt := false } }
  | 5 => { bare with loop := { LoopState.reset with kept := m.loop.kept, channels := List.replicate 64 { LoopChannel.reset with cold := true } } }
  | 6 =>
    let a := (m.haltH0 false).loseWindows 6
    { a with kv := { a.kv with opened := none, statement := [] } }
  | 7 => m.portLost 0 (fun a => a.loseWindows 7)
  | 8 => m.portLost 1 (fun a => a.loseWindows 8)
  | 9 => (List.range 4).foldl (fun (a : M) n => a.setCan n { CanState.empty with asleep := (m.canBox n).asleep }) bare
  | 10 => (List.range 4).foldl (fun (a : M) n => a.setCan (4 + n) { CanState.empty with asleep := (m.canBox (4 + n)).asleep }) bare
  | 11 =>
    ({ bare with mtr := { MeterState.reset with saved := some ⟨m.mtr.circuits⟩ } }).showPhases
  | 12 => { bare with tth := { TetherState.reset with downSince := some (m.tth.downSince.getD m.time.tb) } }
  | 14 => { m with lio := { m.lio with driven := [], pwm := [] } }
  | 15 => m.portLost 2 (fun a => a.loseWindows 15)
  | _ => bare

/-- Follow a domain's request: on, off, or nothing when it stands as asked (R442 to R444). -/
def M.startDomain (m : M) (d : Nat) : M :=
  let on := m.bitOf F.PMC_PD_REQ_on d
  match m.pdState d, on with
  | 0, true => { m.setPd d 2 with power := { m.power with busy := .domainOn d } }
  | 3, false => m.setPd d 0
  | 1, false =>
    let e := m.offRefused d
    if e == 0 then (m.loseDomain d).setPd d 0
    else (m.putBit F.PMC_PD_REQ_on d true).pdError d e F.PMC_EVT_pd_ref
  | _, _ => m

/-- The next transition starts: the held raise of the pace action first, then the requests in order (R34, R442). -/
def M.pmcNext (m : M) : Nat → M
  | 0 => m
  | n + 1 =>
    if !(m.power.busy == .idle) then m
    else if m.power.heldRaise then
      let m1 := { m with power := { m.power with heldRaise := false } }
      let l := m1.get F.PMC_LVL_STAT_level
      (if l < 3 then m1.startLevel (l + 1) else m1).pmcNext n
    else match m.power.queue with
      | [] => m
      | r :: rest =>
        let m1 := { m with power := { m.power with queue := rest } }
        (match r with
         | .level t => m1.startLevel t
         | .domain d => m1.startDomain d).pmcNext n

def M.pmcGo (m : M) : M := m.pmcNext (m.power.queue.length + 2)

def M.pmcAsk (m : M) (r : PmcReq) : M := ({ m with power := { m.power with queue := m.power.queue ++ [r] } }).pmcGo

/-- LEVEL_REQUEST: PMC_LVL_CMD with go = 1 (R436). -/
def M.levelRequest (m : M) (t : Nat) : M := m.pmcAsk (.level (t % 4))

/-- A change ends: idle, its result, and the next transition (R437, R438). -/
def M.levelEnd (m : M) (err : Nat) : M :=
  let m1 := ((m.put F.PMC_LVL_STAT_busy 0).put F.PMC_LVL_STAT_step 0).levelErr err
  let m2 := if err == 0 then m1.pmcFlag F.PMC_EVT_lvl_done else m1
  ({ m2 with power := { m2.power with busy := .idle } }).pmcGo

/-- VOLTAGE_SETTLED: a raise goes on to its confirmation window, a lowering or a ramp back ends. -/
def M.voltageSettled (m : M) : M :=
  match m.power.busy with
  | .raising _ _ none => if m.get F.PMC_LVL_STAT_step == 2 then m.put F.PMC_LVL_STAT_step 4 else m
  | .raising _ _ (some e) => m.levelEnd e
  | .lowering _ => m.levelEnd 0
  | _ => m

/-- The voltage ramps back; the raise ends with an error once it has settled (R437, R440). -/
def M.rampBack (m : M) (err : Nat) : M :=
  match m.power.busy with
  | .raising f a none => { m.put F.PMC_LVL_STAT_step 2 with power := { m.power with busy := .raising f a (some err) } }
  | _ => m

/-- CONFIRMATION_WINDOW: counts of the six probes; one repeat is allowed (Table 12-8, steps 4 and 5). -/
def M.confirmationWindow (m : M) (counts : List Nat) : M :=
  match m.power.busy with
  | .raising f a none =>
    if !(m.get F.PMC_LVL_STAT_step == 4) then m
    else
      let t := m.get F.PMC_LVL_STAT_target
      if counts.all (fun c => paceFloor t ≤ c) then (m.takeLevel t).levelEnd 0
      else if a == 0 then { m with power := { m.power with busy := .raising f 1 none } }
      else m.rampBack 4
  | _ => m

/-! ### Domain commands -/

/-- PMC_PD_REQ written: each changed bit is a request; only H0 may put MC to sleep (R442, R445). -/
def M.pdRequest (m : M) (w : Who) (v : Nat) : M :=
  (List.range 16).foldl (fun (a : M) d =>
    let want := tbit v d
    if a.bitOf F.PMC_PD_REQ_on d == want then a
    else if d == 4 && !want && !(w.ini == 0) then a.pdError 4 3 F.PMC_EVT_pd_ref
    else (a.putBit F.PMC_PD_REQ_on d want).pmcAsk (.domain d)) m

/-- POWER_GOOD: `restore` writes the configuration of the domain's blocks again (Table 12-13, R166, R248, R272). -/
def M.powerGood (m : M) (d : Nat) (restore : Nat → M → M) : M :=
  if !(m.power.busy == .domainOn d) then m
  else
    let m1 := restore d ({ m.setPd d 1 with power := { m.power with busy := .idle } })
    let awake (a : M) (first : Nat) : M :=
      (List.range 4).foldl (fun (b : M) n => b.setCan (first + n) { b.canBox (first + n) with asleep := none }) a
    let m2 := match d with
      | 0 | 1 | 2 | 3 => m1.setQstate d 1
      | 4 => m1.coreRestart
      | 5 => m1.waltzRestore
      | 9 => awake m1 0
      | 10 => awake m1 4
      | 11 => m1.meterRestore
      | 14 => if m1.lioRun then (List.range 64).foldl (fun (a : M) n => a.lioInput n (tbit a.lio.pins n)) m1 else m1
      | _ => m1
    m2.pmcGo

/-- PGOOD_TIMEOUT (R444). -/
def M.pgoodTimeout (m : M) (d : Nat) : M :=
  if !(m.power.busy == .domainOn d) then m
  else (({ m.setPd d 3 with power := { m.power with busy := .idle } }).pdError d 4 F.PMC_EVT_pd_fault).pmcGo

/-- MC_WAKE: a source that would be offered to H0 powers MC (R445, R592). -/
def M.mcWake (m : M) : M :=
  if m.pdState 4 == 0 && !m.bitOf F.PMC_PD_REQ_on 4 && (m.nextSource 0).isSome then
    (m.putBit F.PMC_PD_REQ_on 4 true).pmcAsk (.domain 4)
  else m

/-! ### Supply (R448) -/

/-- CORE_SUPPLY_FAULT: outside ±4 % for 1 µs, outside a ramp. -/
def M.coreFault (m : M) : M :=
  match m.power.busy with
  | .raising .. | .lowering _ => m
  | _ => if m.bit F.PMC_SUP_STAT_core_ok then (m.put F.PMC_SUP_STAT_core_ok 0).pmcFlag F.PMC_EVT_core else m

/-- CORE_SUPPLY_RECOVER. -/
def M.coreRecover (m : M) : M := m.put F.PMC_SUP_STAT_core_ok 1

/-- WARNING_CLEAR: the input at or above 18.5 V for 100 ms (R447). -/
def M.warningClear (m : M) (vin : Nat) : M :=
  let m1 := m.put F.PMC_SUP_STAT_vin vin
  if 1850 ≤ vin then m1.put F.PMC_SUP_STAT_warn 0 else m1

/-! ### Clock monitors (R429 to R434) -/

/-- The island runs on its backup from now: record and consequences (Tables 12-4, 12-5). -/
def M.islandFails (m : M) (i mon kind : Nat) : M :=
  if m.bitOf F.TIM_CLK_STAT_fo i then m
  else
    let m1 := m.putBit F.TIM_CLK_STAT_fo i true
    let m2 := ({ m1 with power := { m1.power with windowDirty := true } }).note 8 2 0 [mon, kind, i]
    match i with
    | 0 => m2.rampBack 6
    | 1 => (([0, 1].foldl (fun (a : M) x => if a.ethState x == ethUp then a.linkLoss x else a) m2)).tetherFalls
    | 2 => if m2.ethState 2 == ethUp then m2.linkLoss 2 else m2
    | 3 => (List.range 8).foldl (fun (a : M) n =>
        if a.canState n == canOff then a
        else ((a.put F.CAN_STAT_state canIntegrating n).put F.CAN_CTRL_sleep 0 n).setCan n
          { (a.canBox n).back with refWaiting := false, dialogue := [], ending := none, asleep := none }) m2
    | 4 =>
      if m2.mtrRuns then
        ({ m2 with mtr := { m2.mtr with stream := allInputs, condition := allInputs } }).showClock.showFaults
      else m2
    | _ => m2.setOsf

/-- Islands that run from a source, by its monitor (Table 12-2, R430). -/
def sourceIslands (mon : Nat) : List Nat :=
  match mon with
  | 0 => [0, 1, 2, 3, 4]
  | 2 => [5]
  | 3 => [0]
  | 4 => [1]
  | 5 => [3]
  | 6 => [4]
  | _ => []

/-- Monitors whose sources fail with one source: XO takes the synthesizers with it (R430). -/
def failsWith (mon : Nat) : Nat := if mon == 0 then 0x79 else 2 ^ mon

/-- A source has failed: flags, source 0x01, failover of the islands that use it (R431). -/
def M.sourceFails (m : M) (mon kind : Nat) : M :=
  let m1 := (m.putBit F.TIM_MON_EVT_fail mon true).wr .TIM_MON_INFO (BitVec.ofNat 32 (2 ^ 31 + kind * 16 + mon))
  let m2 := ({ m1 with time := { m1.time with
    monBad := Nat.lor m1.time.monBad (failsWith mon)
    goodSince := m1.time.goodSince.map (fun (p : Nat × Nat) =>
      (p.1, if (sourceIslands mon).contains p.1 then m1.time.tb else p.2)) } }).raise 1
  ((sourceIslands mon).foldl (fun (a : M) i => a.islandFails i mon kind) m2).showClocks

/-- CLOCK_MONITOR_FAILURE: kind 1 STOP, 2 FREQ, 3 lock lost; XO and RC that disagree are judged against XR first (R430). -/
def M.monitorFailure (m : M) (mon kind : Nat) : M :=
  if 7 ≤ mon then m
  else if mon ≤ 1 && kind == 2 then
    if tbit m.time.monBad 2 then m.sourceFails 1 kind
    else if m.time.arbitration.isSome then m
    else { m with time := { m.time with arbitration := some (m.time.tb, mon) } }
  else m.sourceFails mon kind

/-- ARBITRATION_DONE: XO lies outside 25 MHz ±0.1 %, or RC is taken as failed (R430). -/
def M.arbitrationDone (m : M) (xoOut : Bool) : M :=
  if m.time.arbitration.isNone then m
  else ({ m with time := { m.time with arbitration := none } }).sourceFails (if xoOut then 0 else 1) 2

/-- RESTORE: the return of failed-over islands is requested (R434). -/
def M.restoreRequest (m : M) (bits : Nat) : M :=
  (List.range 6).foldl (fun (a : M) i =>
    if tbit bits i && a.bitOf F.TIM_CLK_STAT_fo i then
      let a1 := a.putBit F.TIM_CLK_STAT_pend i true
      { a1 with time := { a1.time with goodSince := aput i a1.time.tb a1.time.goodSince } }
    else a) m

/-- The sources an island needs count as good (R434). -/
def M.sourceGood (m : M) (i : Nat) : TimeState :=
  { m.time with monBad := clrBitN (if i == 5 then m.time.monBad else clrBitN m.time.monBad 0) (islandMonitor i),
                goodSince := adel i m.time.goodSince }

/-- An island runs on its source again (R434). -/
def M.islandBack (m : M) (i : Nat) : M :=
  { (m.putBit F.TIM_CLK_STAT_fo i false).putBit F.TIM_CLK_STAT_pend i false with time := m.sourceGood i }

/-- RESTORE_SWITCH: the source has been good for 100 ms: the island is back on it (R434). -/
def M.restoreSwitch (m : M) (i : Nat) : M :=
  if !m.bitOf F.TIM_CLK_STAT_pend i || !((aget i m.time.goodSince).any (fun t => t + 100 * ms ≤ m.time.tb)) then m
  else (if i == 4 then (m.islandBack i).showClock.showFaults else m.islandBack i).showClocks

/-! ### Pace probes (R31 to R34, R41) -/

/-- A transition of the level or the voltage is under way. -/
def M.ramping (m : M) : Bool :=
  match m.power.busy with
  | .raising .. | .lowering _ => true
  | _ => false

/-- PACE_WINDOW_END: counts of the six probes. -/
def M.paceWindowEnd (m : M) (counts : List Nat) : M :=
  if !m.bit F.SYS_PACE_CTRL_en then m
  else
    let still := m.ramping
    let m0 := { m with power := { m.power with windowDirty := still } }
    if m.power.windowDirty || still then m0.put F.SYS_PACE_STAT_disc 1
    else
      let one (a : M) (n : Nat) : M :=
        let c := (counts.getD n 0) % 65536
        let a1 := (a.put F.SYS_PACE_CNT_last c n).put F.SYS_PACE_CNT_min (min c (a.get F.SYS_PACE_CNT_min n)) n
        if c < a.get F.SYS_PACE_FLOOR_floor then a1.putBit F.SYS_PACE_STAT_low n true else a1
      let m1 := (List.range 6).foldl one m0
      if !(List.range 6).any (fun n => counts.getD n 0 % 65536 < m.get F.SYS_PACE_FLOOR_floor) then m1
      else
        let m2 := ({ m1 with ibx := { m1.ibx with paceLowAt := some m1.time.tb } }).raise 0x12
        match m2.get F.SYS_PACE_CTRL_act with
        | 1 =>
          let l := m2.get F.PMC_LVL_STAT_level
          if l == 3 then m2
          else if m2.power.busy == .idle then m2.startLevel (l + 1)
          else { m2 with power := { m2.power with heldRaise := true } }
        | 2 => m2.trip tripPace 0
        | _ => m2

/-- CLR_MIN (R41). -/
def M.clearMin (m : M) : M := (List.range 6).foldl (fun (a : M) n => a.put F.SYS_PACE_CNT_min 0xFFFF n) m

end Sys2Proof.Machine
end

