-- ==== Sys2Proof/Machine/Trend.lean ====
section
/-! DEFINITION. Trend logs of the historian (R542 to R544). -/

namespace Sys2Proof.Machine

def TrendLog.empty : TrendLog := ⟨[], true⟩

def M.trendLog (m : M) (n : Nat) : TrendLog := (aget n m.hst.logs).getD TrendLog.empty

def M.setTrend (m : M) (n : Nat) (t : TrendLog) : M := { m with hst := { m.hst with logs := aput n t m.hst.logs } }

/-- The checks of an enable, with the log taken as enabled (R542). -/
def M.trendValid (m : M) (n : Nat) : Bool :=
  let on := (List.range 64).filter (fun k => k == n || m.bit F.HST_TR_CFG_en k)
  let npts := m.get F.HST_TR_CFG_npts n
  let itv := m.get F.HST_TR_CFG_interval n
  let rate : Rat := (on.map (fun k => ((8 + 8 * m.get F.HST_TR_CFG_npts k : Nat) : Rat) / (m.get F.HST_TR_CFG_interval k : Nat))).sum
  m.get F.HST_TR_CFG_tenant n ≤ 250 && 1 ≤ npts && npts ≤ 64 && 1 ≤ itv && itv ≤ 3600 && 1 ≤ m.get F.HST_TR_SIZE_mib n &&
  (on.map (fun k => m.get F.HST_TR_SIZE_mib k)).sum ≤ 7424 && decide (rate ≤ 16384)

/-- TREND_ENABLE: en written; an enable that fails its checks leaves en at 0 (R542), another starts a segment (R543). -/
def M.trendEnable (m : M) (n : Nat) (en : Bool) : M :=
  if !en then m.put F.HST_TR_CFG_en 0 n
  else if m.bit F.HST_TR_CFG_en n then m
  else if m.trendValid n then (m.put F.HST_TR_CFG_en 1 n).setTrend n { m.trendLog n with fresh := true }
  else m.flag F.HST_EVT_tcfg 0x25

/-- Bytes a segment takes in its ring (R543). -/
def TrendSegment.bytes (s : TrendSegment) : Nat :=
  ceilDiv (16 + 2 * s.ids.length) 8 * 8 + s.rows.length * (8 + 8 * s.ids.length)

/-- The oldest row goes, and a segment head that no row is left of. -/
def dropOldest : List TrendSegment → List TrendSegment
  | [] => []
  | s :: rest => match s.rows with
    | [] => rest
    | [_] => rest
    | _ :: rows => { s with rows := rows } :: rest

/-- Rows are overwritten until the ring holds what is left: the segments, and whether any was overwritten. -/
def fitRing (size : Nat) : Nat → List TrendSegment → List TrendSegment × Bool
  | 0, l => (l, false)
  | k + 1, l =>
    if (l.map TrendSegment.bytes).sum ≤ size then (l, false)
    else ((fitRing size k (dropOldest l)).1, true)

/-- The points a log names, in order. -/
def M.trendPoints (m : M) (n : Nat) : List Nat :=
  (List.range (m.get F.HST_TR_CFG_npts n)).map (fun k =>
    if k % 2 == 0 then m.get F.HST_TR_PT_id_lo n (k / 2) else m.get F.HST_TR_PT_id_hi n (k / 2))

/-- Value and status of a point as one 64-bit read with the system tag gives them (R36, R50). -/
def M.trendRead (m : M) (id : Nat) : Word × Nat :=
  let e := m.pointEntry id
  (BitVec.ofNat 32 (fieldN e.toNat 0 32), fieldN e.toNat 32 16)

/-- TREND_SAMPLE: a log's sample instant, a TAI multiple of its interval (R543, R544). -/
def M.trendSample (m : M) (n : Nat) : M :=
  if !m.bit F.HST_TR_CFG_en n || !(m.time.tai % (max 1 (m.get F.HST_TR_CFG_interval n) * sec) == 0) then m
  else if !m.domainOn 13 || m.hstReadOnly then
    ((m.count F.HST_TR_LOST_count n).flag F.HST_EVT_tdrop 0x25).setTrend n { m.trendLog n with fresh := true }
  else
    let ids := m.trendPoints n
    let row : TrendRow := ⟨m.time.tai, ids.map m.trendRead⟩
    let t := m.trendLog n
    let segs : List TrendSegment :=
      if t.fresh then t.segments ++ [TrendSegment.mk (m.get F.HST_TR_CFG_interval n) m.time.tai ids [row]]
      else match t.segments.getLast? with
        | some s => t.segments.dropLast ++ [{ s with rows := s.rows ++ [row] }]
        | none => [TrendSegment.mk (m.get F.HST_TR_CFG_interval n) m.time.tai ids [row]]
    let rows (l : List TrendSegment) : Nat := (l.map (fun (s : TrendSegment) => s.rows.length)).sum
    let (held, ovr) := fitRing (m.get F.HST_TR_SIZE_mib n * 2 ^ 20) (rows segs) segs
    let m0 := m.hstWrites ((segs.map TrendSegment.bytes).sum - (t.segments.map TrendSegment.bytes).sum)
    let m1 := (m0.setTrend n ⟨held, false⟩).put F.HST_TR_STAT_rows (rows held) n
    if ovr then m1.put F.HST_TR_STAT_wrapped 1 n else m1

end Sys2Proof.Machine
end

