-- ==== Sys2Proof/Machine/Store.lean ====
section
/-! DEFINITION. Writes of register fields that can be written and read: what is ignored, what is refused while a block runs, and
what the write does by the field's class (R13, R137, R157 to R165 and the field tables of every chapter). -/

namespace Sys2Proof.Machine

/-! ### Values that are ignored -/

/-- Keep the field's present value when the value written is ignored. -/
def M.keepIf (m : M) (x : FRef) (i j k : Nat) (bad : Nat → Bool) (v : Nat) : Nat :=
  if bad (fieldN v x.lo x.width) then setFieldN v x.lo x.width (m.get x i j k) else v

/-- A signed field value lies outside ± a limit. -/
def outside (w limit : Nat) (v : Nat) : Bool := decide (limit < (signedN v w).natAbs)

/-- Demand interval lengths (R282). -/
def demandLengths : List Nat := [1, 2, 3, 4, 5, 6, 10, 12, 15, 20, 30, 60]

/-- The value a write stores, with ignored field values replaced by what the fields hold. -/
def M.takes (m : M) (w : Who) (r : Reg) (i j k : Nat) (v : Nat) : Nat :=
  let sys := w.tag.isSystem
  let own := sys || w.tag.owner0
  match r with
  | .SYS_PACE_CTRL => m.keepIf F.SYS_PACE_CTRL_act i j k (· == 3) v
  | .MTR_CLK => m.keepIf F.MTR_CLK_src i j k (· == 3) (m.keepIf F.MTR_CLK_ratio i j k (fun x => x < 157 || 656 < x) v)
  | .MTR_DMD_CFG => m.keepIf F.MTR_DMD_CFG_len i j k (fun x => !demandLengths.contains x) v
  | .MTR_VC_GAIN => m.keepIf F.MTR_VC_GAIN_g i j k (outside 32 1000000) v
  | .MTR_VC_PHASE => m.keepIf F.MTR_VC_PHASE_ph i j k (outside 32 50000) v
  | .MTR_MI_CFG => m.keepIf F.MTR_MI_CFG_use i j k (· == 3) v
  | .CAN_REF => m.keepIf F.CAN_REF_period i j k (fun x => x < 1 || 1000 < x) v
  | .CAN_WAKE => m.keepIf F.CAN_WAKE_wmode i j k (· == 3) v
  | .ETH_PTP_CFG => m.keepIf F.ETH_PTP_CFG_transport i j k (· == 3) v
  | .IBX_CTRL => m.keepIf F.IBX_CTRL_en i j k (fun _ => !sys) v
  | .TTH_CTRL => m.keepIf F.TTH_CTRL_en i j k (fun _ => !sys)
      (m.keepIf F.TTH_CTRL_period i j k (fun x => x < 10 || 1000 < x) v)
  | .LIO_CFG => m.keepIf F.LIO_CFG_func i j k (fun x => x == 3 && 16 ≤ i) v
  | .RTC_CFG => m.keepIf F.RTC_CFG_src i j k (· == 3) (m.keepIf F.RTC_CFG_ofs i j k (outside 12 1080) v)
  | .RTC_LEAP =>
    let shut := m.bit F.RTC_CFG_auto_leap && m.bit F.RTC_STAT_lock
    m.keepIf F.RTC_LEAP_pend i j k (fun x => shut || x == 3) (m.keepIf F.RTC_LEAP_tai_utc i j k (fun _ => shut) v)
  | .RTC_TRIM => m.keepIf F.RTC_TRIM_mt i j k (fun _ => !(m.get F.RTC_CFG_src == 0)) v
  | .RTC_ALM => m.keepIf F.RTC_ALM_hour i j k (fun x => 24 ≤ x && !(x == 31)) (m.keepIf F.RTC_ALM_min i j k (60 ≤ ·) v)
  | .REC_CTRL => m.keepIf F.REC_CTRL_head i j k (4096 < ·) (m.keepIf F.REC_CTRL_clr_key i j k (fun _ => !own) v)
  | .REC_TRG_ITEM => if v % 4 == 3 then (m.rd .REC_TRG_ITEM i j).toNat else v
  | .NVP_RGN => if sys then v else (m.rd .NVP_RGN i).toNat
  | .KV_CTRL => if own then v else (m.rd .KV_CTRL).toNat
  | .EVC_SRC_CFG => if i < 4 then (m.rd .EVC_SRC_CFG i).toNat else v
  | .SYS_H1_PART => if sys && fieldN v 16 8 + fieldN v 0 9 ≤ 256 then v else (m.rd .SYS_H1_PART).toNat
  | .SYS_H1_TAG =>
    if sys then m.keepIf F.SYS_H1_TAG_role i j k (· == 3) (m.keepIf F.SYS_H1_TAG_tenant i j k (250 < ·) v)
    else (m.rd .SYS_H1_TAG).toNat
  | _ => v

/-! ### Stop states (R160, R161) -/

/-- The block or unit an S field of a register belongs to is stopped. -/
def M.blockStopped (m : M) (r : Reg) (i j : Nat) : Bool :=
  match r with
  | .EXE_CTRL => m.exeStopped
  | .LPE_CH_SRC | .LPE_CH_SINK | .LPE_CH_SPSRC | .LPE_CH_FFSRC | .LPE_CH_TRKSRC | .LPE_CH_PER | .LPE_CH_TEN =>
    m.chState i == chOff
  | .MTR_CLK | .MTR_MI_CFG | .MTR_MI_SCALE | .MTR_VS_CFG | .MTR_C_CFG => !m.mtrRuns
  | .CAN_NBT | .CAN_DBT | .CAN_TDC | .CAN_WAKE | .CAN_WID | .CAN_WIDM | .CAN_WDM0 | .CAN_WDM1 => m.canState i == canOff
  | .CAN_STA_CFG | .CAN_STA_SERL | .CAN_STA_SERH => m.get F.CAN_STA_STAT_state i j == stUnconf
  | .ETH_CTRL => m.ethState i == ethOff
  | .IBX_CTRL | .IBX_PAIR | .IBX_WADDR | .IBX_UADDR => !m.bit F.IBX_CTRL_en
  | .LIO_CFG => !m.lioRun
  | .HST_TR_CFG | .HST_TR_SIZE | .HST_TR_PT => !m.bit F.HST_TR_CFG_en i
  | _ => true

/-- The bits of a register that one class covers and that can be written and read. -/
def Reg.maskOf (r : Reg) (p : FieldSpec → Bool) : Nat :=
  (r.spec.fields.filter p).foldl (fun (a : Nat) f => Nat.lor a ((2 ^ f.width - 1) * 2 ^ f.lo)) 0

def Reg.rwMask (r : Reg) : Nat := r.maskOf (fun f => f.acc == .rw)
def Reg.sMask (r : Reg) : Nat := r.maskOf (fun f => f.acc == .rw && f.cls == .stopped)
def Reg.bMask (r : Reg) : Nat := r.maskOf (fun f => f.acc == .rw && f.cls == .boundary)

/-- The word a register takes when a write changes only its fields that can be written and read (R12). -/
def M.merge (m : M) (r : Reg) (i j k v : Nat) : Nat :=
  let old := (m.rd r i j k).toNat
  old - Nat.land old r.rwMask + Nat.land v r.rwMask

/-- Enable bit of a block or unit that the loader may stop for an S field (R148), by the register that holds the S field: the
register of the enable, and its bit. -/
def enableOf (r : Reg) : Option (Reg × Nat) :=
  match r with
  | .LPE_CH_SRC | .LPE_CH_SINK | .LPE_CH_SPSRC | .LPE_CH_FFSRC | .LPE_CH_TRKSRC | .LPE_CH_PER | .LPE_CH_TEN =>
    some (.LPE_CH_CTRL, 0)
  | .MTR_CLK | .MTR_MI_CFG | .MTR_MI_SCALE | .MTR_VS_CFG | .MTR_C_CFG => some (.MTR_CTRL, 0)
  | .CAN_NBT | .CAN_DBT | .CAN_TDC | .CAN_WAKE | .CAN_WID | .CAN_WIDM | .CAN_WDM0 | .CAN_WDM1 => some (.CAN_CTRL, 0)
  | .CAN_STA_CFG | .CAN_STA_SERL | .CAN_STA_SERH => some (.CAN_STA_CFG, 31)
  | .IBX_CTRL | .IBX_PAIR | .IBX_WADDR | .IBX_UADDR => some (.IBX_CTRL, 0)
  | .LIO_CFG => some (.LIO_CTRL, 0)
  | .HST_TR_CFG | .HST_TR_SIZE | .HST_TR_PT => some (.HST_TR_CFG, 31)
  | _ => none

/-! ### Stores by class -/

/-- A word with B fields is written: they wait for their boundary, its other fields act at once (R159, R161). -/
def M.wrLater (m : M) (r : Reg) (v : Word) (i j k : Nat) : M :=
  let a := r.addr i j k
  let m1 := { m with effs := if (aget a m.effs).isSome then m.effs else aput a (m.rd r i j k) m.effs }
  m1.wr r v i j k

/-- A word whose bit of an enable is still to be decided keeps the bit it had. -/
def M.wrBut (m : M) (r : Reg) (bits v i j k : Nat) : M :=
  let old := (m.rd r i j k).toNat
  m.wr r (BitVec.ofNat 32 (v - Nat.land v bits + Nat.land old bits)) i j k

/-- Words a trigger's items need, with one item replaced (R515). -/
def M.trigWords (m : M) (t : Nat) (item : Option (Nat × Nat)) : Nat :=
  (List.range 12).foldl (fun (a : Nat) i =>
    let kind := match item with
      | some (n, v) => if n == i then v % 4 else m.get F.REC_TRG_ITEM_kind t i
      | none => m.get F.REC_TRG_ITEM_kind t i
    a + (if kind == 1 then 1 else if kind == 2 then 2 else 0)) 0

/-- Epoch and reserved bound of a pair, whichever slot holds or held it: they never fall (R8, R411). -/
def M.pairEpochs (m : M) (pair : Nat) : Nat × Nat :=
  ((List.range 16).map m.hosted).foldl (fun (a : Nat × Nat) p => if p.pair == pair then (max a.1 p.epoch, max a.2 p.bound) else a)
    (getd (0, 0) pair m.ibx.pairStore)

/-- Hosted pair slot written through IBX_CHP_CFG (R409, R413, Table 11-15). -/
def M.chpWrite (m : M) (v : Nat) : M :=
  let i := m.get F.IBX_CHP_SEL_slot
  let p := m.hosted i
  let pair := fieldN v 0 16
  let taken := (List.range 16).any (fun n => !(n == i) && (m.hosted n).valid && (m.hosted n).pair == pair)
  let id := if taken then p.pair else pair
  let key := fieldN v 16 6
  if !tbit v 31 then
    let (epoch, bound) := m.pairEpochs id
    let m1 := if p.pair == id then m else { m with ibx := { m.ibx with pairStore := aput p.pair (m.pairEpochs p.pair) m.ibx.pairStore } }
    m1.setHosted i { p.stored with valid := false, key := key, pair := id, epoch := epoch, bound := bound }
  else if p.valid && p.pair == id then m.setHosted i { p with key := key }
  else
    let (epoch, bound) := m.pairEpochs id
    let base := if p.pair == id then p.stored else { HostedPair.empty with pair := id, epoch := epoch, bound := bound }
    let m1 := if p.pair == id then m else { m with ibx := { m.ibx with pairStore := aput p.pair (m.pairEpochs p.pair) m.ibx.pairStore } }
    m1.setHosted i { base with valid := true, key := key, epoch := max base.epoch base.bound, windowEnd := m.time.tb + 1000 * ms }

/-- A key of UPD_OWNKEY changes: one UPDATE record with the first bytes of its digest (R585). -/
def M.ownKeyWrite (m : M) (w : Who) (k : Nat) (v : Word) : M :=
  if !(w.tag.isSystem || w.tag.owner0) || getd 0 k m.upd.ownKey == v then m
  else
    let m1 := { m with upd := { m.upd with ownKey := putd 0 k v m.upd.ownKey } }
    let key := (List.range 16).flatMap (fun n => toBE 4 (getd (0 : Word) n m1.upd.ownKey).toNat)
    m1.note 0x0F 4 0 [fieldN (m1.rd .UPD_STAT).toNat 16 16 * 2 ^ 16 + fieldN (m1.rd .UPD_STAT).toNat 0 8,
      (m1.rd .UPD_PKG_VER).toNat, be (digestBytes (Config.sha256 key)) 0 4]

/-- Put a written word in place: its fields act by their classes, enables and commands by their own rules. -/
def M.place (m : M) (w : Who) (r : Reg) (i j k v : Nat) : M :=
  let x := BitVec.ofNat 32 v
  let plain := m.wr r x i j k
  match r with
  | .FAB_QCTRL =>
    let m1 := m.put F.FAB_QCTRL_tmo (fieldN v 24 8)
    (List.range 4).foldl (fun (a : M) q => if tbit v q then a.quiesceRequest q else a.quiesceCancel q) m1
  | .SYS_PACE_CTRL =>
    if tbit v 0 && !m.bit F.SYS_PACE_CTRL_en then { plain with power := { plain.power with windowDirty := m.ramping } } else plain
  | .FAB_SBK_ARM => m.springbokArm v
  | .EXE_TCFG => if m.exeStopped then plain.transferAt [r.addr i j k] else m.wrLater r x i j k
  | .LPE_CH_CTRL => (m.wrLater r x i j k).loopCtrlWritten i
  | .LPE_CH_SP => plain.loopPoint i 1 x
  | .LPE_CH_MAN => plain.loopPoint i 3 x
  | .LPE_CH_WZCFG => plain.showPhase i
  | .LPE_CTRL => plain.loopEngineWritten (m.bit F.LPE_CTRL_en)
  | .MTR_CTRL =>
    let old := m.rd .MTR_CTRL
    let m1 := if wfield old 9 1 == fieldN v 9 1 then m else m.putLater F.MTR_CTRL_freeze (fieldN v 9 1)
    let m2 := if wfield old 8 1 == fieldN v 8 1 then m1 else m1.supplyEnable (tbit v 8)
    if wfield old 0 1 == fieldN v 0 1 then m2 else if tbit v 0 then m2.meterEnable else m2.meterStop
  | .MTR_VC_GAIN | .MTR_VC_PHASE | .MTR_C_START => m.wrLater r x i j k
  | .MTR_DMD_CFG => if m.mtrRuns then m.wrLater r x i j k else plain.transferAt [r.addr i j k]
  | .MTR_MI_CFG | .MTR_MI_SCALE => plain.showFaults.showMatches
  | .MTR_C_CFG => plain.showMatch i
  | .CAN_CTRL =>
    let m1 := if tbit v 0 == m.bit F.CAN_CTRL_en i then m else if tbit v 0 then m.canEnable i else m.canDisable i
    if tbit v 1 == m1.bit F.CAN_CTRL_sleep i then m1 else if tbit v 1 then m1.canSleepReq i else m1.canWake i
  | .CAN_REF => if m.canState i == canOff then plain.transferAt [r.addr i j k] else m.wrLater r x i j k
  | .CAN_TXREQ => m.txRequest i v
  | .CAN_TXB_W => if m.bitOf F.CAN_TXREQ_req j i then m else plain
  | .CAN_STA_CFG => (m.wrBut r (2 ^ 31) v i j k).stationEnable i j (tbit v 31)
  | .ETH_CTRL => m.ethCtrl w i v
  | .ETH_VLAN => m.vlanWrite i j x
  | .IBX_CHOST => if tbit v 0 then plain.hostStart else plain.hostStop
  | .IBX_CHP_CFG => m.chpWrite v
  | .IBX_SV_PT | .IBX_SV_VAL => plain.safeChanged
  | .TTH_CTRL =>
    let later := (m.bit F.TTH_CTRL_en)
    let m1 := if later then m.wrLater r (BitVec.ofNat 32 (putBitN v 0 (m.bit F.TTH_CTRL_en))) i j k else (m.wrBut r 1 v i j k).transferAt [r.addr i j k]
    if tbit v 0 == m.bit F.TTH_CTRL_en then m1 else m1.tetherEnable (tbit v 0)
  | .PMC_PD_REQ => m.pdRequest w v
  | .LIO_CTRL => (m.wrBut r 1 v i j k).lioEnable (tbit v 0)
  | .LIO_PWM => if m.pwmPulses i then m.wrLater r x i j k else (plain.transferAt [r.addr i j k]).pwmStill i
  | .RTC_CFG =>
    let fresh := { m with time := { m.time with mainsApplied := m.time.mainsApplied && m.get F.RTC_CFG_src == fieldN v 0 2 } }
    fresh.wrLater r x i j k
  | .RTC_LEAP => m.wrLater r x i j k
  | .RTC_TRIM =>
    let (mt, l1) := trimLimit (signedN (fieldN v 0 16) 16)
    let (xr, l2) := trimLimit (signedN (fieldN v 16 16) 16)
    ((m.put F.RTC_TRIM_mt (encodeInt mt 16)).put F.RTC_TRIM_xr (encodeInt xr 16)).putB F.RTC_STAT_trim_lim (l1 || l2)
  | .REC_CTRL => m.wrLater r x i j k
  | .REC_TRG_CFG => if tbit v 31 && 12 < m.trigWords i none then m.flag F.REC_EVT_cfg 0x24 else plain
  | .REC_TRG_ITEM =>
    if m.bit F.REC_TRG_CFG_en i && 12 < m.trigWords i (some (j, v)) then m.flag F.REC_EVT_cfg 0x24 else plain
  | .NVP_DATA => m.bufferWrite w x
  | .HST_TR_CFG => (m.wrBut r (2 ^ 31) v i j k).trendEnable i (tbit v 31)
  | .KV_DBG => m.coreHalt w (tbit v 0) (tbit v 1)
  | .UPD_OWNKEY => m.ownKeyWrite w i x
  | .EVC_SMP_CFG => { plain with ev := { plain.ev with smpLeft := 0, smpTagged := m.ev.smpTagged && tbit v 31 } }
  | _ => match memberAt (r.addr i j k) with
    | some (b, g) => m.writeMember b g r x i j k
    | none => plain

/-- Clearing the enable of a running task with a privileged unit is refused with BUSY (R209, Table 5-14). -/
def M.taskEnableRefused (m : M) (r : Reg) (i v : Nat) : Bool :=
  r == .EXE_TCFG && m.bit F.EXE_TCFG_en i && !tbit v 0 && !m.exeStopped && m.taskPriv i

/-- An S field would change while its block runs (R161). -/
def M.changesStopped (m : M) (r : Reg) (i j k v : Nat) : Bool :=
  !(Nat.land (m.rd r i j k).toNat r.sMask == Nat.land v r.sMask) && !m.blockStopped r i j

/-- The write goes to a member of an armed group (R163). -/
def M.memberArmed (m : M) (r : Reg) (i j k : Nat) : Bool :=
  (memberAt (r.addr i j k)).any (fun p => m.armed p.1 p.2)

/-- A write of the fields of a register that can be written and read: true when it is refused with BUSY (R161, R163). -/
def M.storeRw (m : M) (w : Who) (r : Reg) (i j k v : Nat) : Bool × M :=
  let x := m.takes w r i j k (m.merge r i j k v)
  if m.changesStopped r i j k x || m.memberArmed r i j k || m.taskEnableRefused r i x then (true, m)
  else (false, m.place w r i j k x)

/-! ### Commit registers (R162, R163, R165) -/

/-- The commit register of a block is written: clears of err, aborts, and groups armed; a stopped block acts at once. -/
def M.commitWrite (m : M) (b : CommitBlock) (v : Nat) : M :=
  let p := b.port
  let m1 := m.put b.err (Nat.land (m.get b.err p) (255 - fieldN v 24 8)) p
  let m2 := (m1.abortGroups b (fieldN v 16 8)).armGroups b (fieldN v 0 8)
  match b with
  | .lpe => if m2.bit F.LPE_CTRL_en then m2 else m2.loopGroups
  | .mtr => if m2.mtrRuns then m2 else m2.meterGroups
  | .eth x => m2.ethGroups x

/-! ### The loader's writes (R137, R148, R149, R166) -/

/-- Stop a block or unit whose S field the loader is to write, and remember to return it to run (R148). -/
def M.stopFor (m : M) (r : Reg) (i j : Nat) : M :=
  match enableOf r with
  | none => m
  | some (e, _) =>
    let (a, b) := if e == .MTR_CTRL || e == .IBX_CTRL || e == .LIO_CTRL then (0, 0) else if e == .CAN_STA_CFG then (i, j) else (i, 0)
    let stop := match e with
      | .LPE_CH_CTRL => ((m.transferAt [ctrlAt a]).put F.LPE_CH_CTRL_en 0 a).loopBoundary a
      | .MTR_CTRL => if m.mtrRuns then (m.put F.MTR_CTRL_en 0).meterStopped.meterGroups else m
      | .CAN_CTRL => m.canDisable a
      | .CAN_STA_CFG => m.stationEnable a b false
      | .IBX_CTRL => m.put F.IBX_CTRL_en 0
      | .LIO_CTRL => m.lioEnable false
      | .HST_TR_CFG => m.trendEnable a false
      | _ => m
    { stop with img := { stop.img with stopped := stop.img.stopped ++ [e.addr a b 0] } }

/-- One record of the loader on a register: B fields in force at once when their block is stopped, S fields among the bits it sets
after stopping the block, P members to be committed when the phase ends (R148). -/
def M.loaderWrite (m : M) (r : Reg) (i j k v mask : Nat) : M :=
  let w : Who := ⟨8, .system, none, false⟩
  let x := m.takes w r i j k (m.merge r i j k v)
  let m1 := if !(Nat.land mask r.sMask == 0) && !m.blockStopped r i j then m.stopFor r i j else m
  m1.place w r i j k x

/-- The groups that the members at some addresses belong to are committed (R148, last point). -/
def M.loaderCommit (m : M) (addrs : List Nat) : M :=
  let all : List CommitBlock := [.lpe, .mtr, .eth 0, .eth 1, .eth 2]
  let groups (b : CommitBlock) : Nat :=
    (addrs.filterMap memberAt).foldl (fun (a : Nat) p => if p.1 == b then Nat.lor a (2 ^ p.2) else a) 0
  all.foldl (fun (a : M) b => if groups b == 0 then a else a.commitWrite b (groups b)) m

end Sys2Proof.Machine
end

