-- ==== Sys2Proof/Machine/ImageCheck.lean ====
section
/-! DEFINITION. The checks of the image loader (R143 to R145, Table 4-8) and the refusals other chapters add (R28, R54 to R58,
R112, R118, R170, R172, R177, R178, R214, R230, R263, R291, R293, R304, R336, R422, R423, R542). -/

namespace Sys2Proof.Machine

/-- Result of one check: the error code and image offset of a failure. -/
abbrev Check := Option (Nat × Nat)

def need (ok : Bool) (err loc : Nat) : Check := if ok then none else some (err, loc)

/-- First failure of a list of checks (R143). -/
def firstFailure : List Check → Check
  | [] => none
  | some f :: _ => some f
  | none :: rest => firstFailure rest

def errFormat : Nat := 0x01
def errHdrCrc : Nat := 0x02
def errTarget : Nat := 0x03
def errMgmt : Nat := 0x04
def errLength : Nat := 0x05
def errSection : Nat := 0x06
def errSecCrc : Nat := 0x07
def errDigest : Nat := 0x08
def errBase : Nat := 0x09
def errRecord : Nat := 0x0A
def errRule : Nat := 0x0B
def errLimit : Nat := 0x0C
def errFailCell : Nat := 0x0D
def errLevel : Nat := 0x0E
def errBusy : Nat := 0x0F
def errApply : Nat := 0x10
def errDomain : Nat := 0x11
def errQuiesce : Nat := 0x12
def errAborted : Nat := 0x13

/-! ### Checks 1 to 5: header -/

def M.headerChecks (m : M) (b : Bytes) : List Check :=
  let h := readHeader b
  let rev := m.get F.SYS_REV_rev
  [need (128 ≤ b.length) errFormat 0,
   need (be b 0 4 == 0x584F564B) errFormat 0x00, need (be b 4 2 == 3) errFormat 0x04, need (be b 8 2 == 0x80) errFormat 0x08,
   need (crc32 (b.take 0x7C) == be b 0x7C 4) errHdrCrc 0x7C,
   need (be b 0x1C 2 == 0x9640) errTarget 0x1C, need (be b 0x1E 1 ≤ rev) errTarget 0x1E, need (rev ≤ be b 0x1F 1) errTarget 0x1F,
   need (h.mgmtMin ≤ (m.rd .UPD_VER 0).toNat) errMgmt 0x24,
   need (h.length % 16 == 0 && 256 ≤ h.length && h.length ≤ 8388608 && h.length ≤ b.length) errLength 0x0C,
   need (1 ≤ h.sections && h.sections ≤ 32) errLength 0x0A,
   need (!(h.imageId == 0)) errLength 0x10, need (h.level < 4) errLength 0x20,
   need (be b 6 2 < 2) errLength 0x06, need (h.qmask < 16) errLength 0x21,
   need (be b 0x22 2 == 0) errLength 0x22, need (be b 0x3C 4 == 0) errLength 0x3C, need (be b 0x60 28 == 0) errLength 0x60]

/-! ### Checks 6 to 9: section table, sums, digest, base -/

/-- A table entry fits the one before it and the image (R135, R136, Table 4-3). -/
def sectionOk (h : ImageHeader) (before : Option Section) (s : Section) : Bool :=
  let after := match before with
    | none => true
    | some p => p.kind < s.kind || (p.kind == s.kind && s.kind == secCells && p.flags % 4 < s.flags % 4)
  let size := recordSize s.kind
  after && 1 ≤ s.kind && s.kind ≤ 7 && (if s.kind == secCells then s.flags < 4 else s.flags == 0) &&
  s.off % 16 == 0 && 0x80 + 16 * h.sections ≤ s.off && s.off + s.len ≤ h.length && (size == 0 || s.len % size == 0) &&
  !(h.partial_ && s.kind < secUnits) && !(h.partial_ && s.kind == secCells && !(h.qmask == 2 ^ s.flags)) &&
  !(!h.partial_ && s.kind == secCells && !tbit h.qmask s.flags)

/-- Checks of each entry against the one before. -/
def entryChecks (h : ImageHeader) : Option Section → List Section → List Check
  | _, [] => []
  | p, s :: rest => need (sectionOk h p s) errSection s.entry :: entryChecks h (some s) rest

/-- Sections in ascending offset do not overlap, and the bytes between and after them are 0 (R135). -/
def gapChecks (b : Bytes) (stop : Nat) : Nat → Nat → List Section → List Check
  | pos, entry, [] => [need (be b pos (stop - pos) == 0) errSection entry]
  | pos, _, s :: rest =>
    need (pos ≤ s.off && be b pos (s.off - pos) == 0) errSection s.entry :: gapChecks b stop (s.off + s.len) s.entry rest

/-- The sections a full or a partial image must have (Table 4-3). -/
def requiredSections (h : ImageHeader) (ss : List Section) : Bool :=
  let has (k : Nat) : Bool := ss.any (fun s => s.kind == k)
  if h.partial_ then has secUnits && (ss.filter (fun s => s.kind == secCells)).length == 1
  else has secBlockCfg && has secDirectory && has secTasks && has secUnits &&
    (List.range 4).all (fun q => !tbit h.qmask q || ss.any (fun s => s.kind == secCells && s.flags == q))

def M.tableChecks (m : M) (b : Bytes) : List Check :=
  let h := readHeader b
  let ss := readSections b h
  entryChecks h none ss ++ gapChecks b h.length (0x80 + 16 * h.sections) 0x80 (sortBy Section.off ss) ++
  [need (requiredSections h ss) errSection 0x0A] ++
  ss.map (fun s => need (crc32 (slice b s.off s.len) == s.crc) errSecCrc s.entry) ++
  [need (digestBytes (Config.sha256 (b.take 0x40 ++ List.replicate 32 0 ++ slice b 0x60 0x1C ++ List.replicate 4 0 ++
     slice b 0x80 (h.length - 0x80))) == slice b 0x40 32) errDigest 0x40,
   need (if h.partial_ then h.baseId == m.get F.UPD_IMG_ID_id && !(h.baseId == 0) else h.baseId == 0) errBase 0x18]

/-! ### Check 10: records -/

/-- Place of a window in the block list of R138; none where records may not go. -/
def blockRank (a : Nat) : Option Nat :=
  match a / 65536 with
  | 0x4001 => some 0
  | 0x4002 => some 1
  | 0x4003 => some 2
  | 0x4008 => some 3
  | 0x4010 => some 4
  | 0x4012 => some 5
  | 0x4013 => some 6
  | 0x4014 => some 7
  | 0x4020 | 0x4021 | 0x4022 | 0x4023 | 0x4024 | 0x4025 | 0x4026 | 0x4027 => some (8 + (a / 65536 - 0x4020))
  | 0x4030 | 0x4031 | 0x4032 => some (16 + (a / 65536 - 0x4030))
  | 0x4038 => some 19
  | 0x403A => some 20
  | 0x403B => some 21
  | 0x4000 => some 22
  | 0x4011 => some 23
  | 0x4007 => some 24
  | _ => none

/-- Registers of the windows that records may address only in part (R138). -/
def recordMayAddress (r : Reg) (rank : Nat) : Bool :=
  if rank == 22 then r == .SYS_PACE_CTRL
  else if rank == 23 then r == .PTD_CTRL
  else if rank == 24 then r == .HST_TR_CFG || r == .HST_TR_SIZE || r == .HST_TR_PT
  else !(r == .FAB_QCTRL)

/-- Bits of a register that are enables under R139. -/
def enableBits (r : Reg) : Nat :=
  match r with
  | .EXE_TCFG | .LPE_CTRL | .LPE_CH_CTRL | .CAN_CTRL | .LIO_CTRL => 1
  | .MTR_CTRL => 0x101
  | .CAN_STA_CFG | .REC_TRG_CFG | .HST_TR_CFG => 0x80000000
  | .FAB_SBK_ARM => 0xFF
  | _ => 0

/-- Bits no image may set (R336, R422, R423). -/
def firmwareBits (r : Reg) : Nat :=
  match r with
  | .ETH_CTRL | .IBX_CTRL | .TTH_CTRL => 1
  | _ => 0

/-- Bits of a register of the classes a record for a port may set (R138). -/
def Reg.liveBits (r : Reg) : Nat := r.maskOf (fun f => f.acc == .rw && (f.cls == .live || f.cls == .boundary))

def bitsIn (a b : Nat) : Bool := Nat.land a b == a

/-- A BLOCKCFG record is well formed and its fields are valid for its block (R137 to R139); a value the block would ignore is
not valid. -/
def M.configOk (m : M) (c : ConfigRecord) (rawAddr : Nat) : Bool :=
  match blockRank c.rec_.addr, placeAt c.rec_.addr with
  | some rank, some p =>
    let old := (m.rd p.reg p.i p.j p.k).toNat
    let x := old - Nat.land old c.rec_.mask + Nat.land c.rec_.value c.rec_.mask
    rawAddr % 4 < 2 && recordMayAddress p.reg rank && bitsIn c.rec_.mask p.reg.rwMask &&
    (!(16 ≤ rank && rank ≤ 18) || bitsIn c.rec_.mask p.reg.liveBits) &&
    Nat.land c.rec_.mask (firmwareBits p.reg) == 0 &&
    (c.arm || Nat.land (Nat.land c.rec_.mask c.rec_.value) (enableBits p.reg) == 0) &&
    m.takes ⟨8, .system, none, false⟩ p.reg p.i p.j p.k x == x
  | _, _ => false

/-- Numbers of a list rise strictly. -/
def rising : List Nat → Bool
  | a :: b :: rest => a < b && rising (b :: rest)
  | _ => true

/-- Checks of records in ascending order: each is valid and above the one before. -/
def orderedChecks (ok : Nat → Bool) (key : Nat → Nat) : Option Nat → List Nat → List Check
  | _, [] => []
  | p, o :: rest => need (ok o && p.all (fun k => k < key o)) errRecord o :: orderedChecks ok key (some (key o)) rest

/-- A directory entry of a metering or loop-channel backing names a quantity of the kind and direction of its table (R229,
R293). -/
def quantityOk (p : PointRec) : Bool :=
  if p.backing == 3 then p.dir == 0 && meterQuantity (p.ref / 256) (p.ref % 256) == some p.kind
  else if p.backing == 5 then loopQuantity (fieldN p.ref 8 4) == some (p.kind, p.dir)
  else true

/-- Tasks known to a UNITS record: those of a full image, or those in force. -/
def M.knownTasks (m : M) (x : Image) : List Nat :=
  if x.header.partial_ then m.exe.taskRecs.map TaskRec.task else x.tasks.map (fun t => t.2.task)

def M.unitOk (m : M) (b : Bytes) (x : Image) (o : Nat) : Bool :=
  let u := readUnit b o
  let q := x.header.quadrant
  u.quadrant < 4 && u.tenant ≤ 250 && u.role < 4 && be b (o + 5) 1 < 2 && be b (o + 6) 10 == 0 &&
  (m.knownTasks x).contains u.task &&
  (!x.header.partial_ || (u.quadrant == q && m.exe.units.all (fun v => !(v.unit == u.unit) || v.quadrant == q)))

def taskOk (b : Bytes) (x : Image) (o : Nat) : Bool :=
  let t := readTask b o
  t.task < 32 && be b (o + 1) 1 < 2 && t.priority < 16 && 100 ≤ t.period && t.period ≤ 60000000 && be b (o + 12) 4 == 0 &&
  (t.errorTask == 0xFF || (!t.etask && x.tasks.any (fun y => y.2.task == t.errorTask && y.2.etask)))

def pathOk (b : Bytes) (x : Image) (o : Nat) : Bool :=
  let p := readPath b o
  p.path < 8 && p.quadrant < 4 && be b (o + 2) 2 == 0 && p.edgeCell < 0x800 && p.finalCell < 0x800 &&
  (!x.header.partial_ || p.quadrant == x.header.quadrant)

/-- The records themselves, section by section. -/
def M.recordChecks (m : M) (b : Bytes) (x : Image) : List Check :=
  let offs (k : Nat) : List Nat := recordsOf x.sections k
  x.configs.map (fun c => need (m.configOk c (be b c.off 4)) errRecord c.off) ++
  orderedChecks (fun o => be b (o + 2) 2 == 0 && quantityOk (freshEntry (readDir b o).w0 (readDir b o).w1))
    (fun o => be b o 2) none (offs secDirectory) ++
  orderedChecks (fun o => be b (o + 3) 1 == 0 && 1 ≤ be b o 2 && be b o 2 < 4096 &&
    (readShare b o).grants.all (fun g => grantMask g == g)) (fun o => be b o 2) none (offs secShare) ++
  orderedChecks (taskOk b x) (fun o => be b o 1) none (offs secTasks) ++
  orderedChecks (m.unitOk b x) (fun o => be b o 1) none (offs secUnits) ++
  [match badCell b x.sections with
   | some o => some (errRecord, o)
   | none => none] ++
  x.cells.map (fun c => need (x.units.any (fun u => u.2.unit == c.body.unit) &&
    !(x.cells.any (fun d => d.quadrant == c.quadrant && d.cell == c.cell && d.off < c.off))) errRecord c.off) ++
  (offs secSpringbok).map (fun o => need (pathOk b x o) errRecord o) ++
  [need (x.header.units == x.units.length) errRecord 0x34, need (x.header.tasks == x.tasks.length) errRecord 0x36,
   need (x.header.entries == x.dirs.length) errRecord 0x38]

/-! ### The module as it would stand after the load -/

/-- Put cells of a record list into a quadrant's list. -/
def putCells (tai : Nat) (rs : List CellRecord) (cs : List (Nat × Cell)) : List (Nat × Cell) :=
  rs.foldl (fun (a : List (Nat × Cell)) r => aput r.cell { r.body with body := r.body.body.fresh tai } a) cs

/-- The next cell of a list goes on a counter's chain: a CNTX cell of its unit (R113). -/
def chainsOn (all : List (Nat × Cell)) (n : Nat) (c : Cell) : Bool :=
  (aget (n + 1) all).any (fun d => d.unit == c.unit && (match d.body with
    | .t u => u.mode == .cntx
    | _ => false))

/-- A configured counter linked to its chain, in a list of cells. -/
def Cell.chainedIn (c : Cell) (all : List (Nat × Cell)) (n : Nat) : Cell :=
  let up := chainsOn all n c
  let f (y : CellBody) : CellBody := match y with
    | .t v => .t { v with chained := (v.mode == .cnt || v.mode == .cntx) && up }
    | z => z
  { c with body := f c.body, initial := f c.initial }

/-- Cells of a quadrant after a partial image: those of units still listed, and the listed cells (Table 4-10, step 3), which join
the chains of the cells that stay above them (R113). -/
def M.partialCells (m : M) (x : Image) (q : Nat) : List (Nat × Cell) :=
  let recs := x.cells.filter (fun r => r.quadrant == q)
  let all := putCells m.time.tai recs ((m.quad q).cells.filter (fun p => x.units.any (fun u => u.2.unit == p.2.unit)))
  all.map (fun p => (p.1, if recs.any (fun r => r.cell == p.1) then p.2.chainedIn all p.1 else p.2))

/-- Units, tasks and their images; every task is built from its units as they stand (R175, R211). -/
def M.buildAll (m : M) : M := m.exe.taskRecs.foldl (fun (a : M) t => a.buildTask t.task) m

/-- Units and paths as a partial image leaves them. -/
def M.withPartial (m : M) (x : Image) : M :=
  let q := x.header.quadrant
  let m1 := m.modQuad q (fun y => { y with cells := m.partialCells x q })
  let units := m.exe.units.filter (fun u => !(u.quadrant == q)) ++ x.units.map Prod.snd
  let paths := m.fab.paths.filter (fun p => !(p.quadrant == q)) ++ x.paths.map Prod.snd
  let m2 : M := { m1 with exe := { m1.exe with units := units }, fab := { m1.fab with paths := paths } }
  m2

/-- Fabric, units, tasks and paths of a full image, quadrant by quadrant (Table 4-9, step 5). -/
def M.withFabric (m : M) (x : Image) : M :=
  let quad (q : Nat) : Quadrant :=
    { Quadrant.reset with cells := putCells m.time.tai (x.cells.filter (fun r => r.quadrant == q)) [], failed := (m.quad q).failed }
  let recs := x.tasks.map Prod.snd
  { m with
    fab := { m.fab with quads := (List.range 4).map quad, paths := x.paths.map Prod.snd, sbkStart := [] }
    exe := { m.exe with
      taskRecs := recs, units := x.units.map Prod.snd, waves := [], active := [],
      tasks := recs.foldl (fun (a : List (Nat × TaskState)) t => aput t.task TaskState.new a) [] } }

/-- Directory and share table of a full image (Table 4-9, step 6); records without a backing name absent points. -/
def M.withDirectory (m : M) (x : Image) : M :=
  let one (a : List (Nat × PointRec)) (d : DirRecord) : List (Nat × PointRec) :=
    let p := freshEntry d.w0 d.w1
    if p.backing == 0 then a else aput d.id p a
  { m with pts := { m.pts with
      points := x.dirs.foldl one []
      shares := x.shares.foldl (fun (a : List (Nat × ShareList)) s => putd ⟨0, List.replicate 8 0⟩ s.list ⟨s.owner, s.grants⟩ a) [] } }

/-- Configure records in the order of the blocks, then the arm records, as bare register contents. -/
def M.withConfigs (m : M) (cs : List ConfigRecord) : M :=
  cs.foldl (fun (a : M) c => match placeAt c.rec_.addr with
    | some p =>
      let old := (a.rd p.reg p.i p.j p.k).toNat
      let a1 := a.transferAt [p.addr]
      a1.wr p.reg (BitVec.ofNat 32 (old - Nat.land old c.rec_.mask + Nat.land c.rec_.value c.rec_.mask)) p.i p.j p.k
    | none => a) m

/-- Records of a phase in the order they are applied (Table 4-9, step 7; R149). -/
def Image.phase (x : Image) (arm : Bool) : List ConfigRecord :=
  let cs := x.configs.filter (fun c => c.arm == arm)
  if arm then cs else sortBy (fun (c : ConfigRecord) => (blockRank c.rec_.addr).getD 0) cs

/-- The module as the checks of an image see it. -/
def M.trial (m : M) (x : Image) : M :=
  if x.header.partial_ then (m.withPartial x).buildAll
  else
    let m1 := ((m.withFabric x).withDirectory x).withConfigs (x.phase false ++ x.phase true)
    let m2 := (List.range 64).foldl (fun (a : M) n =>
      a.put F.LPE_CH_STAT_state (if a.bit F.LPE_CH_CTRL_en n then chRun else chOff) n) m1
    m2.buildAll

/-- Offset of the last record of the image for a register, or of its section table. -/
def Image.recordFor (x : Image) (a : Nat) : Nat :=
  (((x.configs.filter (fun c => c.rec_.addr == a)).getLast?).map ConfigRecord.off).getD 0x80

/-- The image has a record for a register. -/
def Image.sets (x : Image) (a : Nat) : Bool := x.configs.any (fun c => c.rec_.addr == a)

/-- Channels the image enables. -/
def Image.channels (x : Image) (t : M) : List Nat :=
  (List.range 64).filter (fun n => x.sets (Reg.LPE_CH_CTRL.addr n 0 0) && t.bit F.LPE_CH_CTRL_en n)

/-- What check 10 asks of blocks and tasks as they would stand (R145, R170, R230, R263, R304, R542). -/
def M.blockChecks (m : M) (x : Image) (t : M) : List Check :=
  let q := x.header.quadrant
  let cellsAt := (((x.sections.filter (fun s => s.kind == secCells)).head?).map Section.entry).getD 0x80
  let unitsAt := (((x.sections.filter (fun s => s.kind == secUnits)).head?).map Section.entry).getD 0x80
  if x.header.partial_ then
    [need (m.pts.points.all (fun p => !(p.2.backing == 1 && fieldN p.2.ref 16 2 == q) ||
        (t.cell q (fieldN p.2.ref 5 11)).isSome)) errRecord cellsAt,
     need (t.exe.taskRecs.all (fun r => t.exe.units.any (fun u => u.task == r.task))) errRecord unitsAt]
  else
    x.tasks.map (fun r => need (t.exe.units.any (fun u => u.task == r.2.task)) errRecord r.1) ++
    (x.channels t).map (fun n => need (!([3, 5, 6, 7] : List Nat).any (t.loopFails n)) errRecord (x.recordFor (Reg.LPE_CH_CTRL.addr n 0 0))) ++
    (List.range 12).map (fun c => need (!x.sets (Reg.MTR_C_CFG.addr c 0 0) || t.get F.MTR_C_CFG_mode c == 0 || t.circuitMatches c)
      errRecord (x.recordFor (Reg.MTR_C_CFG.addr c 0 0))) ++
    (List.range 8).map (fun n => need (!x.sets (Reg.CAN_CTRL.addr n 0 0) || !t.bit F.CAN_CTRL_en n || t.canTiming n == 0)
      errRecord (x.recordFor (Reg.CAN_CTRL.addr n 0 0))) ++
    (List.range 64).map (fun n => need (!x.sets (Reg.HST_TR_CFG.addr n 0 0) || !t.bit F.HST_TR_CFG_en n || t.trendValid n)
      errRecord (x.recordFor (Reg.HST_TR_CFG.addr n 0 0)))

/-! ### Checks 11 to 14 -/

/-- Directory and share rules (R52 to R58). -/
def M.ruleChecks (x : Image) (t : M) : List Check :=
  x.dirs.map (fun d => need (t.entryValid d.id (freshEntry d.w0 d.w1)) errRule d.off) ++
  x.shares.map (fun s => need (ownerValid s.owner && s.grants.all (fun g => grantTenant (fieldN g 8 8))) errRule s.off) ++
  [need (t.localCount ≤ 16384) errRule 0x38, need (t.retainCount ≤ 4096) errRule 0x38]

/-- A channel's tag may not write a sink that exists (Table 2-6): loop sinks are output points. -/
def M.sinkDenied (t : M) (n : Nat) : Bool :=
  let s := t.get F.LPE_CH_SINK_id n
  (t.point s).isSome && !(t.gate ⟨5, .mk (t.get F.LPE_CH_TEN_tenant n) .operate, none, false⟩ .write s == .granted)

/-- Fabric limits, images, sinks (Table 3-9, R90, R118, R177, R178, R214). -/
def M.limitChecks (x : Image) (t : M) : List Check :=
  let cellsAt := (((x.sections.filter (fun s => s.kind == secCells)).head?).map Section.entry).getD 0x80
  let unitsAt := (((x.sections.filter (fun s => s.kind == secUnits)).head?).map Section.entry).getD 0x80
  x.cells.map (fun c => need (t.exe.units.any (fun u => u.unit == c.body.unit && u.quadrant == c.quadrant)) errLimit c.off) ++
  [need ((t.exe.units.filter UnitRec.priv).length ≤ 16) errLimit unitsAt] ++
  x.cells.map (fun c => need (!t.inLongChain c.quadrant c.cell) errLimit c.off) ++
  [match t.badPath t.fab.paths with
   | none => none
   | some p => some (errLimit, ((x.paths.find? (fun y => y.2 == p)).map Prod.fst).getD 0x80)] ++
  [need (t.imagesFit (t.loopSinks ++ t.springbokPoints)) errLimit cellsAt] ++
  (x.channels t).map (fun n => need (!t.loopFails n 4 && !t.sinkDenied n) errLimit (x.recordFor (Reg.LPE_CH_SINK.addr n 0 0)))

/-- No failed cell is configured (R129). -/
def M.failedChecks (m : M) (x : Image) : List Check :=
  x.cells.map (fun c => need (!(m.quad c.quadrant).failed.contains c.cell) errFailCell c.off)

/-- Rates within the caps of the present level, bounds within periods (R28, Table 5-10). -/
def M.levelChecks (x : Image) (t : M) : List Check :=
  (x.channels t).map (fun n => need (!([1, 2] : List Nat).any (t.loopFails n)) errLevel (x.recordFor (Reg.LPE_CH_PER.addr n 0 0))) ++
  x.tasks.map (fun r => need (r.2.bound ≤ 1000 * r.2.period) errLevel r.1)

/-- Checks 1 to 14 of Table 4-8 on the contents of a source. -/
def M.imageChecks (m : M) (src : Bytes) : Check :=
  match firstFailure (m.headerChecks src) with
  | some f => some f
  | none =>
    let b := src.take (readHeader src).length
    match firstFailure (m.tableChecks b) with
    | some f => some f
    | none =>
      let x := readImage b
      match firstFailure (m.recordChecks b x) with
      | some f => some f
      | none =>
        let t := m.trial x
        firstFailure (m.blockChecks x t ++ M.ruleChecks x t ++ M.limitChecks x t ++ m.failedChecks x ++ M.levelChecks x t)

/-! ### Check 15 (R147, R151) -/

/-- The quadrant holds a privileged unit, or the partial image defines one. -/
def M.privInvolved (m : M) (x : Image) : Bool :=
  m.exe.units.any (fun u => u.quadrant == x.header.quadrant && u.priv) || x.units.any (fun u => u.2.priv)

/-- State does not allow the load: its error code; the power domain of a partial load's quadrant comes first. -/
def M.loadRefusal (m : M) (b : Bytes) : Check :=
  let x := readImage b
  if !x.header.partial_ then need m.exeStopped errBusy 0
  else if !m.domainOn x.header.quadrant then some (errDomain, 0)
  else need (m.get F.UPD_IMG_STAT_state == 1 && (m.exeStopped || !m.privInvolved x)) errBusy 0

end Sys2Proof.Machine
end

