-- ==== Sys2Proof/Machine/Image.lean ====
section
/-! DEFINITION. The image loader: verify, full load, partial load, abort, what follows a load (R146 to R154, R166 to R169). -/

namespace Sys2Proof.Machine

/-! ### Source, result, record (R168, R169) -/

/-- Contents of the selected source; none for the reserved code. -/
def M.imageSource (m : M) : Option Bytes :=
  match m.get F.UPD_IMG_SEL_src with
  | 0 => some m.img.bank0
  | 1 => some m.img.bank1
  | 2 => some m.img.staging
  | _ => none

def M.setJob (m : M) (j : LoadJob) : M := { m with img := { m.img with job := j } }

/-- A command ends: its result and the offset of a failed check. -/
def M.imageResult (m : M) (err loc : Nat) : M :=
  let m1 := ((m.put F.UPD_IMG_STAT_err err).put F.UPD_IMG_STAT_busy 0).setJob .none
  if 1 ≤ err && err ≤ errBusy then m1.put F.UPD_IMG_ERRLOC_offset loc else m1

/-- The record of a completed load command (R169). -/
def M.imageRecord (m : M) (source : Nat) (src : Bytes) (err : Nat) : M :=
  (m.note 3 (if err == 0 then 5 else 3) 0 [source, be src 0x10 4, be src 0x14 4, err]).raise 0x13

/-- A load command starts: busy, with the job given and the source it names. -/
def M.startJob (m : M) (j : LoadJob) : M :=
  let m1 := (m.put F.UPD_IMG_STAT_busy 1).setJob j
  { m1 with img := { m1.img with source := m.get F.UPD_IMG_SEL_src } }

/-! ### Verify, load and partial load up to their checks (R143, R146, R152) -/

/-- IMAGE_VERIFY: checks 1 to 14 on the selected image; with the reserved source code it ends at once (Table 4-17). -/
def M.imageVerify (m : M) : M :=
  if m.bit F.UPD_IMG_STAT_busy then m
  else match m.imageSource with
    | none => m.imageResult errLength 0
    | some src =>
      let (e, l) := (m.imageChecks src).getD (0, 0)
      m.startJob (.verify e l)

/-- Checks 1 to 15 on a source. -/
def M.loadChecks (m : M) (src : Bytes) : Check :=
  match m.imageChecks src with
  | some f => some f
  | none => m.loadRefusal (src.take (readHeader src).length)

/-- IMAGE_LOAD with a full image, or one that fails before its header is read (Table 4-9, steps 1 to 4). -/
def M.imageLoad (m : M) : M :=
  if m.bit F.UPD_IMG_STAT_busy then m
  else match m.imageSource with
    | none => (m.imageResult errLength 0).imageRecord 3 [] errLength
    | some src =>
      let (e, l) := (m.loadChecks src).getD (0, 0)
      m.startJob (.full e l src)

/-- PARTIAL_LOAD (Table 4-10, steps 1 and 2): an ACTIVE unit sends the image to its peer first and goes on only when the peer
reports its checks passed, which is `peerOk` (R400); the error of a load the peer refuses is not stated and is a free value. -/
def M.partialLoad (m : M) (peerOk : Bool) : M :=
  if m.bit F.UPD_IMG_STAT_busy then m
  else match m.imageSource with
    | none => (m.imageResult errLength 0).imageRecord 3 [] errLength
    | some src =>
      match m.loadChecks src with
      | some (e, l) => m.startJob (.partialDone e l src)
      | none =>
        let q := (readHeader src).quadrant
        let paired := m.unitState == 4 && m.get F.TTH_STAT_link == 2
        let m1 := if paired then m.sendBulk (src.take (readHeader src).length) else m
        if paired && !peerOk then
          let (w, m2) := m1.drawFree
          m2.startJob (.partialDone (1 + w.toNat % errAborted) 0 src)
        else (m1.startJob (.partialQuiesce q src)).quiesceRequest q

/-! ### Full load (Table 4-9, steps 5 to 9) -/

/-- The patch set is discarded by a load (R208): STALE when it held a patch. -/
def M.discardPatches (m : M) : M :=
  if m.exe.patches.isEmpty then m.emptyPatches (m.get F.EXE_OLC_STAT_err) else m.emptyPatches 8

/-- Paths in force show in FAB_SBK_STAT; a path that is no longer defined, or newly loaded, is disarmed. -/
def M.showPaths (m : M) (gone : Nat → Bool) : M :=
  let defined := m.fab.paths.foldl (fun (a : Nat) p => Nat.lor a (2 ^ p.path)) 0
  let m1 := m.put F.FAB_SBK_STAT_defined defined
  (List.range 8).foldl (fun (a : M) n => if gone n || !tbit defined n then a.putBit F.FAB_SBK_ARM_arm n false else a) m1

/-- Step 5: every quadrant cleared, those of the image configured. -/
def M.loadFabric (m : M) (x : Image) : M :=
  let m1 := (m.withFabric x).discardPatches
  let m2 := (List.range 4).foldl (fun (a : M) q =>
    if !a.domainOn q then a else a.setQstate q (if tbit x.header.qmask q then 2 else 1)) m1
  (m2.put F.FAB_QCTRL_req 0).showPaths (fun _ => true)

/-- Step 6: directory and shares replaced; force entries of absent points go, each with a record; the others hold their points. -/
def M.loadDirectory (m : M) (x : Image) : M :=
  let m1 := m.withDirectory x
  let force (a : M) (p : Nat × ForceRec) : M :=
    match a.point p.2.point with
    | none =>
      let b := ({ a with pts := { a.pts with forces := adel p.1 a.pts.forces } }).dropForce p.2.point
      b.noteItems 3 5 0 (descriptor p.2.point stForced p.2.value)
    | some e => (a.putEntry p.2.point { e with value := keepKind e.kind p.2.value }).deliver e (keepKind e.kind p.2.value)
  let m2 := m1.pts.forces.foldl force m1
  let m3 := m2.pts.subs.foldl (fun (a : M) s => a.noteChecks s.point) m2
  (List.range 4).foldl (fun (a : M) q => (a.quad q).cells.foldl (fun (b : M) (p : Nat × Cell) => b.showCell q p.1) a) m3

/-- The window of a record's register answers: its domain is on. -/
def M.windowOn (m : M) (a : Nat) : Bool :=
  match windowDomain (a / 65536) with
  | some (some d) => m.domainOn d
  | some none => true
  | none => false

/-- One record applied (R137, R148): in the configure phase the bits it sets may stop its block, in the arm phase those it changes. -/
def M.applyConfig (m : M) (arm : Bool) (c : CfgRec) : M :=
  if !m.windowOn c.addr then m
  else match placeAt c.addr with
    | some p =>
      let old := (m.rd p.reg p.i p.j p.k).toNat
      let new := old - Nat.land old c.mask + Nat.land c.value c.mask
      m.loaderWrite p.reg p.i p.j p.k new (if arm then Nat.xor old new else c.mask)
    | none => m

/-- Records of a phase, then the commits of the groups they wrote (R148). -/
def M.applyConfigs (m : M) (arm : Bool) (cs : List CfgRec) : M :=
  (cs.foldl (fun (a : M) c => a.applyConfig arm c) m).loaderCommit (cs.map CfgRec.addr)

/-- Inputs of stations that do not read ONLINE are stale and substituted from the start (R489). -/
def M.awaitStations (m : M) : M :=
  let waits (p : PointRec) : Bool := p.backing == 4 && p.dir == 0 && !(m.get F.CAN_STA_STAT_state p.bus p.station == stOnline)
  { m with pts := { m.pts with points := m.pts.points.map (fun p =>
      (p.1, if waits p.2 then { p.2 with status := Nat.lor p.2.status (stStale + stSubstituted) } else p.2)) } }

/-- Steps 5 to 7 of a full load, and the tasks with their images; blocks stopped before stay stopped until the arm phase. -/
def M.loadSteps (m : M) (x : Image) (level : Nat) : M :=
  let cfg := (x.phase false).map ConfigRecord.rec_
  let arm := (x.phase true).map ConfigRecord.rec_
  let m1 : M := { (m.loadFabric x).loadDirectory x with img := { m.img with configure := cfg, arm := arm, level := level } }
  ((m1.buildAll).applyConfigs false cfg).awaitStations

/-- The working state of a block that returns to its reset values with its registers (R150): loop engine, metering (its energies
stay saved), a CAN controller, the lines. -/
def M.blockReset (m : M) (window : Nat) : M :=
  if window == 0x4013 then { m with loop := { LoopState.reset with kept := m.loop.kept } }
  else if window == 0x4014 then { m with mtr := { MeterState.reset with saved := m.meterSave.mtr.saved } }
  else if 0x4020 ≤ window && window ≤ 0x4027 then
    m.setCan (window - 0x4020) { CanState.empty with asleep := (m.canBox (window - 0x4020)).asleep }
  else if window == 0x403B then m.lioEnable false
  else m

/-- A register that a failed load returns to reset: all of the loop engine's, metering's and the controllers', elsewhere those
with fields a loader may write; of SYS and HST only those R138 lets a record address. -/
def failedReset (a : Nat) : Bool :=
  let w := a / 65536
  w == 0x4013 || w == 0x4014 || (0x4020 ≤ w && w ≤ 0x4027) ||
  (match blockRank a, placeAt a with
   | some rank, some p => recordMayAddress p.reg rank && !(p.reg.rwMask == 0) && !(firmwareBits p.reg == 1)
   | _, _ => false)

/-- A load that fails in steps 5 to 8 leaves every quadrant empty, every entry absent, and the blocks the image configures at
their reset values (R150). -/
def M.loadFailed (m : M) (x : Image) : M :=
  let empty : Image := { x with cells := [], tasks := [], units := [], paths := [], dirs := [], shares := [],
                                header := { x.header with qmask := 0 } }
  let windows := ((x.configs.filter (fun c => (blockRank c.rec_.addr).isSome)).map (fun c => c.rec_.addr / 65536)).eraseDups
  let hit (a : Nat) : Bool := windows.contains (a / 65536) && failedReset a
  let m1 := windows.foldl (fun (a : M) w => a.blockReset w) ((m.loadFabric empty).loadDirectory empty)
  let m2 : M := { m1 with regs := m1.regs.filter (fun p => !hit p.1), effs := m1.effs.filter (fun p => !hit p.1)
                          img := { m1.img with configure := [], arm := [], inForce := [], level := 0, stopped := [] } }
  m2.put F.UPD_IMG_STAT_state 2

/-- A quadrant the image configures has no power (R150). -/
def M.unpowered (m : M) (x : Image) : Bool := (List.range 4).any (fun q => tbit x.header.qmask q && !m.domainOn q)

/-- The image in a source's contents. -/
def imageIn (src : Bytes) : Image := readImage (src.take (readHeader src).length)

/-- A full load fails with APPLY (R150). -/
def M.applyFailed (m : M) (source : Nat) (src : Bytes) : M :=
  ((m.loadFailed (imageIn src)).imageResult errApply 0).imageRecord source src errApply

/-- Steps 8 and 9. -/
def M.endFull (m : M) (source : Nat) (src : Bytes) : M :=
    let x := imageIn src
    let m0 := m.retainRestore
    let m1 : M := { m0 with img := { m0.img with inForce := src.take x.header.length } }
    let m2 := ((m1.put F.UPD_IMG_STAT_state 1).put F.UPD_IMG_STAT_partial 0).put F.UPD_IMG_STAT_dirty 0
    let m3 := ((m2.put F.UPD_IMG_ID_id x.header.imageId).put F.UPD_IMG_VER_version x.header.version).put F.UPD_IMG_QREV_qrev 0
    ((m3.put F.EXE_STAT_first 1).imageResult 0 0).imageRecord source src 0

/-- Steps 5 to 9 with no boundary to wait for: at bring-up, and with the swap of an update. -/
def M.finishFull (m : M) (source : Nat) (src : Bytes) : M :=
  let x := imageIn src
  if m.unpowered x then m.applyFailed source src else (m.loadSteps x x.header.level).endFull source src

/-- The image sets an S field of metering, which has a frame to finish before it stops (R148, R160, R271). -/
def M.meterHolds (m : M) (x : Image) : Bool :=
  m.mtrRuns && m.bit F.MTR_STAT_clk && m.domainOn 11 && (x.phase false).any (fun c => match placeAt c.rec_.addr with
    | some p => !(Nat.land c.rec_.mask p.reg.sMask == 0) && (enableOf p.reg).any (fun e => e.1 == .MTR_CTRL)
    | none => false)

/-- A B field that a configure record set is not in force yet (R148). -/
def M.boundaryPending (m : M) (x : Image) : Bool :=
  (x.phase false).any (fun c => (placeAt c.rec_.addr).any (fun p => !(p.reg.bMask == 0)) && (aget c.rec_.addr m.effs).isSome)

/-- LOAD_COMPLETE of a full load past its checks: metering that must stop finishes its frame first, and the load is not LOADED before
the boundaries of its B fields (R148, R271). -/
def M.fullStep (m : M) (source : Nat) (src : Bytes) : M :=
  let x := imageIn src
  if m.unpowered x then m.applyFailed source src
  else if m.meterHolds x then
    if m.mtr.stopping then m
    else { m.meterStop with img := { m.img with stopped := m.img.stopped ++ [Reg.MTR_CTRL.addr 0 0 0] } }
  else
    let m1 := m.loadSteps x x.header.level
    if m1.boundaryPending x then m1.setJob (.fullWaits src) else m1.endFull source src

/-! ### Partial load (Table 4-10, steps 3 to 5, Table 5-8) -/

/-- A cell as a partial image configures it: counters show a reset, EDGE cells issue a token at the return (Table 5-8). -/
def Cell.swapped (c : Cell) : Cell :=
  match c.body with
  | .t t =>
    if t.mode == .cnt || t.mode == .cntx then { c with body := .t { t with reset := true } }
    else if t.mode == .edge then { c with body := .t { t with tokenOnReturn := true } }
    else c
  | _ => c

/-- Steps 3 to 5 of Table 4-10. -/
def M.finishPartial (m : M) (q : Nat) (src : Bytes) : M :=
  let b := src.take (readHeader src).length
  let x := readImage b
  let listed (c : Nat) : Bool := x.cells.any (fun r => r.quadrant == q && r.cell == c)
  let stale := m.exe.patches.any (fun p => p.quadrant == q)
  let old := m.exe.units
  let m1 := m.withPartial x
  let m2 := m1.modQuad q (fun y => { y with cells := y.cells.map (fun p =>
    (p.1, if listed p.1 then p.2.swapped else p.2)) })
  let m3 := if stale then m2.emptyPatches 8 else m2
  let tasks := (m3.exe.taskRecs.map TaskRec.task).filter (fun n =>
    (old ++ m3.exe.units).any (fun u => u.task == n && u.quadrant == q))
  let m4 := tasks.foldl (fun (a : M) n => a.buildTask n) m3
  let m5 := m4.showPaths (fun n => m.fab.paths.any (fun p => p.path == n && p.quadrant == q) ||
    m4.fab.paths.any (fun p => p.path == n && p.quadrant == q))
  let m6 := (m5.quad q).cells.foldl (fun (a : M) (p : Nat × Cell) => if listed p.1 then a.showCell q p.1 else a) m5
  let m7 := m6.returnToRun q
  let m8 := (m7.put F.UPD_IMG_ID_id x.header.imageId).put F.UPD_IMG_STAT_partial 1
  let n := satAdd (fieldN (m8.get F.UPD_IMG_QREV_qrev) (8 * q) 8) 1 255
  let m9 := m8.put F.UPD_IMG_QREV_qrev (setFieldN (m8.get F.UPD_IMG_QREV_qrev) (8 * q) 8 n)
  (m9.imageResult 0 0).imageRecord m.img.source src 0

/-! ### Completion and abort -/

/-- LOAD_COMPLETE: the command in progress ends; a partial load ends once its quadrant is quiesced or empty. -/
def M.loadComplete (m : M) : M :=
  let source := m.img.source
  match m.img.job with
  | .none => m
  | .verify e l => m.imageResult e l
  | .full e l src =>
    if e == 0 then m.fullStep source src
    else if e == errApply then m.applyFailed source src
    else (m.imageResult e l).imageRecord source src e
  | .fullWaits src => if m.boundaryPending (imageIn src) then m else m.endFull source src
  | .partialDone e l src => (m.imageResult e l).imageRecord source src e
  | .partialQuiesce q src => if m.qstate q == 4 || m.qstate q == 1 then m.finishPartial q src else m

/-- IMAGE_ABORT: a verify, or a load before it changes anything, ends with ABORTED (Table 4-17); a load that its quiesce has ended
stays so (R153). -/
def M.imageAbort (m : M) : M :=
  let source := m.img.source
  match m.img.job with
  | .verify _ _ => m.imageResult errAborted 0
  | .full _ _ src => (m.imageResult errAborted 0).imageRecord source src errAborted
  | .partialDone e _ src => if e == errQuiesce then m else (m.imageResult errAborted 0).imageRecord source src errAborted
  | .partialQuiesce q src => ((m.setJob .none).quiesceCancel q |>.imageResult errAborted 0).imageRecord source src errAborted
  | _ => m

/-- A write of UPD_IMG_CMD by its operation, full or partial as the selected image says. -/
def M.imageCommand (m : M) (op : Nat) (peerOk : Bool) : M :=
  match op with
  | 1 => m.imageVerify
  | 2 => if (m.imageSource.map (fun s => (readHeader s).partial_)).getD false then m.partialLoad peerOk else m.imageLoad
  | 3 => m.imageAbort
  | _ => m

/-! ### Arm phase and power return (R149, R166) -/

/-- Return a block or unit that the loader stopped to run. -/
def M.restart (m : M) (a : Nat) : M :=
  match placeAt a with
  | none => m
  | some p =>
    let bit := if p.reg == .CAN_STA_CFG || p.reg == .HST_TR_CFG then 31 else 0
    m.loaderWrite p.reg p.i p.j p.k (putBitN (m.rd p.reg p.i p.j p.k).toNat bit true) 0

/-- The blocks and units the loader stopped return to run. -/
def M.restartAll (m : M) : M :=
  let m1 := m.img.stopped.foldl (fun (a : M) r => a.restart r) m
  { m1 with img := { m1.img with stopped := [] } }

/-- The arm phase: stopped blocks return to run, then the arm records in record order. -/
def M.armImage (m : M) : M := ((m.restartAll).applyConfigs true m.img.arm).restartAll

/-- The records of a domain's windows are applied again when it powers, arm records when execution runs (R166). -/
def M.restoreConfig (d : Nat) (m : M) : M :=
  let mine (c : CfgRec) : Bool := windowDomain (c.addr / 65536) == some (some d)
  let m1 := m.applyConfigs false (m.img.configure.filter mine)
  if m1.executing then m1.applyConfigs true (m1.img.arm.filter mine) else m1

end Sys2Proof.Machine
end

