-- ==== Sys2Proof/Machine/KrovData.lean ====
section
/-! DEFINITION. What the Krovtan engine keeps in the parameter store: accounts and network settings (R366, R379, R383, R540,
R584). -/

namespace Sys2Proof.Machine

/-! ### Accounts (Table 10-5) -/

/-- Tenant codes that may hold accounts. -/
def accountTenant (t : Nat) : Bool := t ≤ 250 || t == 255

/-- An account record of 92 bytes is well formed (Table 10-5). -/
def accountOk (b : Bytes) : Bool :=
  let role := be b 3 1
  let kind := be b 4 1
  b.length == 92 && be b 0 2 ≤ 0xFF && accountTenant (be b 2 1) && role ≤ 4 && ((role == 4) == (be b 2 1 == 255)) &&
  kind ≤ 1 && be b 5 1 < 4 && be b 6 2 == 0 &&
  (if kind == 1 then 10000 ≤ be b 8 4 && be b 8 4 ≤ 10000000 else be b 8 4 == 0 && be b 12 16 == 0)

/-- Store an account; its sessions close (R373, R379). -/
def M.putAccount (m : M) (b : Bytes) : M :=
  let n := be b 0 2
  ({ m with krov := { m.krov with accounts := aput n (readAccount b) m.krov.accounts } }).closeWhere 4 (fun s => s.account == n)

/-- The verifier of a client key K (R366). -/
def verifierOf (k : Bytes) : Verifier :=
  let client := digestBytes (Config.hmac k (ascii "Client Key"))
  ⟨0, List.replicate 16 0, digestBytes (Config.sha256 client), digestBytes (Config.hmac k (ascii "Server Key"))⟩

/-- The default SERVICE account 0x00FF, a key account whose K is k_svc (R540, R549). -/
def serviceAccount : Account :=
  let k := digestBytes (Config.hkdfExpand (hkdfExtract serialBytes Config.fieldRoot) (label "KV svc account"))
  ⟨255, 4, 0, 1, verifierOf k⟩

/-- The accounts of an unreadable region 2 (R540). -/
def defaultAccounts : List (Nat × Account) := [(0xFF, serviceAccount)]

/-- An account as an opening finds it: in the recovery service account 0x00FF alone exists (R584). -/
def M.accountFor (m : M) (n : Nat) : Option Account :=
  if m.boot.phase == .recovery then (if n == 0xFF then some serviceAccount else none) else aget n m.krov.accounts

/-! ### Network settings (Table 10-13) -/

/-- The records of a NET_SET payload; none when their lengths do not fill it.  `n` bounds the records. -/
def readNet : Nat → Bytes → Option (List NetRecord)
  | _, [] => some []
  | 0, _ => none
  | n + 1, b =>
    let len := be b 3 1
    if b.length < 4 + len then none
    else (readNet n (b.drop (4 + len))).map (fun l => ⟨be b 0 1, be b 1 1, be b 2 1, slice b 4 len⟩ :: l)

/-- A record as it travels. -/
def NetRecord.bytes (r : NetRecord) : Bytes := toBE 1 r.kind ++ toBE 1 r.port ++ toBE 1 r.tenant ++ toBE 1 r.data.length ++ r.data

/-- Port and tenant of an address record. -/
def NetRecord.placeOk (r : NetRecord) : Bool := (r.port == 0 && r.tenant ≤ 250) || (r.port == 2 && r.tenant == 0)

/-- A record is valid by itself. -/
def NetRecord.ok (r : NetRecord) : Bool :=
  match r.kind with
  | 1 => r.port ≤ 2 && r.tenant == 0 && r.data.length == 4 && be r.data 0 1 < 32 && be r.data 1 3 == 0
  | 2 => r.placeOk && r.data.length == 12 && be r.data 4 1 ≤ 32 && be r.data 5 3 == 0
  | 3 => r.placeOk && r.data.length == 20 && be r.data 16 1 ≤ 128 && be r.data 17 3 == 0
  | 4 => r.port == 0 && r.tenant == 0 && r.data.length == 4 && 1024 ≤ be r.data 0 2 && be r.data 2 2 == 0
  | 5 => r.placeOk && r.data.length == 4 && (be r.data 0 1 == 2 || be r.data 0 1 == 3) && be r.data 1 3 == 0
  | _ => false

/-- The record concerns SP alone. -/
def NetRecord.ofSp (r : NetRecord) : Bool := r.port == 2 && !(r.kind == 4)

/-- The records in force after one more: a port, an IPv4 address and the UDP port replace the one they find, an IPv6 address
adds itself once, a removal removes (R383). -/
def netApply (l : List NetRecord) (r : NetRecord) : List NetRecord :=
  match r.kind with
  | 3 => l.filter (fun x => !(x.at_ 3 r.port r.tenant && slice x.data 0 16 == slice r.data 0 16)) ++ [r]
  | 5 => l.filter (fun x => !x.at_ (be r.data 0 1) r.port r.tenant)
  | k => l.filter (fun x => !x.at_ k r.port r.tenant) ++ [r]

/-- No interface has more than two IPv6 addresses. -/
def netFits (l : List NetRecord) : Bool :=
  l.all (fun r => !(r.kind == 3) || (l.filter (fun x => x.at_ 3 r.port r.tenant)).length ≤ 2)

/-- The UDP port the module listens on (R358). -/
def M.udpPort (m : M) : Nat :=
  match m.krov.net.find? (fun r => r.kind == 4) with
  | some r => be r.data 0 2
  | none => 52113

/-- The port record in force (R336, R540): SP is enabled and the backbone ports are disabled where none says otherwise; bits of
adv that the port does not have stay 0. -/
def M.portSetting (m : M) (x : Nat) : Bool × Nat :=
  match m.krov.net.find? (fun r => r.at_ 1 x 0) with
  | some r => (tbit (be r.data 0 1) 0, Nat.land (fieldN (be r.data 0 1) 1 4) (if x == 2 then 0xB else 7))
  | none => (x == 2, m.get F.ETH_CTRL_adv x)

/-- The management firmware sets a port as its record says (R336). -/
def M.applyPort (m : M) (x : Nat) : M :=
  let w : Who := ⟨0, .system, none, false⟩
  let (en, adv) := m.portSetting x
  let m1 := if m.get F.ETH_CTRL_adv x == adv then m
    else ((if m.bit F.ETH_CTRL_en x then m.portDisable w x else m).put F.ETH_CTRL_adv adv x)
  if en then (if m1.bit F.ETH_CTRL_en x then m1 else m1.portEnable w x)
  else if m1.bit F.ETH_CTRL_en x then m1.portDisable w x else m1

/-- A session's address, or every port of its class, has gone. -/
def M.sessionLost (m : M) (s : Session) : Bool :=
  if s.port == 1 then !(m.portSetting 2).1 || !(m.addressesOf 2 0).contains s.dst
  else !((m.portSetting 0).1 || (m.portSetting 1).1) || !(m.addressesOf 0 s.net).contains s.dst

/-- A valid set takes effect: ports follow, sessions that lose their address or port close (R373, R383). -/
def M.applyNet (m : M) (rs : List NetRecord) : M :=
  let m1 := { m with krov := { m.krov with net := rs.foldl netApply m.krov.net } }
  let m2 := (List.range 3).foldl (fun (a : M) x => if rs.any (fun r => r.at_ 1 x 0) then a.applyPort x else a) m1
  m2.closeWhere 3 (fun s => m2.sessionLost s)

end Sys2Proof.Machine
end

