-- ==== Sys2Proof/Machine/Upd.lean ====
section
/-! DEFINITION. Field update and fall-back (chapter 19): packages, compatibility, installation, confirmation, fall-back. -/

namespace Sys2Proof.Machine

/-- An update flag with its source (R585). -/
def M.updFlag (m : M) (x : FRef) : M := m.flag x 0x27

/-! ### A module reset (R477) -/

/-- A module reset asserts at once, or after a planned hand-over of an ACTIVE unit whose peer can take the lease. -/
def M.moduleReset (m : M) : M :=
  if m.unitState == 4 && m.peerReadyFor then
    ({ m with boot := { m.boot with resetWaits := true } }).startHandover .reset
  else m.applyReset 3 false

/-! ### Package layout (R572, R573, Tables 19-1, 19-3) -/

structure PackageEntry where
  comp : Nat
  step : Nat
  cflags : Nat
  version : Nat
  off : Nat
  len : Nat
  digest : Bytes
  needsMin : List Nat
  needsMax : List Nat
  peerMin : Nat
  fmt : Nat
  baseId : Nat
  deriving DecidableEq, Repr

def readEntry (b : Bytes) (o : Nat) : PackageEntry :=
  { comp := be b o 1, step := be b (o + 1) 1, cflags := be b (o + 2) 2, version := be b (o + 4) 4, off := be b (o + 8) 4,
    len := be b (o + 12) 4, digest := slice b (o + 16) 32,
    needsMin := (List.range 4).map (fun i => be b (o + 48 + 4 * i) 4),
    needsMax := (List.range 4).map (fun i => be b (o + 64 + 4 * i) 4),
    peerMin := be b (o + 80) 4, fmt := be b (o + 84) 2, baseId := be b (o + 88) 4 }

def pkgCount (b : Bytes) : Nat := be b 0x0A 2
def pkgPair (b : Bytes) : Bool := tbit (be b 8 2) 0
def pkgFloor (b : Bytes) : Bool := tbit (be b 8 2) 1

/-- Manifest entries, in the order of the manifest. -/
def pkgEntries (b : Bytes) : List PackageEntry := (List.range (pkgCount b)).map (fun i => readEntry b (0x110 + 96 * i))

/-- The entry of install step k. -/
def pkgStep (b : Bytes) (k : Nat) : Option PackageEntry := (pkgEntries b).find? (fun e => e.step == k)

/-- The XOVIK entry. -/
def pkgImage (b : Bytes) : Option PackageEntry := (pkgEntries b).find? (fun e => e.comp == 5)

/-! ### Header checks 1 to 9 (R574, Table 19-2) -/

/-- First code of a list of checks that fail; 0 when all pass. -/
def firstCode : List (Bool × Nat) → Nat
  | [] => 0
  | (ok, c) :: rest => if ok then firstCode rest else c

/-- The owner package key as bytes. -/
def M.ownKeyBytes (m : M) : Bytes := (List.range 16).flatMap (fun n => toBE 4 (getd (0 : Word) n m.upd.ownKey).toNat)

/-- Checks 1 to 9 on a header, with the length its transfer announced. -/
def M.packageHeader (m : M) (b : Bytes) (announced : Nat) : Nat :=
  let n := pkgCount b
  let mask := be b 0x14 1
  let signer := be b 0x15 1
  let keyId := be b 0x16 2
  let key := if signer == 1 then Config.releaseKey keyId else m.ownKeyBytes
  let st := m.get F.UPD_STAT_state
  firstCode [
    (256 ≤ b.length && be b 0 4 == 0x44504B47 && be b 4 2 == 1 && be b 6 2 == 0x100, 0x21),
    (crc32 (b.take 0xFC) == be b 0xFC 4, 0x22),
    (be b 0x10 2 == 0x9640 && be b 0x12 1 ≤ m.get F.SYS_REV_rev && m.get F.SYS_REV_rev ≤ be b 0x13 1, 0x23),
    (tbit mask m.kv.lc && !tbit mask 0 && !tbit mask 5, 0x24),
    (be b 0x1C 8 == 0 || be b 0x1C 8 == Config.serial.toNat, 0x25),
    (be b 0x0C 4 == announced && be b 0x0C 4 % 16 == 0 && 384 ≤ be b 0x0C 4 && be b 0x0C 4 ≤ 268435456 &&
      1 ≤ n && n ≤ 5 && be b 0x30 4 == 0x100 && be b 0x34 4 == 16 + 96 * n && be b 8 2 < 4 && be b 0x24 4 == 0 &&
      be b 0x38 8 == 0 && be b 0xA0 0x5C == 0, 0x26),
    ((signer == 1 && keyId < 4) || (signer == 2 && keyId == 0 && m.ownKeyBytes.any (fun x => !(x == 0))), 0x27),
    (Config.ecdsaVerify key (digestBytes (Config.sha256 (b.take 0x60))) (slice b 0x60 64), 0x28),
    (st == 0 || st == 1 || st == 2, 0x30)]

/-! ### Checks 10 to 16 (R574, R575) -/

/-- What a set holds: versions and needs of its firmware, MGMT version its peer must run at least, needs of its image. -/
structure SetState where
  versions : List Nat
  needs : List (List Nat × List Nat)
  peerMin : Nat
  mgmtMin : Nat
  imageNeeds : List Nat × List Nat
  deriving DecidableEq, Repr

def noNeeds : List Nat × List Nat := (List.replicate 4 0, List.replicate 4 0xFFFFFFFF)

/-- A component of a set, as the boot record describes it. -/
def M.component (m : M) (set c : Nat) : Option Component := aget (8 * set + c) m.upd.firmware

/-- The installed set C0. -/
def M.installedSet (m : M) : SetState :=
  let s := m.upd.boot.active
  let comp (c : Nat) : Option Component := m.component s (c + 1)
  { versions := (List.range 4).map (fun c => ((comp c).map Component.version).getD 0)
    needs := (List.range 4).map (fun c => ((comp c).map (fun x => (x.needsMin, x.needsMax))).getD noNeeds)
    peerMin := ((comp 0).map Component.peerMin).getD 0
    mgmtMin := ((aget s m.upd.imageNeeds).map Prod.fst).getD 0
    imageNeeds := ((aget s m.upd.imageNeeds).map Prod.snd).getD noNeeds }

/-- The set with the component of an entry replaced. -/
def SetState.with_ (s : SetState) (b : Bytes) (e : PackageEntry) : SetState :=
  if e.comp == 5 then { s with mgmtMin := be (slice b e.off e.len) 0x24 4, imageNeeds := (e.needsMin, e.needsMax) }
  else
    { s with versions := listSet s.versions (e.comp - 1) e.version
             needs := listSet s.needs (e.comp - 1) (e.needsMin, e.needsMax)
             peerMin := if e.comp == 1 then e.peerMin else s.peerMin }

/-- Versions lie within needs. -/
def needsHold (n : List Nat × List Nat) (vs : List Nat) (skip : Nat) : Bool :=
  (List.range 4).all (fun j => j == skip ||
    (n.1.getD j 0 ≤ vs.getD j 0 && vs.getD j 0 ≤ n.2.getD j 0xFFFFFFFF))

/-- A combination is compatible (R575); `peer` is the peer's MGMT version for a pair package. -/
def SetState.compatible (s : SetState) (peer : Option Nat) : Bool :=
  (List.range 4).all (fun c => needsHold (s.needs.getD c noNeeds) s.versions c) &&
  s.mgmtMin ≤ s.versions.getD 0 0 && needsHold s.imageNeeds s.versions 4 && peer.all (fun v => s.peerMin ≤ v)

/-- Combinations C1 to Ccount. -/
def combos (b : Bytes) : SetState → Nat → Nat → List SetState
  | _, _, 0 => []
  | s, k, n + 1 =>
    let s' := ((pkgStep b k).map (s.with_ b)).getD s
    s' :: combos b s' (k + 1) n

/-- The manifest is as Table 19-3 asks (check 11). -/
def manifestOk (b : Bytes) : Bool :=
  let es := pkgEntries b
  let n := pkgCount b
  be b 0x100 2 == n && be b 0x102 14 == 0 &&
  es.all (fun e => 1 ≤ e.comp && e.comp ≤ 5 && 1 ≤ e.step && e.step ≤ n && e.off % 16 == 0 && 0x110 + 96 * n ≤ e.off &&
    e.off + e.len ≤ b.length && e.len ≤ (if e.comp == 5 then 8388608 else 67108864) &&
    e.cflags < 2 && (e.cflags == 0 || e.comp == 1) && (e.comp == 1 || (e.fmt == 0 && e.peerMin == 0)) &&
    (e.comp == 5 || e.baseId == 0) && (!(e.comp == 5) || e.version == be (slice b e.off e.len) 0x14 4) &&
    (es.filter (fun f => f.comp == e.comp)).length == 1 && (es.filter (fun f => f.step == e.step)).length == 1 &&
    es.all (fun f => f.comp == e.comp || e.off + e.len ≤ f.off || f.off + f.len ≤ e.off)) &&
  (!(be b 0x15 1 == 2) || es.all (fun e => e.comp == 5))

/-- Check 14: a full image, checked against the MGMT version of its combination. -/
def M.packageImage (m : M) (b : Bytes) (all : List SetState) : Nat :=
  match pkgImage b with
  | none => 0
  | some e =>
    let mgmt := ((all[e.step - 1]?).bind (fun (s : SetState) => s.versions.head?)).getD 0
    let img := slice b e.off e.len
    match (m.wr .UPD_VER (BitVec.ofNat 32 mgmt) 0).imageChecks img with
    | some (c, _) => c
    | none => if (readHeader img).partial_ then errSection else 0

/-- Checks 10 to 16; `peerOk` and the peer's MGMT version are what the peer reports over the tether (R582). -/
def M.packageChecks (m : M) (b : Bytes) (peerOk : Bool) : Nat :=
  let all := combos b m.installedSet 1 (pkgCount b)
  let mgmt := (pkgEntries b).find? (fun e => e.comp == 1)
  let manifest := manifestOk b
  let img := if manifest then m.packageImage b all else 0
  firstCode [
    (digestBytes (Config.sha256 (slice b 0x100 (b.length - 0x100))) == slice b 0x40 32, 0x29),
    (manifest, 0x2B),
    ((pkgEntries b).all (fun e => digestBytes (Config.sha256 (slice b e.off e.len)) == e.digest), 0x2A),
    (mgmt.all (fun e => m.upd.boot.floor ≤ e.version), 0x2C),
    (img == 0, img),
    (all.all (fun s => s.compatible (if pkgPair b then some m.upd.peerMgmt else none)), 0x2D),
    (!pkgPair b || (be b 0x1C 8 == 0 && peerOk), 0x2E)]

/-! ### Receiving a package (R574) -/

/-- A package is refused. -/
def M.refusePackage (m : M) (code : Nat) : M :=
  let m1 := (m.put F.UPD_STAT_err code).updFlag F.UPD_EVT_refused
  if m1.get F.UPD_STAT_state == 1 then m1.put F.UPD_STAT_state 0 else m1

/-- Chunk 0 has arrived: the header is checked, and a package held is discarded for it. -/
def M.packageBegins (m : M) (hdr : Bytes) (announced : Nat) : Nat × M :=
  let e := m.packageHeader hdr announced
  if e == 0 then
    let m1 := ((m.put F.UPD_STAT_state 1).put F.UPD_PKG_VER_version 0).put F.UPD_STAT_err 0
    (0, { m1 with upd := { m1.upd with headerOk := true, package := [] } })
  else (e, { m.refusePackage e with upd := { (m.refusePackage e).upd with headerOk := false } })

/-- XFER_END: the rest of the checks; a package that passes is READY, and a pair package has gone to the peer (R582). -/
def M.packageEnds (m : M) (b : Bytes) (peerOk : Bool) (peerMgmt : Nat) : Nat × M :=
  let m0 := { m with upd := { m.upd with peerReady := peerOk, peerMgmt := peerMgmt } }
  let sent := if pkgPair b then m0.sendBulk b else m0
  let e := m0.packageChecks b peerOk
  if e == 0 then
    let m1 := (((sent.put F.UPD_STAT_state 2).put F.UPD_STAT_err 0).put F.UPD_PKG_VER_version (be b 0x18 4)).updFlag F.UPD_EVT_ready
    (0, { m1 with upd := { m1.upd with package := b, headerOk := false } })
  else
    let m1 := (if e == 0x2E then sent else m0).refusePackage e
    (e, ({ m1 with upd := { m1.upd with package := [], headerOk := false } }).put F.UPD_PKG_VER_version 0)

/-- The package held goes; none is held. -/
def M.dropPackage (m : M) : M :=
  ({ m with upd := { m.upd with package := [], headerOk := false } }).put F.UPD_PKG_VER_version 0

/-! ### Records (Table 16-2) -/

/-- The set that a trial names: the one that is not active. -/
def M.trialSet (m : M) : Nat := 1 - m.upd.boot.active

/-- One UPDATE record and entry. -/
def M.updateNote (m : M) (sev : Nat) : M :=
  let head := m.get F.UPD_STAT_state * 2 ^ 28 + m.get F.UPD_STAT_step * 2 ^ 24 + m.get F.UPD_STAT_fb * 2 ^ 16 + m.get F.UPD_STAT_err
  m.note 0x0F sev 0 ([head, m.get F.UPD_PKG_VER_version] ++
    (List.range 4).map (fun c => ((m.component m.trialSet (c + 1)).map Component.version).getD 0))

/-! ### Fall-back (R580, Table 19-6) -/

/-- Steps 2 and 3: the snapshot goes back to regions 1 to 5, the boot record names the former set without a trial. -/
def M.restoreSet (m : M) (cause : Nat) : M :=
  let m1 := m.upd.snapshot.foldl (fun (a : M) p => { a with nvp := a.nvp.store p.1 p.2 }) m
  { m1 with upd := { m1.upd with
      boot := { m1.upd.boot with trial := none, prevValid := false, cause := cause }
      snapshot := [], windowEnd := none, restarting := none, fellBack := true, swapIds := none } }

/-- A fall-back while the module runs. -/
def M.fallBack (m : M) (cause : Nat) : M :=
  let m1 := ((m.put F.UPD_STAT_state 5).put F.UPD_STAT_fb cause).put F.UPD_CMD_STAT_busy 0
  let m2 := if m1.get F.UPD_STAT_pair == 1 then (m1.put F.UPD_STAT_pair 5).put F.UPD_STAT_err 0x2E else m1
  ((m2.updateNote 2).restoreSet cause).moduleReset

/-! ### Install (R576, R577, Tables 19-4, 19-5) -/

/-- Who may command the update block (R576). -/
def mayUpdate (t : Tag) : Bool :=
  match t with
  | .system => true
  | .mk 0 .owner => true
  | .mk 255 .service => true
  | _ => false

def M.updResult (m : M) (err : Nat) : M := (m.put F.UPD_CMD_STAT_err err).put F.UPD_CMD_STAT_busy 0

/-- Contents of an image bank. -/
def M.bank (m : M) (s : Nat) : Bytes := if s == 0 then m.img.bank0 else m.img.bank1

def M.setBank (m : M) (s : Nat) (b : Bytes) : M :=
  (if s == 0 then { m with img := { m.img with bank0 := b } } else { m with img := { m.img with bank1 := b } }).hstWrites b.length

/-- Step 2 of Table 19-4: the active set is copied to the trial set, regions 1 to 5 to the settings snapshot. -/
def M.copySet (m : M) : M :=
  let s := m.upd.boot.active
  let t := m.trialSet
  let fw := [1, 2, 3, 4].foldl (fun (a : List (Nat × Component)) c =>
    match m.component s c with
    | some x => aput (8 * t + c) x a
    | none => adel (8 * t + c) a) m.upd.firmware
  let needs := match aget s m.upd.imageNeeds with
    | some n => aput t n m.upd.imageNeeds
    | none => adel t m.upd.imageNeeds
  let snap := m.nvp.pages.filter (fun p => 0x20 ≤ p.1 && p.1 < 0x1C0)
  ({ m with upd := { m.upd with firmware := fw, imageNeeds := needs, snapshot := snap } }).setBank t (m.bank s)

/-- A component is written into the trial set. -/
def M.writeComponent (m : M) (b : Bytes) (e : PackageEntry) : M :=
  let t := m.trialSet
  let data := slice b e.off e.len
  if e.comp == 5 then
    ({ m with upd := { m.upd with
        imageNeeds := aput t (be data 0x24 4, (e.needsMin, e.needsMax)) m.upd.imageNeeds } }).setBank t data
  else
    let c : Component := Component.mk e.version e.needsMin e.needsMax e.peerMin e.fmt data
    { m with upd := { m.upd with firmware := aput (8 * t + e.comp) c m.upd.firmware } }

/-- Step 3 for install step k: the component stands in the trial set, the boot record counts it, and its restart begins: an
image's with an orderly stop, the metering firmware's with a stop of metering at the end of the frame (Table 19-5). -/
def M.installStep (m : M) (k : Nat) : M :=
  match pkgStep m.upd.package k with
  | none => m
  | some e =>
    let m1 := m.writeComponent m.upd.package e
    let m2 : M := { m1 with upd := { m1.upd with boot := { m1.upd.boot with trial := some k }, restarting := some k } }
    if e.comp == 5 then m2.exeStop
    else if e.comp == 3 then m2.meterHalt
    else m2

/-- Steps 1 and 2, and the start of step 3. -/
def M.beginInstall (m : M) : M :=
  let b := m.upd.package
  let m1 := ((m.put F.UPD_STAT_state 3).put F.UPD_STAT_step 0).put F.UPD_CMD_STAT_busy 1
  let m2 : M := { m1 with upd := { m1.upd with
    boot := { m1.upd.boot with trial := some 0, prevValid := false }
    swapIds := if pkgPair b then (pkgImage b).map (fun e => (e.baseId, be (slice b e.off e.len) 0x10 4)) else m1.upd.swapIds } }
  (((m2.put F.UPD_STAT_h0_conf 0).put F.UPD_STAT_op_conf 0).copySet).installStep 1

/-- UPD_CMD op install (R576, R582): a pair package is installed by the STANDBY unit first; after an update that stopped, on the
former active unit it goes on at step 5 of Table 19-7. -/
def M.install (m : M) (w : Who) : M :=
  let pair := pkgPair m.upd.package
  let u := m.unitState
  let peerState := m.peerState
  if m.bit F.UPD_CMD_STAT_busy then m
  else if !mayUpdate w.tag then m.updResult 1
  else if !(m.get F.UPD_STAT_state == 2) then m.updResult 2
  else if !pair && u == 4 && peerState == 2 then m.updResult 5
  else if !pair then (m.updResult 0).beginInstall
  else if u == 2 && peerState == 4 && m.eligible then ((m.updResult 0).put F.UPD_STAT_pair (if m.get F.UPD_STAT_pair == 5 then 3 else 1)).beginInstall
  else if u == 2 && peerState == 4 then m.updResult 4
  else if u == 4 && m.peerReadyFor then
    let b := m.upd.package
    let ids := (pkgImage b).map (fun e => (e.baseId, be (slice b e.off e.len) 0x10 4))
    { (m.updResult 0).put F.UPD_STAT_pair 1 with upd := { m.upd with swapIds := ids } }
  else m.updResult 4

/-- Effect of a component's restart on the installation (Table 19-5); `frames` is how many metering frames went by. -/
def M.componentUp (m : M) (e : PackageEntry) (frames : Nat) : M :=
  match e.comp with
  | 1 => (m.coreRestart).wr .UPD_VER (BitVec.ofNat 32 e.version) 0
  | 2 => ((List.range 8).foldl (fun (a : M) n => if a.canActive n then a.busTakeover n else a) m).wr .UPD_VER
      (BitVec.ofNat 32 e.version) 1
  | 3 =>
    let m1 := if m.bit F.MTR_CTRL_en then m.meterEnable else m
    let m2 := m1.meteringCircuits.foldl (fun (a : M) c =>
      a.wr .MTR_C_LOST (BitVec.ofNat 32 (min ((a.rd .MTR_C_LOST c).toNat + frames) 0xFFFFFFFF)) c) m1
    m2.wr .UPD_VER (BitVec.ofNat 32 e.version) 2
  | 4 =>
    let m1 := (List.range 64).foldl (fun (a : M) n =>
      if a.chState n == chOff then a
      else a.modChan n (fun c => { c with queued := [], handOver := some c.uPrev })) m
    m1.wr .UPD_VER (BitVec.ofNat 32 e.version) 3
  | _ => m

/-- After the component of step k has restarted: the next step, or the trial with its window (Table 19-4, steps 3 and 4). -/
def M.stepDone (m : M) (k : Nat) : M :=
  let m1 := ({ m with upd := { m.upd with restarting := none } }).put F.UPD_STAT_step k
  if k < pkgCount m1.upd.package then m1.installStep (k + 1)
  else
    let by_ := m1.time.tb + max 60 (m1.get F.UPD_CTRL_window) * sec
    let m2 : M := { m1 with upd := { m1.upd with windowEnd := some by_ } }
    (((m2.put F.UPD_STAT_state 4).updResult 0).updFlag F.UPD_EVT_trial).updateNote 4

/-- COMPONENT_RESTART: the restart of the step being installed has ended; a failed one falls back (R577). -/
def M.componentRestart (m : M) (ok : Bool) (frames : Nat) : M :=
  match m.upd.restarting with
  | none => m
  | some k =>
    match pkgStep m.upd.package k with
    | none => m
    | some e =>
      if !ok then m.fallBack 4
      else if e.comp == 3 && m.mtrRuns then m
      else if e.comp == 5 then
        (if !m.exeStopped then m
         else
          let src := m.bank m.trialSet
          let loaded := match m.loadChecks src with
            | some (c, l) => (m.imageResult c l).imageRecord m.trialSet src c
            | none => m.finishFull m.trialSet src
          let ready := if loaded.exeState == 3 then loaded.exeAck else loaded
          if !(ready.get F.UPD_IMG_STAT_err == 0) || !(ready.runRefusal == 0) then ready.fallBack 5
          else (ready.exeRun true M.armImage).stepDone k)
      else (m.componentUp e frames).stepDone k

/-! ### Discard, confirm, expiry (R578 to R580, R585) -/

def M.discardPackage (m : M) (w : Who) : M :=
  if m.bit F.UPD_CMD_STAT_busy then m
  else if !mayUpdate w.tag then m.updResult 1
  else if !(m.get F.UPD_STAT_state == 2) then m.updResult 2
  else ((m.dropPackage).put F.UPD_STAT_state 0).updResult 0

def M.fallbackCmd (m : M) (w : Who) : M :=
  if m.bit F.UPD_CMD_STAT_busy then m
  else if !mayUpdate w.tag then m.updResult 1
  else if !(m.get F.UPD_STAT_state == 4) then m.updResult 2
  else (m.updResult 0).fallBack 6

/-- UPD_CMD by its operation. -/
def M.updCommand (m : M) (w : Who) (op : Nat) : M :=
  match op with
  | 1 => m.install w
  | 2 => m.discardPackage w
  | 3 => m.fallbackCmd w
  | _ => m

/-- The set is confirmed (R579). -/
def M.confirmed (m : M) : M :=
  let t := m.trialSet
  let b := m.upd.package
  let mgmt := ((m.component t 1).map Component.version).getD 0
  let floor := if pkgFloor b then max m.upd.boot.floor mgmt else m.upd.boot.floor
  let pair := m.get F.UPD_STAT_pair
  let m0 := if pair == 1 then m.put F.UPD_STAT_pair 2 else if pair == 3 then m.put F.UPD_STAT_pair 4 else m
  let m1 := (m0.put F.UPD_STAT_state 0).updFlag F.UPD_EVT_conf
  let m2 := (m1.updateNote 4).put F.UPD_PKG_VER_version 0
  { m2 with upd := { m2.upd with
      boot := { m2.upd.boot with active := t, trial := none, prevValid := true, floor := floor }
      snapshot := [], windowEnd := none, package := []
      swapIds := if pair == 3 then none else m2.upd.swapIds } }

/-- CONFIRM: a write of UPD_CONFIRM (R578). -/
def M.confirm (m : M) (w : Who) (key code : Nat) : M :=
  let oper := match w.tag with
    | .mk 0 .owner => w.session.isSome
    | .mk 255 .service => w.session.isSome
    | _ => false
  let h0 := w.ini == 0
  if !(m.get F.UPD_STAT_state == 4) || !(key == 0xC0DE) || !(h0 || oper) then m
  else if 0x8000 ≤ code then m.fallBack 2
  else if !(code == 1) then m
  else if !m.selfHealthy then m.updFlag F.UPD_EVT_nothealthy
  else
    let m1 := if h0 then m.put F.UPD_STAT_h0_conf 1 else m.put F.UPD_STAT_op_conf 1
    if m1.bit F.UPD_STAT_h0_conf && (m1.bit F.UPD_STAT_op_conf || !m1.bit F.UPD_CTRL_hold) then m1.confirmed else m1

/-- WINDOW_EXPIRY: the confirmation window ends unconfirmed. -/
def M.windowExpiry (m : M) : M :=
  if m.get F.UPD_STAT_state == 4 && m.due m.upd.windowEnd then m.fallBack 1 else m

/-! ### The pair (R582, Table 19-7) -/

/-- The phase of a pair update follows a change of the unit's state: the hand-over of step 4 moves the lease to the updated
unit, and the former active unit installs. -/
def M.pairFollows (m : M) (was : Nat) (wasHanding : Bool) : M :=
  let p := m.get F.UPD_STAT_pair
  let u := m.unitState
  let handing := !(m.ibx.handover == .none)
  if was == 4 && u == 4 && p == 1 && !wasHanding && handing then m.put F.UPD_STAT_pair 2
  else if was == 4 && u == 2 && (p == 1 || p == 2) && m.get F.UPD_STAT_state == 2 then (m.put F.UPD_STAT_pair 3).beginInstall
  else if was == 2 && u == 4 && p == 2 then m.put F.UPD_STAT_pair 3
  else m

/-- An operation that may move the lease, followed by the phase of a pair update. -/
def M.withPair (m : M) (f : M → M) : M := (f m).pairFollows m.unitState (!(m.ibx.handover == .none))

/-! ### Bring-up and recovery (R571, R584) -/

/-- Step 4 of bring-up: a trial named falls back; the active set starts when its components pass, else the previous set when
it is valid; false when neither passes. -/
def M.startSet (m : M) (activeOk otherOk : Bool) : Bool × M :=
  let m1 := if m.upd.boot.trial.isSome then
      ((m.put F.UPD_STAT_fb 3).updateNote 2).restoreSet 3
    else m
  let b := m1.upd.boot
  let shown (a : M) : M :=
    let s := a.upd.boot.active
    let v := [0, 1, 2, 3].foldl (fun (x : M) c =>
      x.wr .UPD_VER (BitVec.ofNat 32 (((x.component s (c + 1)).map Component.version).getD 0)) c) a
    let a1 := (v.put F.UPD_STAT_fb a.upd.boot.cause).put F.SYS_BOOT_STAT_fw_bank s
    if a1.upd.fellBack then ({ a1 with upd := { a1.upd with fellBack := false } }).updFlag F.UPD_EVT_fb else a1
  if activeOk then (true, shown m1)
  else if b.prevValid && otherOk then
    (true, shown (({ m1 with upd := { m1.upd with boot := { b with active := 1 - b.active, prevValid := false } } }).updFlag
      F.UPD_EVT_bank))
  else (false, m1)

/-- The recovery service installs a vendor package with all four firmware components into set 0 and resets the module. -/
def M.recoveryInstall (m : M) (b : Bytes) : M :=
  let es := pkgEntries b
  let fw := es.foldl (fun (a : List (Nat × Component)) e =>
    if e.comp == 5 then a else aput e.comp (Component.mk e.version e.needsMin e.needsMax e.peerMin e.fmt (slice b e.off e.len)) a) m.upd.firmware
  let m1 := match pkgImage b with
    | some e => ({ m with upd := { m.upd with
        imageNeeds := aput 0 (be (slice b e.off e.len) 0x24 4, (e.needsMin, e.needsMax)) m.upd.imageNeeds } }).setBank 0 (slice b e.off e.len)
    | none => m
  ({ m1 with upd := { m1.upd with
      firmware := fw, package := [], boot := { m1.upd.boot with active := 0, trial := none, prevValid := false } } }).applyReset 3 false

/-- Checks of a package in the recovery service: vendor signed, the four firmware components, compatible among themselves. -/
def M.recoveryChecks (m : M) (b : Bytes) : Nat :=
  let own : SetState := { versions := List.replicate 4 0, needs := List.replicate 4 noNeeds, peerMin := 0, mgmtMin := 0, imageNeeds := noNeeds }
  let final := (combos b own 1 (pkgCount b)).getLastD own
  let base := m.packageChecks b true
  if !(be b 0x15 1 == 1) then 0x27
  else if !([1, 2, 3, 4] : List Nat).all (fun c => (pkgEntries b).any (fun e => e.comp == c)) then 0x2B
  else if !(base == 0) && !(base == 0x2D) then base
  else if !final.compatible none then 0x2D
  else 0

end Sys2Proof.Machine
end

