-- ==== Sys2Proof/Machine/LioEvents.lean ====
section
/-! DEFINITION. Lever, ENA, input switch, the supply-fail warning and the shutdown, front LEDs (R447, R454, R457, R467 to R473,
R482). -/

namespace Sys2Proof.Machine

/-! ### Shared steps -/

/-- One POWER record: lever, warning, vin (Table 16-2). -/
def M.powerNote (m : M) : M :=
  m.note 0x0A 1 0 [m.get F.LIO_STAT_lever, m.get F.LIO_STAT_warn + 2 * m.get F.PMC_SUP_STAT_warn, m.get F.PMC_SUP_STAT_vin]

/-- Step 5 of Table 13-7: LIO_CTRL.en, every CANn_CTRL.en, MTR_CTRL.en and MTR_CTRL.sup_en become 0. -/
def M.disableOutputs (m : M) : M :=
  let m1 := m.lioEnable false
  let m2 := (List.range 8).foldl (fun (a : M) n => if a.domainOn (if n < 4 then 9 else 10) then a.canDisable n else a) m1
  if m2.domainOn 11 then m2.meterStop.supplyEnable false else m2

/-- Timebase time of step 6 of Table 13-7: 20 ms after step 1. -/
def M.withdrawAt (m : M) : Nat :=
  match m.lio.extraction with
  | .warned t => t + 20 * ms
  | .disabled t => t
  | .none => m.time.tb + 20 * ms

/-- Steps 4 and 5 of Table 13-7. -/
def M.endService (m : M) : M :=
  let m1 := (m.exeStop.retainSave.meterSave).closeSessions 6
  let m2 := m1.disableOutputs
  { m2 with lio := { m2.lio with extraction := .disabled m2.withdrawAt } }

/-- ACT is dropped with a RELEASE naming no successor, the unit fenced (R472, Table 14-3, step 4). -/
def M.releaseNow (m : M) : M :=
  if m.leased then
    let e := m.get F.IBX_EPOCH_epoch
    (({ m.dropLease with ibx := { m.dropLease.ibx with handover := .none } }).sendRelease e 255).setUnit 5
  else m

/-! ### Supply-fail warning (R447, R482) -/

/-- First failure of a bring-up, with its record and entry (R492). -/
def M.bootFail (m : M) (code : Nat) : M :=
  let m1 := if m.get F.SYS_BOOT_STAT_fail == 0 then m.put F.SYS_BOOT_STAT_fail code else m
  m1.note 0x0B 2 0 (m1.boot.stepTimes ++ [code])

/-- The supply-fail warning is raised (Table 14-3, steps 1 and 2); a raise before its step 5 is abandoned (R440). -/
def M.supplyWarns (m : M) : M :=
  let m1 := ((m.put F.PMC_SUP_STAT_warn 1).flag F.PMC_EVT_warn 0x00).rampBack 5
  let m2 := (m1.powerNote.retainSave.dropForcesNow.meterSave).copyAll
  let m3 := { m2 with boot := { m2.boot with shutdown := some (m2.time.tb, false), epochSaved := m2.get F.IBX_EPOCH_epoch } }
  if m3.boot.phase == .rising then m3.bootFail 0x0D else m3

/-- SUPPLY_FAIL_WARNING (R447). -/
def M.supplyFail (m : M) (vin : Nat) : M :=
  let m0 := m.put F.PMC_SUP_STAT_vin vin
  if m.bit F.PMC_SUP_STAT_warn || 1750 ≤ vin then m0 else m0.supplyWarns

/-! ### Lever (R469 to R471) -/

/-- LEVER_OPEN (Table 13-7, steps 1 to 5): an active unit asks for the hand-over and releases on any answer. -/
def M.leverOpen (m : M) : M :=
  if !m.bit F.LIO_STAT_lever then m
  else
    let m1 := ((m.put F.LIO_STAT_lever 0).put F.LIO_STAT_warn 1).flag F.LIO_EVT_ext 0x03
    let m2 := ({ m1 with lio := { m1.lio with extraction := .warned m1.time.tb } }).powerNote
    let m3 := if m2.leased then
        (({ m2 with ibx := { m2.ibx with handover := .none } }).startHandover .extraction).releaseToPeer .extraction
      else m2
    m3.endService

/-- The management firmware brings the unit up again from its own part of the order, the hardware not reset (R471, log 111). -/
def M.bringUpAgain (m : M) : M :=
  let b : BootState := { m.boot with
    phase := .rising, since := m.time.tb, stepTimes := [], linkAt := if m.get F.TTH_STAT_link == 2 then some m.time.tb else none
    step6At := none, claimAt := none, step12At := none, settings := m.regs.filter (fun p => keptSetting p.1) }
  (({ m with boot := b }).put F.SYS_BOOT_STAT_done 0).put F.SYS_BOOT_STAT_step 4

/-- LEVER_CLOSE: closed for 100 ms before ENA is deasserted (R471): the unit continues from INIT or SYNCING. -/
def M.leverClose (m : M) : M :=
  let m1 := m.put F.LIO_STAT_lever 1
  if !m.bit F.LIO_STAT_warn || !m.bit F.LIO_STAT_ena then m1
  else
    let m2 := ((m1.put F.LIO_STAT_warn 0).flag F.LIO_EVT_ext_end 0x22).powerNote
    let m3 := { m2 with lio := { m2.lio with extraction := .none } }
    let m4 := if m3.boot.resetWaits || m3.ibx.handover == .none then m3 else { m3 with ibx := { m3.ibx with handover := .none } }
    m4.syncOrInit.bringUpAgain

/-! ### ENA and the input switch (R457, R467, R468, R472) -/

/-- ENA_ASSERT: stable for 1 ms; the input switch soft-starts. -/
def M.enaAssert (m : M) : M :=
  ({ m with lio := { m.lio with inSwitch := true } }).put F.LIO_STAT_ena 1

/-- ENA_DEASSERT: without a warning the unit releases at once and continues with steps 4 and 5 of Table 13-7 (R472). -/
def M.enaDeassert (m : M) : M :=
  if !m.bit F.LIO_STAT_ena then m
  else
    let m1 := ({ m with lio := { m.lio with inSwitch := false } }).put F.LIO_STAT_ena 0
    if m1.bit F.LIO_STAT_warn then m1
    else
      let m2 := (m1.releaseNow).lioEnable false
      let m3 := (m2.put F.LIO_STAT_warn 1).flag F.LIO_EVT_ext 0x03
      let m4 := ({ m3 with lio := { m3.lio with extraction := .warned m3.time.tb } }).powerNote
      (if m4.bit F.PMC_SUP_STAT_warn then m4 else m4.supplyWarns).endService

/-- VIN_LOW: below 15 V the switch opens (R457). -/
def M.vinLow (m : M) (vin : Nat) : M :=
  ({ m with lio := { m.lio with inSwitch := m.lio.inSwitch && 1500 ≤ vin } }).put F.PMC_SUP_STAT_vin vin

/-- VIN_RECOVER: at 15 V or above for 1 ms, while ENA stayed asserted. -/
def M.vinRecover (m : M) (vin : Nat) : M :=
  ({ m with lio := { m.lio with inSwitch := m.lio.inSwitch || (1500 ≤ vin && m.bit F.LIO_STAT_ena) } }).put F.PMC_SUP_STAT_vin vin

/-- PEER_PRESENCE: PPRES, debounced (R454). -/
def M.peerPresence (m : M) (present : Bool) : M := m.putB F.SYS_SLOT_peer_present present

/-! ### Shutdown (R482) -/

/-- SHUTDOWN_CHECK: VIN is sampled 12 ms after the warning; below 17.5 V the shutdown goes on to its reset (Table 14-3, steps
3 to 5). -/
def M.shutdownCheck (m : M) (vin : Nat) : M :=
  match m.boot.shutdown with
  | none => m
  | some _ =>
    let m1 := ({ m with boot := { m.boot with shutdown := none } }).put F.PMC_SUP_STAT_vin vin
    if 1750 ≤ vin then m1
    else
      let m2 := (m1.releaseNow).lioEnable false
      let m3 := ({ m2 with boot := { m2.boot with marker := true } }).applyReset 1 true
      { m3 with boot := { m3.boot with phase := .held } }

/-! ### LEDs (R466, R473, Tables 13-5, 13-8) -/

/-- How a LED shows: off, or a colour steady, or flashing at a rate in tenths of a hertz. -/
inductive Led where
  | off
  | green (rate : Nat)
  | amber (rate : Nat)
  | red (rate : Nat)
  /-- alternating green and red at 2 Hz -/
  | locate
  | yellow
  deriving DecidableEq, Repr

/-- The LEDs show "safe to withdraw" (Table 13-7, step 6). -/
def M.withdrawing (m : M) : Bool :=
  match m.lio.extraction with
  | .disabled t => t ≤ m.time.tb
  | _ => false

/-- The LEDs of X3, left and right: link of ETHS, and a flash of 30 ms for a frame in either direction (R466, Table 13-5). -/
def M.jackLeds (m : M) : List Led :=
  [if m.ethState 2 == ethUp then .green 0 else .off,
   if m.eth.spFrame.any (fun t => m.time.tb < t + 30 * ms) then .yellow else .off]

/-- PWR, UNIT, EXE and NET as the module shows them; rate 0 is steady. -/
def M.leds (m : M) : List Led :=
  let h := m.healthBits
  if m.boot.phase == .held then [.off, .off, .off, .off]
  else if m.bit F.LIO_CTRL_locate then [.locate, .locate, .locate, .locate]
  else if m.withdrawing then [.green 40, .off, .off, .off]
  else
    let pwr : Led := if m.boot.phase == .halted then .red 0
      else if !tbit h 14 then .red 0
      else if m.bit F.PMC_SUP_STAT_warn || !tbit h 13 then .amber 0
      else .green 0
    let unit : Led := if !m.boot.mgmt then .off
      else match m.unitState with
        | 4 => .green 0
        | 2 => .green 10
        | 0 | 1 => .amber 20
        | 3 => .amber 0
        | 7 => .amber 5
        | 5 => .red 10
        | _ => .red 0
    let img := m.get F.UPD_IMG_STAT_state
    let exe : Led := if m.exeState == 3 then .red 0
      else if img == 2 then .red 20
      else if !(img == 1) then .off
      else if m.exeState == 1 then .green 0 else .amber 0
    let net : Led := if !m.bit F.ETH_CTRL_en 0 && !m.bit F.ETH_CTRL_en 1 then .off
      else if !tbit h 10 then .red 0
      else if tbit h 24 then .green 0 else .amber 0
    [pwr, unit, exe, net]

end Sys2Proof.Machine
end

