-- ==== Sys2Proof/Machine/Boot.lean ====
section
/-! DEFINITION. Resets and the bring-up of a full installation (chapter 14). -/

namespace Sys2Proof.Machine

/-! ### Resets (R475 to R481) -/

/-- POWER_ON_RESET: asserted and held; the recorder's copies in the historian stay (R475, R476). -/
def M.powerOnReset (m : M) : M :=
  let a := m.applyReset 1 true
  { a with boot := { a.boot with phase := .held } }

/-- POWER_ON_RESET_RELEASE (Table 13-6, steps 5 and 6): the shutdown marker makes the cause 0x2 and is cleared (R482). -/
def M.powerOnRelease (m : M) : M :=
  if !(m.boot.phase == .held) then m
  else
    let a := { m with time := { m.time with vinPresent := true }
                      boot := { m.boot with phase := .rising, marker := false, since := m.time.tb, stepTimes := [],
                                            mwdBy := m.time.tb + 1000 * ms } }
    (a.put F.SYS_RST_STAT_cause (if m.boot.marker then 2 else 1)).put F.SYS_SLOT_slot (b2n m.slotB)

/-- Who may command a reset (R477). -/
def mayReset (w : Who) : Bool := w.ini == 0 || (w.ini == 3 && (w.tag.owner0 || w.tag.service255))

/-- A write of SYS_RST_CMD that passed the Expert check: ignored and counted, or done (R477). -/
def M.resetCommand (m : M) (w : Who) (key op : Nat) : M :=
  if !(key == 0x9640) || !mayReset w then m.count F.SYS_RST_STAT_refused
  else match op with
    | 1 => m.moduleReset
    | 2 => m.coreRestart
    | _ => m

/-- SYS_MWD.tmo in ns; below 100 acts as 100 (R479). -/
def M.mwdTime (m : M) : Nat := max 100 (m.get F.SYS_MWD_tmo) * ms

/-- KICK (R479). -/
def M.kick (m : M) : M :=
  { m with boot := { m.boot with mwdBy := m.time.tb + m.mwdTime, mwdLeft := m.boot.mwdLeft.map (fun _ => m.mwdTime) } }

/-- MANAGEMENT_WATCHDOG: while the management firmware runs, MC is on and H0 is not halted (R479, R566). -/
def M.managementWatchdog (m : M) : M :=
  if m.boot.mgmt && m.domainOn 4 && m.boot.mwdLeft.isNone && m.boot.mwdBy ≤ m.time.tb then m.applyReset 4 false else m

/-! ### Steps of the bring-up (Table 14-4) -/

/-- A step is completed: SYS_BOOT_STAT.step and its time. -/
def M.bootStep (m : M) (n : Nat) : M :=
  ({ m with boot := { m.boot with stepTimes := m.boot.stepTimes ++ [(m.time.tb - m.boot.since) / ms] } }).put F.SYS_BOOT_STAT_step n

/-- A domain is switched on by the bring-up, or reaches FAULT. -/
def M.bringOn (c : BootChecks) (m : M) (d : Nat) : M :=
  if m.pdState d == 1 then m
  else
    let a := (m.putBit F.PMC_PD_REQ_on d true).setPd d 2
    let b := { a with power := { a.power with busy := .domainOn d } }
    if tbit c.faults d then (b.pgoodTimeout d).bootFail 6 else b.powerGood d M.restoreConfig

/-- The management firmware starts: its watchdog counts (R479). -/
def M.mgmtStarts (m : M) : M := ({ m with boot := { m.boot with mgmt := true } }).kick

/-- Step 2: always-on checks, BAK and module time from its calendar (R503), SYS_SLOT. -/
def M.bootAlwaysOn (m : M) (c : BootChecks) : M :=
  if !c.aon then (({ m with boot := { m.boot with phase := .halted } }).bootFail 1)
  else (m.timeFromCalendar.put F.SYS_SLOT_slot (b2n m.slotB)).bootStep 2

/-- Step 3: KV on, life-cycle state, vault check. -/
def M.bootVault (m : M) (c : BootChecks) : M :=
  let m1 := (m.bringOn { c with faults := 0 } 6).vaultAtReset
  if m1.kv.lc == 5 then ({ m1 with boot := { m1.boot with phase := .halted } }).bootFail 2
  else
    let m2 := m1.vaultCheck c.vault
    (if c.vault then m2 else m2.bootFail 3).bootStep 3

/-- Step 4: HF on, the recorder restored, the firmware set chosen and started; without one the recovery service on SP (R584). -/
def M.bootFirmware (m : M) (c : BootChecks) : M :=
  let m1 := (m.bringOn { c with faults := 0 } 13).restoreRecorder
  let r := m1.startSet c.active c.other
  if r.1 then r.2.mgmtStarts.bootStep 4
  else
    let m2 := (r.2.bringOn { c with faults := 0 } 15).bootFail 4
    let m3 := { m2 with boot := { m2.boot with phase := .recovery } }
    if m3.bit F.ETH_CTRL_en 2 then m3 else m3.portEnable ⟨0, .system, none, false⟩ 2

/-- A region of the parameter store cannot be read: a page of it cannot be corrected, or its keys are gone (R540, R550). -/
def M.regionBad (m : M) (r : Nat) : Bool :=
  (1 ≤ r && !(m.kv.lc == 2 || m.kv.lc == 3)) || m.nvp.bad.any (fun p => (regionPages r).1 ≤ p && p ≤ (regionPages r).2)

/-- Defaults of a region that cannot be read (R540). -/
def M.regionDefaults (m : M) (r : Nat) : M :=
  match r with
  | 0 =>
    let keep := m.boot.settings.filter (fun (p : Nat × Word) => !(p.1 / 65536 == 0x403A))
    let a : M := { m with ibx := { m.ibx with pairs := [], pairStore := [], held := none }, boot := { m.boot with epochSaved := 0, settings := keep } }
    (a.put F.IBX_EPOCH_epoch 0).put F.IBX_PAIR_pair 0
  | 1 =>
    let keep := m.boot.settings.filter (fun (p : Nat × Word) => p.1 / 65536 == 0x403A)
    { m with krov := { m.krov with net := [] }, boot := { m.boot with settings := keep } }
  | 2 => { m with krov := { m.krov with accounts := defaultAccounts } }
  | 3 => { m with pts := { m.pts with retention := [] } }
  | 4 => { m with pts := { m.pts with forceStore := [], forceDrops := [] } }
  | 5 => { m with mtr := { m.mtr with saved := none } }
  | _ => m

/-- Step 5: the parameter store is read; IBX_EPOCH is restored before IBX_CTRL.en is set (R480). -/
def M.bootSettings (m : M) : M :=
  let bad := (List.range 8).filter m.regionBad
  let m1 := bad.foldl M.regionDefaults m
  let m2 := if bad.isEmpty then m1 else m1.bootFail 5
  let m3 := { m2 with regs := m2.boot.settings.foldl (fun (a : List (Nat × Word)) (p : Nat × Word) => aput p.1 p.2 a) m2.regs }
  let m4 := if m3.get F.IBX_EPOCH_epoch < m3.boot.epochSaved then m3.put F.IBX_EPOCH_epoch m3.boot.epochSaved else m3
  m4.bootStep 5

/-- Step 6: EA, EB, SP and TH on; ports, tether and IBX enabled. -/
def M.bootNetwork (m : M) (c : BootChecks) : M :=
  let m1 := [7, 8, 15, 12].foldl (M.bringOn c) m
  let port (a : M) (x : Nat) : M := if a.domainOn (if x == 0 then 7 else if x == 1 then 8 else 15) then a.applyPort x else a
  let m2 := (List.range 3).foldl port m1
  let m3 := (if m2.domainOn 12 then m2.tetherEnable true else m2).put F.IBX_CTRL_en 1
  ({ m3 with boot := { m3.boot with step6At := some m3.time.tb } }).bootStep 6

/-- Step 7: fabric, loop engine, metering, buses and local I/O on. -/
def M.bootBlocks (m : M) (c : BootChecks) : M := ([0, 1, 2, 3, 5, 11, 9, 10, 14].foldl (M.bringOn c) m).bootStep 7

/-- Step 8: the role in the pair; at once when no peer is present, else once its STATE is read. -/
def M.bootRole (m : M) : M :=
  if !m.bit F.SYS_SLOT_peer_present then (m.put F.SYS_BOOT_STAT_alone 1).bootStep 8
  else if m.ibx.peerAt.isNone then m
  else if m.peerActive && m.unitState == 0 then (m.enterSyncing).bootStep 8
  else m.bootStep 8

/-- The image of a bank is checked and loaded; true when it is LOADED after. -/
def M.loadBank (m : M) (b : Nat) : Bool × M :=
  let src := m.bank b
  let m1 := match m.imageChecks src with
    | some f => (m.imageResult f.1 f.2).imageRecord b src f.1
    | none => m.finishFull b src
  (m1.get F.UPD_IMG_STAT_state == 1, m1)

/-- Step 9: the full image from the bank of the set started; the other bank is tried once. -/
def M.bootImage (m : M) : M :=
  let b := m.upd.boot.active
  let r := m.loadBank b
  let s := if r.1 then (true, (b, r.2)) else
    let o := r.2.loadBank (1 - b)
    (o.1, (1 - b, o.2))
  let m1 := if s.1 then (s.2.2.put F.SYS_BOOT_STAT_img_bank s.2.1).waltzRestore else s.2.2.bootFail 7
  let m2 := if m1.unitState == 1 && m1.ibx.peerAt.isSome && !m1.imagesMatch then m1.bootFail 0x0B else m1
  m2.bootStep 9

/-- AUTO_RUN: the module's own run command in step 10 (R195); a refused run leaves execution at STOP. -/
def M.autoRun (m : M) : M :=
  if m.boot.phase == .rising && m.get F.SYS_BOOT_STAT_step == 9 && !(m.unitState == 1) && m.bit F.EXE_CTRL_auto_run &&
    m.get F.UPD_IMG_STAT_state == 1 && m.exeState == 0 then
    let e := m.runRefusal
    let m1 := m.exeRun (m.bit F.EXE_CTRL_auto_cold) M.armImage
    if e == 0 then m1 else m1.bootFail 8
  else m

/-- The end of the bring-up, with its record (Table 14-4, step 14, or step 10 of a unit that joined). -/
def M.bootDone (m : M) (n : Nat) : M :=
  let m1 := (m.bootStep n).put F.SYS_BOOT_STAT_done 1
  let m2 := { m1 with boot := { m1.boot with phase := .service } }
  m2.note 0x0B 5 0 (m2.boot.stepTimes ++ [m2.get F.SYS_BOOT_STAT_fail])

/-- Step 10: the image's level, the run; a unit in SYNCING waits for STANDBY. -/
def M.bootRun (m : M) : M :=
  if m.unitState == 2 then m.bootDone 10
  else if m.unitState == 1 then m
  else if !(m.power.busy == .idle) then m
  else if m.get F.PMC_LVL_STAT_level < m.img.level && m.get F.PMC_LVL_STAT_err == 0 then m.levelRequest m.img.level
  else m.autoRun.bootStep 10

/-- Every enabled station of an enabled bus reads ONLINE. -/
def M.stationsOnline (m : M) : Bool :=
  (List.range 8).all (fun n => !m.bit F.CAN_CTRL_en n ||
    (List.range 64).all (fun s => !m.bit F.CAN_STA_CFG_en n s || m.get F.CAN_STA_STAT_state n s == stOnline))

/-- The next step after the last completed. -/
def M.nextStep (m : M) (c : BootChecks) : M :=
  match m.get F.SYS_BOOT_STAT_step with
  | 1 => m.bootAlwaysOn c
  | 2 => m.bootVault c
  | 3 => m.bootFirmware c
  | 4 => m.bootSettings
  | 5 => m.bootNetwork c
  | 6 => m.bootBlocks c
  | 7 => m.bootRole
  | 8 => m.bootImage
  | 9 => m.bootRun
  | 10 => if m.unitState == 2 then m.bootDone 10
    else if m.ethState 0 == ethUp || m.ethState 1 == ethUp then m.bootStep 11 else m
  | 11 => if m.unitState == 2 then m.bootDone 10
    else if m.unitState == 4 && m.acting then ({ m with boot := { m.boot with step12At := some m.time.tb } }).bootStep 12 else m
  | 12 => if m.stationsOnline then m.bootStep 13 else m
  | _ => m.bootDone 14

/-- BRING_UP: the next step of Table 14-4; after a core restart steps 2, 4 and 5 alone, which reset and enable nothing
(R481); paused while the supply-fail warning stands (Table 14-5). -/
def M.bringUp (m : M) (c : BootChecks) : M :=
  let restarted := !m.boot.mgmt && 4 ≤ m.get F.SYS_BOOT_STAT_step && m.domainOn 4
  match m.boot.phase with
  | .service => if restarted && c.active then m.mgmtStarts else m
  | .rising =>
    if m.bit F.PMC_SUP_STAT_warn then m
    else if restarted then (if c.active then m.mgmtStarts else m)
    else m.nextStep c
  | _ => m

/-- NO_PEER_TIMEOUT: no tether within 400 ms, or no STATE frame within 20 ms of it (R491). -/
def M.noPeer (m : M) : M :=
  let late := match m.boot.linkAt with
    | none => m.boot.since + 400 * ms ≤ m.time.tb
    | some t => t + 20 * ms ≤ m.time.tb
  if m.boot.phase == .rising && m.get F.SYS_BOOT_STAT_step == 7 && m.ibx.peerAt.isNone && late then
    (m.put F.SYS_BOOT_STAT_alone 1).bootStep 8
  else m

/-- BRING_UP_TIMEOUT: the waits of steps 11, 12 and 13 (Table 14-5). -/
def M.bringUpTimeout (m : M) : M :=
  if !(m.boot.phase == .rising) then m
  else match m.get F.SYS_BOOT_STAT_step with
    | 10 => if m.boot.step6At.any (fun t => t + 3000 * ms ≤ m.time.tb) then
        ({ m with boot := { m.boot with step6At := none } }).bootFail 9
      else m
    | 11 => if m.boot.claimAt.any (fun t => t + 2000 * ms ≤ m.time.tb) && m.ibx.witAt.isNone then m.bootFail 0x0A else m
    | 12 => if m.boot.step12At.any (fun t => t + 1000 * ms ≤ m.time.tb) then
        ((m.bootFail 0x0C).put F.SYS_BOOT_STAT_stn_miss 1).bootStep 13
      else m
    | _ => m

end Sys2Proof.Machine
end

