-- ==== Sys2Proof/Machine/RecorderRead.lean ====
section
/-! DEFINITION. What a reader of the flight recorder and the event log receives: the load commands and the items of a
transfer (R523 to R525, R66). -/

namespace Sys2Proof.Machine

/-- Everything is read as stored: H0 and the system tag (R525). -/
def readsAll (w : Who) : Bool := w.ini == 0 || w.tag.isSystem

/-- The tag's role lies below ENGINEER. -/
def lowRole (w : Who) : Bool :=
  match w.tag with
  | .system => false
  | .mk _ r => r == .view || r == .operate

/-- A descriptor and its value as a reader receives them (R66, R525): an invisible point reads status 0x8000 and value 0. -/
def M.decidedPair (m : M) (w : Who) (d v : Word) : Word × Word :=
  if m.sees w (wfield d 16 16) then (d, v) else (wset d 0 16 0x8000, 0)

/-- Words from index `i`, with the map of descriptors, as a reader receives them; `low` tells that words of no point pair read
0. -/
def M.snapshotWords (m : M) (w : Who) (low : Bool) (map : Nat) : Nat → List Word → List Word
  | _, [] => []
  | i, [x] => if tbit map i then [(m.decidedPair w x 0).1] else [if low then 0 else x]
  | i, x :: y :: t =>
    if tbit map i then
      let p := m.decidedPair w x y
      p.1 :: p.2 :: m.snapshotWords w low map (i + 2) t
    else (if low then 0 else x) :: m.snapshotWords w low map (i + 1) (y :: t)

/-- The 16 words of a record as a reader receives them. -/
def M.recordSeen (m : M) (w : Who) (r : FrRecord) : List Word :=
  if readsAll w then r.words
  else r.words.take 4 ++ m.snapshotWords w (lowRole w) (wfield (r.words.getD 3 0) 0 12) 0 (r.words.drop 4)

/-- The words of an entry as a reader receives them: every point pair of its body is decided (R66), below ENGINEER the other
snapshot words of a TRIGGER entry's record read 0, and an entry read in a tenant's own sequence carries that sequence (R525). -/
def M.entrySeen (m : M) (w : Who) (own : Bool) (e : LogEntry) : List Word :=
  let e' := if own then { e with seq := e.tseq } else e
  let ws := (List.range 32).map (fun k => BitVec.ofNat 32 (be e'.bytes (4 * k) 4))
  if readsAll w then ws
  else if e.code == 0 then
    ws.take 10 ++ m.snapshotWords w (lowRole w) (e.map / 16) 0 ((ws.drop 10).take 12) ++ ws.drop 22
  else ws.take 6 ++ m.snapshotWords w false e.map 0 (ws.drop 6)

/-! ### The load commands (R523) -/

def M.records (m : M) : List FrRecord := m.frec.head ++ m.frec.reel

/-- `s` lies behind the next number to be written: it has been written before (R512, modulo 2³²). -/
def written (s next : Nat) : Bool := let d := (next + 2 ^ 32 - s) % 2 ^ 32; 0 < d && d < 2 ^ 31

/-- The oldest of the sequence numbers present above one, or the next to be written. -/
def oldestAbove (s next : Nat) (l : List Nat) : Nat := (l.find? (fun x => written s x)).getD next

def M.rdResult (m : M) (err next : Nat) : M := ((m.put F.REC_RD_STAT_err err).put F.REC_RD_NEXT_seq next)

/-- The words loaded, with zeros behind them. -/
def M.loadWords (m : M) (ws : List Word) : M :=
  (List.range 32).foldl (fun (a : M) k => a.wr .REC_RD_W (ws.getD k 0) k) m

/-- LOAD_RECORD (op 0b01). -/
def M.loadRecord (m : M) (w : Who) : M :=
  let s := m.get F.REC_RD_SEQ_seq
  match m.records.find? (fun r => r.seq == s) with
  | some r => (m.loadWords (m.recordSeen w r)).rdResult 0 ((s + 1) % 2 ^ 32)
  | none =>
    if written s m.frec.nextSeq then m.rdResult 1 (oldestAbove s m.frec.nextSeq (m.records.map FrRecord.seq))
    else m.put F.REC_RD_STAT_err 2

/-- LOAD_ENTRY (op 0b10). -/
def M.loadEntry (m : M) (w : Who) : M :=
  let s := m.get F.REC_RD_SEQ_seq
  match m.frec.log.find? (fun e => e.seq == s) with
  | some e => (m.loadWords (m.entrySeen w false e)).rdResult 0 ((s + 1) % 2 ^ 32)
  | none =>
    if written s m.frec.nextLogSeq then m.rdResult 1 (oldestAbove s m.frec.nextLogSeq (m.frec.log.map LogEntry.seq))
    else m.put F.REC_RD_STAT_err 2

/-- REC_RD_CMD written. -/
def M.readCommand (m : M) (w : Who) (op : Nat) : M :=
  match op with
  | 1 => m.loadRecord w
  | 2 => m.loadEntry w
  | _ => m

/-! ### Items of a transfer (R524) -/

/-- The tenant whose entries a session reads alone: tenants 1 to 250. -/
def ownTenant (w : Who) : Option Nat :=
  match w.tag with
  | .mk t _ => if 1 ≤ t && t ≤ 250 then some t else none
  | .system => none

/-- The number after the last that a log transfer covers: the log's next number, or the tenant's. -/
def M.logNext (m : M) (w : Who) : Nat :=
  match ownTenant w with
  | some t => getd 0 t m.frec.tseq
  | none => m.frec.nextLogSeq

/-- A GONE item of `n` bytes, its code at an offset. -/
def goneItem (s codeAt n : Nat) : Bytes := padTo n (padTo codeAt (toBE 4 s) ++ toBE 1 0xFF)

/-- Record `s` of a transfer: 64 bytes. -/
def M.recordItem (m : M) (w : Who) (s : Nat) : Bytes :=
  match m.records.find? (fun r => r.seq == s) with
  | some r => (m.recordSeen w r).flatMap (fun (x : Word) => toBE 4 x.toNat)
  | none => goneItem s 13 64

/-- Entry `s` of a transfer: 128 bytes. -/
def M.logItem (m : M) (w : Who) (s : Nat) : Bytes :=
  let found : Option LogEntry := match ownTenant w with
    | some t => m.frec.log.find? (fun (e : LogEntry) => e.tenant == t && e.tseq == s)
    | none => m.frec.log.find? (fun e => e.seq == s)
  match found with
  | some e => (m.entrySeen w (ownTenant w).isSome e).flatMap (fun (x : Word) => toBE 4 x.toNat)
  | none => if (ownTenant w).isSome then padTo 128 (toBE 4 s ++ toBE 4 s ++ padTo 8 [] ++ toBE 1 0xFF) else goneItem s 16 128

end Sys2Proof.Machine
end

