-- ==== Sys2Proof/Machine/Sram.lean ====
section
/-! DEFINITION. The two host memories as bytes by address: cells strictly rising, no cell of the value an unlisted address
reads as, which is 0x00 (DESIGN CHOICE, log 2). -/

namespace Sys2Proof.Machine

/-- Cells of the H0 and H1 SRAM (Table 1-7). -/
abbrev Sram := List Host.Cell

/-- The byte at an address. -/
def sramByte (s : Sram) (a : Nat) : Byte := getd (0 : Byte) a s

/-- Store one byte. -/
def sramPut (s : Sram) (a : Nat) (b : Byte) : Sram := putd (0 : Byte) a b s

/-- `n` bytes from an address as a little-endian number (R6). -/
def sramRead (s : Sram) (a n : Nat) : Nat := fromLE ((List.range n).map (fun i => sramByte s (a + i)))

/-- Store the low `n` bytes of a number from an address, least significant first. -/
def sramWrite (s : Sram) (a n v : Nat) : Sram :=
  (List.range n).foldl (fun (t : Sram) i => sramPut t (a + i) (BitVec.ofNat 8 (v / 256 ^ i))) s

/-- The canonical form. -/
def sramWf (s : Sram) : Bool := arising s && s.all (fun p => !(p.2 == 0))

end Sys2Proof.Machine
end

