-- ==== Sys2Proof/Machine/Bus.lean ====
section
/-! DEFINITION. The spine: what a read of a register instance returns and does, what a write does, and accesses of 32 and 64
bits to registers, host memories and the point value window (R10 to R14, R35 to R42, Tables 0-5, 1-7). -/

namespace Sys2Proof.Machine

/-! ### What a register reads (R13) -/

def Reg.woMask (r : Reg) : Nat := r.maskOf (fun f => f.acc == .wo)
def Reg.rcMask (r : Reg) : Nat := r.maskOf (fun f => f.acc == .rc)
def Reg.w1cMask (r : Reg) : Nat := r.maskOf (fun f => f.acc == .w1c)

/-- A word with fields replaced. -/
def withFields (x : Word) (l : List (FRef × Nat)) : Word := l.foldl (fun (a : Word) p => wset a p.1.lo p.1.width p.2) x

/-- Nanoseconds left till a timebase deadline. -/
def M.left (m : M) (d : Option Nat) : Nat := (d.map (fun t => t - m.time.tb)).getD 0

/-- Bits of the regions whose right is open to a tag (NVP_OPEN). -/
def openBits (l : List (Nat × (Tag × Nat))) (t : Tag) : Nat :=
  (List.range 8).foldl (fun (a : Nat) r => if (aget r l).any (fun p => p.1 == t) then a + 2 ^ r else a) 0

/-- Bits of the filled slots from a slot on (R553). -/
def M.filledBits (m : M) (first : Nat) : Nat :=
  (List.range 32).foldl (fun (a : Nat) n => if (m.kvSlot (first + n)).isSome then a + 2 ^ n else a) 0

/-- The hosted pair slot that IBX_CHP_SEL selects. -/
def M.selectedPair (m : M) : HostedPair := m.hosted (m.get F.IBX_CHP_SEL_slot)

/-- IBX_CHP_STAT of the selected slot. -/
def M.chpStat (m : M) : Word :=
  let p := m.selectedPair
  let quiet := m.ibx.quietEnd.any (fun t => m.time.tb < t) || (p.valid && m.time.tb < p.windowEnd)
  withFields 0 [(F.IBX_CHP_STAT_holder, match p.holder with | none => 0 | some u => u + 1),
    (F.IBX_CHP_STAT_current, b2n (p.leaseEnd.any (fun t => m.time.tb < t))), (F.IBX_CHP_STAT_quiet, b2n quiet),
    (F.IBX_CHP_STAT_ms, min 65535 (m.left p.leaseEnd / ms))]

/-- EXE_TINFOn (Table 5-12). -/
def M.taskInfo (m : M) (n : Nat) : Word :=
  match m.taskRec n with
  | none => 0xFF000000
  | some t => withFields 0 [(F.EXE_TINFO_error_task, t.errorTask), (F.EXE_TINFO_priority, t.priority),
      (F.EXE_TINFO_priv, b2n (m.taskPriv n)), (F.EXE_TINFO_etask, b2n t.etask), (F.EXE_TINFO_units, (m.taskUnits n).length)]

/-- The word a register instance shows to an initiator: the stored word, or what its fields say of the blocks' state. -/
def M.view (m : M) (w : Who) (r : Reg) (i j k : Nat) : Word :=
  let x := m.rd r i j k
  match r with
  | .IBX_STAT => withFields x [(F.IBX_STAT_peer_elig, b2n m.peerEligible), (F.IBX_STAT_elig, b2n m.eligible),
      (F.IBX_STAT_peer_active, b2n m.peerActive), (F.IBX_STAT_act, b2n m.acting)]
  | .IBX_LEASE => BitVec.ofNat 32 (if m.leased then m.left m.ibx.leaseEnd / 1000 else 0)
  | .IBX_CHP_CFG =>
    let p := m.selectedPair
    withFields 0 [(F.IBX_CHP_CFG_valid, b2n p.valid), (F.IBX_CHP_CFG_key, p.key), (F.IBX_CHP_CFG_pair, p.pair)]
  | .IBX_CHP_STAT => m.chpStat
  | .IBX_CHP_EPOCH => BitVec.ofNat 32 m.selectedPair.epoch
  | .LIO_STAT => withFields x [(F.LIO_STAT_safe, b2n m.allSafe), (F.LIO_STAT_run, b2n m.lioRun)]
  | .RTC_STAT => withFields x [(F.RTC_STAT_rc, b2n (m.bitOf F.TIM_CLK_STAT_fo 5 && m.time.vinPresent))]
  | .LIO_PIN => BitVec.ofNat 32 (m.pinWord i)
  | .LIO_DRV => BitVec.ofNat 32 (m.drvWord i)
  | .KV_STAT => withFields x [(F.KV_STAT_opw, b2n m.kv.opw.isSome), (F.KV_STAT_chg, b2n m.kv.marker.isSome),
      (F.KV_STAT_root, rootCode m.kv.lc), (F.KV_STAT_lc, m.kv.lc)]
  | .KV_SLOT0 => BitVec.ofNat 32 (m.filledBits 0)
  | .KV_SLOT1 => BitVec.ofNat 32 (m.filledBits 32)
  | .KV_SERIAL_LO => BitVec.ofNat 32 Config.serial.toNat
  | .KV_SERIAL_HI => BitVec.ofNat 32 (Config.serial.toNat / 2 ^ 32)
  | .KV_IDPUB => Config.identityPublic i
  | .KV_NONCE => Config.random (m.kv.nonce + i)
  | .KV_ACC => withFields 0 [(F.KV_ACC_min, ceilDiv (m.left (m.kv.opened.map (fun p => p.2.2))) (60 * sec)),
      (F.KV_ACC_gates, m.gates), (F.KV_ACC_how, (m.kv.opened.map (fun p => p.2.1)).getD 0)]
  | .KV_ATT_DATA => m.kv.statement.headD 0
  | .REC_CLR_NONCE => m.clrNonce
  | .NVP_DATA => m.bufferWord w
  | .HST_STAT => withFields x [(F.HST_STAT_ready, b2n (m.domainOn 13)), (F.HST_STAT_ro, b2n m.hstReadOnly), (F.HST_STAT_wear, m.hstWear)]
  | .NVP_OPEN => withFields 0 [(F.NVP_OPEN_wr, openBits m.nvp.wrOpen w.tag), (F.NVP_OPEN_rd, openBits m.nvp.rdOpen w.tag)]
  | .NVP_RGN => withFields x [(F.NVP_RGN_rd_set, b2n (aget i m.nvp.rdPw).isSome), (F.NVP_RGN_wr_set, b2n (aget i m.nvp.wrPw).isSome)]
  | .EVC_STAT => wset x 0 4 (fieldN (m.get F.EVC_PEND_pend 0) 0 4)
  | .EVC_CLAIM => BitVec.ofNat 32 (m.claimWord i)
  | .EVC_SMP_W =>
    match aget w.ini m.ev.smpLatch with
    | some (q, (a, (b, c))) => if q == i && 0 < j then (if j == 1 then a else if j == 2 then b else c) else m.sampleWord w.tag i j
    | none => m.sampleWord w.tag i j
  | .PTD_COUNT => m.ptdCount w.tag
  | .PTD_FORCE_STAT => BitVec.ofNat 32 (m.forceCount w.tag)
  | .PTD_NOPT_CNT => (m.readNopoint w.tag).1
  | .TIM_TAI_LO => BitVec.ofNat 32 m.time.tai
  | .TIM_TAI_HI => (aget w.ini m.time.latTaiHi).getD (BitVec.ofNat 32 (m.time.tai / 2 ^ 32))
  | .RTC_TIME => m.calendarTime
  | .RTC_DATE => (aget w.ini m.time.latDate).getD m.calendarDate
  | .UPD_WIN => BitVec.ofNat 32 (if m.get F.UPD_STAT_state == 4 then min 65535 (ceilDiv (m.left m.upd.windowEnd) sec) else 0)
  | .UPD_BANK => withFields 0 [(F.UPD_BANK_prev, b2n m.upd.boot.prevValid), (F.UPD_BANK_trial, b2n m.upd.boot.trial.isSome),
      (F.UPD_BANK_trial_set, if m.upd.boot.trial.isSome then m.trialSet else 0), (F.UPD_BANK_active, m.upd.boot.active)]
  | .UPD_FLOOR => BitVec.ofNat 32 m.upd.boot.floor
  | .UPD_OWNKEY => getd 0 i m.upd.ownKey
  | .FAB_QSTAT => wset x 0 13 (m.quad i).held
  | .EXE_TSTAT => wset x 30 2 (m.taskShown i)
  | .EXE_TPER => BitVec.ofNat 32 ((m.taskRec i).map TaskRec.period |>.getD 0)
  | .EXE_TBND => BitVec.ofNat 32 ((m.taskRec i).map TaskRec.bound |>.getD 0)
  | .EXE_TINFO => m.taskInfo i
  | .CAN_RXQ_W => m.rxqWord i j k
  | _ => BitVec.ofNat 32 (x.toNat - Nat.land x.toNat r.woMask)

/-- What a 32-bit read changes: latches, queues that are popped, fields that reading clears (R13, R449, R499, R531, R590). -/
def M.readEffect (m : M) (w : Who) (r : Reg) (i j k : Nat) : M :=
  match r with
  | .TIM_TAI_LO => m.taiRead w
  | .TIM_TAI_HI => { m with time := { m.time with latTaiHi := adel w.ini m.time.latTaiHi } }
  | .RTC_TIME => m.rtcTimeRead w
  | .RTC_DATE => { m with time := { m.time with latDate := adel w.ini m.time.latDate } }
  | .NVP_DATA => m.bufferRead
  | .EVC_CLAIM => m.evcClaim i
  | .EVC_SMP_W => if j == 0 then m.sampleLatch w i else m
  | .PTD_NOPT_CNT => (m.readNopoint w.tag).2
  | .KV_ATT_DATA => { m with kv := { m.kv with statement := m.kv.statement.drop 1 } }
  | _ =>
    let x := (m.rd r i j k).toNat
    if r.rcMask == 0 then m else m.wr r (BitVec.ofNat 32 (x - Nat.land x r.rcMask)) i j k

/-- A 32-bit read of a register instance. -/
def M.readReg (m : M) (w : Who) (p : Place) : Word × M := (m.view w p.reg p.i p.j p.k, m.readEffect w p.reg p.i p.j p.k)

/-- Registers that a 64-bit read shows together without a latch (R449, R499). -/
def Reg.pairRead (r : Reg) : Bool := r == .TIM_TAI_LO || r == .RTC_TIME

/-- A 64-bit read of a pair of words at an address of 8: two reads at one instant. -/
def M.readPair (m : M) (w : Who) (p q : Option Place) : Word × (Word × M) :=
  let clear : M := { m with time := { m.time with latTaiHi := adel w.ini m.time.latTaiHi, latDate := adel w.ini m.time.latDate } }
  match p with
  | some x =>
    if x.reg.pairRead then
      let b := (q.map (fun y => clear.view w y.reg y.i y.j y.k)).getD 0
      (clear.view w x.reg x.i x.j x.k, (b, clear))
    else
      let (a, m1) := m.readReg w x
      match q with
      | some y => let (b, m2) := m1.readReg w y
                  (a, (b, m2))
      | none => (a, (0, m1))
  | none =>
    match q with
    | some y => let (b, m2) := m.readReg w y
                (0, (b, m2))
    | none => (0, (0, m))

/-! ### Commands given by writing a register -/

/-- EXE_CMD; ignored while a command runs. -/
def M.exeCommand (m : M) (op : Nat) : M :=
  if m.bit F.EXE_CMD_STAT_busy then m
  else match op with
    | 1 => m.exeRun false M.armImage
    | 2 => m.exeRun true M.armImage
    | 3 => m.exeStop
    | 4 => m.exeAck
    | _ => m

/-- EXE_OLC_CMD; a committed set on an ACTIVE unit is sent to the peer (R399). -/
def M.olcCommand (m : M) (task op : Nat) : M :=
  match op with
  | 1 => m.patchAdd task
  | 2 =>
    let m1 := m.patchCommit
    if m1.get F.EXE_OLC_STAT_err == 0 then m1.tellPeer (.patchSet (m.exe.patchTask.getD 0) m.exe.patches) else m1
  | 3 => m.patchAbort
  | _ => m

/-- NVP_CMD (Table 17-2). -/
def M.nvpCommand (m : M) (w : Who) (region op : Nat) : M :=
  if m.nvpBusy || op == 0 then m
  else match op with
    | 1 => m.pageLoad w
    | 2 => m.pageCommit w
    | 3 => m.openRd w region
    | 4 => m.openWr w region
    | 5 => m.closeRights w region
    | 6 => m.setRd w region
    | 7 => m.setWr w region
    | _ => m.nvpResult 6

/-- KV_CMD (Table 18-8). -/
def M.kvCommand (m : M) (w : Who) (key arg op : Nat) : M :=
  match op with
  | 0 => m
  | 1 => m.slotRead w
  | 2 => m.slotWrite w
  | 3 => m.slotDerive w
  | 4 => m.slotErase w
  | 5 => m.ownerPassword w
  | 6 => m.lifeCycle w key arg
  | _ => m.clearKeyData.kvResult 6

/-- KV_ACC_CMD. -/
def M.accCommand (m : M) (w : Who) (duration gates op : Nat) : M :=
  match op with
  | 1 => m.openOwner w gates duration
  | 2 => m.openVendor w gates duration
  | 3 => m.closeGates w gates
  | _ => m

/-- REC_CLR_CMD. -/
def M.clrCommand (m : M) (w : Who) (op : Nat) : M :=
  match op with
  | 1 => m.clearReel w
  | 2 => m.clearRecorder w
  | 3 => m.clearLog w
  | _ => m

/-- UPD_IMG_CMD; the peer's report on a partial image is not the module's to know: a free value (R400, log 3). -/
def M.imgCommand (m : M) (op : Nat) : M :=
  let (x, m1) := m.drawFree
  m1.imageCommand op (x.toNat % 2 == 1)

/-- IBX_CMD. -/
def M.ibxCommand (m : M) (op : Nat) : M :=
  match op with
  | 1 => m.withPair M.cmdSwitch
  | 2 => m.cmdMaint
  | 3 => m.cmdResume
  | _ => m

/-- The write-only fields of a register are written: data is kept for the command that uses it, a command is carried out. -/
def M.woEffect (m : M) (w : Who) (r : Reg) (i j k v : Nat) : M :=
  match r with
  | .SYS_PACE_CTRL => if tbit v 8 then m.clearMin else m
  | .SYS_RST_CMD => m.resetCommand w (fieldN v 16 16) (fieldN v 0 2)
  | .SYS_MWD => if tbit v 31 then m.kick else m
  | .PTD_DIR_CMD => m.dirCommand w (v % 4)
  | .PTD_SHR_CMD => m.shrCommand w (v % 4)
  | .PTD_FRC_CMD => m.frcCommand w (v % 4)
  | .FAB_CTRL => if tbit v 16 then m.clrHwm else m
  | .UPD_IMG_CMD => m.imgCommand (v % 4)
  | .EXE_CTRL => if tbit v 16 then (List.range 32).foldl (fun (a : M) n => a.wr .EXE_TMAX 0 n) m else m
  | .EXE_CMD => m.exeCommand (v % 8)
  | .EXE_OLC_CMD => m.olcCommand (fieldN v 8 5) (v % 4)
  | .LPE_WZCLR => if tbit v 8 then m.waltzClear (v % 64) else m
  | .MTR_CMD => match v % 4 with
    | 1 => m.meterClear w false (fieldN v 8 4)
    | 2 => m.meterClear w true (fieldN v 8 4)
    | _ => m
  | .CAN_RXQ_POP => m.rxqPop i (v % 4)
  | .IBX_CMD => m.ibxCommand (v % 4)
  | .TIM_CLK_CMD => m.restoreRequest (v % 64)
  | .PMC_LVL_CMD => if tbit v 31 then m.levelRequest (v % 4) else m
  | .RTC_SET_CMD => if v % 4 == 1 then m.calendarSet else m
  | .RTC_ALM => if tbit v 29 then m.alarmRelease else m
  | .REC_RD_CMD => m.readCommand w (v % 4)
  | .REC_CLR_CMD => m.clrCommand w (v % 4)
  | .NVP_CMD => m.nvpCommand w (fieldN v 16 3) (v % 16)
  | .KV_CTRL => if tbit v 0 then m.put F.KV_STAT_chk_busy 1 else m
  | .KV_CMD => m.kvCommand w (fieldN v 16 16) (fieldN v 8 8) (v % 16)
  | .KV_ACC_CMD => m.accCommand w (fieldN v 16 16) (fieldN v 8 3) (v % 16)
  | .KV_ATT_CMD => if tbit v 0 then m.attest w else m
  | .UPD_CMD => m.updCommand w (v % 4)
  | .UPD_CONFIRM => m.confirm w (fieldN v 16 16) (fieldN v 0 16)
  | .EVC_SWSET => m.softwareRaise (v % 256)
  | .EVC_DONE => m.evcDone i (v % 256)
  | .EVC_CNTCTL => m.counterClear (fieldN v 8 3)
  | .EVC_SMP_CMD => if tbit v 0 then m.sampleClear else m
  | .NVP_PW | .KV_KEYD | .KV_OPW | .KV_PROOF | .KV_ATT_CHAL | .REC_CLR_AUTH => m.wr r (BitVec.ofNat 32 v) i j k
  | _ => m

/-! ### A write of a register (R12, R13, R157, R161, R399) -/

/-- The commit register of a block and port. -/
def commitOf (r : Reg) (i : Nat) : Option CommitBlock :=
  match r with
  | .LPE_COMMIT => some .lpe
  | .MTR_COMMIT => some .mtr
  | .ETH_COMMIT => some (.eth i)
  | _ => none

/-- A register that the image in force sets was written: the running value differs from the image (R157), and an ACTIVE unit
tells its peer; task enables and the hosted pairs' settings are told as well (R399, R413). -/
def M.runningChange (m : M) (r : Reg) (a v : Nat) : M :=
  let set := m.get F.UPD_IMG_STAT_state == 1 && (m.img.configure ++ m.img.arm).any (fun c => c.addr == a)
  let m1 := if set then m.put F.UPD_IMG_STAT_dirty 1 else m
  if r == .IBX_CHP_CFG then
    (m1.tellPeer (.reg (Reg.IBX_CHP_SEL.addr 0 0 0) (m1.rd .IBX_CHP_SEL))).tellPeer (.reg a (BitVec.ofNat 32 v))
  else if set || r == .EXE_TCFG then m1.tellPeer (.reg a (BitVec.ofNat 32 v)) else m1

/-- A valid VLAN entry of a tenant was cleared, or its VID changed: the tenant's sessions in that VLAN close (R373). -/
def M.vlanFollows (m : M) (p : Place) (old : Word) : M :=
  let new := m.rd p.reg p.i p.j p.k
  let gone := tbit old.toNat 31 && !(tbit new.toNat 31 && wfield new 0 12 == wfield old 0 12)
  if p.reg == .ETH_VLAN && gone then
    m.closeWhere 3 (fun s => s.port == 0 && s.net == p.j && s.vid == some (wfield old 0 12))
  else m

/-- Flags that read 1 while their condition lasts, whatever is written: LPE_EVT.wz_ph (R252). -/
def M.heldFlags (m : M) (r : Reg) : Nat :=
  if r == .LPE_EVT && (List.range 64).any (fun n => m.bit F.LPE_CH_STAT_wz_ph n) then 2 ^ 4 else 0

/-- A write of a register instance: reason 5 when it is refused with BUSY (R161, R163), otherwise the module after it. -/
def M.writeReg (m : M) (w : Who) (p : Place) (v : Nat) : Option M :=
  let r := p.reg
  match commitOf r p.i with
  | some b => some (m.commitWrite b v)
  | none =>
    let (busy, m1) := if r.rwMask == 0 then (false, m) else m.storeRw w r p.i p.j p.k v
    if busy then none
    else
      let x := (m1.rd r p.i p.j p.k).toNat
      let ones := Nat.land (Nat.land v r.w1cMask) x - Nat.land (Nat.land (Nat.land v r.w1cMask) x) (m1.heldFlags r)
      let m2 := if ones == 0 then m1 else m1.wr r (BitVec.ofNat 32 (x - ones)) p.i p.j p.k
      some (((m2.woEffect w r p.i p.j p.k v).runningChange r p.addr v).vlanFollows p (m.rd r p.i p.j p.k))

/-! ### The point value window (R36, R37, R61) -/

/-- The point an address of the window lies in. -/
def pointAt (a : Nat) : Nat := (a - 0x60000000) / 8

/-- An address lies in the window. -/
def inPoints (a : Nat) : Bool := match regionOf a with
  | some .points => true
  | _ => false

/-- A read of the window: 32 bits of the entry, or all of it. -/
def M.windowRead (m : M) (w : Who) (a width : Nat) : Nat × M :=
  let m1 := m.fitRead w (pointAt a)
  let e := (m1.readPoint w (pointAt a)).toNat
  (if width == 8 then e else if a % 8 == 0 then e % 2 ^ 32 else e / 2 ^ 32, m1)

/-- A write of the window: only the value word can be written. -/
def M.windowWrite (m : M) (w : Who) (a v : Nat) : M :=
  if a % 8 == 0 then (m.writePoint w (pointAt a) (BitVec.ofNat 32 v)).2 else m

/-! ### Accesses (R38) -/

/-- What the spine reaches: the module and the host memories. -/
abbrev Bus := M × Sram

/-- A read by an initiator: its data, or the reason of the refusal. -/
def busRead (b : Bus) (w : Who) (a width : Nat) : Except Nat Nat × Bus :=
  let (m, s) := b
  match m.refusal w a width false with
  | some reason => (.error reason, (m.busError w a false reason, s))
  | none => match regionOf a with
    | some .sram0 | some .sram1 => (.ok (sramRead s a width), b)
    | some .bootRom =>
      let (x, m1) := m.drawFree
      if width == 8 then
        let (y, m2) := m1.drawFree
        (.ok (x.toNat + y.toNat * 2 ^ 32), (m2, s))
      else (.ok x.toNat, (m1, s))
    | some .points =>
      let (x, m1) := m.windowRead w a width
      (.ok x, (m1, s))
    | _ =>
      if width == 8 then
        let (x, (y, m1)) := m.readPair w (placeAt a) (placeAt (a + 4))
        (.ok (x.toNat + y.toNat * 2 ^ 32), (m1, s))
      else match placeAt a with
        | some p =>
          let (x, m1) := m.readReg w p
          (.ok x.toNat, (m1, s))
        | none => (.ok 0, b)

/-- A write of one word of a register window; reserved offsets ignore it (R12). -/
def M.writeWord (m : M) (w : Who) (a v : Nat) : Option M :=
  match placeAt a with
  | some p => m.writeReg w p v
  | none => some m

/-- A write by an initiator: none when it is accepted, or the reason of the refusal. -/
def busWrite (b : Bus) (w : Who) (a width v : Nat) : Option Nat × Bus :=
  let (m, s) := b
  match m.refusal w a width true with
  | some reason =>
    let m0 := if reason == 2 && a == Reg.SYS_RST_CMD.addr 0 0 0 then m.count F.SYS_RST_STAT_refused else m
    (some reason, (m0.busError w a true reason, s))
  | none => match regionOf a with
    | some .sram0 | some .sram1 => (none, (m, sramWrite s a width v))
    | some .bootRom => (none, b)
    | some .points => (none, (m.windowWrite w a v, s))
    | _ =>
      let second (m1 : M) : Option M := if width == 8 then m1.writeWord w (a + 4) (v / 2 ^ 32) else some m1
      match (m.writeWord w a (v % 2 ^ 32)).bind second with
      | some m1 => (none, (m1, s))
      | none => (some 5, (m.busError w a true 5, s))

/-! ### Commands of an initiator -/

/-- A VIEW session of tenant 0 or 255 writes no block window: the Krovtan engine refuses it before any transfer (R155, Table 4-11). -/
def viewBarred (w : Who) (a : Nat) : Bool :=
  match w.tag with
  | .mk t r => w.ini == 3 && (t == 0 || t == 255) && r == .view && (windowDomain (a / 65536)).isSome
  | .system => false

/-- The write of a command register whose result its status register gives later: only that result waits (R85). -/
def ptdCommandAt (a : Nat) : Bool := [Reg.PTD_DIR_CMD, .PTD_SHR_CMD, .PTD_FRC_CMD].any (fun r => r.addr 0 0 0 == a)

/-- An accepted write is answered: at once, or with the acknowledgment of the change it sent (R399). -/
def M.answerWrite (m : M) (was : M) (ini a : Nat) : M :=
  match if ptdCommandAt a then none else m.awaits was with
  | none => m.emit (.written ini a)
  | some q => m.hold ⟨0, some q, .written ini a⟩

/-- An initiator writes an address; tenants 1 to 250 reach the PTD window only (R156), VIEW sessions write no window (R155). -/
def writeBy (b : Bus) (by_ : Master) (a width v : Nat) : Bus :=
  match b.1.who by_ with
  | none => b
  | some w =>
    if b.1.tenantBarred w a || viewBarred w a then b
    else match busWrite (b.1.accessEvents w.ini true (inPoints a) (!b.1.sees w (pointAt a)), b.2) w a width v with
      | (none, (m, s)) => (m.answerWrite b.1 w.ini a, s)
      | (some _, c) => c

/-- An initiator reads an address: the words it is given, or a bus error. -/
def readBy (b : Bus) (by_ : Master) (a width : Nat) : Bus :=
  match b.1.who by_ with
  | none => b
  | some w =>
    if b.1.tenantBarred w a then b
    else match busRead (b.1.accessEvents w.ini false (inPoints a) (!b.1.sees w (pointAt a)), b.2) w a width with
      | (.ok x, (m, s)) =>
        let m1 := m.emit (.readData w.ini a (BitVec.ofNat 32 x))
        (if width == 8 then m1.emit (.readData w.ini (a + 4) (BitVec.ofNat 32 (x / 2 ^ 32))) else m1, s)
      | (.error _, c) => c

/-- An initiator writes one field of a register, the register's other fields as they stand. -/
def fieldBy (b : Bus) (by_ : Master) (x : FRef) (v : Nat) (i j k : Nat := 0) : Bus :=
  let old := Nat.land (b.1.rd x.reg i j k).toNat x.reg.rwMask
  writeBy b by_ (x.reg.addr i j k) 4 (setFieldN old x.lo x.width v)

/-- An initiator writes a word to a register. -/
def wordBy (b : Bus) (by_ : Master) (r : Reg) (v : Nat) (i j k : Nat := 0) : Bus := writeBy b by_ (r.addr i j k) 4 v

end Sys2Proof.Machine
end

