-- ==== Sys2Proof/Machine/Recorder.lean ====
section
/-! DEFINITION. Trigger records of the flight recorder (R513 to R516) and the boundary of each block that has B or P fields
(R159, R163). -/

namespace Sys2Proof.Machine

/-! ### Trigger records -/

/-- One item of a trigger read by the recorder: a register as one word, 0 when the read is refused, or a point as descriptor
and value of one entry (R513). -/
def readItem (b : Bus) (item : Word) : List RecItem × Bus :=
  let w : Who := ⟨6, .system, none, false⟩
  match item.toNat % 4 with
  | 1 =>
    match busRead b w (item.toNat / 4 * 4) 4 with
    | (.ok x, c) => ([(BitVec.ofNat 32 x, false)], c)
    | (.error _, c) => ([(0, false)], c)
  | 2 =>
    let id := fieldN item.toNat 16 16
    let e := (b.1.readPoint w id).toNat
    (descriptor id (e / 2 ^ 32 % 65536) (BitVec.ofNat 32 e), b)
  | _ => ([], b)

/-- The items of a trigger in item order. -/
def readItems (b : Bus) (t : Nat) : List RecItem × Bus :=
  (List.range 12).foldl (fun (a : List RecItem × Bus) i =>
    let (l, c) := readItem a.2 (a.2.1.rd .REC_TRG_ITEM t i)
    (a.1 ++ l, c)) ([], b)

/-- The record of one armed trigger, and its log entry when log = 1, which carries the whole record (R514). -/
def triggerOne (b : Bus) (source tai t : Nat) : Bus :=
  let (items, (m, s)) := readItems b t
  let seq := m.nextRecord
  let m1 := m.storeRecord (m.recordWords tai source 0 (items.take 12))
  if m1.bit F.REC_TRG_CFG_log t then
    let words := (m1.records.find? (fun r => r.seq == seq)).map FrRecord.words |>.getD []
    (m1.logEntry 0 (m1.get F.REC_TRG_CFG_sev t) 0 seq (words.flatMap (fun x => toBE 4 x.toNat)) (mapOf (items.take 12) * 16), s)
  else (m1, s)

/-- TRIGGER_RECORD: the oldest waiting raise is served once the recorder runs (R514, R522). -/
def triggerRecord (b : Bus) : Bus :=
  let (m, s) := b
  match m.frec.queue with
  | [] => b
  | x :: rest =>
    if !m.frec.ready then b
    else
      let m1 : M := { m with frec := { m.frec with queue := rest } }
      match x.body with
      | .triggers ts => ts.foldl (fun (a : Bus) t => triggerOne a x.source x.tai t) (m1, s)
      | .record code items => (m1.storeItems x.tai x.source code (pieces12 (items.length + 1) items), s)

/-! ### Boundaries (R159, R163) -/

/-- BOUNDARY_TRANSFER: the written copies become effective and armed groups are validated. -/
def M.boundary (m : M) (b : BoundaryOf) : M :=
  match b with
  | .loopEngine => m.commitSlot
  | .loopChannel n => m.loopBoundary n
  | .metering => if m.mtrRuns && m.bit F.MTR_STAT_clk then m else if m.time.tai % (10 * ms) == 0 then m.meterBoundary else m
  | .can n => if m.time.tai % (max 1 (m.eff F.CAN_REF_period n) * ms) == 0 then m.transferAt [Reg.CAN_REF.addr n 0 0] else m
  | .ethernet x => (m.transferAt [Reg.ETH_SDCFG.addr x 0 0, Reg.ETH_SDUP.addr x 0 0]).ethGroups x
  | .tether => m.transferAt [Reg.TTH_CTRL.addr 0 0 0]
  | .calendar => m.transferAt [Reg.RTC_CFG.addr 0 0 0, Reg.RTC_LEAP.addr 0 0 0]
  | .pwm n => m.pwmPeriodEnd n
  | .task n => if (m.taskState n).any (fun t => !(t.phase == .idle)) then m else m.transferAt [Reg.EXE_TCFG.addr n 0 0]

end Sys2Proof.Machine
end

