-- ==== Sys2Proof/Machine/KrovOps.lean ====
section
/-! DEFINITION. What each Krovtan opcode does once a request has passed the drop checks: points, subscriptions, forces,
directory, registers, settings and accounts (R377 to R381, R383, R384, Tables 10-6, 10-9, 10-10, 10-12). -/

namespace Sys2Proof.Machine

/-! ### Status codes (Table 10-4) -/

def ksOk : Nat := 0
def ksNopoint : Nat := 1
def ksReadonly : Nat := 2
def ksRights : Nat := 3
def ksBusy : Nat := 4
def ksResource : Nat := 5
def ksInval : Nat := 6
def ksOpcode : Nat := 7
def ksAuth : Nat := 8
def ksForced : Nat := 9
def ksNotForced : Nat := 10
def ksLocal : Nat := 11
def ksBusErr : Nat := 12
def ksXfer : Nat := 13
def ksRetryLost : Nat := 14
def ksRefused : Nat := 15

/-- The status of a PTD error code (R365, Table 2-8). -/
def ptdStatus (e : Nat) : Nat :=
  match e with
  | 0 => ksOk
  | 1 => ksBusy
  | 2 => ksRights
  | 3 => ksLocal
  | 4 => ksForced
  | 5 => ksInval
  | 6 => ksResource
  | _ => ksNotForced

/-- An executed request: status, plain payload, what it left, what follows its response, and the timebase time before which its
response does not leave. -/
structure Done where
  status : Nat
  payload : Bytes
  bus : Bus
  after : After
  ready : Nat
  deriving DecidableEq, Repr

/-- A request executed under a session. -/
abbrev KrovOp := Bus → Who → Session → Bytes → Done

def answer (b : Bus) (status : Nat) (payload : Bytes := []) : Done := ⟨status, payload, b, .nothing, 0⟩
def doneOk (b : Bus) (payload : Bytes := []) : Done := answer b ksOk payload

/-- The session stands in one of tenants 1 to 250. -/
def Session.tenantOwn (s : Session) : Bool := 1 ≤ s.tenant && s.tenant ≤ 250

/-- Rank of a role for Table 10-6, SERVICE as OWNER (R377). -/
def Session.rank (s : Session) : Nat := if s.role == .service then 3 else s.role.code

/-! ### Session opcodes -/

def krovClose : KrovOp := fun b _ _ p => if p.isEmpty then { doneOk b with after := .close } else answer b ksInval

def krovKeepalive : KrovOp := fun b _ _ p => if p.isEmpty then doneOk b (toBE 8 b.1.time.tai) else answer b ksInval

/-- An answer that leaves at the completion time of a PTD command given when the request came, whatever its outcome (R85, R88). -/
def Done.asPtd (d : Done) (m : M) (persist : Bool := false) : Done := { d with ready := m.ptdDue persist }

/-- The held response of a session, if that is what is held. -/
def HeldAnswer.session (h : HeldAnswer) : Option (Nat × Nat) :=
  match h.what with
  | .response _ session _ tag _ _ _ => some (session, tag)
  | .written _ _ => none

/-- Transactions in flight in the module: this one, those whose answer is held, and the openings whose AUTH is still to be sent
(R374). -/
def M.inFlight (m : M) : Nat :=
  1 + (m.krov.held.filter (fun h => h.session.isSome)).length + (m.krov.sessions.filter (fun p => match p.2.place with | .failing _ _ => true | _ => false)).length

def M.openCount (m : M) : Nat := (m.krov.sessions.filter (fun p => p.2.place == .open)).length

/-- Table 12 of chapter 10. -/
def krovStatus : KrovOp := fun b _ s p =>
  if !p.isEmpty then answer b ksInval
  else
    let wide (x : Nat) : Nat := if s.tenantOwn then 0 else x
    doneOk b (toBE 1 (wide b.1.openCount) ++ toBE 1 1 ++ toBE 2 (wide b.1.inFlight) ++ toBE 4 (wide b.1.krov.cntHeader) ++
      toBE 4 (wide b.1.krov.cntNoSession) ++ toBE 4 s.cntSeq ++ toBE 4 s.cntMac ++ toBE 4 s.cntTag)

/-! ### Points (R380) -/

/-- Value, status and age of an entry as they travel. -/
def entryBytes (e : Nat) : Bytes := toBE 4 (fieldN e 0 32) ++ toBE 2 (fieldN e 32 16) ++ toBE 2 (fieldN e 48 16)

/-- Read points one by one: all granted so far, bytes so far, and the module. -/
def readPoints (w : Who) (ids : List Nat) (m : M) : Bool × (Bytes × M) :=
  ids.foldl (fun (a : Bool × (Bytes × M)) id =>
    let m1 := a.2.2.fitRead w id
    let ok := m1.gate w .read id == .granted
    (a.1 && ok, (a.2.1 ++ entryBytes (m1.readPoint w id).toNat, if ok then m1 else m1.countNopoint w.tag))) (true, ([], m))

def krovPointRead : KrovOp := fun b w _ p =>
  let n := be p 0 2
  if n < 1 || 160 < n || !(p.length == 4 + 2 * n) || !(be p 2 2 == 0) then answer b ksInval
  else
    let (all, (bs, m)) := readPoints w ((List.range n).map (fun i => be p (4 + 2 * i) 2)) b.1
    answer (m, b.2) (if all then ksOk else ksNopoint) bs

/-- One point written for a session: its status, with the entry of a logged write (R380, code 0x22). -/
def writeOne (w : Who) (s : Session) (log : Bool) (head : Bytes) (id : Nat) (v : Word) (m : M) : Nat × M :=
  let old := ((m.point id).map (fun x => (m.shown id x).1)).getD 0
  match m.writePoint w id v with
  | (.granted, m1) =>
    let new := ((m1.point id).map (fun x => (m1.shown id x).1)).getD 0
    let body := toBE 4 s.account ++ toBE 4 s.tenant ++ toBE 4 s.role.code ++ toBE 4 id ++ toBE 4 old.toNat ++ toBE 4 new.toNat ++ head
    (ksOk, if log then m1.logEntry 0x22 5 s.tenant 0 body else m1)
  | (.readOnly, m1) => (ksReadonly, m1)
  | (.absent, m1) => (ksNopoint, m1.countNopoint w.tag)

/-- The first status that is not OK. -/
def firstStatus : List Nat → Nat
  | [] => 0
  | x :: r => if x == 0 then firstStatus r else x

def krovPointWrite : KrovOp := fun b w s p =>
  let n := be p 0 2
  if n < 1 || 160 < n || !(p.length == 48 + 8 * n) || 1 < be p 2 2 || !(be p 4 4 == 0) ||
    (List.range n).any (fun i => !(be p (50 + 8 * i) 2 == 0)) then answer b ksInval
  else
    let (sts, m) := (List.range n).foldl (fun (a : List Nat × M) i =>
      let (st, m1) := writeOne w s (be p 2 2 == 1) (slice p 8 40) (be p (48 + 8 * i) 2) (BitVec.ofNat 32 (be p (52 + 8 * i) 4)) a.2
      (a.1 ++ [st], m1)) ([], b.1)
    let bs := toBE 2 n ++ toBE 2 0 ++ sts.flatMap (toBE 2)
    answer (m, b.2) (firstStatus sts) (bs ++ (if n % 2 == 1 then toBE 2 0 else []))

/-! ### Subscriptions (R67, R381) -/

def krovSubscribe : KrovOp := fun b w s p =>
  let id := be p 0 2
  let iv := be p 4 4
  if !(p.length == 12) || !(be p 2 2 == 0) || iv < 1 || 60000 < iv then answer b ksInval
  else if b.1.gate w .subscribe id == .granted && !(be p 8 4 == 0) && (b.1.point id).any (fun x => !(x.kind == 3)) then
    answer b ksInval
  else match b.1.subscribe w s.id id iv (BitVec.ofNat 32 (be p 8 4)) with
    | (.ok, m) => doneOk (m, b.2)
    | (.nopoint, m) => answer (m.countNopoint w.tag, b.2) ksNopoint
    | (.readonly, m) => answer (m, b.2) ksReadonly
    | (.resource, m) => answer (m, b.2) ksResource

/-- A payload of one 16-bit number and 2 reserved bytes. -/
def oneNumber (p : Bytes) : Bool := p.length == 4 && be p 2 2 == 0

def krovUnsubscribe : KrovOp := fun b _ s p =>
  if oneNumber p then doneOk (b.1.unsubscribe s.id (be p 0 2), b.2) else answer b ksInval

/-! ### Forces (R72, R76, R79) -/

/-- A force request that may not be done: NOPOINT for a point that is not visible, READONLY otherwise (R72). -/
def forceDenied (b : Bus) (w : Who) (id : Nat) : Done :=
  if b.1.sees w id then answer b ksReadonly else answer (b.1.countNopoint w.tag, b.2) ksNopoint

def krovForceSet : KrovOp := fun b w _ p =>
  let id := be p 0 2
  if !(p.length == 8) || 1 < be p 2 2 then answer b ksInval
  else
    let d := if !b.1.sees w id || !b.1.mayForce w id then forceDenied b w id
      else match b.1.forceSet w id (BitVec.ofNat 32 (be p 4 4)) (be p 2 2 == 1) with
        | (0, (i, m)) => doneOk (m, b.2) (toBE 2 (i.getD 0) ++ toBE 2 0)
        | (e, (_, m)) => answer (m, b.2) (ptdStatus e)
    d.asPtd b.1 (be p 2 2 == 1)

def krovForceRelease : KrovOp := fun b w _ p =>
  let id := be p 0 2
  if !oneNumber p then answer b ksInval
  else if !b.1.sees w id || !b.1.mayForce w id then (forceDenied b w id).asPtd b.1
  else
    let (e, m) := b.1.forceRelease w id
    (answer (m, b.2) (ptdStatus e)).asPtd b.1

def krovForceList : KrovOp := fun b _ s p =>
  if !oneNumber p then answer b ksInval
  else
    let most := (if s.enc then 1392 else 1408) / 24
    let mine := b.1.pts.forces.filter (fun f => be p 0 2 ≤ f.1 && ((b.1.point f.2.point).map PointRec.owner) == some s.tenant)
    doneOk b ((mine.take (min 64 most)).flatMap (fun f => forceBytes f.1 { f.2 with requested := b.1.requestedNow f.2 }))

/-! ### Directory and share lists (R58, R60, R82, R84) -/

def krovDirRead : KrovOp := fun b w _ p =>
  if !oneNumber p then answer b ksInval
  else
    let (w0, w1) := b.1.dirRead w (be p 0 2)
    (doneOk b (toBE 4 w1.toNat ++ toBE 4 w0.toNat)).asPtd b.1

def krovDirWrite : KrovOp := fun b w _ p =>
  if !(p.length == 12) || !(be p 2 2 == 0) then answer b ksInval
  else
    let (e, m) := b.1.dirWrite w (be p 0 2) (BitVec.ofNat 32 (be p 8 4)) (BitVec.ofNat 32 (be p 4 4))
    (answer (m, b.2) (ptdStatus e)).asPtd b.1

def krovDirDelete : KrovOp := fun b w _ p =>
  if !oneNumber p then answer b ksInval
  else
    let (e, m) := b.1.dirDelete w (be p 0 2)
    (answer (m, b.2) (ptdStatus e)).asPtd b.1

def krovShareRead : KrovOp := fun b w _ p =>
  let list := be p 0 2
  if !oneNumber p || list == 0 || 4096 ≤ list then answer b ksInval
  else
    (doneOk b (toBE 1 (b.1.shareRead w list 0).1 ++ toBE 1 0 ++
      (List.range 8).flatMap (fun k => toBE 2 (b.1.shareRead w list k).2))).asPtd b.1

def krovShareWrite : KrovOp := fun b w _ p =>
  if !(p.length == 8) || !(be p 6 2 == 0) || 8 ≤ be p 2 1 then answer b ksInval
  else
    let (e, m) := b.1.shareWrite w (be p 0 2) (be p 2 1) (be p 3 1) (be p 4 2)
    (answer (m, b.2) (ptdStatus e)).asPtd b.1

/-! ### Registers (R156, R378) -/

/-- Read words till the first refusal: the words before it, whether one was refused, and the bus. -/
def readWords (w : Who) (a : Nat) : Nat → Bus → Bytes × (Bool × Bus)
  | 0, b => ([], (false, b))
  | n + 1, b =>
    match busRead b w a 4 with
    | (.ok x, c) =>
      let (bs, r) := readWords w (a + 4) n c
      (toBE 4 x ++ bs, r)
    | (.error _, c) => ([], (true, c))

def krovRegRead : KrovOp := fun b w _ p =>
  let a := be p 0 4
  let n := be p 4 2
  if !(p.length == 8) || n < 1 || 256 < n || !(be p 6 2 == 0) then answer b ksInval
  else if (List.range n).any (fun i => b.1.tenantBarred w (a + 4 * i)) then answer b ksRights
  else
    let (bs, (bad, c)) := readWords w a n b
    answer c (if bad then ksBusErr else ksOk) bs

/-- Write entries in order till the first refusal: its index and reason, and the bus. -/
def writeWords (w : Who) : Nat → List (Nat × Nat) → Bus → Option (Nat × Nat) × Bus
  | _, [], b => (none, b)
  | i, (a, v) :: r, b =>
    match busWrite b w a 4 v with
    | (none, c) => writeWords w (i + 1) r c
    | (some reason, c) => (some (i, reason), c)

def krovRegWrite : KrovOp := fun b w _ p =>
  let n := be p 0 2
  let es := (List.range n).map (fun i => (be p (4 + 8 * i) 4, be p (8 + 8 * i) 4))
  if n < 1 || 128 < n || !(p.length == 4 + 8 * n) || !(be p 2 2 == 0) then answer b ksInval
  else if es.any (fun e => b.1.tenantBarred w e.1) then answer b ksRights
  else match writeWords w 0 es b with
    | (none, c) =>
      let (x, m) := c.1.drawFree
      doneOk (m, c.2) (toBE 2 x.toNat ++ toBE 2 0)
    | (some (i, reason), c) => answer c (if reason == 5 then ksBusy else ksBusErr) (toBE 2 i ++ toBE 1 reason ++ toBE 1 0)

/-! ### Network settings (R383) -/

/-- As many whole records as a payload holds. -/
def recordsThatFit (limit : Nat) (l : List NetRecord) : Bytes :=
  l.foldl (fun (a : Bytes) r => if a.length + r.bytes.length ≤ limit then a ++ r.bytes else a) []

def krovNetGet : KrovOp := fun b _ s p =>
  if !p.isEmpty then answer b ksInval else doneOk b (recordsThatFit (if s.enc then 1392 else 1408) b.1.krov.net)

def krovNetSet : KrovOp := fun b _ s p =>
  match readNet p.length p with
  | none => answer b ksInval
  | some rs =>
    if s.role == .service && !rs.all NetRecord.ofSp then answer b ksRights
    else if !rs.all NetRecord.ok || !netFits (rs.foldl netApply b.1.krov.net) then answer b ksInval
    else { doneOk (b.1.tellPeer (.net p), b.2) with after := .net rs }

/-! ### Accounts (R379) -/

/-- The session reaches the accounts of a tenant. -/
def Session.reaches (s : Session) (write : Bool) (tenant : Nat) : Bool :=
  s.role == .owner &&
  (if s.tenant == 0 then tenant ≤ 250 || (write && tenant == 255 && s.port == 1) else tenant == s.tenant)

def krovAccountRead : KrovOp := fun b _ s p =>
  if !oneNumber p || 0xFF < be p 0 2 then answer b ksInval
  else
    let n := be p 0 2
    match aget n b.1.krov.accounts with
    | some a => doneOk b (if s.reaches false a.tenant then a.head n else padTo 28 [])
    | none => doneOk b (padTo 28 [])

def krovAccountWrite : KrovOp := fun b _ s p =>
  if !s.enc then answer b ksRights
  else if !accountOk p then answer b ksInval
  else if !s.reaches true (be p 2 1) || ((aget (be p 0 2) b.1.krov.accounts).any (fun a => !s.reaches true a.tenant)) then answer b ksRights
  else doneOk ((b.1.putAccount p).tellPeer (.account (be p 0 2) p), b.2)

/-! ### Transfers (R382, R524, R543, Table 10-11) -/

def chunkSize : Nat := 1024

/-- Minimum rights of a transfer kind on the session: RIGHTS otherwise. -/
def Session.mayTransfer (s : Session) (kind : Nat) : Bool :=
  let service := s.role == .service
  match kind with
  | 1 | 2 => service || (s.tenant == 0 && 2 ≤ s.rank)
  | 4 => !s.tenantOwn
  | 7 => s.port == 1 && (service || (s.tenant == 0 && 3 ≤ s.rank))
  | _ => true

/-- The points of a trend segment decided with the reader's tag, row by row (R543). -/
def M.trendBytes (m : M) (w : Who) (g : TrendSegment) : Bytes :=
  let head := toBE 2 0x5452 ++ toBE 2 g.ids.length ++ toBE 4 g.interval ++ toBE 8 g.first ++ g.ids.flatMap (toBE 2)
  let one (x : Nat × (Word × Nat)) : Bytes :=
    if m.sees w x.1 then toBE 4 x.2.1.toNat ++ toBE 2 x.2.2 ++ toBE 2 0 else toBE 4 0 ++ toBE 2 0x8000 ++ toBE 2 0
  padTo (ceilDiv head.length 8 * 8) head ++
  g.rows.flatMap (fun (r : TrendRow) => toBE 8 r.tai ++ (g.ids.zip r.points).flatMap one)

/-- Length of an object a read transfer covers; none when there is no such object. -/
def M.objectLength (m : M) (w : Who) (kind object : Nat) : Option Nat :=
  let range (next size : Nat) : Nat := if written object next then (next + 2 ^ 32 - object) % 2 ^ 32 * size else 0
  match kind with
  | 2 => if object ≤ 1 then some (m.bank object).length else none
  | 3 => some (range (m.logNext w) 128)
  | 4 => some (range m.frec.nextSeq 64)
  | 5 => if object < 65536 then some ((65536 - object) * 8) else none
  | 6 => if object < 64 then some (((m.trendLog object).segments.map TrendSegment.bytes).sum) else none
  | _ => none

/-- A stretch of a read transfer's object as it stands when its chunk is read. -/
def M.objectBytes (m : M) (w : Who) (t : Transfer) (off len : Nat) : Bytes :=
  match t.kind with
  | 2 => slice (m.bank t.object) off len
  | 3 => ((List.range (ceilDiv len 128)).flatMap (fun i => m.logItem w ((t.object + off / 128 + i) % 2 ^ 32))).take len
  | 4 => ((List.range (ceilDiv len 64)).flatMap (fun i => m.recordItem w ((t.object + off / 64 + i) % 2 ^ 32))).take len
  | 5 => ((readPoints w ((List.range (ceilDiv len 8)).map (fun i => t.object + off / 8 + i)) m).2.1).take len
  | _ => slice ((m.trendLog t.object).segments.flatMap (m.trendBytes w)) off len

/-- The historian holds what the kind moves. -/
def onHistorian (kind : Nat) : Bool := !(kind == 4 || kind == 5)

def M.setTransfer (m : M) (t : Transfer) : M :=
  { m with krov := { m.krov with transfers := aput t.handle { t with lastAt := m.time.tb } m.krov.transfers } }

/-- An unused handle. -/
def M.newHandle (m : M) : Nat × M :=
  let (x, m1) := m.drawFree
  let h := ((List.range 9).map (fun k => (x.toNat + k) % 65535 + 1)).find? (fun h => (aget h m1.krov.transfers).isNone)
  (h.getD 1, m1)

def krovXferBegin : KrovOp := fun b w s p =>
  let m := b.1
  let kind := be p 0 1
  let object := be p 4 4
  let len := be p 8 4
  let write := kind == 1 || kind == 7
  if !(p.length == 12) || !(be p 1 3 == 0) || kind < 1 || 7 < kind then answer b ksInval
  else if !s.mayTransfer kind then answer b ksRights
  else if 8 ≤ m.krov.transfers.length || 4 ≤ (m.krov.transfers.filter (fun t => t.2.session == s.id)).length then answer b ksResource
  else if (onHistorian kind && !m.domainOn 13) || (kind == 7 && 3 ≤ m.get F.UPD_STAT_state) then answer b ksBusy
  else if write && !(object == 0) then answer b ksInval
  else if write && (len == 0 || (if kind == 1 then 8388608 else 268435456) < len) then answer b ksXfer
  else
    let have_ := if write then some len else m.objectLength w kind object
    match have_ with
    | none => answer b ksInval
    | some n =>
      let total := if len == 0 then n else min len n
      let (h, m1) := m.newHandle
      let t : Transfer := ⟨h, s.id, kind, write, object, total, [], 0, 0⟩
      let m2 := if kind == 7 then { m1 with upd := { m1.upd with headerOk := false } } else m1
      doneOk (m2.setTransfer t, b.2) (toBE 2 h ++ toBE 2 0 ++ toBE 4 total)

/-- The open transfer of the session that a payload names. -/
def M.transferOf (m : M) (s : Session) (p : Bytes) : Option Transfer :=
  (aget (be p 0 2) m.krov.transfers).filter (fun t => t.session == s.id)

def M.endTransfer (m : M) (h : Nat) : M := m.dropTransfers (fun t => t.handle == h)

/-- A chunk of a write transfer is stored; chunk 0 of a package has its header checked (R574). -/
def storeChunk (b : Bus) (t : Transfer) (off : Nat) (data : Bytes) : Done :=
  let keep (m : M) : M := (m.setTransfer { t with chunks := aput off data t.chunks }).hstWrites data.length
  if t.kind == 7 && off == 0 then
    match b.1.packageBegins data t.length with
    | (0, m) => doneOk (keep m, b.2)
    | (e, m) => answer (m.endTransfer t.handle, b.2) ksRefused (toBE 1 e)
  else if t.kind == 7 && !b.1.upd.headerOk then answer (b.1.setTransfer t, b.2) ksXfer
  else doneOk (keep b.1, b.2)

def krovXferData : KrovOp := fun b w s p =>
  if p.length < 8 || !(be p 2 2 == 0) then answer b ksInval
  else match b.1.transferOf s p with
    | none => answer b ksInval
    | some t =>
      let off := be p 4 4
      let len := min chunkSize (t.length - off)
      if !t.write && !(p.length == 8) then answer b ksInval
      else if !(off % chunkSize == 0) || t.length ≤ off || (t.write && !(p.length == 8 + len)) then answer (b.1.setTransfer t, b.2) ksXfer
      else if t.write then storeChunk b t off (p.drop 8)
      else if onHistorian t.kind && !b.1.domainOn 13 then answer b ksBusy
      else doneOk (b.1.setTransfer t, b.2) (b.1.objectBytes w t off len)

/-- The object's checks after a write transfer's digest was found right (R382, R574, R584). -/
def finishObject (b : Bus) (t : Transfer) (obj : Bytes) : Done :=
  let m := b.1
  if t.kind == 1 then
    let m1 := { m.endTransfer t.handle with img := { m.img with staging := obj } }
    match m1.imageChecks obj with
    | none => doneOk (m1, b.2)
    | some (e, _) => answer (m1, b.2) ksRefused (toBE 1 e)
  else if m.boot.phase == .recovery then
    let e := m.recoveryChecks obj
    if e == 0 then { doneOk (m.endTransfer t.handle, b.2) with after := .install obj }
    else answer ((m.refusePackage e).endTransfer t.handle, b.2) ksRefused (toBE 1 e)
  else
    let (x, m1) := m.drawFree
    let (v, m2) := m1.drawFree
    let (e, m3) := m2.packageEnds obj (x.toNat % 2 == 1) v.toNat
    if e == 0 then doneOk (m3.endTransfer t.handle, b.2) else answer (m3.endTransfer t.handle, b.2) ksRefused (toBE 1 e)

def krovXferEnd : KrovOp := fun b _ s p =>
  if p.length < 4 || !(be p 2 2 == 0) then answer b ksInval
  else match b.1.transferOf s p with
    | none => answer b ksInval
    | some t =>
      if !(p.length == if t.write then 36 else 4) then answer b ksInval
      else if !t.write then doneOk (b.1.endTransfer t.handle, b.2)
      else if onHistorian t.kind && !b.1.domainOn 13 then answer b ksBusy
      else
        let obj := t.chunks.flatMap Prod.snd
        if !(t.chunks.length == ceilDiv t.length chunkSize) || !(digestBytes (Config.sha256 obj) == slice p 4 32) then
          answer (b.1.setTransfer t, b.2) ksXfer
        else finishObject b t obj

def krovXferAbort : KrovOp := fun b _ s p =>
  if !oneNumber p then answer b ksInval
  else match b.1.transferOf s p with
    | none => answer b ksInval
    | some t => doneOk (b.1.endTransfer t.handle, b.2)

/-- XFER_TIMEOUT: a transfer with no request for 30 s is aborted. -/
def M.transferTimeout (m : M) (h : Nat) : M :=
  m.dropTransfers (fun t => t.handle == h && t.lastAt + 30 * sec ≤ m.time.tb)

end Sys2Proof.Machine
end

