-- ==== Sys2Proof/Machine/Krovtan.lean ====
section
/-! DEFINITION. The Krovtan engine: packet checks, opening and closing of sessions, transactions, responses and notifications
(R358 to R376, R381, Tables 10-1 to 10-7). -/

namespace Sys2Proof.Machine

/-! ### Packets (R360 to R364) -/

/-- Offsets 0 to 19 of a header. -/
def KrovPacket.head (p : KrovPacket) (op : Nat) : Bytes :=
  toBE 2 p.magic ++ toBE 1 p.version ++ toBE 1 p.flags ++ toBE 2 p.session ++ toBE 2 op ++ toBE 4 p.sequence ++ toBE 2 p.tag ++
  toBE 2 p.length ++ toBE 2 p.status ++ toBE 2 p.reserved

def KrovPacket.header (p : KrovPacket) (op : Nat) : Bytes := p.head op ++ toBE 4 p.hcheck

def zeroMac : Bytes := List.replicate 16 0

def KrovPacket.enc (p : KrovPacket) : Bool := tbit p.flags 1
def KrovPacket.retry (p : KrovPacket) : Bool := tbit p.flags 2
/-- Port class of a packet: 1 on the service jack, 0 on the backbone. -/
def KrovPacket.cls (p : KrovPacket) : Nat := if p.port == 2 then 1 else 0

/-- Checks 1 to 3 of Table 10-3. -/
def KrovPacket.formed (p : KrovPacket) (op : Nat) : Bool :=
  p.mac.length == 16 && p.payload.length ≤ 1408 && p.magic == 0xD74B && p.version == 2 && Nat.land p.flags 0xF9 == 0 &&
  p.reserved == 0 && p.hcheck == crc32 (p.head op) && p.length == p.payload.length

/-- The network a packet arrived on, when the module listens at its address; the frame is discarded or counted by its port first
(R341, R344, R358). -/
def M.listens (m : M) (p : KrovPacket) : Option Nat × M :=
  if m.inert || 3 ≤ p.port then (none, m)
  else match m.takeFrame p.port p.vid .other with
    | (none, m1) => (none, m1)
    | (some t, m1) =>
      let here := p.taken && p.udp == m1.udpPort && (p.port == 2 || (!(m1.boot.phase == .recovery) && m1.ibx.addresses)) &&
        (m1.addressesOf (if p.port == 2 then 2 else 0) t).contains p.dst
      (if here then some t else none, m1)

/-- The text under the key stream: encryption and decryption of GCM. -/
def gcmCrypt (key nonce text : Bytes) : Bytes := (List.range text.length).zipWith (fun i b => b ^^^ Config.gcmStream key nonce i) text

/-- The ciphertext with its tag after it (R364). -/
def gcmSeal (key nonce ad plain : Bytes) : Bytes :=
  let c := gcmCrypt key nonce plain
  c ++ toBE 16 (Config.gcmTag key nonce ad c).toNat

/-- The plaintext of a payload whose tag fits. -/
def gcmOpen (key nonce ad sealed : Bytes) : Option Bytes :=
  let c := sealed.take (sealed.length - 16)
  if sealed.drop (sealed.length - 16) = toBE 16 (Config.gcmTag key nonce ad c).toNat then some (gcmCrypt key nonce c) else none

/-- The nonce of an encrypted payload (R364). -/
def Session.nonce (s : Session) (dir seq : Nat) : Bytes := slice s.keyEnc 16 4 ++ toBE 1 dir ++ padTo 3 [] ++ toBE 4 seq

/-- A packet of the module: header, payload sealed when the session is encrypted, MAC. -/
def Session.packet (s : Session) (op tag status flags seq : Nat) (plain : Bytes) : Bytes :=
  let len := if s.enc then plain.length + 16 else plain.length
  let h0 := toBE 2 0xD74B ++ toBE 1 2 ++ toBE 1 (flags + 2 * b2n s.enc) ++ toBE 2 s.id ++ toBE 2 op ++ toBE 4 seq ++ toBE 2 tag ++
    toBE 2 len ++ toBE 2 status ++ toBE 2 0
  let h := h0 ++ toBE 4 (crc32 h0)
  let body := if s.enc then gcmSeal (s.keyEnc.take 16) (s.nonce 1 seq) h plain else plain
  h ++ body ++ (digestBytes (Config.hmac s.keyMac (h ++ body))).take 16

/-- A packet with sequence 0 and a MAC of zeros: answers of an opening (R361, R371). -/
def openingPacket (session op tag status : Nat) (plain : Bytes) : Bytes :=
  let h0 := toBE 2 0xD74B ++ toBE 1 2 ++ toBE 1 1 ++ toBE 2 session ++ toBE 2 op ++ toBE 4 0 ++ toBE 2 tag ++
    toBE 2 plain.length ++ toBE 2 status ++ toBE 2 0
  h0 ++ toBE 4 (crc32 h0) ++ plain ++ zeroMac

/-- Where a packet goes: port class, tenant of the VLAN, address and UDP port of the client (R359). -/
structure Route where
  cls : Nat
  net : Nat
  client : Bytes
  udp : Nat
  deriving DecidableEq, Repr

/-- The way back to the sender of a packet that arrived on a network. -/
def KrovPacket.back (p : KrovPacket) (net : Nat) : Route := ⟨p.cls, net, p.src, p.srcUdp⟩

/-- The way to a session's client. -/
def Session.route (s : Session) : Route := ⟨s.port, s.net, s.client, s.clientUdp⟩

/-- The session's client is where an authenticated request came from (R359). -/
def Session.heardFrom (s : Session) (p : KrovPacket) : Session := { s with client := p.src, clientUdp := p.srcUdp, arrived := p.port }

/-- A packet is queued on SP, or on the carrying port in its VLAN (R335, R359). -/
def M.krovSend (m : M) (r : Route) (packet : Bytes) : M :=
  let body : EthBody := .krovtan r.client r.udp packet
  if r.cls == 1 then m.queueTx 2 ⟨none, body⟩ else m.backboneSend r.net body

/-! ### Sessions -/

def M.setSession (m : M) (place : Nat) (s : Session) : M :=
  { m with krov := { m.krov with sessions := aput place s m.krov.sessions } }

/-- The place that holds a session ID. -/
def M.placeOf (m : M) (id : Nat) : Option (Nat × Session) := m.krov.sessions.find? (fun p => p.2.id == id)

/-- Close a session whose counters reached their end (R371). -/
def M.closeExhausted (m : M) (place : Nat) : M :=
  match aget place m.krov.sessions with
  | some s => if 0xFFFFFFF0 ≤ s.rxHigh || 0xFFFFFFF0 ≤ s.txSeq then m.closeAt place 8 else m
  | none => m

/-- Send a response on a session; a session that is gone sends nothing (R363, R373). -/
def M.sendResponse (m : M) (place op tag status : Nat) (plain : Bytes) : M :=
  match aget place m.krov.sessions with
  | none => m
  | some s =>
    let seq := s.txSeq + 1
    (m.setSession place { s with txSeq := seq }).krovSend s.route (s.packet op tag status 1 seq plain)

/-- Complete a transaction: its response is sent and kept for a repeated request (R374). -/
def M.respond (m : M) (place op tag status : Nat) (plain : Bytes) : M :=
  match aget place m.krov.sessions with
  | none => m
  | some s =>
    let kept := (⟨tag, op, status, plain⟩ :: s.kept.filter (fun k => !(k.tag == tag))).take 64
    let tags := (tag, m.time.tb) :: s.doneTags.filter (fun d => !(d.1 == tag) && m.time.tb < d.2 + 10 * sec)
    (m.setSession place { s with kept := kept, doneTags := tags }).sendResponse place op tag status plain

/-- Sequence within the window: above the highest accepted, or within 64 below it and not seen (R371). -/
def Session.accepts (s : Session) (seq : Nat) : Bool :=
  s.rxHigh < seq || (seq < s.rxHigh && s.rxHigh - seq ≤ 64 && !tbit s.rxMap (s.rxHigh - seq - 1))

/-- Mark a sequence number as seen. -/
def Session.mark (s : Session) (seq : Nat) : Session :=
  if s.rxHigh < seq then
    let d := seq - s.rxHigh
    { s with rxHigh := seq, rxMap := (s.rxMap * 2 ^ d + 2 ^ (d - 1)) % 2 ^ 64 }
  else { s with rxMap := setBitN s.rxMap (s.rxHigh - seq - 1) }

def satCount (n : Nat) : Nat := satAdd n 1 0xFFFFFFFF

/-- A packet dropped at checks 1 to 3, or at check 4 (R362). -/
def M.dropHeader (m : M) : M := { m with krov := { m.krov with cntHeader := (m.krov.cntHeader + 1) % 2 ^ 32 } }
def M.dropNoSession (m : M) : M := { m with krov := { m.krov with cntNoSession := (m.krov.cntNoSession + 1) % 2 ^ 32 } }

/-! ### Opening (R367 to R370, R372) -/

/-- A tenant may open a session on a port class and in a VLAN's network (R367); tenant 255 needs the SVC gate, or the recovery
service. -/
def M.mayOpen (m : M) (cls net tenant : Nat) : Bool :=
  if cls == 1 then tenant == 0 || (tenant == 255 && (tbit m.gates 2 || m.boot.phase == .recovery)) else tenant ≤ 250 && tenant == net

/-- The salt shown for an account that does not exist (R369). -/
def M.hiddenSalt (m : M) (account : Nat) : Bytes :=
  (digestBytes (Config.hmac ((m.deriveKey (label "KV acct hide")).getD []) (toBE 2 account))).take 16

/-- The session limits stand in the way of one more session of a tenant (R372). -/
def M.sessionsFull (m : M) (tenant : Nat) : Bool :=
  let own := m.krov.sessions.filter (fun p => p.2.tenantOwn)
  32 ≤ m.krov.sessions.length ||
  (1 ≤ tenant && tenant ≤ 250 && (24 ≤ own.length || 4 ≤ (own.filter (fun p => p.2.tenant == tenant)).length))

/-- An unused session ID. -/
def M.newSessionId (m : M) : Nat × M :=
  let (x, m1) := m.drawFree
  let id := ((List.range 33).map (fun k => (x.toNat + k) % 65535 + 1)).find? (fun i => (m1.placeOf i).isNone)
  (id.getD 1, m1)

/-- An OPEN request past its checks: a place is reserved as OPENING and the answer sent (Table 10-6a, step 2). -/
def M.reserve (m : M) (net : Nat) (p : KrovPacket) : M :=
  let n := be p.payload 0 2
  let acct := (m.accountFor n).filter (fun a => tbit a.flags 0)
  let (id, m1) := m.newSessionId
  let (r, m2) := m1.draw 4
  let mnonce := randomBytes r 4
  let (kind, (it, salt)) := match acct with
    | some a => (a.kind, (a.verifier.iterations, padTo 16 a.verifier.salt))
    | none => (1, (200000, m2.hiddenSalt n))
  let idle := be p.payload 4 2
  let s : Session := {
    place := .opening (m2.time.tb + 5 * sec), id := id, account := n, tenant := (acct.map Account.tenant).getD 0,
    role := roleOf ((acct.map Account.role).getD 0), enc := tbit (be p.payload 2 2) 0, port := p.cls, net := net, vid := p.vid,
    dst := p.dst, client := p.src, clientUdp := p.srcUdp, arrived := p.port,
    cnonce := slice p.payload 8 16, mnonce := mnonce, auth := p.payload ++ mnonce ++ salt ++ toBE 4 it ++ toBE 2 id,
    keyMac := [], keyEnc := [], rxHigh := 0, rxMap := 0, txSeq := 0, noteSeq := 0, lastAt := m2.time.tb,
    idle := if idle == 0 then 60 else idle, kept := [], doneTags := [], cntSeq := 0, cntMac := 0, cntTag := 0 }
  let m3 := m2.setSession ((freeKey 32 m2.krov.sessions).getD 0) s
  m3.krovSend (p.back net) (openingPacket 0 1 p.tag ksOk (toBE 2 id ++ toBE 1 kind ++ toBE 1 0 ++ toBE 4 it ++ salt ++ mnonce))

/-- OPEN (R368): checks 1 to 4 and 7, then its payload and the session limits. -/
def M.krovOpen (m : M) (net : Nat) (p : KrovPacket) : M :=
  let say (status : Nat) : M := m.krovSend (p.back net) (openingPacket 0 1 p.tag status [])
  let idle := be p.payload 4 2
  if !(p.mac == zeroMac) then m.dropNoSession
  else if p.tag == 0 then m
  else if !(p.status == 0) || !(p.payload.length == 24) || 1 < be p.payload 2 2 || (!(idle == 0) && (idle < 10 || 3600 < idle)) ||
    !(be p.payload 6 2 == 0) then say ksInval
  else if m.sessionsFull (((m.accountFor (be p.payload 0 2)).map Account.tenant).getD 0) then say ksResource
  else m.reserve net p

/-- The keys of a session (R370): MAC key, and encryption key with nonce salt. -/
def sessionKeys (s : Session) (client : Bytes) : Bytes × Bytes :=
  let prk := hkdfExtract (s.cnonce ++ s.mnonce) client
  (digestBytes (Config.hkdfExpand prk (ascii "KRV2 mac")), (digestBytes (Config.hkdfExpand prk (ascii "KRV2 enc"))).take 20)

/-- An opening fails: AUTH after 250 ms, one log entry, a lock after five in a row (R369). -/
def M.openingFails (m : M) (place tag : Nat) (s : Session) : M :=
  let run := getd 0 s.account m.krov.failRun + 1
  let k := m.krov
  let k1 := if run == 5 then { k with failRun := aput s.account 0 k.failRun, lockUntil := aput s.account (m.time.tb + 60 * sec) k.lockUntil }
    else { k with failRun := aput s.account run k.failRun }
  let m1 : M := { m with krov := k1 }
  (m1.setSession place { s with place := .failing (m.time.tb + 250 * ms) tag }).logEntry 0x20 3 s.tenant 0
    (toBE 4 s.account ++ toBE 4 s.arrived)

/-- The session opens and the PROOF response, its sequence 1, is sent (Table 10-6a, step 5). -/
def M.openingDone (m : M) (place tag : Nat) (s : Session) (a : Account) (client : Bytes) : M :=
  let keys := sessionKeys s client
  let s1 : Session := { s with place := .open, tenant := a.tenant, role := roleOf a.role, keyMac := keys.1, keyEnc := keys.2,
                               txSeq := 1, lastAt := m.time.tb }
  let plain := digestBytes (Config.hmac a.verifier.serverKey s.auth) ++ toBE 1 a.tenant ++ toBE 1 a.role ++ toBE 2 s.idle ++
    toBE 2 32 ++ toBE 2 0
  let m1 : M := { m with krov := { m.krov with failRun := adel s.account m.krov.failRun } }
  (m1.setSession place s1).krovSend s1.route (({ s1 with enc := false }).packet 2 tag ksOk 1 1 plain)

/-- PROOF on a place in OPENING (R368, R369). -/
def M.krovProof (m : M) (place : Nat) (s : Session) (p : KrovPacket) : M :=
  if !(p.sequence == 0) then m.setSession place { s with cntSeq := satCount s.cntSeq }
  else if !(p.mac == zeroMac) then m.setSession place { s with cntMac := satCount s.cntMac }
  else if p.tag == 0 then m.setSession place { s with cntTag := satCount s.cntTag }
  else if !(p.status == 0) || !(p.payload.length == 32) then
    ({ m with krov := { m.krov with sessions := adel place m.krov.sessions } }).krovSend s.route (openingPacket s.id 2 p.tag ksInval [])
  else match m.accountFor s.account with
    | none => m.openingFails place p.tag s
    | some a =>
      let client := xorBytes p.payload (digestBytes (Config.hmac a.verifier.storedKey s.auth))
      let fits := digestBytes (Config.sha256 client) == a.verifier.storedKey
      let locked := (aget s.account m.krov.lockUntil).any (fun t => m.time.tb < t)
      if fits && !locked && tbit a.flags 0 && m.mayOpen s.port s.net a.tenant && (s.enc || !tbit a.flags 1) then
        m.openingDone place p.tag s a client
      else m.openingFails place p.tag s

/-- AUTH_ANSWER: 250 ms after PROOF; the place is freed (R369). -/
def M.authAnswer (m : M) (place : Nat) : M :=
  match aget place m.krov.sessions with
  | some s => match s.place with
    | .failing t tag =>
      if m.time.tb < t then m
      else
        ({ m with krov := { m.krov with sessions := adel place m.krov.sessions } }).krovSend s.route (openingPacket s.id 2 tag ksAuth [])
    | _ => m
  | none => m

/-- PROOF_TIMEOUT: a place in OPENING without PROOF within 5 s is freed (R368). -/
def M.proofTimeout (m : M) (place : Nat) : M :=
  match aget place m.krov.sessions with
  | some s => match s.place with
    | .opening t => if m.time.tb < t then m else { m with krov := { m.krov with sessions := adel place m.krov.sessions } }
    | _ => m
  | none => m

/-- ACCOUNT_UNLOCK: 60 s after the fifth failed proof (R369). -/
def M.accountUnlock (m : M) (account : Nat) : M :=
  if m.due (aget account m.krov.lockUntil) then { m with krov := { m.krov with lockUntil := adel account m.krov.lockUntil } } else m

/-- SESSION_IDLE_TIMEOUT (R373). -/
def M.sessionIdle (m : M) (place : Nat) : M :=
  match aget place m.krov.sessions with
  | some s => if s.place == .open && s.lastAt + s.idle * sec ≤ m.time.tb then m.closeAt place 2 else m
  | none => m

/-! ### Requests on an open session (R362, R374, R377) -/

/-- Opcodes a session may use: the lowest role and what its tenant must be besides (Table 10-6). -/
structure Rule where
  minRole : Nat
  also : Session → Bool

/-- What an opcode is: its rule and what it does; none for a reserved opcode and for OPEN and NOTIFY. -/
def opcodeRule (op : Nat) : Option (Rule × KrovOp) :=
  let any : Session → Bool := fun _ => true
  match op with
  | 0x03 => some (⟨0, any⟩, krovClose)
  | 0x04 => some (⟨0, any⟩, krovKeepalive)
  | 0x05 => some (⟨0, any⟩, krovStatus)
  | 0x10 => some (⟨0, any⟩, krovPointRead)
  | 0x11 => some (⟨0, any⟩, krovPointWrite)
  | 0x20 => some (⟨0, any⟩, krovSubscribe)
  | 0x21 => some (⟨0, any⟩, krovUnsubscribe)
  | 0x30 => some (⟨2, any⟩, krovForceSet)
  | 0x31 => some (⟨2, any⟩, krovForceRelease)
  | 0x32 => some (⟨0, any⟩, krovForceList)
  | 0x40 => some (⟨2, any⟩, krovDirRead)
  | 0x41 => some (⟨2, any⟩, krovDirWrite)
  | 0x42 => some (⟨3, fun s => s.tenant == 0⟩, krovDirDelete)
  | 0x43 => some (⟨2, any⟩, krovShareRead)
  | 0x44 => some (⟨2, any⟩, krovShareWrite)
  | 0x50 => some (⟨0, any⟩, krovRegRead)
  | 0x51 => some (⟨1, any⟩, krovRegWrite)
  | 0x60 => some (⟨0, any⟩, krovXferBegin)
  | 0x61 => some (⟨0, any⟩, krovXferData)
  | 0x62 => some (⟨0, any⟩, krovXferEnd)
  | 0x63 => some (⟨0, any⟩, krovXferAbort)
  | 0x70 => some (⟨0, fun s => !s.tenantOwn⟩, krovNetGet)
  | 0x71 => some (⟨3, fun s => s.tenant == 0 || s.role == .service⟩, krovNetSet)
  | 0x80 => some (⟨3, any⟩, krovAccountRead)
  | 0x81 => some (⟨3, any⟩, krovAccountWrite)
  | _ => none

/-- Opcodes the recovery service answers: sessions, status and the transfer of a package (R584). -/
def recoveryOpcode (op : Nat) (plain : Bytes) : Bool :=
  [0x03, 0x04, 0x05, 0x61, 0x62, 0x63].contains op || (op == 0x60 && be plain 0 1 == 7)

/-- What follows a response. -/
def M.afterwards (m : M) (place : Nat) : After → M
  | .nothing => m
  | .close => m.closeAt place 1
  | .net rs => m.applyNet rs
  | .install pkg => m.recoveryInstall pkg

/-- An answer leaves; the response of a session that has closed is dropped, and what it would bring about happens (R373, R383). -/
def M.giveAnswer (m : M) : Answer → M
  | .written ini a => m.emit (.written ini a)
  | .response place session op tag status payload after =>
    if (aget place m.krov.sessions).any (fun s => s.id == session) then
      ((m.respond place op tag status payload).afterwards place after).closeExhausted place
    else if after == .close then m
    else m.afterwards place after

/-- A held answer may leave. -/
def M.mayLeave (m : M) (h : HeldAnswer) : Bool :=
  h.ready ≤ m.time.tb && h.change.all (fun q => !m.tth.changes.any (fun p => p.1 == q))

/-- Answers leave whose time has come and whose change is acknowledged or given up (R85, R399). -/
def M.releaseAnswers (m : M) : M :=
  (m.krov.held.filter m.mayLeave).foldl (fun (a : M) h => a.giveAnswer h.what)
    { m with krov := { m.krov with held := m.krov.held.filter (fun h => !m.mayLeave h) } }

/-- The transaction limits stand in the way of one more transaction of a session (R374). -/
def M.transactionsFull (m : M) (session : Nat) : Bool :=
  32 ≤ (m.krov.held.filter (fun h => h.session.any (fun x => x.1 == session))).length || 256 < m.inFlight

/-- A session's tag is in flight (Table 10-3, check 7). -/
def M.tagInFlight (m : M) (session tag : Nat) : Bool := m.krov.held.any (fun h => h.session == some (session, tag))

/-- A transaction: checks 9 to 11 and the opcode; its response waits for its time and for the change it sent, then what follows it
(R374, R399). -/
def transact (b : Bus) (place : Nat) (w : Who) (s : Session) (op : Nat) (p : KrovPacket) (plain : Bytes) : Bus :=
  let fin (d : Done) : Bus :=
    let h : HeldAnswer := ⟨d.ready, d.bus.1.awaits b.1, .response place s.id op p.tag d.status d.payload d.after⟩
    (if d.bus.1.mayLeave h then d.bus.1.giveAnswer h.what else d.bus.1.hold h, d.bus.2)
  match opcodeRule op with
  | none => fin (answer b ksOpcode)
  | some (rule, f) =>
    if b.1.boot.phase == .recovery && !recoveryOpcode op plain then fin (answer b ksOpcode)
    else if s.rank < rule.minRole || !rule.also s then fin (answer b ksRights)
    else if !(p.status == 0) then fin (answer b ksInval)
    else fin (f b w s plain)

/-- A request on an open session: checks 5 to 7, a repeated transaction, check 8, or a new one (R364, R371, R374). -/
def sessionRequest (b : Bus) (place : Nat) (s : Session) (op : Nat) (p : KrovPacket) : Bus :=
  let m := b.1
  if op == 2 || !s.accepts p.sequence then (m.setSession place { s with cntSeq := satCount s.cntSeq }, b.2)
  else
    let h := p.header op
    let macOk := (digestBytes (Config.hmac s.keyMac (h ++ p.payload))).take 16 == p.mac
    let plain := if s.enc then gcmOpen (s.keyEnc.take 16) (s.nonce 0 p.sequence) h p.payload else some p.payload
    match if macOk then plain else none with
    | none => (m.setSession place { s with cntMac := satCount s.cntMac }, b.2)
    | some bs =>
      let s1 := { (s.mark p.sequence).heardFrom p with lastAt := m.time.tb }
      if p.tag == 0 || m.tagInFlight s.id p.tag then (m.setSession place { s1 with cntTag := satCount s1.cntTag }, b.2)
      else
        let m1 := m.setSession place s1
        let done := s1.doneTags.any (fun d => d.1 == p.tag && m.time.tb < d.2 + 10 * sec)
        if p.retry && done then
          match s1.kept.find? (fun k => k.tag == p.tag) with
          | some k => ((m1.sendResponse place k.opcode k.tag k.status k.payload).closeExhausted place, b.2)
          | none => ((m1.sendResponse place op p.tag ksRetryLost []).closeExhausted place, b.2)
        else if m1.transactionsFull s.id then ((m1.sendResponse place op p.tag ksResource []).closeExhausted place, b.2)
        else match m1.who (.session s1.id) with
          | some w => transact (m1, b.2) place w s1 op p bs
          | none => (m1, b.2)

/-- The session belongs to the port class and the tenant VLAN of a packet (Table 10-3, check 4; Table 1-11, step 4). -/
def Session.stands (s : Session) (p : KrovPacket) (net : Nat) : Bool :=
  s.port == p.cls && (p.cls == 1 || (s.net == net && s.vid == p.vid))

/-- A Krovtan packet with an opcode arrives. -/
def krovArrives (b : Bus) (op : Nat) (p : KrovPacket) : Bus :=
  match b.1.listens p with
  | (none, m) => (m, b.2)
  | (some net, m) =>
    if !p.formed op then (m.dropHeader, b.2)
    else if p.session == 0 then (if op == 1 then (m.krovOpen net p, b.2) else (m.dropNoSession, b.2))
    else match m.placeOf p.session with
      | none => (m.dropNoSession, b.2)
      | some (place, s) =>
        let here := s.stands p net
        match s.place with
        | .open =>
          if here && (op == 2 || p.enc == s.enc) then sessionRequest (m, b.2) place s op p else (m.dropNoSession, b.2)
        | .opening _ =>
          if here && op == 2 && !p.enc then (m.krovProof place (s.heardFrom p) p, b.2) else (m.dropNoSession, b.2)
        | .failing _ _ =>
          if here && op == 2 then (m.setSession place { s with cntSeq := satCount s.cntSeq }, b.2) else (m.dropNoSession, b.2)

/-- Opcodes that have a row of their own. -/
def knownOpcode (op : Nat) : Bool := op == 1 || op == 2 || (opcodeRule op).isSome

/-! ### Notifications (R70, R381) -/

/-- NOTIFY_SLOT: one queued notification of the session at a place leaves, with the session's next counter. -/
def M.notifySlot (m : M) (place : Nat) : M :=
  match aget place m.krov.sessions with
  | none => m
  | some s =>
    if !(s.place == .open) || m.inert then m
    else match m.takeNote s.id with
      | (none, m1) => m1
      | (some x, m1) =>
        let n := (s.noteSeq + 1) % 2 ^ 32
        let plain := toBE 4 n ++ toBE 2 x.point ++ toBE 2 0 ++ toBE 4 x.value.toNat ++ toBE 2 x.status ++ toBE 2 x.age
        let seq := s.txSeq + 1
        let m2 := m1.setSession place { s with noteSeq := n, txSeq := seq }
        (m2.krovSend s.route (s.packet 0x22 0 0 9 seq plain)).closeExhausted place

end Sys2Proof.Machine
end

