-- ==== Sys2Proof/Machine/State.lean ====
section
/-! DEFINITION. The machine: the block, the two host memories, and the queue of waiting commands. -/

namespace Sys2Proof.Machine

structure State where
  /-- everything of the module but the host memories -/
  m : M
  /-- H0 SRAM and H1 SRAM (Table 1-7) -/
  sram : Sram
  /-- commands that wait, the front first -/
  pending : List Instr
  deriving DecidableEq, Repr

/-- Reasons for a fault.  The spec gives the module no way to stop on a command: every error is a flag, an answer or a
reset, so this type has no case. -/
inductive Fault where
  deriving DecidableEq, Repr

/-- Reasons for a refusal: the spec gives every command an effect, so no meaning raises one. -/
inductive Refusal where
  /-- A command without a meaning in the model; no arm raises it.  Safe. -/
  | notModelled (mnemonic : String)
  deriving DecidableEq, Repr

/-- The module at the release of a power-on reset, no command waiting. -/
def State.reset : State := { m := M.reset, sram := [], pending := [] }

end Sys2Proof.Machine
end

