-- ==== Sys2Proof/WellFormed.lean ====
section
/-! DEFINITION. Commands that name something the module has: operands within the ranges the spec gives them.
Anything else is no command of the module and changes nothing (log 80). -/

namespace Sys2Proof
open Sys2Proof.Machine

/-- The operands of a command are within range. -/
def Instr.wellFormed (i : Instr) : Bool :=
  match i with
  | .registerWrite _ addr width value => addr < 2 ^ 32 && width ≤ 8 && value < 256 ^ width
  | .rcRead _ addr width => addr < 2 ^ 32 && width ≤ 8
  | .taiRead _ => true
  | .pointAccess _ point _ => point < 65536
  | .paceWindowEnd counts => counts.length == 6 && counts.all (fun c => c < 65536)
  | .clrMin _ => true
  | .ageTick => true
  | .retainSave => true
  | .notifySlot place => place < 32
  | .ptdDirRead _ => true
  | .ptdDirWrite _ => true
  | .ptdDirDelete _ => true
  | .ptdShrRead _ => true
  | .ptdShrWrite _ => true
  | .ptdFrcRead _ => true
  | .ptdFrcSet _ => true
  | .ptdFrcRelease _ => true
  | .ptdCmdComplete _ => true
  | .notifyInterval _ point => point < 65536
  | .aCellFiring q c slot => q < 4 && c < 0x600 && slot < 8
  | .tokenAccept q link _ => q < 4 && link.cell ≤ 0x800
  | .cellPointAccessIssue q c => q < 4 && c < 0x600
  | .cellPointResponse q c => q < 4 && c < 0x600
  | .tCellInput q c => q < 4 && 0x600 ≤ c && c < 0x700
  | .tCellPreset q c => q < 4 && 0x600 ≤ c && c < 0x700
  | .timerExpiry q c => q < 4 && 0x600 ≤ c && c < 0x700
  | .cycPeriod q c => q < 4 && 0x600 ≤ c && c < 0x700
  | .edgeAccept q c => q < 4 && 0x600 ≤ c && c < 0x700
  | .countToken q c => q < 4 && 0x600 ≤ c && c < 0x700
  | .carryToken q c => q < 4 && 0x600 ≤ c && c < 0x700
  | .snapshotFence q c => q < 4 && 0x600 ≤ c && c < 0x700
  | .mCellRequest q c _ => q < 4 && 0x700 ≤ c && c < 0x800
  | .waveEnd unit => unit < 256
  | .stallTimeout q => q < 4
  | .springbokWrite path => path < 8
  | .springbokArm _ arm => arm < 256
  | .quiesceRequest _ q => q < 4
  | .quiesced q => q < 4
  | .quiesceTimeout q => q < 4
  | .quiesceCancel _ q => q < 4
  | .selfTestFiring q c _ => q < 4 && c < 0x800
  | .mcellWordTest q c word _ => q < 4 && 0x700 ≤ c && c < 0x800 && word < 256
  | .clrHwm _ => true
  | .imageVerify _ => true
  | .imageLoad _ => true
  | .partialLoad _ => true
  | .imageAbort _ => true
  | .loadComplete => true
  | .boundaryTransfer at_ => at_.inRange
  | .groupCommit _ block g => block.inRange && g < block.groups
  | .groupAbort _ block g => block.inRange && g < block.groups
  | .taskDue task => task < 32
  | .imageLatch task => task < 32
  | .outputRelease task => task < 32
  | .errorTaskStart task => task < 32
  | .stop _ => true
  | .stopComplete => true
  | .runWarm _ => true
  | .runCold _ => true
  | .exeAck _ => true
  | .autoRun => true
  | .patchAdd _ task => task < 32
  | .patchCommit _ => true
  | .patchAbort _ => true
  | .errorTaskDeadline task => task < 32
  | .loopSample channel _ _ => channel < 64
  | .loopEvaluation channel => channel < 64
  | .commitSlot => true
  | .waltzClear _ channel => channel < 64
  | .waltzSave => true
  | .frameEnd _ => true
  | .demandIntervalEnd => true
  | .meterSave => true
  | .supplyEnable _ _ => true
  | .meterEnable _ => true
  | .meterStop _ => true
  | .sensorSupplyFault => true
  | .modClockFault => true
  | .modClockReturn => true
  | .inputFault input => input < 56
  | .clearMaxd _ circuit => circuit < 16
  | .clearEnergies _ circuit => circuit < 16
  | .canEnable _ bus => bus < 8
  | .canDisable _ bus => bus < 8
  | .integrationDone bus => bus < 8
  | .canFrameReceived bus _ _ => bus < 8
  | .frameSent bus _ _ => bus < 8
  | .txRequest _ bus req => bus < 8 && req < 2 ^ 32
  | .rxqPop _ bus queues => bus < 8 && queues < 4
  | .busoffRecovery bus => bus < 8
  | .refDue bus => bus < 8
  | .sleep _ bus => bus < 8
  | .wake _ bus => bus < 8
  | .busWake bus _ => bus < 8
  | .stationEnable _ bus station => bus < 8 && station < 64
  | .idr bus _ => bus < 8
  | .cfgr bus station _ => bus < 8 && station < 64
  | .idqRetry bus station => bus < 8 && station < 64
  | .cfgRetry bus station => bus < 8 && station < 64
  | .inReport bus station _ => bus < 8 && station < 64
  | .rej bus station _ => bus < 8 && station < 64
  | .stationDropout bus station => bus < 8 && station < 64
  | .rejoinRetry bus station => bus < 8 && station < 64
  | .outRefresh bus station => bus < 8 && station < 64
  | .canError bus _ => bus < 8
  | .portEnable _ port => port < 3
  | .portDisable _ port => port < 3
  | .linkUp port _ => port < 3
  | .linkLoss port => port < 3
  | .carryHandover => true
  | .carryReturn => true
  | .frameReceived port _ => port < 3
  | .frameTransmit port => port < 3
  | .pauseFrame port quanta => port < 3 && quanta < 65536
  | .pauseHoldEnd port => port < 3
  | .lpiEntry port => port < 3
  | .lpiReceived port => port < 3
  | .loadWindow port _ _ _ => port < 3
  | .stepHoldEnd port => port < 3
  | .wakeListen _ port _ => port < 3
  | .sync port _ _ _ _ => port < 2
  | .pdelayReq port _ _ => port < 2
  | .syncTimeout port => port < 2
  | .delayReqSend port => port < 2
  | .open_ _ => true
  | .proof _ => true
  | .authAnswer place => place < 32
  | .proofTimeout place => place < 32
  | .accountUnlock account => account < 65536
  | .close_ _ => true
  | .sessionIdleTimeout place => place < 32
  | .keepalive _ => true
  | .status _ => true
  | .pointRead _ => true
  | .pointWrite _ => true
  | .subscribe _ => true
  | .unsubscribe _ => true
  | .forceSet _ => true
  | .forceRelease _ => true
  | .forceList _ => true
  | .dirRead _ => true
  | .dirWrite _ => true
  | .dirDelete _ => true
  | .shareRead _ => true
  | .shareWrite _ => true
  | .regRead _ => true
  | .regWrite _ => true
  | .xferBegin _ => true
  | .xferData _ => true
  | .xferEnd _ => true
  | .xferAbort _ => true
  | .xferTimeout _ => true
  | .netGet _ => true
  | .netSet _ => true
  | .accountRead _ => true
  | .accountWrite _ => true
  | .reservedOpcode op _ => op < 256
  | .beatSlot => true
  | .beat _ => true
  | .lease _ => true
  | .chState _ => true
  | .release _ => true
  | .leaseEnd => true
  | .renewalMissed slot => slot < 16
  | .witnessLeaseEnd slot => slot < 16
  | .quietTimeEnd => true
  | .startWindowEnd slot => slot < 16
  | .reservedBoundCommitted slot => slot < 16
  | .pactChange _ => true
  | .pactTimeout => true
  | .tetherStateSlot => true
  | .tetherState _ _ _ _ _ _ => true
  | .mirrorCycleStart => true
  | .mirror _ _ _ bytes items => bytes ≤ 4096 && items.all MirrorItem.inRange
  | .cycleEnd _ _ _ _ _ _ => true
  | .change _ _ record => record.inRange
  | .changeAckTimeout => true
  | .ack _ _ _ => true
  | .ackTimeout => true
  | .bulk _ _ offset data => offset < 2 ^ 24 && data.length ≤ 4096
  | .testFrame _ => true
  | .tetherLinkDown lanes => lanes < 4
  | .tetherLinkUp => true
  | .detachTimeout => true
  | .healthPublish => true
  | .peerSilence => true
  | .readback _ => true
  | .switch _ => true
  | .maint _ => true
  | .resume _ => true
  | .handoverRequest _ _ => true
  | .handoverReady _ _ => true
  | .handoverCancel _ _ => true
  | .handoverTimeout => true
  | .takeback => true
  | .failedRecovery => true
  | .clockMonitorFailure monitor kind => monitor < 7 && 1 ≤ kind && kind ≤ 3
  | .arbitrationDone _ => true
  | .restore _ islands => islands < 64
  | .restoreSwitch island => island < 6
  | .levelRequest _ level => level < 4
  | .voltageSettled => true
  | .confirmationWindow counts => counts.length == 6
  | .domainOff _ domain => domain < 16
  | .domainOn _ domain => domain < 16
  | .powerGood domain => domain < 16
  | .pgoodTimeout domain => domain < 16
  | .mcWake => true
  | .supplyFailWarning vin => vin < 4096
  | .shutdownCheck vin => vin < 4096
  | .warningClear vin => vin < 4096
  | .coreSupplyFault => true
  | .coreSupplyRecover => true
  | .enaAssert => true
  | .enaDeassert => true
  | .vinLow vin => vin < 4096
  | .vinRecover vin => vin < 4096
  | .peerPresence _ => true
  | .leverOpen => true
  | .leverClose => true
  | .lioInputChange line _ => line < 64
  | .pwmPeriodEnd line => line < 64
  | .lioEnable _ _ => true
  | .backupReset => true
  | .powerOnReset => true
  | .powerOnResetRelease => true
  | .moduleReset _ key => key < 65536
  | .coreRestart _ key => key < 65536
  | .kick _ => true
  | .managementWatchdog => true
  | .bringUp _ => true
  | .noPeerTimeout => true
  | .bringUpTimeout => true
  | .calendarSecond => true
  | .calendarSet _ => true
  | .rtcTimeRead _ => true
  | .holdoverExpiry => true
  | .trimWindow _ _ => true
  | .xrCalibration _ => true
  | .alarmRelease _ => true
  | .vbakLow => true
  | .vbakRise => true
  | .triggerRecord => true
  | .logEntry => true
  | .recordCopy => true
  | .loadRecord _ => true
  | .loadEntry _ => true
  | .clearReel _ => true
  | .clearRecorder _ => true
  | .clearLog _ => true
  | .clearUnlock => true
  | .bufferWrite _ word => word < 2 ^ 32
  | .bufferRead _ => true
  | .pageLoad _ => true
  | .pageCommit _ => true
  | .pageCommitDone bank _ => bank < 8
  | .openRd _ region => region < 8
  | .openWr _ region => region < 8
  | .closeRights _ region => region < 8
  | .setRd _ region => region < 8
  | .setWr _ region => region < 8
  | .openTimeout => true
  | .marginScan page _ => page < 1024
  | .trendEnable _ log => log < 64
  | .trendSample log => log < 64
  | .slotRead _ => true
  | .slotWrite _ => true
  | .derive _ => true
  | .erase _ => true
  | .ownerPassword _ => true
  | .lifeCycleChange _ key target => key < 65536 && target < 256
  | .slotUse slot user => slot < 64 && 24 ≤ user && user < 28
  | .vaultCheck _ => true
  | .attestation _ => true
  | .openOwner _ gates duration => gates < 8 && duration < 65536
  | .openVendor _ gates duration => gates < 8 && duration < 65536
  | .closeGates _ gates => gates < 8
  | .gateExpiry => true
  | .openUnlock => true
  | .coreHalt _ _ _ => true
  | .install _ => true
  | .componentRestart _ _ => true
  | .discard _ => true
  | .fallbackCmd _ => true
  | .confirm _ key code => key < 65536 && code < 65536
  | .windowExpiry => true
  | .eventEntry core => core < 2
  | .evcClaim _ core => core < 2
  | .evcDone _ core source => core < 2 && source < 256
  | .softwareRaise _ source => source < 256
  | .counterClear _ groups => groups < 8
  | .sampleRecord _ _ _ _ => true
  | .sampleRead _ index => index < 512
  | .sampleClear _ => true

end Sys2Proof
end

