-- ==== Sys2Proof/Machine/Run.lean ====
section
/-! DEFINITION. How a meaning acts on the machine: on the block alone, or on the block with its host memories; a reset that clears
the host memories empties them (Table 14-2). -/

namespace Sys2Proof.Machine

/-- The machine with the block and memories an operation leaves. -/
def State.after (s : State) (b : M × Sram) : State :=
  { s with m := b.1, sram := if b.1.boot.wipes == s.m.boot.wipes then b.2 else [] }

/-- An operation on the block and the memories.  A command that names nothing the module has (`ok` false) changes nothing
(DESIGN CHOICE, log 80). -/
def State.onBus (s : State) (ok : Bool) (f : M × Sram → M × Sram) : Host.Outcome State Fault Refusal :=
  .next (if ok then s.after (f (s.m, s.sram)) else s)

/-- An operation on the block alone; a command out of range changes nothing (log 80). -/
def State.onM (s : State) (ok : Bool) (f : M → M) : Host.Outcome State Fault Refusal :=
  .next (if ok then s.after (f s.m, s.sram) else s)

/-- No command waits: one timebase period passes, and answers and acknowledgments leave that are due (DESIGN CHOICE, log 20). -/
def State.idle (s : State) : State := s.after (s.m.tick.ackOwed.releaseAnswers, s.sram)

end Sys2Proof.Machine
end

