-- ==== Sys2Proof/Machine/AccessRows.lean ====
section
/-! DEFINITION. Meanings of the commands of a family: register and point accesses (chapters 1, 2, 12). -/

namespace Sys2Proof.Machine

/-- REGISTER_WRITE (R13): A write to a register field that has no row of its own takes effect by its access code and
change class. -/
def execRegisterWrite (by_ : Master) (addr : Nat) (width : Nat) (value : Nat) (s : State) : Host.Outcome State Fault Refusal :=
  s.onBus (Instr.registerWrite by_ addr width value).wellFormed (fun b => writeBy b by_ addr width value)

/-- RC_READ (R13): A read of a read-clear register returns its value and clears it, keeping a set made in the same
handshake. -/
def execRcRead (by_ : Master) (addr : Nat) (width : Nat) (s : State) : Host.Outcome State Fault Refusal :=
  s.onBus (Instr.rcRead by_ addr width).wellFormed (fun b => readBy b by_ addr width)

/-- TAI_READ (R449): A 32-bit read of TIM_TAI_LO latches TIM_TAI_HI for the next read by the same initiator. -/
def execTaiRead (by_ : Master) (s : State) : Host.Outcome State Fault Refusal :=
  s.onBus (Instr.taiRead by_).wellFormed (fun b => readBy b by_ (Reg.TIM_TAI_LO.addr 0 0 0) 4)

/-- POINT_ACCESS (R61): A read, write or subscription from any initiator enters the Oryx gate and is decided in fixed
time against directory, share list and force table. -/
def execPointAccess (by_ : Master) (point : Nat) (op : PointOp) (s : State) : Host.Outcome State Fault Refusal :=
  s.onM (Instr.pointAccess by_ point op).wellFormed (fun m => m.pointAccess by_ point op)

/-- PACE_WINDOW_END (R31): At the end of each 10.24 µs window every pace probe writes its count to last and min. -/
def execPaceWindowEnd (counts : List Nat) (s : State) : Host.Outcome State Fault Refusal :=
  s.onM (Instr.paceWindowEnd counts).wellFormed (fun m => m.paceWindowEnd counts)

/-- CLR_MIN (R41): Writing SYS_PACE_CTRL.clr_min sets min of every pace counter to 0xFFFF. -/
def execClrMin (by_ : Master) (s : State) : Host.Outcome State Fault Refusal :=
  s.onBus (Instr.clrMin by_).wellFormed (fun b => fieldBy b by_ F.SYS_PACE_CTRL_clr_min 1)

end Sys2Proof.Machine
end

