-- ==== Sys2Proof/Machine/BootRows.lean ====
section
/-! DEFINITION. Meanings of the commands of a family: resets and bring-up (chapter 14). -/

namespace Sys2Proof.Machine

/-- BACKUP_RESET (R494): VIN and VBAK both absent reset BAK, the calendar and the backup bytes, and set OSF. -/
def execBackupReset (s : State) : Host.Outcome State Fault Refusal :=
  s.onM (Instr.backupReset).wellFormed (fun m => m.backupReset)

/-- POWER_ON_RESET (R476): The always-on supplies not good or ENA unstable assert power-on reset. -/
def execPowerOnReset (s : State) : Host.Outcome State Fault Refusal :=
  s.onM (Instr.powerOnReset).wellFormed (fun m => m.powerOnReset)

/-- POWER_ON_RESET_RELEASE (R467): 5 ms after the always-on supplies are good power-on reset is released and H0 starts.
-/
def execPowerOnResetRelease (s : State) : Host.Outcome State Fault Refusal :=
  s.onM (Instr.powerOnResetRelease).wellFormed (fun m => m.powerOnRelease)

/-- MODULE_RESET (R477): SYS_RST_CMD op 0b01 with key 0x9640 from an allowed tag asserts a module reset. -/
def execModuleReset (by_ : Master) (key : Nat) (s : State) : Host.Outcome State Fault Refusal :=
  s.onBus (Instr.moduleReset by_ key).wellFormed (fun b => wordBy b by_ .SYS_RST_CMD (key * 65536 + 1))

/-- CORE_RESTART (R481): SYS_RST_CMD op 0b10 restarts the host cores while the rest runs on. -/
def execCoreRestart (by_ : Master) (key : Nat) (s : State) : Host.Outcome State Fault Refusal :=
  s.onBus (Instr.coreRestart by_ key).wellFormed (fun b => wordBy b by_ .SYS_RST_CMD (key * 65536 + 2))

/-- KICK (R479): Writing SYS_MWD.kick restarts the management watchdog count. -/
def execKick (by_ : Master) (s : State) : Host.Outcome State Fault Refusal :=
  s.onBus (Instr.kick by_).wellFormed (fun b => fieldBy b by_ F.SYS_MWD_kick 1)

/-- MANAGEMENT_WATCHDOG (R479): SYS_MWD not kicked for tmo ms asserts a management watchdog reset. -/
def execManagementWatchdog (s : State) : Host.Outcome State Fault Refusal :=
  s.onM (Instr.managementWatchdog).wellFormed (fun m => m.managementWatchdog)

/-- BRING_UP (R483): After a reset the module brings itself up in the order of Table 14-4. -/
def execBringUp (checks : BootChecks) (s : State) : Host.Outcome State Fault Refusal :=
  s.onM (Instr.bringUp checks).wellFormed (fun m => m.bringUp checks)

/-- NO_PEER_TIMEOUT (R491): No tether within 400 ms or no STATE within 20 ms lets the unit continue alone in INIT. -/
def execNoPeerTimeout (s : State) : Host.Outcome State Fault Refusal :=
  s.onM (Instr.noPeerTimeout).wellFormed (fun m => m.noPeer)

/-- BRING_UP_TIMEOUT (R492): A bring-up wait runs out, no link 3.0 s after step 6, no LEASE or STATE 2 s after the first
claim, or a station not ONLINE 1 s after step 12, setting SYS_BOOT_STAT.fail. -/
def execBringUpTimeout (s : State) : Host.Outcome State Fault Refusal :=
  s.onM (Instr.bringUpTimeout).wellFormed (fun m => m.bringUpTimeout)

end Sys2Proof.Machine
end

