-- ==== Sys2Proof/Machine/CanRows.lean ====
section
/-! DEFINITION. Meanings of the commands of a family: CAN FD buses and remote stations (chapter 8). -/

namespace Sys2Proof.Machine

/-- CAN_ENABLE (R307): Writing CANn_CTRL.en = 1 checks the timing and starts integration. -/
def execCanEnable (by_ : Master) (bus : Nat) (s : State) : Host.Outcome State Fault Refusal :=
  s.onBus (Instr.canEnable by_ bus).wellFormed (fun b => fieldBy b by_ F.CAN_CTRL_en 1 bus)

/-- CAN_DISABLE (R309): Writing CANn_CTRL.en = 0 ends the frame, puts the transceiver in standby and clears queues and
stations. -/
def execCanDisable (by_ : Master) (bus : Nat) (s : State) : Host.Outcome State Fault Refusal :=
  s.onBus (Instr.canDisable by_ bus).wellFormed (fun b => fieldBy b by_ F.CAN_CTRL_en 0 bus)

/-- INTEGRATION_DONE (R307): After 11 recessive bits the controller enters ACTIVE or RESTRICTED as the lease stands. -/
def execIntegrationDone (bus : Nat) (s : State) : Host.Outcome State Fault Refusal :=
  s.onM (Instr.integrationDone bus).wellFormed (fun m => m.canIntegrated bus)

/-- CAN_FRAME_RECEIVED (R311): A valid received frame goes to the station engine or through the filters into a receive
queue. -/
def execCanFrameReceived (bus : Nat) (frame : CanFrame) (sof : Nat) (s : State) : Host.Outcome State Fault Refusal :=
  s.onM (Instr.canFrameReceived bus frame sof).wellFormed (fun m => m.canReceived bus frame sof)

/-- FRAME_SENT (R314): A frame that completes on the bus sets its done bit and stamps its SOF time. -/
def execFrameSent (bus : Nat) (sof : Nat) (tdcv : Nat) (s : State) : Host.Outcome State Fault Refusal :=
  s.onM (Instr.frameSent bus sof tdcv).wellFormed (fun m => m.frameSent bus sof tdcv)

/-- TX_REQUEST (R314): Writing CANn_TXREQ requests or withdraws transmission of a buffer. -/
def execTxRequest (by_ : Master) (bus : Nat) (req : Nat) (s : State) : Host.Outcome State Fault Refusal :=
  s.onBus (Instr.txRequest by_ bus req).wellFormed (fun b => wordBy b by_ .CAN_TXREQ req bus)

/-- RXQ_POP (R313): Writing CANn_RXQ_POP removes the head frame of a receive queue. -/
def execRxqPop (by_ : Master) (bus : Nat) (queues : Nat) (s : State) : Host.Outcome State Fault Refusal :=
  s.onBus (Instr.rxqPop by_ bus queues).wellFormed (fun b => wordBy b by_ .CAN_RXQ_POP queues bus)

/-- BUSOFF_RECOVERY (R316): After 128 occurrences of 11 recessive bits the controller clears its counters and returns.
-/
def execBusoffRecovery (bus : Nat) (s : State) : Host.Outcome State Fault Refusal :=
  s.onM (Instr.busoffRecovery bus).wellFormed (fun m => m.canRecovered bus)

/-- REF_DUE (R321): At each multiple of CANn_REF.period an ACTIVE controller queues a REF. -/
def execRefDue (bus : Nat) (s : State) : Host.Outcome State Fault Refusal :=
  s.onM (Instr.refDue bus).wellFormed (fun m => m.refDue bus)

/-- SLEEP (R317): Writing CANn_CTRL.sleep = 1 puts an idle controller's transceiver into low-power mode. -/
def execSleep (by_ : Master) (bus : Nat) (s : State) : Host.Outcome State Fault Refusal :=
  s.onBus (Instr.sleep by_ bus).wellFormed (fun b => fieldBy b by_ F.CAN_CTRL_sleep 1 bus)

/-- WAKE (R319): Writing sleep = 0 ends sleep and the controller re-integrates. -/
def execWake (by_ : Master) (bus : Nat) (s : State) : Host.Outcome State Fault Refusal :=
  s.onBus (Instr.wake by_ bus).wellFormed (fun b => fieldBy b by_ F.CAN_CTRL_sleep 0 bus)

/-- BUS_WAKE (R319): A wake-up pattern or selective wake-up frame sets CANn_EVT.wake and ends sleep. -/
def execBusWake (bus : Nat) (seen : WakeSeen) (s : State) : Host.Outcome State Fault Refusal :=
  s.onM (Instr.busWake bus seen).wellFormed (fun m => m.busWake bus seen)

/-- STATION_ENABLE (R323): Writing a station's en = 1 checks its times and starts identification. -/
def execStationEnable (by_ : Master) (bus : Nat) (station : Nat) (s : State) : Host.Outcome State Fault Refusal :=
  s.onBus (Instr.stationEnable by_ bus station).wellFormed (fun b => fieldBy b by_ F.CAN_STA_CFG_en 1 bus station)

/-- IDR (R324): An identity response is compared with the station's configuration, or marks it DUPLICATE or MISMATCH. -/
def execIdr (bus : Nat) (data : Bytes) (s : State) : Host.Outcome State Fault Refusal :=
  s.onM (Instr.idr bus data).wellFormed (fun m => m.canReceived bus (idrFrame data) m.time.tai)

/-- CFGR (R323): A configuration response with result 0x00 brings the station ONLINE with a full refresh. -/
def execCfgr (bus : Nat) (station : Nat) (data : Bytes) (s : State) : Host.Outcome State Fault Refusal :=
  s.onM (Instr.cfgr bus station data).wellFormed (fun m => m.canReceived bus (stationFrame (0x140 + station) data) m.time.tai)

/-- IDQ_RETRY (R324): With no IDR after an IDQ the module sends the IDQ again every 100 ms. -/
def execIdqRetry (bus : Nat) (station : Nat) (s : State) : Host.Outcome State Fault Refusal :=
  s.onM (Instr.idqRetry bus station).wellFormed (fun m => m.idqRetry bus station)

/-- CFG_RETRY (R324): A refused or missing CFGR makes the module repeat the CFG every 100 ms. -/
def execCfgRetry (bus : Nat) (station : Nat) (s : State) : Host.Outcome State Fault Refusal :=
  s.onM (Instr.cfgRetry bus station).wellFormed (fun m => m.cfgRetry bus station)

/-- IN (R326): An input report writes each object to its input entries and restarts supervision. -/
def execInReport (bus : Nat) (station : Nat) (data : Bytes) (s : State) : Host.Outcome State Fault Refusal :=
  s.onM (Instr.inReport bus station data).wellFormed (fun m => m.canReceived bus (stationFrame (0x80 + station) data) m.time.tai)

/-- REJ (R329): A rejected output command sets CANn_EVT.rej, counts and writes a BUS record. -/
def execRej (bus : Nat) (station : Nat) (data : Bytes) (s : State) : Host.Outcome State Fault Refusal :=
  s.onM (Instr.rej bus station data).wellFormed (fun m => m.canReceived bus (stationFrame (0xC0 + station) data) m.time.tai)

/-- STATION_DROPOUT (R325): A station's supervision time passing with no valid IN marks it DROPPED and substitutes its
inputs. -/
def execStationDropout (bus : Nat) (station : Nat) (s : State) : Host.Outcome State Fault Refusal :=
  s.onM (Instr.stationDropout bus station).wellFormed (fun m => m.stationDropout bus station)

/-- REJOIN_RETRY (R325): Every 100 ms a dropped station is taken through identification and configuration again. -/
def execRejoinRetry (bus : Nat) (station : Nat) (s : State) : Host.Outcome State Fault Refusal :=
  s.onM (Instr.rejoinRetry bus station).wellFormed (fun m => m.rejoinRetry bus station)

/-- OUT_REFRESH (R327): Once per refresh time an ONLINE station receives a full refresh of its outputs. -/
def execOutRefresh (bus : Nat) (station : Nat) (s : State) : Host.Outcome State Fault Refusal :=
  s.onM (Instr.outRefresh bus station).wellFormed (fun m => m.fullRefresh bus station)

/-- CAN_ERROR (R315): An error detected on a CAN bus changes the transmit or receive error counter, which may enter
error-passive or bus-off. -/
def execCanError (bus : Nat) (error : CanFault) (s : State) : Host.Outcome State Fault Refusal :=
  s.onM (Instr.canError bus error).wellFormed (fun m => m.canError bus error)

end Sys2Proof.Machine
end

