-- ==== Sys2Proof/Machine/EthRows.lean ====
section
/-! DEFINITION. Meanings of the commands of a family: backbone and service Ethernet (chapter 9). -/

namespace Sys2Proof.Machine

/-- PORT_ENABLE (R336): The management firmware sets ETHx_CTRL.en and the port starts negotiation. -/
def execPortEnable (by_ : Master) (port : Nat) (s : State) : Host.Outcome State Fault Refusal :=
  s.onBus (Instr.portEnable by_ port).wellFormed (fun b => fieldBy b by_ F.ETH_CTRL_en 1 port)

/-- PORT_DISABLE (R336): Writing en = 0 ends the frames in progress, drops the queue and sets OFF. -/
def execPortDisable (by_ : Master) (port : Nat) (s : State) : Host.Outcome State Fault Refusal :=
  s.onBus (Instr.portDisable by_ port).wellFormed (fun b => fieldBy b by_ F.ETH_CTRL_en 0 port)

/-- LINK_UP (R337): A port completes negotiation and reads UP, possibly taking the carrying role. -/
def execLinkUp (port : Nat) (partner : EthPartner) (s : State) : Host.Outcome State Fault Refusal :=
  s.onM (Instr.linkUp port partner).wellFormed (fun m => m.linkUp port partner)

/-- LINK_LOSS (R338): Loss of the carrying port's link moves carrying to the other port and announces the addresses. -/
def execLinkLoss (port : Nat) (s : State) : Host.Outcome State Fault Refusal :=
  s.onM (Instr.linkLoss port).wellFormed (fun m => m.linkLoss port)

/-- CARRY_HANDOVER (R339): A planned hand-over moves carrying to the other port without losing a frame. -/
def execCarryHandover (s : State) : Host.Outcome State Fault Refusal :=
  s.onM (Instr.carryHandover).wellFormed (fun m => m.carryHandover)

/-- CARRY_RETURN (R340): After the preferred port has read UP for hold seconds carrying returns to it. -/
def execCarryReturn (s : State) : Host.Outcome State Fault Refusal :=
  s.onM (Instr.carryReturn).wellFormed (fun m => m.carryReturn)

/-- FRAME_RECEIVED (R341): A received Ethernet frame is checked and assigned to its tenant VLAN or discarded. -/
def execFrameReceived (port : Nat) (frame : EthRx) (s : State) : Host.Outcome State Fault Refusal :=
  s.onM (Instr.frameReceived port frame).wellFormed (fun m => m.frameReceived port frame)

/-- FRAME_TRANSMIT (R335): A queued frame leaves the carrying port in queue order once no pause hold or low-power idle
delays it. -/
def execFrameTransmit (port : Nat) (s : State) : Host.Outcome State Fault Refusal :=
  s.onM (Instr.frameTransmit port).wellFormed (fun m => m.frameTransmit port)

/-- PAUSE_FRAME (R345): A received pause frame starts or restarts a transmit hold for its quanta. -/
def execPauseFrame (port : Nat) (quanta : Nat) (s : State) : Host.Outcome State Fault Refusal :=
  s.onM (Instr.pauseFrame port quanta).wellFormed (fun m => m.pauseFrame port quanta)

/-- PAUSE_HOLD_END (R345): A pause hold ends and the transmitter resumes. -/
def execPauseHoldEnd (port : Nat) (s : State) : Host.Outcome State Fault Refusal :=
  s.onM (Instr.pauseHoldEnd port).wellFormed (fun m => m.pauseHoldEnd port)

/-- LPI_ENTRY (R347): After lpi_idle µs with an empty queue the transmitter signals low-power idle. -/
def execLpiEntry (port : Nat) (s : State) : Host.Outcome State Fault Refusal :=
  s.onM (Instr.lpiEntry port).wellFormed (fun m => m.lpiEntry port)

/-- LPI_RECEIVED (R347): The link partner signals low-power idle and the receive count of ETHx_LPI rises. -/
def execLpiReceived (port : Nat) (s : State) : Host.Outcome State Fault Refusal :=
  s.onM (Instr.lpiReceived port).wellFormed (fun m => m.lpiReceived port)

/-- LOAD_WINDOW (R348): Each 1 s load window judges the step condition of the carrying port. -/
def execLoadWindow (port : Nat) (rx : Nat) (tx : Nat) (deep : Nat) (s : State) : Host.Outcome State Fault Refusal :=
  s.onM (Instr.loadWindow port rx tx deep).wellFormed (fun m => m.loadWindow port rx tx deep)

/-- STEP_HOLD_END (R348): The hold time after a step ends and step conditions are judged again. -/
def execStepHoldEnd (port : Nat) (s : State) : Host.Outcome State Fault Refusal :=
  s.onM (Instr.stepHoldEnd port).wellFormed (fun m => m.stepHoldEnd port)

/-- WAKE_LISTEN (R351): Writing ETHx_CTRL.wl enters or leaves wake-listen with renegotiation. -/
def execWakeListen (by_ : Master) (port : Nat) (on : Bool) (s : State) : Host.Outcome State Fault Refusal :=
  s.onBus (Instr.wakeListen by_ port on).wellFormed (fun b => fieldBy b by_ F.ETH_CTRL_wl (b2n on) port)

/-- SYNC (R355): A Sync message on the carrying port steers module time. -/
def execSync (port : Nat) (message : PtpRx) (origin : Nat) (receipt : Nat) (correction : Nat) (s : State) : Host.Outcome State Fault Refusal :=
  s.onM (Instr.sync port message origin receipt correction).wellFormed (fun m => m.syncArrives port message origin receipt correction)

/-- PDELAY_REQ (R355): A received Pdelay_Req is answered with a one-step Pdelay_Resp. -/
def execPdelayReq (port : Nat) (message : PtpRx) (receipt : Nat) (s : State) : Host.Outcome State Fault Refusal :=
  s.onM (Instr.pdelayReq port message receipt).wellFormed (fun m => m.pdelayReq port message receipt)

/-- SYNC_TIMEOUT (R355): No Sync for 3 announce intervals sets ETHx_EVT.ptp. -/
def execSyncTimeout (port : Nat) (s : State) : Host.Outcome State Fault Refusal :=
  s.onM (Instr.syncTimeout port).wellFormed (fun m => m.syncTimeout port)

/-- DELAY_REQ_SEND (R355): With dm = 0 the module sends a Delay_Req and inserts its originTimestamp as it leaves. -/
def execDelayReqSend (port : Nat) (s : State) : Host.Outcome State Fault Refusal :=
  s.onM (Instr.delayReqSend port).wellFormed (fun m => m.delayReqSend port)

end Sys2Proof.Machine
end

