-- ==== Sys2Proof/Machine/EventRows.lean ====
section
/-! DEFINITION. Meanings of the commands of a family: event controller, counters and sampling (chapter 20). -/

namespace Sys2Proof.Machine

/-- EVENT_ENTRY (R589): An offered source makes its core enter its event entry at the end of the instruction in
progress. -/
def execEventEntry (core : Nat) (s : State) : Host.Outcome State Fault Refusal :=
  s.onM (Instr.eventEntry core).wellFormed (fun m => m.eventEntry core)

/-- EVC_CLAIM (R590): A read of EVC_CLAIMc returns the offered source, clears its pending bit and raises the running
level. -/
def execEvcClaim (by_ : Master) (core : Nat) (s : State) : Host.Outcome State Fault Refusal :=
  s.onBus (Instr.evcClaim by_ core).wellFormed (fun b => readBy b by_ (Reg.EVC_CLAIM.addr core 0 0) 4)

/-- EVC_DONE (R590): A write to EVC_DONEc of the source last claimed pops the running level. -/
def execEvcDone (by_ : Master) (core : Nat) (source : Nat) (s : State) : Host.Outcome State Fault Refusal :=
  s.onBus (Instr.evcDone by_ core source).wellFormed (fun b => wordBy b by_ .EVC_DONE source core)

/-- SOFTWARE_RAISE (R593): Writing EVC_SWSET raises a software source 0x80 to 0xFF. -/
def execSoftwareRaise (by_ : Master) (source : Nat) (s : State) : Host.Outcome State Fault Refusal :=
  s.onBus (Instr.softwareRaise by_ source).wellFormed (fun b => wordBy b by_ .EVC_SWSET source)

/-- COUNTER_CLEAR (R597): Writing EVC_CNTCTL.clr[g] sets every counter of group g to 0. -/
def execCounterClear (by_ : Master) (groups : Nat) (s : State) : Host.Outcome State Fault Refusal :=
  s.onBus (Instr.counterClear by_ groups).wellFormed (fun b => fieldBy b by_ F.EVC_CNTCTL_clr groups)

/-- SAMPLE_RECORD (R599): A tagged instruction completes and one sample record is written to the buffer. -/
def execSampleRecord (addr : Word) (user : Bool) (latency : Nat) (data : Word) (s : State) : Host.Outcome State Fault Refusal :=
  s.onM (Instr.sampleRecord addr user latency data).wellFormed (fun m => m.sampleRecord addr user latency data)

/-- SAMPLE_READ (R600): A read of EVC_SMPr_W0 latches words 1 to 3 of the record. -/
def execSampleRead (by_ : Master) (index : Nat) (s : State) : Host.Outcome State Fault Refusal :=
  s.onBus (Instr.sampleRead by_ index).wellFormed (fun b => readBy b by_ (Reg.EVC_SMP_W.addr index 0 0) 4)

/-- SAMPLE_CLEAR (R600): Writing EVC_SMP_CMD.clr empties the sample buffer. -/
def execSampleClear (by_ : Master) (s : State) : Host.Outcome State Fault Refusal :=
  s.onBus (Instr.sampleClear by_).wellFormed (fun b => wordBy b by_ .EVC_SMP_CMD 1)

end Sys2Proof.Machine
end

