-- ==== Sys2Proof/Machine/Mirror.lean ====
section
/-! DEFINITION. Mirroring over the tether: STATE frames, mirror cycles and their items, change records (chapter 11, R390, R394
to R400, R415, R583, R490; R247, R254, R296). -/

namespace Sys2Proof.Machine

/-! ### STATE frames (R390, R391, R401, R503) -/

/-- A peer that runs the partial image this unit was sent has completed its load: this unit loads it (R400). -/
def M.loadBulk (m : M) : M :=
  let b := m.tth.bulk
  let h := readHeader b
  if b.isEmpty || !h.partial_ || !(m.ibx.peerImage.toNat == h.imageId) || m.get F.UPD_IMG_ID_id == h.imageId ||
    m.bit F.UPD_IMG_STAT_busy || m.unitState == 4 then m
  else match m.loadChecks b with
    | some _ => m
    | none =>
      let m1 : M := { m with tth := { m.tth with bulk := [] } }
      (m1.startJob (.partialQuiesce h.quadrant b)).quiesceRequest h.quadrant

/-- Unit state after a STATE frame of the peer (Table 11-2). -/
def M.peerMoves (m : M) (epoch : Nat) : M :=
  if !m.peerActive then (if m.unitState == 5 then m.fencedAddresses else m)
  else match m.unitState with
    | 0 | 3 => m.enterSyncing
    | 5 => if m.ibx.held.all (fun h => h < epoch) then m.enterSyncing else m.fencedAddresses
    | 4 => match m.ibx.handover with
      | .released _ _ => m.withPair M.handoverDone
      | _ => m
    | _ => m

/-- TETHER_STATE: a STATE frame of the peer. -/
def M.peerStateArrives (m : M) (seq : Nat) (good : Bool) (health epoch image : Word) (tai : Nat) : M :=
  m.tetherTake seq good (fun (a : M) =>
    let a1 : M := { a with ibx := { a.ibx with peerAt := some a.time.tb, peerEpoch := epoch.toNat, peerImage := image, peerOfs := (tai : Int) - a.time.tai } }
    let a2 := (a1.wr .IBX_PHEALTH health).seeEpoch epoch.toNat
    let follow := a2.peerActive && !a2.bit F.RTC_STAT_lock
    let a3 : M := if follow then { a2 with time := { a2.time with slew := ((tai : Int) - a2.time.tai) * 2 ^ 25 } } else a2
    let a4 : M := if a3.peerState == 1 then { a3 with ibx := { a3.ibx with peerStale := false } } else a3
    (((a4.peerMoves epoch.toNat).watchPreferred).withPair M.heldHandover).loadBulk)

/-! ### Sending (R394 to R396) -/

/-- Frames of a class of `count` places, `per` places to a frame. -/
def tableFrames (count per : Nat) (item : Nat → Option MirrorItem) : List (List MirrorItem) :=
  (List.range (ceilDiv count per)).map (fun f => (List.range per).filterMap (fun j =>
    if f * per + j < count then item (f * per + j) else none))

/-- Items of a list, `per` to a frame. -/
def listFrames (per : Nat) (l : List MirrorItem) : List (List MirrorItem) :=
  (List.range (ceilDiv l.length per)).map (fun f => (l.drop (f * per)).take per)

def M.pointItem (m : M) (id : Nat) : Option MirrorItem := (m.point id).map (fun _ => .point id (m.pointEntry id))

def M.directoryItem (m : M) (id : Nat) : Option MirrorItem := (m.point id).map (fun p => .directory id p.w0 p.w1)

def M.shareItem (m : M) (n : Nat) : Option MirrorItem := (aget n m.pts.shares).map (fun l => .share n l)

def M.forceItem (m : M) (i : Nat) : Option MirrorItem := some (.force i (aget i m.pts.forces))

/-- The state of a configured cell of a unit whose task's instance has ended (R396). -/
def M.cellItem (m : M) (q c : Nat) (mine : Nat → Bool) : Option MirrorItem :=
  match m.cell q c with
  | some cl =>
    let task := ((m.exe.units.find? (fun u => u.unit == cl.unit)).map UnitRec.task).getD 32
    if mine task then some (.cell q c cl.body) else none
  | none => none

/-- Cells of a class: `size` cells to a quadrant from a first number on. -/
def M.cellItems (m : M) (first size : Nat) (mine : Nat → Bool) (i : Nat) : Option MirrorItem :=
  m.cellItem (i / size) (first + i % size) mine

def M.loopItem (m : M) (n : Nat) : Option MirrorItem :=
  some (.loop n (m.rd .LPE_CH_I n) (m.rd .LPE_CH_D n) (m.rd .LPE_CH_STAT n) (m.rd .LPE_CH_FETMR n) (m.chan n))

def M.circuitItem (m : M) (n : Nat) : Option MirrorItem :=
  match m.mtr.frameLog with
  | (stamp, cs) :: _ => (cs[n]?).map (fun c => .circuit n stamp c)
  | [] => none

def M.stationItem (m : M) (i : Nat) : Option MirrorItem :=
  let n := i / 64
  let s := i % 64
  some (.station n s (m.rd .CAN_STA_STAT n s) (m.stationOf n s))

/-- Running values of image-set fields, and epochs of hosted pairs (class 0x0C). -/
def M.runningItems (m : M) : List MirrorItem :=
  let addrs := ((m.img.configure ++ m.img.arm).map CfgRec.addr).eraseDups
  (addrs.filterMap (fun a => (placeAt a).map (fun p => MirrorItem.reg a (m.rd p.reg p.i p.j p.k)))) ++
  (List.range 16).filterMap (fun i => if (m.hosted i).valid then some (.epochs i (m.hosted i).epoch (m.hosted i).bound) else none)

/-- The learning-memory slice of a cycle. -/
def M.waltzFrames (m : M) : List (List MirrorItem) :=
  (List.range 4).map (fun f =>
    let first := m.tth.waltzCursor + 1024 * f
    [.waltz first ((List.range 1024).map (fun j => getd (0 : F32) (first + j) m.loop.waltz))])

/-- Send a list of MIRROR frames. -/
def M.sendFrames (m : M) (fs : List (List MirrorItem)) : M :=
  let m1 := fs.foldl (fun (a : M) f => a.sendTether (.mirror f)) m
  { m1 with tth := { m1.tth with txFrames := m1.tth.txFrames + fs.length } }

/-- Every item that is sent every cycle is out: CYCLE_END (Table 11-4), once no task's cells are waited for. -/
def M.endCycle (m : M) : M :=
  if !m.tth.capture.isEmpty then m
  else
    let m1 := m.sendTether (.cycleEnd m.tth.txFrames m.tth.txBytes)
    (m1.put F.TTH_CYCLE_cycle m1.tth.txCycle).put F.TTH_LOAD_bytes m1.tth.txBytes

/-- Classes 0x09, 0x0A and 0x0D, which every cycle carries, and the slice's step. -/
def M.everyCycle (m : M) : List (List MirrorItem) :=
  tableFrames 64 64 m.loopItem ++ tableFrames 12 12 m.circuitItem ++ m.waltzFrames

def M.turnWaltz (m : M) : M :=
  { m with tth := { m.tth with waltzCursor := (m.tth.waltzCursor + 4096) % 262144 } }

/-- A service cycle (R394): 57,344 bytes of the items of every cycle and at most 25,600 flagged points. -/
def M.serviceCycle (m : M) : M :=
  let flagged := (m.pts.points.filter (fun p => p.2.mirrorEff)).map Prod.fst
  let room := 25600
  let later := flagged.filter (fun id => m.tth.pointCursor ≤ id)
  let ovr := decide (room < flagged.length)
  let turn := if ovr then (later ++ flagged.filter (fun id => id < m.tth.pointCursor)).take room else flagged
  let next := if ovr then turn.getLastD 0 + 1 else 0
  let frames := tableFrames 1024 128 m.forceItem ++ m.everyCycle ++ listFrames 512 (turn.filterMap m.pointItem)
  let m1 : M := { m with tth := { m.tth with txFrames := 0, txBytes := 57344 + 8 * turn.length, pointCursor := next } }
  let m2 := (m1.sendFrames frames).turnWaltz
  let m3 := m2.putB F.TTH_STAT_over ovr
  (if ovr then m3.tthFlag F.TTH_EVT_over else m3).endCycle

/-- Classes 0x01 to 0x04 of a full cycle. -/
def M.fullFirst (m : M) : List (List MirrorItem) :=
  tableFrames 65536 512 m.pointItem ++ tableFrames 65536 512 m.directoryItem ++ tableFrames 4096 204 m.shareItem ++
  tableFrames 1024 128 m.forceItem

/-- Classes 0x05 to 0x0D, cells of tasks whose instance has ended. -/
def M.fullSecond (m : M) (mine : Nat → Bool) : List (List MirrorItem) :=
  tableFrames 6144 40 (m.cellItems 0 1536 mine) ++ tableFrames 1024 204 (m.cellItems 0x600 256 mine) ++
  tableFrames 1024 4 (m.cellItems 0x700 256 mine) ++
  listFrames 11 (m.exe.tasks.map (fun p => .task p.1 (m.rd .EXE_TSTAT p.1) p.2)) ++
  [[.patchSet m.exe.patchTask m.exe.patches]] ++ tableFrames 512 128 m.stationItem ++ listFrames 512 m.runningItems ++ m.everyCycle

/-- A full cycle (R395); on one lane it is spread over an even cycle and the odd one after it, and the loop records, metering state
and memory slice go in both (R247, R254, R296).  The cells of a task in progress
follow at the end of its instance (R396). -/
def M.fullCycle (m : M) : M :=
  let one := !(m.get F.TTH_STAT_lanes == 3)
  let first := !one || m.tth.txCycle % 2 == 0
  let second := !one || m.tth.txCycle % 2 == 1
  let busy := if second then (m.exe.tasks.filter (fun p => p.2.phase == .running)).map Prod.fst else []
  let bytes := (if first then 1163264 else 0) + (if second then 1806336 else 24576)
  let frames := (if first then m.fullFirst else []) ++
    (if second then m.fullSecond (fun n => !busy.contains n) else m.everyCycle)
  let m1 : M := { m with tth := { m.tth with txFrames := 0, txBytes := bytes, capture := busy } }
  ((m1.sendFrames frames).turnWaltz).endCycle

/-- The cells of a task are captured at the end of its instance, before its boundary (R396). -/
def M.captureTask (m : M) (n : Nat) : M :=
  if !m.tth.capture.contains n then m
  else
    let mine (t : Nat) : Bool := t == n
    let cells := (List.range 8192).filterMap (fun i => m.cellItem (i / 2048) (i % 2048) mine)
    let m1 : M := { m with tth := { m.tth with capture := m.tth.capture.filter (fun t => !(t == n)) } }
    (m1.sendFrames (listFrames 4 cells)).endCycle

/-- OUTPUT_RELEASE of a task: the cells of a full copy are captured at its end, before its boundary (R396). -/
def M.releaseOutputs (m : M) (n : Nat) : M :=
  match m.taskState n with
  | some t =>
    if t.phase == .running && m.wavesEnded n t && m.servedFirst n && !m.exeStopped then (m.captureTask n).outputRelease n
    else m.outputRelease n
  | none => m.outputRelease n

/-- The peer asks for full copies: it is INIT or SYNCING, or TTH_CTRL.full is set (R395). -/
def M.fullMode (m : M) : Bool := (m.ibx.peerAt.isSome && m.peerState ≤ 1) || m.effB F.TTH_CTRL_full

/-- MIRROR_CYCLE_START: the cycle in progress ends, which is the boundary of TTH and of the mirror flags; a hand-over that
waited for it goes on; the active unit sends the next cycle (R394, R395, Table 11-11, step 2). -/
def M.mirrorCycleStart (m : M) : M :=
  let m1 := m.withPair M.handoverCycleDone
  let m2 := m1.transferAt [Reg.TTH_CTRL.addr 0 0 0]
  let m3 : M := { m2 with
    pts := { m2.pts with points := m2.pts.points.map (fun p => (p.1, { p.2 with mirrorEff := p.2.mirror })) }
    tth := { m2.tth with capture := [] } }
  if !m3.bit F.TTH_CTRL_en || !m3.tetherUp || !(m3.unitState == 4) then m3
  else
    let full := m3.fullMode
    let m4 := m3.putB F.TTH_STAT_mode full
    let m5 : M := { m4 with tth := { m4.tth with txCycle := (m4.tth.txCycle + 1) % 2 ^ 32 } }
    if full then m5.fullCycle else m5.serviceCycle

/-- MIRROR_CYCLE_START acts at a TAI multiple of TTH_CTRL.period (Table 11-5, R394). -/
def M.mirrorSlot (m : M) : M := if m.time.tai % (max 1 (m.eff F.TTH_CTRL_period) * ms) == 0 then m.mirrorCycleStart else m

/-! ### Receiving (R397, R490, R583) -/

/-- MIRROR: the frame's items are kept until the cycle's end; a cycle that has not ended when the next starts is discarded. -/
def M.mirrorArrives (m : M) (seq : Nat) (good : Bool) (cycle bytes : Nat) (items : List MirrorItem) : M :=
  m.tetherTake seq good (fun (a : M) =>
    let a1 := if !(a.tth.rxFrames == 0) && !(a.tth.rxCycle == cycle) then a.discardCycle else a
    { a1 with tth := { a1.tth with rxCycle := cycle, rxFrames := a1.tth.rxFrames + 1, rxBytes := a1.tth.rxBytes + bytes
                                   rxItems := a1.tth.rxItems ++ items } })

/-- Class 0x02 of a cycle that carries the whole directory: entries not listed are absent. -/
def M.takeDirectory (m : M) (items : List MirrorItem) : M :=
  let rows := items.filterMap (fun (x : MirrorItem) => match x with
    | .directory id w0 w1 => some (id, (w0, w1))
    | _ => none)
  let gone := m.pts.points.filter (fun p => !rows.any (fun r => r.1 == p.1))
  let m1 := gone.foldl (fun (a : M) (p : Nat × PointRec) => a.removeEntry p.1) m
  rows.foldl (fun (a : M) (r : Nat × (Word × Word)) =>
    if (a.point r.1).any (fun p => p.w0 == r.2.1 && p.w1 == r.2.2) then a else a.placeEntry r.1 r.2.1 r.2.2) m1

/-- Class 0x03 of such a cycle. -/
def M.takeShares (m : M) (items : List MirrorItem) : M :=
  let rows := items.filterMap (fun (x : MirrorItem) => match x with
    | .share n l => some (n, l)
    | _ => none)
  { m with pts := { m.pts with shares := rows.foldl (fun (a : List (Nat × ShareList)) r => aput r.1 r.2 a) [] } }

/-- A force table entry of the active unit (R77): a new force holds its point, one that is gone gives it its requested value. -/
def M.takeForce (m : M) (i : Nat) (f : Option ForceRec) : M :=
  if aget i m.pts.forces == f then m
  else
    let gone (a : M) : M := match aget i a.pts.forces with
      | none => a
      | some old => a.freeForce i old
    match f with
    | none => gone m
    | some n =>
      let m1 := if (aget i m.pts.forces).all (fun o => o.point == n.point) then m else gone m
      let m2 := ({ m1 with pts := { m1.pts with forces := aput i n m1.pts.forces } }).storeForce n
      match m2.point n.point with
      | some p => (m2.putEntry n.point { p with value := keepKind p.kind n.value }).deliver p (keepKind p.kind n.value)
      | none => m2

/-- A point entry, whole, with the system tag (R397); bits that are derived when read are not stored. -/
def M.takePoint (m : M) (id : Nat) (e : DWord) : M :=
  match m.point id with
  | none => m
  | some p =>
    let v := keepKind p.kind (BitVec.ofNat 32 (fieldN e.toNat 0 32))
    let st := fieldN e.toNat 32 15
    (m.putEntry id { p with value := v, status := st - Nat.land st (stForced + stNotDriven), age := fieldN e.toNat 48 16 }).deliver p v

/-- A loop channel's record (R247). -/
def M.takeLoop (m : M) (n : Nat) (i d stat fet : Word) (c : LoopChannel) : M :=
  let m1 := ((m.wr .LPE_CH_I i n).wr .LPE_CH_D d n).wr .LPE_CH_FETMR fet n
  let m2 := (m1.put F.LPE_CH_STAT_mode (wfield stat 3 2) n).put F.LPE_CH_STAT_bank (wfield stat 5 1) n
  (m2.modChan n (fun x => { x with pvPrev := c.pvPrev, uPrev := c.uPrev, ramp := c.ramp, feStart := c.feStart })).loopShow n

/-- A running value of an image-set register, written with the tether's tag (R157); none when it is refused. -/
def M.takeReg (m : M) (a : Nat) (v : Word) : Option M :=
  match placeAt a with
  | some p => m.writeReg ⟨7, .system, none, false⟩ p v.toNat
  | none => none

/-- Epoch and reserved bound of a hosted pair, committed to region 0 (R411). -/
def M.takeEpochs (m : M) (slot epoch bound : Nat) : M :=
  let p := m.hosted slot
  m.setHosted slot { p with epoch := max p.epoch epoch, bound := max p.bound bound }

/-- One item of a cycle, in a unit whose image is the sender's (R397), or matches it during a pair's update (R583). -/
def M.takeItem (m : M) (swap : Bool) (x : MirrorItem) : M :=
  match x with
  | .point id e => m.takePoint id e
  | .force i f => m.takeForce i f
  | .loop n i d stat fet c => if n < 64 then m.takeLoop n i d stat fet c else m
  | .circuit n stamp c => { m with mtr := { m.mtr with mirrored := aput n (stamp, c) m.mtr.mirrored } }
  | .waltz first vs => m.waltzStore first vs
  | .cell q c body =>
    if swap then m
    else if m.exeStopped then m.putMirrored (2048 * q + c) body
    else match m.cell q c with
      | some cl =>
        let task := ((m.exe.units.find? (fun u => u.unit == cl.unit)).map UnitRec.task).getD 32
        let key := 2048 * q + c
        let rest := m.tth.pendingCells.filter (fun p => !(p.2.1 == key))
        { m with tth := { m.tth with pendingCells := rest ++ [(task, (key, body))] } }
      | none => m
  | .task n tstat t =>
    if swap then m
    else (m.put F.EXE_TSTAT_skip (wfield tstat 16 8) n |>.put F.EXE_TSTAT_fault (wfield tstat 8 8) n |>.put F.EXE_TSTAT_ecall
      (wfield tstat 0 8) n).modTask n (fun y => { y with substituted := t.substituted })
  | .patchSet task set =>
    if swap || m.bit F.EXE_OLC_STAT_armed then m
    else ({ m with exe := { m.exe with patchTask := task, patches := set } }).put F.EXE_OLC_STAT_count set.length
  | .station n s stat st => if swap then m else (m.wr .CAN_STA_STAT stat n s).setStation n s st
  | .reg a v => if swap then m else (m.takeReg a v).getD m
  | .epochs slot e b => if swap then m else m.takeEpochs slot e b
  | .directory _ _ _ | .share _ _ => m

/-- Items of class 0x01 in ascending ID; during a pair's update those whose entry has the sender's owner and kind (R583). -/
def M.pointItems (m : M) (swap : Bool) (items : List MirrorItem) : List MirrorItem :=
  let same (id : Nat) : Bool := items.all (fun (x : MirrorItem) => match x with
    | .directory n w0 w1 => !(n == id) || (m.point id).any (fun p => p.owner == (freshEntry w0 w1).owner && p.kind == (freshEntry w0 w1).kind)
    | _ => true)
  let mine := items.filter (fun (x : MirrorItem) => match x with
    | .point id _ => !swap || same id
    | _ => false)
  sortBy (fun (x : MirrorItem) => match x with
    | .point id _ => id
    | _ => 0) mine

/-- A complete cycle is applied (R397). -/
def M.applyCycle (m : M) (bytes : Nat) (items : List MirrorItem) : M :=
  let swap := !(m.get F.UPD_IMG_ID_id == m.ibx.peerImage.toNat) && m.imagesMatch
  let whole := bytes == 2969600 || bytes == 1163264
  let m1 := if whole && !swap then (m.takeDirectory items).takeShares items else m
  let points := m1.pointItems swap items
  let rest (force : Bool) : List MirrorItem := items.filter (fun (x : MirrorItem) => match x with
    | .point _ _ => false
    | .force _ _ => force
    | _ => !force)
  (rest true ++ points ++ rest false).foldl (fun (a : M) x => a.takeItem swap x) m1

/-- Module time steps to the peer's before the warm run of a unit in SYNCING (R503). -/
def M.joinTime (m : M) : M :=
  if m.ibx.peerAt.isNone || m.ibx.peerOfs == 0 then m
  else ({ m with ibx := { m.ibx with peerOfs := 0 } }).stepTime ((m.time.tai : Int) + m.ibx.peerOfs).toNat

/-- A unit in SYNCING whose two full copies are applied: the image's level, the warm run, STANDBY (Table 11-2, R490). -/
def M.joinStandby (m : M) : M :=
  if !(m.unitState == 1) || m.ibx.fullCycles < 4 || !m.imagesMatch then m
  else if m.power.busy == .idle && m.get F.PMC_LVL_STAT_level < m.img.level then m.levelRequest m.img.level
  else
    let m0 := if m.exeRuns then m else m.joinTime
    let m1 := if m0.exeRuns then m0 else m0.exeRun false M.armImage
    if m1.exeRuns then m1.setUnit 2 else m1

/-- CYCLE_END: a complete cycle is applied, another is discarded; a unit in SYNCING takes none before its image is LOADED. -/
def M.cycleEndArrives (m : M) (seq : Nat) (good : Bool) (cycle frames bytes : Nat) (crcOk : Bool) : M :=
  m.tetherTake seq good (fun (a : M) =>
    let t := a.tth
    let fits := t.rxCycle == cycle && t.rxFrames == frames && t.rxBytes == bytes && crcOk
    let early := a.unitState == 1 && !(a.get F.UPD_IMG_STAT_state == 1)
    if !fits || early then a.discardCycle
    else
      let items := t.rxItems
      let full := decide (262144 < bytes)
      let halves := if bytes == 2969600 then 2 else 1
      let a1 : M := { a with tth := { t with rxFrames := 0, rxBytes := 0, rxItems := [], applied := true }
                             ibx := { a.ibx with fullCycles := if full then a.ibx.fullCycles + halves else 0 } }
      let a2 := ((a1.put F.TTH_CYCLE_cycle cycle).put F.TTH_LOAD_bytes bytes).putB F.TTH_STAT_mode full
      (a2.applyCycle bytes items).joinStandby)

/-! ### Change records (R399, R411, R413) -/

/-- Apply a change record with the tether's tag: none when it is refused. -/
def M.takeChange (m : M) (c : ChangeRec) : Option M :=
  let w : Who := ⟨7, .system, none, false⟩
  let checked (r : Nat × M) : Option M := if r.1 == 0 then some r.2 else none
  match c with
  | .directory id w0 w1 => checked (m.dirWrite w id w0 w1)
  | .directoryDelete id => checked (m.dirDelete w id)
  | .share l owner slot g => checked (m.shareWrite w l slot owner g)
  | .force f =>
    if !m.mayForce w f.point || ((m.forceOf f.point).isNone && 1024 ≤ m.pts.forces.length) then none
    else
      let m1 := (m.applyForce f.point f.value f.persist f.tenant f.role f.port).2
      some (match m1.forceOf f.point with
        | some (i, g) => ({ m1 with pts := { m1.pts with
            forces := aput i { g with requested := f.requested, tai := f.tai, reqAge := f.reqAge } m1.pts.forces } }).storeForce
              { g with requested := f.requested, tai := f.tai, reqAge := f.reqAge }
        | none => m1)
  | .release id => if (m.forceOf id).isNone then none else some (m.endForce id 0 0xFF)
  | .patchSet t set =>
    if m.bit F.EXE_OLC_STAT_armed || set.isEmpty then none
    else some (({ m with exe := { m.exe with patchTask := some t, patches := set } }).put F.EXE_OLC_STAT_count set.length).patchCommit
  | .reg a v => m.takeReg a v
  | .account n b => if accountOk b && be b 0 2 == n then some (m.putAccount b) else none
  | .net b => (readNet (b.length + 1) b).map (fun rs => m.applyNet rs)
  | .epochs slot e b => some (m.takeEpochs slot e b)

/-- A record is missing or refused: a STANDBY unit synchronises again (Table 11-2). -/
def M.changeRefused (m : M) : M :=
  let m1 := m.tthFlag F.TTH_EVT_chg
  if m1.unitState == 2 then m1.enterSyncing else { m1 with ibx := { m1.ibx with fullCycles := 0 } }

/-- CHANGE: one change record of the active unit. -/
def M.changeArrives (m : M) (seq : Nat) (good : Bool) (c : ChangeRec) : M :=
  m.tetherTake seq good (fun (a : M) => (a.takeChange c).getD a.changeRefused)

end Sys2Proof.Machine
end

