-- ==== Sys2Proof/Machine/ExecRows.lean ====
section
/-! DEFINITION. Meanings of the commands of a family: cyclic execution and online change (chapter 5). -/

namespace Sys2Proof.Machine

/-- TASK_DUE (R171): A periodic task falls due at an integer multiple of its period; an instance still running overruns.
-/
def execTaskDue (task : Nat) (s : State) : Host.Outcome State Fault Refusal :=
  s.onM (Instr.taskDue task).wellFormed (fun m => m.taskDue task)

/-- IMAGE_LATCH (R179): The transfer engine latches a task's input image and sends start tokens with a new wave. -/
def execImageLatch (task : Nat) (s : State) : Host.Outcome State Fault Refusal :=
  s.onM (Instr.imageLatch task).wellFormed (fun m => m.imageLatch task)

/-- OUTPUT_RELEASE (R180): After every wave of the instance has ended the engine releases the output image and runs the
task boundary. -/
def execOutputRelease (task : Nat) (s : State) : Host.Outcome State Fault Refusal :=
  s.onM (Instr.outputRelease task).wellFormed (fun m => m.releaseOutputs task)

/-- ERROR_TASK_START (R202): A pending call of an error task starts with the payload of Table 5-7. -/
def execErrorTaskStart (task : Nat) (s : State) : Host.Outcome State Fault Refusal :=
  s.onM (Instr.errorTaskStart task).wellFormed (fun m => m.errorTaskStart task)

/-- STOP (R189): EXE_CMD op stop starts an orderly stop of execution. -/
def execStop (by_ : Master) (s : State) : Host.Outcome State Fault Refusal :=
  s.onBus (Instr.stop by_).wellFormed (fun b => wordBy b by_ .EXE_CMD 3)

/-- STOP_COMPLETE (R189): When every instance in progress has released, waves advance, Ibex drives safe values and state
reads STOP. -/
def execStopComplete (s : State) : Host.Outcome State Fault Refusal :=
  s.onM (Instr.stopComplete).wellFormed (fun m => m.stopComplete)

/-- RUN_WARM (R191): EXE_CMD op run_warm starts execution keeping cell state. -/
def execRunWarm (by_ : Master) (s : State) : Host.Outcome State Fault Refusal :=
  s.onBus (Instr.runWarm by_).wellFormed (fun b => wordBy b by_ .EXE_CMD 1)

/-- RUN_COLD (R191): EXE_CMD op run_cold reinitialises every cell and starts execution. -/
def execRunCold (by_ : Master) (s : State) : Host.Outcome State Fault Refusal :=
  s.onBus (Instr.runCold by_).wellFormed (fun b => wordBy b by_ .EXE_CMD 2)

/-- EXE_ACK (R193): EXE_CMD op ack moves state from TRIPPED to STOP. -/
def execExeAck (by_ : Master) (s : State) : Host.Outcome State Fault Refusal :=
  s.onBus (Instr.exeAck by_).wellFormed (fun b => wordBy b by_ .EXE_CMD 4)

/-- AUTO_RUN (R195): With auto_run set the module issues its own run command after the image has loaded at bring-up. -/
def execAutoRun (s : State) : Host.Outcome State Fault Refusal :=
  s.onM (Instr.autoRun).wellFormed (fun m => m.autoRun)

/-- PATCH_ADD (R205): Patch op add checks and adds one patch to the set. -/
def execPatchAdd (by_ : Master) (task : Nat) (s : State) : Host.Outcome State Fault Refusal :=
  s.onBus (Instr.patchAdd by_ task).wellFormed (fun b => wordBy b by_ .EXE_OLC_CMD (task * 256 + 1))

/-- PATCH_COMMIT (R206): Patch op commit arms the set for the task's next boundary, or applies it at once while stopped.
-/
def execPatchCommit (by_ : Master) (s : State) : Host.Outcome State Fault Refusal :=
  s.onBus (Instr.patchCommit by_).wellFormed (fun b => wordBy b by_ .EXE_OLC_CMD 2)

/-- PATCH_ABORT (R221): Patch op abort empties an unarmed set. -/
def execPatchAbort (by_ : Master) (s : State) : Host.Outcome State Fault Refusal :=
  s.onBus (Instr.patchAbort by_).wellFormed (fun b => wordBy b by_ .EXE_OLC_CMD 3)

/-- ERROR_TASK_DEADLINE (R185): A called error task whose period has passed since its call without reaching step 7
overruns and trips the watchdog. -/
def execErrorTaskDeadline (task : Nat) (s : State) : Host.Outcome State Fault Refusal :=
  s.onM (Instr.errorTaskDeadline task).wellFormed (fun m => m.errorTaskDeadline task)

end Sys2Proof.Machine
end

