-- ==== Sys2Proof/Machine/FabricRows.lean ====
section
/-! DEFINITION. Meanings of the commands of a family: The Lynil fabric (chapter 3). -/

namespace Sys2Proof.Machine

/-- A_CELL_FIRING (R92): An A-cell fires a slot when every named port holds a token of the same unit and wave, writing
its register and sending result tokens. -/
def execACellFiring (q : Nat) (c : Nat) (slot : Nat) (s : State) : Host.Outcome State Fault Refusal :=
  s.onM (Instr.aCellFiring q c slot).wellFormed (fun m => m.aFire q c slot)

/-- TOKEN_ACCEPT (R623): A token waiting at the end of its link is taken into its emptied destination port, checked for
parity and wave. -/
def execTokenAccept (q : Nat) (link : LinkId) (flipped : Bool) (s : State) : Host.Outcome State Fault Refusal :=
  s.onM (Instr.tokenAccept q link flipped).wellFormed (fun m => m.tokenAccept q link flipped)

/-- CELL_POINT_ACCESS_ISSUE (R96): A cell's point access leaves the quadrant once fewer than 32 accesses are
outstanding. -/
def execCellPointAccessIssue (q : Nat) (c : Nat) (s : State) : Host.Outcome State Fault Refusal :=
  s.onM (Instr.cellPointAccessIssue q c).wellFormed (fun m => m.accessIssue q c)

/-- CELL_POINT_RESPONSE (R96): A completed point access returns its data and status tokens on the slot's result link. -/
def execCellPointResponse (q : Nat) (c : Nat) (s : State) : Host.Outcome State Fault Refusal :=
  s.onM (Instr.cellPointResponse q c).wellFormed (fun m => m.accessResponse q c)

/-- T_CELL_INPUT (R621): A token on port 0 of a TON, TOF or TP cell starts, resets or passes the timer and produces one
output token. -/
def execTCellInput (q : Nat) (c : Nat) (s : State) : Host.Outcome State Fault Refusal :=
  s.onM (Instr.tCellInput q c).wellFormed (fun m => m.tInput q c)

/-- T_CELL_PRESET (R99): A new preset on port 1 is compared with the elapsed count at the next tick. -/
def execTCellPreset (q : Nat) (c : Nat) (s : State) : Host.Outcome State Fault Refusal :=
  s.onM (Instr.tCellPreset q c).wellFormed (fun m => m.tPreset q c)

/-- TIMER_EXPIRY (R98): A running TON, TOF or TP timer reaches its preset at a tick boundary and sends one token with
the new level. -/
def execTimerExpiry (q : Nat) (c : Nat) (s : State) : Host.Outcome State Fault Refusal :=
  s.onM (Instr.timerExpiry q c).wellFormed (fun m => m.timerExpiry q c)

/-- CYC_PERIOD (R102): At each period boundary a CYC cell issues a counted token or drops it while its previous token is
unaccepted. -/
def execCycPeriod (q : Nat) (c : Nat) (s : State) : Host.Outcome State Fault Refusal :=
  s.onM (Instr.cycPeriod q c).wellFormed (fun m => m.cycPeriod q c)

/-- EDGE_ACCEPT (R100): An EDGE cell accepts an edge after filter + 1 samples at the new level and captures its time. -/
def execEdgeAccept (q : Nat) (c : Nat) (s : State) : Host.Outcome State Fault Refusal :=
  s.onM (Instr.edgeAccept q c).wellFormed (fun m => m.edgeAccept q c)

/-- COUNT_TOKEN (R114): A CNT cell adds a count token to its live value and sends a carry on overflow or borrow. -/
def execCountToken (q : Nat) (c : Nat) (s : State) : Host.Outcome State Fault Refusal :=
  s.onM (Instr.countToken q c).wellFormed (fun m => m.countFire q c .cnt)

/-- CARRY_TOKEN (R114): A CNTX cell adds a carry token and passes its own carry upward, wrapping at the chain top. -/
def execCarryToken (q : Nat) (c : Nat) (s : State) : Host.Outcome State Fault Refusal :=
  s.onM (Instr.carryToken q c).wellFormed (fun m => m.countFire q c .cntx)

/-- SNAPSHOT_FENCE (R116): A snapshot fence captures a counter chain at one instant and ends in a snapshot-done token.
-/
def execSnapshotFence (q : Nat) (c : Nat) (s : State) : Host.Outcome State Fault Refusal :=
  s.onM (Instr.snapshotFence q c).wellFormed (fun m => m.fenceFire q c)

/-- M_CELL_REQUEST (R622): An M-cell serves a read, write, swap or add-to-word request and sends its result token. -/
def execMCellRequest (q : Nat) (c : Nat) (two : Bool) (s : State) : Host.Outcome State Fault Refusal :=
  s.onM (Instr.mCellRequest q c two).wellFormed (fun m => m.mFire q c two)

/-- WAVE_END (R112): A wave ends when its unit holds no token and every terminal cell has fired for it. -/
def execWaveEnd (unit : Nat) (s : State) : Host.Outcome State Fault Refusal :=
  s.onM (Instr.waveEnd unit).wellFormed (fun m => m.waveEnd unit)

/-- STALL_TIMEOUT (R111): A quadrant holding tokens with no firing for stall_tmo × 10 µs sets stall and treats its tasks
as overrun. -/
def execStallTimeout (q : Nat) (s : State) : Host.Outcome State Fault Refusal :=
  s.onM (Instr.stallTimeout q).wellFormed (fun m => m.stallTimeout q)

/-- SPRINGBOK_WRITE (R120): The final write of a Springbok path is decided through its lane and reaches the output line.
-/
def execSpringbokWrite (path : Nat) (s : State) : Host.Outcome State Fault Refusal :=
  s.onM (Instr.springbokWrite path).wellFormed (fun m => m.springbokWrite path)

/-- SPRINGBOK_ARM (R121): A write to FAB_SBK_ARM arms or disarms defined paths. -/
def execSpringbokArm (by_ : Master) (arm : Nat) (s : State) : Host.Outcome State Fault Refusal :=
  s.onBus (Instr.springbokArm by_ arm).wellFormed (fun b => fieldBy b by_ F.FAB_SBK_ARM_arm arm)

/-- QUIESCE_REQUEST (R123): Writing FAB_QCTRL.req[q] = 1 starts the quiesce of quadrant q. -/
def execQuiesceRequest (by_ : Master) (q : Nat) (s : State) : Host.Outcome State Fault Refusal :=
  s.onBus (Instr.quiesceRequest by_ q).wellFormed (fun b => fieldBy b by_ F.FAB_QCTRL_req (putBitN (b.1.get F.FAB_QCTRL_req) q true))

/-- QUIESCED (R123): When every wave has ended and the token count is 0, timers freeze and the quadrant reads quiesced.
-/
def execQuiesced (q : Nat) (s : State) : Host.Outcome State Fault Refusal :=
  s.onM (Instr.quiesced q).wellFormed (fun m => m.quiesced q)

/-- QUIESCE_TIMEOUT (R124): A quiesce not complete after FAB_QCTRL.tmo ms returns the quadrant to run and sets qtmo. -/
def execQuiesceTimeout (q : Nat) (s : State) : Host.Outcome State Fault Refusal :=
  s.onM (Instr.quiesceTimeout q).wellFormed (fun m => m.quiesceTimeout q)

/-- QUIESCE_CANCEL (R124): Writing req[q] = 0 returns the quadrant to run at once. -/
def execQuiesceCancel (by_ : Master) (q : Nat) (s : State) : Host.Outcome State Fault Refusal :=
  s.onBus (Instr.quiesceCancel by_ q).wellFormed (fun b => fieldBy b by_ F.FAB_QCTRL_req (putBitN (b.1.get F.FAB_QCTRL_req) q false))

/-- SELF_TEST_FIRING (R127): A test token fires an idle cell on shadow operands; a failure marks the cell failed. -/
def execSelfTestFiring (q : Nat) (c : Nat) (found : SelfTest) (s : State) : Host.Outcome State Fault Refusal :=
  s.onM (Instr.selfTestFiring q c found).wellFormed (fun m => m.selfTestFiring q c found)

/-- MCELL_WORD_TEST (R128): One word of an M-cell in use is tested transparently as one atomic access. -/
def execMcellWordTest (q : Nat) (c : Nat) (word : Nat) (pass : Bool) (s : State) : Host.Outcome State Fault Refusal :=
  s.onM (Instr.mcellWordTest q c word pass).wellFormed (fun m => m.mcellWordTest q c word pass)

/-- CLR_HWM (R131): Writing FAB_CTRL.clr_hwm sets every token high-water mark to the present count. -/
def execClrHwm (by_ : Master) (s : State) : Host.Outcome State Fault Refusal :=
  s.onBus (Instr.clrHwm by_).wellFormed (fun b => fieldBy b by_ F.FAB_CTRL_clr_hwm 1)

end Sys2Proof.Machine
end

