-- ==== Sys2Proof/Machine/ImageRows.lean ====
section
/-! DEFINITION. Meanings of the commands of a family: The Xovik image loader and configuration changes (chapter 4). -/

namespace Sys2Proof.Machine

/-- IMAGE_VERIFY (R143): Loader op 0b01 runs checks 1 to 14 on the selected image and changes nothing. -/
def execImageVerify (by_ : Master) (s : State) : Host.Outcome State Fault Refusal :=
  s.onBus (Instr.imageVerify by_).wellFormed (fun b => wordBy b by_ .UPD_IMG_CMD 1)

/-- IMAGE_LOAD (R146): Loader op 0b10 with a full image checks, configures the fabric, replaces the directory and
applies configure-phase records. -/
def execImageLoad (by_ : Master) (s : State) : Host.Outcome State Fault Refusal :=
  s.onBus (Instr.imageLoad by_).wellFormed (fun b => wordBy b by_ .UPD_IMG_CMD 2)

/-- PARTIAL_LOAD (R152): Loader op 0b10 with a partial image quiesces one quadrant and replaces its units. -/
def execPartialLoad (by_ : Master) (s : State) : Host.Outcome State Fault Refusal :=
  s.onBus (Instr.partialLoad by_).wellFormed (fun b => wordBy b by_ .UPD_IMG_CMD 2)

/-- IMAGE_ABORT (R168): Loader op 0b11 aborts a verify or an early load with err ABORTED. -/
def execImageAbort (by_ : Master) (s : State) : Host.Outcome State Fault Refusal :=
  s.onBus (Instr.imageAbort by_).wellFormed (fun b => wordBy b by_ .UPD_IMG_CMD 3)

/-- LOAD_COMPLETE (R169): A completed load command sets its result, writes an IMAGE record and raises the image source.
-/
def execLoadComplete (s : State) : Host.Outcome State Fault Refusal :=
  s.onM (Instr.loadComplete).wellFormed (fun m => m.loadComplete)

/-- BOUNDARY_TRANSFER (R159): At a block's boundary the written copy of each B field becomes effective and armed paired
groups are validated. -/
def execBoundaryTransfer (at_ : BoundaryOf) (s : State) : Host.Outcome State Fault Refusal :=
  s.onM (Instr.boundaryTransfer at_).wellFormed (fun m => m.boundary at_)

/-- GROUP_COMMIT (R163): Writing cmt[g] = 1 arms paired group g with its pending set. -/
def execGroupCommit (by_ : Master) (block : CommitBlock) (g : Nat) (s : State) : Host.Outcome State Fault Refusal :=
  s.onBus (Instr.groupCommit by_ block g).wellFormed (fun b => wordBy b by_ block.reg (2 ^ g) block.port)

/-- GROUP_ABORT (R162): Writing abort[g] = 1 discards the pending set of an unarmed group. -/
def execGroupAbort (by_ : Master) (block : CommitBlock) (g : Nat) (s : State) : Host.Outcome State Fault Refusal :=
  s.onBus (Instr.groupAbort by_ block g).wellFormed (fun b => wordBy b by_ block.reg (2 ^ (16 + g)) block.port)

end Sys2Proof.Machine
end

