-- ==== Sys2Proof/Machine/IoRows.lean ====
section
/-! DEFINITION. Meanings of the commands of a family: module hardware, local I/O and extraction (chapter 13). -/

namespace Sys2Proof.Machine

/-- ENA_ASSERT (R467): ENA asserted and stable for 1 ms lets the input switch soft-start. -/
def execEnaAssert (s : State) : Host.Outcome State Fault Refusal :=
  s.onM (Instr.enaAssert).wellFormed (fun m => m.enaAssert)

/-- ENA_DEASSERT (R472): ENA deasserted without a warning deasserts ACT, fences the lines, raises both warnings and
releases the lease. -/
def execEnaDeassert (s : State) : Host.Outcome State Fault Refusal :=
  s.onM (Instr.enaDeassert).wellFormed (fun m => m.enaDeassert)

/-- VIN_LOW (R457): VIN below 15 V opens the input switch. -/
def execVinLow (vin : Nat) (s : State) : Host.Outcome State Fault Refusal :=
  s.onM (Instr.vinLow vin).wellFormed (fun m => m.vinLow vin)

/-- VIN_RECOVER (R457): VIN at 15 V or above for 1 ms closes the switch again with soft start. -/
def execVinRecover (vin : Nat) (s : State) : Host.Outcome State Fault Refusal :=
  s.onM (Instr.vinRecover vin).wellFormed (fun m => m.vinRecover vin)

/-- PEER_PRESENCE (R454): PPRES debounced for 1 ms updates SYS_SLOT.peer_present. -/
def execPeerPresence (present : Bool) (s : State) : Host.Outcome State Fault Refusal :=
  s.onM (Instr.peerPresence present).wellFormed (fun m => m.peerPresence present)

/-- LEVER_OPEN (R469): The lever switch opening raises the extraction warning and runs hand-over, stop, saves and
disables. -/
def execLeverOpen (s : State) : Host.Outcome State Fault Refusal :=
  s.onM (Instr.leverOpen).wellFormed (fun m => m.leverOpen)

/-- LEVER_CLOSE (R471): The lever switch closed for 100 ms ends the warning without extraction. -/
def execLeverClose (s : State) : Host.Outcome State Fault Refusal :=
  s.onM (Instr.leverClose).wellFormed (fun m => m.leverClose)

/-- LIO_INPUT_CHANGE (R460): A new level on a sampled line updates its input entries and EDGE cells. -/
def execLioInputChange (line : Nat) (level : Bool) (s : State) : Host.Outcome State Fault Refusal :=
  s.onM (Instr.lioInputChange line level).wellFormed (fun m => m.lioInput line level)

/-- PWM_PERIOD_END (R461): At the end of a PWM period a new duty or period takes effect. -/
def execPwmPeriodEnd (line : Nat) (s : State) : Host.Outcome State Fault Refusal :=
  s.onM (Instr.pwmPeriodEnd line).wellFormed (fun m => m.pwmPeriodEnd line)

/-- LIO_ENABLE (R459): Writing LIO_CTRL.en sets run or puts every line high-impedance within 0.1 µs. -/
def execLioEnable (by_ : Master) (en : Bool) (s : State) : Host.Outcome State Fault Refusal :=
  s.onBus (Instr.lioEnable by_ en).wellFormed (fun b => fieldBy b by_ F.LIO_CTRL_en (b2n en))

end Sys2Proof.Machine
end

