-- ==== Sys2Proof/Machine/KrovRows.lean ====
section
/-! DEFINITION. Meanings of the commands of a family: the Krovtan protocol and its sessions (chapter 10). -/

namespace Sys2Proof.Machine

/-- OPEN (R368): An OPEN request reserves a session place and answers with session ID, salt, iterations and mnonce. -/
def execOpen (p : KrovPacket) (s : State) : Host.Outcome State Fault Refusal :=
  s.onBus (Instr.open_ p).wellFormed (fun b => krovArrives b 0x01 p)

/-- PROOF (R368): A PROOF request is checked against the verifier and opens the session with derived keys. -/
def execProof (p : KrovPacket) (s : State) : Host.Outcome State Fault Refusal :=
  s.onBus (Instr.proof p).wellFormed (fun b => krovArrives b 0x02 p)

/-- AUTH_ANSWER (R369): A failed opening is answered AUTH 250 ms after PROOF and the place is freed. -/
def execAuthAnswer (place : Nat) (s : State) : Host.Outcome State Fault Refusal :=
  s.onM (Instr.authAnswer place).wellFormed (fun m => m.authAnswer place)

/-- PROOF_TIMEOUT (R368): A place in OPENING without PROOF within 5 s is freed. -/
def execProofTimeout (place : Nat) (s : State) : Host.Outcome State Fault Refusal :=
  s.onM (Instr.proofTimeout place).wellFormed (fun m => m.proofTimeout place)

/-- ACCOUNT_UNLOCK (R369): An account locked after five failed proofs is unlocked after 60 s. -/
def execAccountUnlock (account : Nat) (s : State) : Host.Outcome State Fault Refusal :=
  s.onM (Instr.accountUnlock account).wellFormed (fun m => m.accountUnlock account)

/-- CLOSE (R373): CLOSE ends the session after its response. -/
def execClose (p : KrovPacket) (s : State) : Host.Outcome State Fault Refusal :=
  s.onBus (Instr.close_ p).wellFormed (fun b => krovArrives b 0x03 p)

/-- SESSION_IDLE_TIMEOUT (R373): A session with no authenticated request for its idle timeout closes. -/
def execSessionIdleTimeout (place : Nat) (s : State) : Host.Outcome State Fault Refusal :=
  s.onM (Instr.sessionIdleTimeout place).wellFormed (fun m => m.sessionIdle place)

/-- KEEPALIVE (R377): KEEPALIVE answers with module TAI time. -/
def execKeepalive (p : KrovPacket) (s : State) : Host.Outcome State Fault Refusal :=
  s.onBus (Instr.keepalive p).wellFormed (fun b => krovArrives b 0x04 p)

/-- STATUS (R384): STATUS returns session and module counters filtered by tenant. -/
def execStatus (p : KrovPacket) (s : State) : Host.Outcome State Fault Refusal :=
  s.onBus (Instr.status p).wellFormed (fun b => krovArrives b 0x05 p)

/-- POINT_READ (R380): POINT_READ returns value, status and age of 1 to 160 points, each decided separately. -/
def execPointRead (p : KrovPacket) (s : State) : Host.Outcome State Fault Refusal :=
  s.onBus (Instr.pointRead p).wellFormed (fun b => krovArrives b 0x10 p)

/-- POINT_WRITE (R380): POINT_WRITE writes 1 to 160 points, each decided separately, with optional logging. -/
def execPointWrite (p : KrovPacket) (s : State) : Host.Outcome State Fault Refusal :=
  s.onBus (Instr.pointWrite p).wellFormed (fun b => krovArrives b 0x11 p)

/-- SUBSCRIBE (R381): SUBSCRIBE creates or replaces the session's subscription for one point. -/
def execSubscribe (p : KrovPacket) (s : State) : Host.Outcome State Fault Refusal :=
  s.onBus (Instr.subscribe p).wellFormed (fun b => krovArrives b 0x20 p)

/-- UNSUBSCRIBE (R381): UNSUBSCRIBE cancels the session's subscription for a point. -/
def execUnsubscribe (p : KrovPacket) (s : State) : Host.Outcome State Fault Refusal :=
  s.onBus (Instr.unsubscribe p).wellFormed (fun b => krovArrives b 0x21 p)

/-- FORCE_SET (R72): FORCE_SET sets a force through the PTD force command with the session's tag. -/
def execForceSet (p : KrovPacket) (s : State) : Host.Outcome State Fault Refusal :=
  s.onBus (Instr.forceSet p).wellFormed (fun b => krovArrives b 0x30 p)

/-- FORCE_RELEASE (R76): FORCE_RELEASE releases a force with the session's tag. -/
def execForceRelease (p : KrovPacket) (s : State) : Host.Outcome State Fault Refusal :=
  s.onBus (Instr.forceRelease p).wellFormed (fun b => krovArrives b 0x31 p)

/-- FORCE_LIST (R79): FORCE_LIST returns up to 64 force entries on points of the session's tenant. -/
def execForceList (p : KrovPacket) (s : State) : Host.Outcome State Fault Refusal :=
  s.onBus (Instr.forceList p).wellFormed (fun b => krovArrives b 0x32 p)

/-- DIR_READ (R84): DIR_READ returns a directory entry through the PTD read command. -/
def execDirRead (p : KrovPacket) (s : State) : Host.Outcome State Fault Refusal :=
  s.onBus (Instr.dirRead p).wellFormed (fun b => krovArrives b 0x40 p)

/-- DIR_WRITE (R60): DIR_WRITE writes a directory entry through the PTD write command. -/
def execDirWrite (p : KrovPacket) (s : State) : Host.Outcome State Fault Refusal :=
  s.onBus (Instr.dirWrite p).wellFormed (fun b => krovArrives b 0x41 p)

/-- DIR_DELETE (R82): DIR_DELETE deletes a directory entry for tenant 0 OWNER. -/
def execDirDelete (p : KrovPacket) (s : State) : Host.Outcome State Fault Refusal :=
  s.onBus (Instr.dirDelete p).wellFormed (fun b => krovArrives b 0x42 p)

/-- SHARE_READ (R84): SHARE_READ returns a share list's owner and grants. -/
def execShareRead (p : KrovPacket) (s : State) : Host.Outcome State Fault Refusal :=
  s.onBus (Instr.shareRead p).wellFormed (fun b => krovArrives b 0x43 p)

/-- SHARE_WRITE (R58): SHARE_WRITE writes a list owner and one grant. -/
def execShareWrite (p : KrovPacket) (s : State) : Host.Outcome State Fault Refusal :=
  s.onBus (Instr.shareWrite p).wellFormed (fun b => krovArrives b 0x44 p)

/-- REG_READ (R378): REG_READ reads 1 to 256 register words with the session's tag, stopping at the first refusal. -/
def execRegRead (p : KrovPacket) (s : State) : Host.Outcome State Fault Refusal :=
  s.onBus (Instr.regRead p).wellFormed (fun b => krovArrives b 0x50 p)

/-- REG_WRITE (R378): REG_WRITE applies up to 128 register writes in order, stopping at the first refusal. -/
def execRegWrite (p : KrovPacket) (s : State) : Host.Outcome State Fault Refusal :=
  s.onBus (Instr.regWrite p).wellFormed (fun b => krovArrives b 0x51 p)

/-- XFER_BEGIN (R382): XFER_BEGIN opens a transfer of one kind and fixes its range. -/
def execXferBegin (p : KrovPacket) (s : State) : Host.Outcome State Fault Refusal :=
  s.onBus (Instr.xferBegin p).wellFormed (fun b => krovArrives b 0x60 p)

/-- XFER_DATA (R382): XFER_DATA moves one chunk of a transfer; chunk 0 of a package runs the header checks. -/
def execXferData (p : KrovPacket) (s : State) : Host.Outcome State Fault Refusal :=
  s.onBus (Instr.xferData p).wellFormed (fun b => krovArrives b 0x61 p)

/-- XFER_END (R382): XFER_END of a write checks completeness and digest and runs the object's checks. -/
def execXferEnd (p : KrovPacket) (s : State) : Host.Outcome State Fault Refusal :=
  s.onBus (Instr.xferEnd p).wellFormed (fun b => krovArrives b 0x62 p)

/-- XFER_ABORT (R382): XFER_ABORT abandons an open transfer. -/
def execXferAbort (p : KrovPacket) (s : State) : Host.Outcome State Fault Refusal :=
  s.onBus (Instr.xferAbort p).wellFormed (fun b => krovArrives b 0x63 p)

/-- XFER_TIMEOUT (R382): A transfer with no request for 30 s is aborted. -/
def execXferTimeout (handle : Nat) (s : State) : Host.Outcome State Fault Refusal :=
  s.onM (Instr.xferTimeout handle).wellFormed (fun m => m.transferTimeout handle)

/-- NET_GET (R383): NET_GET returns the network setting records in force. -/
def execNetGet (p : KrovPacket) (s : State) : Host.Outcome State Fault Refusal :=
  s.onBus (Instr.netGet p).wellFormed (fun b => krovArrives b 0x70 p)

/-- NET_SET (R383): NET_SET checks every record and applies a valid set after its response. -/
def execNetSet (p : KrovPacket) (s : State) : Host.Outcome State Fault Refusal :=
  s.onBus (Instr.netSet p).wellFormed (fun b => krovArrives b 0x71 p)

/-- ACCOUNT_READ (R379): ACCOUNT_READ returns an account record without its verifier. -/
def execAccountRead (p : KrovPacket) (s : State) : Host.Outcome State Fault Refusal :=
  s.onBus (Instr.accountRead p).wellFormed (fun b => krovArrives b 0x80 p)

/-- ACCOUNT_WRITE (R379): ACCOUNT_WRITE writes an account in an encrypted session and closes its sessions. -/
def execAccountWrite (p : KrovPacket) (s : State) : Host.Outcome State Fault Refusal :=
  s.onBus (Instr.accountWrite p).wellFormed (fun b => krovArrives b 0x81 p)

/-- RESERVED_OPCODE (R377): A Krovtan request with a reserved opcode, or carrying NOTIFY, is answered OPCODE. -/
def execReservedOpcode (op : Nat) (p : KrovPacket) (s : State) : Host.Outcome State Fault Refusal :=
  s.onBus (Instr.reservedOpcode op p).wellFormed (fun b => if knownOpcode op then b else krovArrives b op p)

end Sys2Proof.Machine
end

