-- ==== Sys2Proof/Machine/LoopRows.lean ====
section
/-! DEFINITION. Meanings of the commands of a family: the loop engine (chapter 6). -/

namespace Sys2Proof.Machine

/-- LOOP_SAMPLE (R224): A channel's sample instant captures a modulator input and queues its evaluation. -/
def execLoopSample (channel : Nat) (captured : F32) (phase : F64) (s : State) : Host.Outcome State Fault Refusal :=
  s.onM (Instr.loopSample channel captured phase).wellFormed (fun m => m.loopSample channel captured phase)

/-- LOOP_EVALUATION (R231): One evaluation computes the control law, writes the sink and updates integrator, supervision
and Waltz memory. -/
def execLoopEvaluation (channel : Nat) (s : State) : Host.Outcome State Fault Refusal :=
  s.onM (Instr.loopEvaluation channel).wellFormed (fun m => m.loopEvaluate channel)

/-- COMMIT_SLOT (R258): Every 10 µs the loop engine validates and applies armed paired groups. -/
def execCommitSlot (s : State) : Host.Outcome State Fault Refusal :=
  s.onM (Instr.commitSlot).wellFormed (fun m => m.commitSlot)

/-- WALTZ_CLEAR (R253): Writing LPE_WZCLR.go clears the named channel's Waltz range between two evaluations. -/
def execWaltzClear (by_ : Master) (channel : Nat) (s : State) : Host.Outcome State Fault Refusal :=
  s.onBus (Instr.waltzClear by_ channel).wellFormed (fun b => wordBy b by_ .LPE_WZCLR (256 + channel))

/-- WALTZ_SAVE (R254): Every 900 s the Waltz range of each wz_keep channel is written to the historian. -/
def execWaltzSave (s : State) : Host.Outcome State Fault Refusal :=
  s.onM (Instr.waltzSave).wellFormed (fun m => m.waltzSave)

end Sys2Proof.Machine
end

