-- ==== Sys2Proof/Machine/MeterRows.lean ====
section
/-! DEFINITION. Meanings of the commands of a family: metering (chapter 7). -/

namespace Sys2Proof.Machine

/-- FRAME_END (R276): At each energy frame end the module corrects, assigns energies, runs detectors and updates
metering points. -/
def execFrameEnd (measured : FrameMeasure) (s : State) : Host.Outcome State Fault Refusal :=
  s.onM (Instr.frameEnd measured).wellFormed (fun m => m.frameEnd measured)

/-- DEMAND_INTERVAL_END (R283): At an interval end each circuit's demand is computed and MAXD updated unless short. -/
def execDemandIntervalEnd (s : State) : Host.Outcome State Fault Refusal :=
  s.onM (Instr.demandIntervalEnd).wellFormed (fun m => m.demandEnd)

/-- METER_SAVE (R272): Every 60 s the accumulators, demand state and MAXD are saved to the parameter store. -/
def execMeterSave (s : State) : Host.Outcome State Fault Refusal :=
  s.onM (Instr.meterSave).wellFormed (fun m => m.meterSave)

/-- SUPPLY_ENABLE (R270): Writing MTR_CTRL.sup_en switches the 5 V sensor supply on or off. -/
def execSupplyEnable (by_ : Master) (on : Bool) (s : State) : Host.Outcome State Fault Refusal :=
  s.onBus (Instr.supplyEnable by_ on).wellFormed (fun b => fieldBy b by_ F.MTR_CTRL_sup_en (b2n on))

/-- METER_ENABLE (R270): Writing MTR_CTRL.en = 1 starts the modulator clock and metering. -/
def execMeterEnable (by_ : Master) (s : State) : Host.Outcome State Fault Refusal :=
  s.onBus (Instr.meterEnable by_).wellFormed (fun b => fieldBy b by_ F.MTR_CTRL_en 1)

/-- METER_STOP (R271): Writing MTR_CTRL.en = 0 finishes the frame, stops the clock and sets run to 0. -/
def execMeterStop (by_ : Master) (s : State) : Host.Outcome State Fault Refusal :=
  s.onBus (Instr.meterStop by_).wellFormed (fun b => fieldBy b by_ F.MTR_CTRL_en 0)

/-- SENSOR_SUPPLY_FAULT (R290): Overload or voltage out of range switches the sensor supply off and sets MTR_EVT.sup. -/
def execSensorSupplyFault (s : State) : Host.Outcome State Fault Refusal :=
  s.onM (Instr.sensorSupplyFault).wellFormed (fun m => m.supplyFault)

/-- MOD_CLOCK_FAULT (R266): A received clock absent or out of tolerance clears MTR_STAT.clk and faults every input in
use. -/
def execModClockFault (s : State) : Host.Outcome State Fault Refusal :=
  s.onM (Instr.modClockFault).wellFormed (fun m => m.modClockFault)

/-- MOD_CLOCK_RETURN (R266): A received modulator clock returns within tolerance and MTR_STAT.clk reads 1 again. -/
def execModClockReturn (s : State) : Host.Outcome State Fault Refusal :=
  s.onM (Instr.modClockReturn).wellFormed (fun m => m.modClockReturn)

/-- INPUT_FAULT (R269): A stream held at one level for 128 modulator clocks faults its input. -/
def execInputFault (input : Nat) (s : State) : Host.Outcome State Fault Refusal :=
  s.onM (Instr.inputFault input).wellFormed (fun m => m.inputFault input)

/-- CLEAR_MAXD (R285): MTR_CMD op 0b01 clears MAXD and MAXDT of the named circuits at the next frame boundary. -/
def execClearMaxd (by_ : Master) (circuit : Nat) (s : State) : Host.Outcome State Fault Refusal :=
  s.onBus (Instr.clearMaxd by_ circuit).wellFormed (fun b => wordBy b by_ .MTR_CMD (circuit * 256 + 1))

/-- CLEAR_ENERGIES (R279): MTR_CMD op 0b10 clears the energies of the named circuits at the next frame boundary for an
authorised tag. -/
def execClearEnergies (by_ : Master) (circuit : Nat) (s : State) : Host.Outcome State Fault Refusal :=
  s.onBus (Instr.clearEnergies by_ circuit).wellFormed (fun b => wordBy b by_ .MTR_CMD (circuit * 256 + 2))

end Sys2Proof.Machine
end

