-- ==== Sys2Proof/Machine/PairRows.lean ====
section
/-! DEFINITION. Meanings of the commands of a family: the redundant pair: Chamois, tether, Ibex (chapter 11). -/

namespace Sys2Proof.Machine

/-- BEAT_SLOT (R404): Every 5 ms a unit sends a BEAT with its health word, epoch and flags. -/
def execBeatSlot (s : State) : Host.Outcome State Fault Refusal :=
  s.onM (Instr.beatSlot).wellFormed (fun m => m.beatSlot)

/-- BEAT (R405): The witness decides a received BEAT in the order of Table 11-9 and answers LEASE or STATE. -/
def execBeat (d : ChRx) (s : State) : Host.Outcome State Fault Refusal :=
  s.onM (Instr.beat d).wellFormed (fun m => m.beatArrives d)

/-- LEASE (R408): A unit accepts a valid LEASE, runs the lease from the echoed BEAT and becomes ACTIVE, or answers
RELEASE. -/
def execLease (d : ChRx) (s : State) : Host.Outcome State Fault Refusal :=
  s.onM (Instr.lease d).wellFormed (fun m => m.withPair (fun a => a.leaseArrives d))

/-- STATE (R390): A Chamois STATE message naming another holder or a higher epoch moves the unit to FENCED or SYNCING.
-/
def execChState (d : ChRx) (s : State) : Host.Outcome State Fault Refusal :=
  s.onM (Instr.chState d).wellFormed (fun m => m.stateArrives d)

/-- RELEASE (R407): The witness ends the holder's lease at once on a valid RELEASE and grants a successor. -/
def execRelease (d : ChRx) (s : State) : Host.Outcome State Fault Refusal :=
  s.onM (Instr.release d).wellFormed (fun m => m.releaseArrives d)

/-- LEASE_END (R387): A unit's lease expires and Ibex deasserts ACT and fences its outputs within 10 µs. -/
def execLeaseEnd (s : State) : Host.Outcome State Fault Refusal :=
  s.onM (Instr.leaseEnd).wellFormed (fun m => m.leaseExpires)

/-- RENEWAL_MISSED (R405): At the witness a renewal not arriving within 6 ms counts as missed. -/
def execRenewalMissed (slot : Nat) (s : State) : Host.Outcome State Fault Refusal :=
  s.onM (Instr.renewalMissed slot).wellFormed (fun m => m.renewalMissed slot)

/-- WITNESS_LEASE_END (R386): At the witness a lease count ends and, after the 1 ms guard, a waiting eligible claimant
is granted. -/
def execWitnessLeaseEnd (slot : Nat) (s : State) : Host.Outcome State Fault Refusal :=
  s.onM (Instr.witnessLeaseEnd slot).wellFormed (fun m => m.witnessLeaseEnd slot)

/-- QUIET_TIME_END (R410): 21 ms after the Chamois function starts it begins answering BEATs. -/
def execQuietTimeEnd (s : State) : Host.Outcome State Fault Refusal :=
  s.onM (Instr.quietTimeEnd).wellFormed (fun m => m.quietTimeEnd)

/-- START_WINDOW_END (R409): At the end of the 1 s start window the witness grants by order of preference. -/
def execStartWindowEnd (slot : Nat) (s : State) : Host.Outcome State Fault Refusal :=
  s.onM (Instr.startWindowEnd slot).wellFormed (fun m => m.startWindowEnd slot)

/-- RESERVED_BOUND_COMMITTED (R411): The commit of a new reserved bound completes and a waiting grant is sent. -/
def execReservedBoundCommitted (slot : Nat) (s : State) : Host.Outcome State Fault Refusal :=
  s.onM (Instr.reservedBoundCommitted slot).wellFormed (fun m => m.boundCommitted slot)

/-- PACT_CHANGE (R388): A change of the PACT input lets Ibex assert ACT or keeps it deasserted. -/
def execPactChange (level : Bool) (s : State) : Host.Outcome State Fault Refusal :=
  s.onM (Instr.pactChange level).wellFormed (fun m => m.pactChange level)

/-- PACT_TIMEOUT (R388): PACT still asserted 5 ms after a lease is gained makes the unit release and enter FENCED. -/
def execPactTimeout (s : State) : Host.Outcome State Fault Refusal :=
  s.onM (Instr.pactTimeout).wellFormed (fun m => m.pactTimeout)

/-- TETHER_STATE_SLOT (R391): Every 1 ms, and on a change, a unit sends a tether STATE frame. -/
def execTetherStateSlot (s : State) : Host.Outcome State Fault Refusal :=
  s.onM (Instr.tetherStateSlot).wellFormed (fun m => m.tetherStateSlot)

/-- TETHER_STATE (R390): A received tether STATE frame updates the peer's health word and may change the unit's state.
-/
def execTetherState (seq : Nat) (good : Bool) (health : Word) (epoch : Word) (image : Word) (tai : Nat) (s : State) : Host.Outcome State Fault Refusal :=
  s.onM (Instr.tetherState seq good health epoch image tai).wellFormed (fun m => m.peerStateArrives seq good health epoch image tai)

/-- MIRROR_CYCLE_START (R394): At each multiple of TTH_CTRL.period the active unit starts sending a mirror cycle. -/
def execMirrorCycleStart (s : State) : Host.Outcome State Fault Refusal :=
  s.onM (Instr.mirrorCycleStart).wellFormed (fun m => m.mirrorSlot)

/-- MIRROR (R394): A MIRROR frame carries items of one class to the receiving unit. -/
def execMirror (seq : Nat) (good : Bool) (cycle : Nat) (bytes : Nat) (items : List MirrorItem) (s : State) : Host.Outcome State Fault Refusal :=
  s.onM (Instr.mirror seq good cycle bytes items).wellFormed (fun m => m.mirrorArrives seq good cycle bytes items)

/-- CYCLE_END (R397): A complete CYCLE_END makes the receiver apply the cycle's items. -/
def execCycleEnd (seq : Nat) (good : Bool) (cycle : Nat) (frames : Nat) (bytes : Nat) (crcOk : Bool) (s : State) : Host.Outcome State Fault Refusal :=
  s.onM (Instr.cycleEnd seq good cycle frames bytes crcOk).wellFormed (fun m => m.cycleEndArrives seq good cycle frames bytes crcOk)

/-- CHANGE (R399): A CHANGE frame carries one change record that the peer applies and acknowledges. -/
def execChange (seq : Nat) (good : Bool) (record : ChangeRec) (s : State) : Host.Outcome State Fault Refusal :=
  s.onM (Instr.change seq good record).wellFormed (fun m => m.changeArrives seq good record)

/-- CHANGE_ACK_TIMEOUT (R399): A change not acknowledged within 1 ms is answered and the peer counts as out of sync. -/
def execChangeAckTimeout (s : State) : Host.Outcome State Fault Refusal :=
  s.onM (Instr.changeAckTimeout).wellFormed (fun m => m.changeAckTimeout.releaseAnswers)

/-- ACK (R392): A tether ACK frame acknowledges frames or requests retransmission from a nak. -/
def execAck (good : Bool) (seq : Nat) (nak : Nat) (s : State) : Host.Outcome State Fault Refusal :=
  s.onM (Instr.ack good seq nak).wellFormed (fun m => (m.ackArrives good seq nak).releaseAnswers)

/-- ACK_TIMEOUT (R392): A sender with no acknowledgment for 1 ms repeats from the oldest unacknowledged frame. -/
def execAckTimeout (s : State) : Host.Outcome State Fault Refusal :=
  s.onM (Instr.ackTimeout).wellFormed (fun m => m.ackTimeout)

/-- BULK (R400): BULK frames carry an image or package to the peer for checking. -/
def execBulk (seq : Nat) (good : Bool) (offset : Nat) (data : Bytes) (s : State) : Host.Outcome State Fault Refusal :=
  s.onM (Instr.bulk seq good offset data).wellFormed (fun m => m.bulkFrame seq good offset data)

/-- TEST_FRAME (R393): A TEST frame with PRBS-31 fills idle link time. -/
def execTestFrame (errors : Nat) (s : State) : Host.Outcome State Fault Refusal :=
  s.onM (Instr.testFrame errors).wellFormed (fun m => m.testFrame errors)

/-- TETHER_LINK_DOWN (R393): A lane without valid symbols or with 16 code errors in 10 µs takes the link down. -/
def execTetherLinkDown (lanes : Nat) (s : State) : Host.Outcome State Fault Refusal :=
  s.onM (Instr.tetherLinkDown lanes).wellFormed (fun m => m.withPair (fun a => a.tetherLanes lanes))

/-- TETHER_LINK_UP (R393): Training completes on both lanes and the link comes up. -/
def execTetherLinkUp (s : State) : Host.Outcome State Fault Refusal :=
  s.onM (Instr.tetherLinkUp).wellFormed (fun m => m.tetherRises)

/-- DETACH_TIMEOUT (R390): A STANDBY unit whose tether has been down for 1 ms enters DETACHED. -/
def execDetachTimeout (s : State) : Host.Outcome State Fault Refusal :=
  s.onM (Instr.detachTimeout).wellFormed (fun m => m.detach)

/-- HEALTH_PUBLISH (R401): Every 10 ms the unit composes its health word; a lost required bit moves it towards FAILED.
-/
def execHealthPublish (s : State) : Host.Outcome State Fault Refusal :=
  s.onM (Instr.healthPublish).wellFormed (fun m => m.withPair M.publishHealth)

/-- PEER_SILENCE (R401): No STATE frame for 10 ms clears peer_seen and IBX_PHEALTH. -/
def execPeerSilence (s : State) : Host.Outcome State Fault Refusal :=
  s.onM (Instr.peerSilence).wellFormed (fun m => m.peerSilence)

/-- READBACK (R402): Every 1 ms a unit without a lease reads back one LIO output stage. -/
def execReadback (follows : Bool) (s : State) : Host.Outcome State Fault Refusal :=
  s.onM (Instr.readback follows).wellFormed (fun m => m.readback follows)

/-- SWITCH (R418): IBX_CMD op switch starts a planned hand-over to the peer. -/
def execSwitch (by_ : Master) (s : State) : Host.Outcome State Fault Refusal :=
  s.onBus (Instr.switch by_).wellFormed (fun b => wordBy b by_ .IBX_CMD 1)

/-- MAINT (R390): IBX_CMD op maint moves a unit that is not ACTIVE to MAINT. -/
def execMaint (by_ : Master) (s : State) : Host.Outcome State Fault Refusal :=
  s.onBus (Instr.maint by_).wellFormed (fun b => wordBy b by_ .IBX_CMD 2)

/-- RESUME (R390): IBX_CMD op resume moves a MAINT unit to SYNCING or INIT. -/
def execResume (by_ : Master) (s : State) : Host.Outcome State Fault Refusal :=
  s.onBus (Instr.resume by_).wellFormed (fun b => wordBy b by_ .IBX_CMD 3)

/-- HANDOVER_REQUEST (R416): A HANDOVER request asks the peer whether it is ready to take the lease. -/
def execHandoverRequest (seq : Nat) (good : Bool) (s : State) : Host.Outcome State Fault Refusal :=
  s.onM (Instr.handoverRequest seq good).wellFormed (fun m => m.handoverFrame 1 seq good)

/-- HANDOVER_READY (R416): A HANDOVER ready lets the active unit complete the cycle, deassert ACT and release. -/
def execHandoverReady (seq : Nat) (good : Bool) (s : State) : Host.Outcome State Fault Refusal :=
  s.onM (Instr.handoverReady seq good).wellFormed (fun m => m.withPair (fun a => a.handoverFrame 2 seq good))

/-- HANDOVER_CANCEL (R416): A HANDOVER cancel stops a planned hand-over unless it follows an extraction warning. -/
def execHandoverCancel (seq : Nat) (good : Bool) (s : State) : Host.Outcome State Fault Refusal :=
  s.onM (Instr.handoverCancel seq good).wellFormed (fun m => m.withPair (fun a => a.handoverFrame 3 seq good))

/-- HANDOVER_TIMEOUT (R416): With no lease gained by the peer 30 ms after RELEASE the former active unit claims again.
-/
def execHandoverTimeout (s : State) : Host.Outcome State Fault Refusal :=
  s.onM (Instr.handoverTimeout).wellFormed (fun m => m.withPair M.handoverTimeout)

/-- TAKEBACK (R417): After holdoff seconds of a healthy preferred unit the active unit starts a hand-over to it. -/
def execTakeback (s : State) : Host.Outcome State Fault Refusal :=
  s.onM (Instr.takeback).wellFormed (fun m => m.withPair M.takeback)

/-- FAILED_RECOVERY (R390): A FAILED unit whose required health bits have read 1 for 10 s enters SYNCING or INIT. -/
def execFailedRecovery (s : State) : Host.Outcome State Fault Refusal :=
  s.onM (Instr.failedRecovery).wellFormed (fun m => m.failedRecovery)

end Sys2Proof.Machine
end

