-- ==== Sys2Proof/Machine/PointRows.lean ====
section
/-! DEFINITION. Meanings of the commands of a family: point directory and Oryx gate (chapter 2). -/

namespace Sys2Proof.Machine

/-- AGE_TICK (R49): Each tick of PTD_CTRL.age_unit advances the age of every point entry, stopping at 0xFFFE. -/
def execAgeTick (s : State) : Host.Outcome State Fault Refusal :=
  s.onM (Instr.ageTick).wellFormed (fun m => m.ageTick)

/-- RETAIN_SAVE (R57): At most 1 s apart the values of retained entries are saved to the retention region. -/
def execRetainSave (s : State) : Host.Outcome State Fault Refusal :=
  s.onM (Instr.retainSave).wellFormed (fun m => m.retainSave)

/-- NOTIFY_SLOT (R70): Each 3.125 µs slot of the 100 µs rotation serves one session's notification queue. -/
def execNotifySlot (place : Nat) (s : State) : Host.Outcome State Fault Refusal :=
  s.onM (Instr.notifySlot place).wellFormed (fun m => m.notifySlot place)

/-- PTD_DIR_READ (R84): Directory command op 0b01 loads the selected entry into w0 and w1, reading zero for an entry not
visible to the tag. -/
def execPtdDirRead (by_ : Master) (s : State) : Host.Outcome State Fault Refusal :=
  s.onBus (Instr.ptdDirRead by_).wellFormed (fun b => wordBy b by_ .PTD_DIR_CMD 1)

/-- PTD_DIR_WRITE (R80): Directory command op 0b10 replaces the whole entry between two gate decisions, subject to the
rights and rules of the directory. -/
def execPtdDirWrite (by_ : Master) (s : State) : Host.Outcome State Fault Refusal :=
  s.onBus (Instr.ptdDirWrite by_).wellFormed (fun b => wordBy b by_ .PTD_DIR_CMD 2)

/-- PTD_DIR_DELETE (R82): Directory command op 0b11 sets the entry to all zero unless the point is forced. -/
def execPtdDirDelete (by_ : Master) (s : State) : Host.Outcome State Fault Refusal :=
  s.onBus (Instr.ptdDirDelete by_).wellFormed (fun b => wordBy b by_ .PTD_DIR_CMD 3)

/-- PTD_SHR_READ (R84): Share-list command op 0b01 loads the list owner and the selected grant. -/
def execPtdShrRead (by_ : Master) (s : State) : Host.Outcome State Fault Refusal :=
  s.onBus (Instr.ptdShrRead by_).wellFormed (fun b => wordBy b by_ .PTD_SHR_CMD 1)

/-- PTD_SHR_WRITE (R58): Share-list command op 0b10 writes the list owner and the selected grant. -/
def execPtdShrWrite (by_ : Master) (s : State) : Host.Outcome State Fault Refusal :=
  s.onBus (Instr.ptdShrWrite by_).wellFormed (fun b => wordBy b by_ .PTD_SHR_CMD 2)

/-- PTD_FRC_READ (R87): Force command op 0b01 loads the selected force entry, showing valid 0 to a tag that does not own
the point. -/
def execPtdFrcRead (by_ : Master) (s : State) : Host.Outcome State Fault Refusal :=
  s.onBus (Instr.ptdFrcRead by_).wellFormed (fun b => wordBy b by_ .PTD_FRC_CMD 1)

/-- PTD_FRC_SET (R71): Force command op 0b10 sets or replaces a force on a forceable point with value and persist flag.
-/
def execPtdFrcSet (by_ : Master) (s : State) : Host.Outcome State Fault Refusal :=
  s.onBus (Instr.ptdFrcSet by_).wellFormed (fun b => wordBy b by_ .PTD_FRC_CMD 2)

/-- PTD_FRC_RELEASE (R76): Force command op 0b11 releases a force and gives the point its requested value. -/
def execPtdFrcRelease (by_ : Master) (s : State) : Host.Outcome State Fault Refusal :=
  s.onBus (Instr.ptdFrcRelease by_).wellFormed (fun b => wordBy b by_ .PTD_FRC_CMD 3)

/-- PTD_CMD_COMPLETE (R85): At the fixed completion time of a PTD command busy returns to 0 and err takes the command's
result. -/
def execPtdCmdComplete (command : PtdUnit) (s : State) : Host.Outcome State Fault Refusal :=
  s.onM (Instr.ptdCmdComplete command).wellFormed (fun m => m.ptdComplete command)

/-- NOTIFY_INTERVAL (R68): The minimum interval of a subscription passes while its point has moved beyond the deadband,
making it a notification candidate. -/
def execNotifyInterval (session : Nat) (point : Nat) (s : State) : Host.Outcome State Fault Refusal :=
  s.onM (Instr.notifyInterval session point).wellFormed (fun m => m.notifyInterval session point)

end Sys2Proof.Machine
end

