-- ==== Sys2Proof/Machine/PowerRows.lean ====
section
/-! DEFINITION. Meanings of the commands of a family: timing islands, performance levels, power domains and supply (chapter 12). -/

namespace Sys2Proof.Machine

/-- CLOCK_MONITOR_FAILURE (R429): A monitor finds a source stopped or out of range and fails over the islands using it.
-/
def execClockMonitorFailure (monitor : Nat) (kind : Nat) (s : State) : Host.Outcome State Fault Refusal :=
  s.onM (Instr.clockMonitorFailure monitor kind).wellFormed (fun m => m.monitorFailure monitor kind)

/-- ARBITRATION_DONE (R430): After 2 ms of counting against XR the failed one of XO and RC is named. -/
def execArbitrationDone (xoOut : Bool) (s : State) : Host.Outcome State Fault Refusal :=
  s.onM (Instr.arbitrationDone xoOut).wellFormed (fun m => m.arbitrationDone xoOut)

/-- RESTORE (R434): Writing TIM_CLK_CMD.restore[i] requests the return of island i to its normal source. -/
def execRestore (by_ : Master) (islands : Nat) (s : State) : Host.Outcome State Fault Refusal :=
  s.onBus (Instr.restore by_ islands).wellFormed (fun b => wordBy b by_ .TIM_CLK_CMD islands)

/-- RESTORE_SWITCH (R434): After 100 ms good the island switches back and fo and pend clear. -/
def execRestoreSwitch (island : Nat) (s : State) : Host.Outcome State Fault Refusal :=
  s.onM (Instr.restoreSwitch island).wellFormed (fun m => m.restoreSwitch island)

/-- LEVEL_REQUEST (R436): PMC_LVL_CMD go requests a performance level, checked and then ramped. -/
def execLevelRequest (by_ : Master) (level : Nat) (s : State) : Host.Outcome State Fault Refusal :=
  s.onBus (Instr.levelRequest by_ level).wellFormed (fun b => wordBy b by_ .PMC_LVL_CMD (2 ^ 31 + level))

/-- VOLTAGE_SETTLED (R437): The core voltage settles at the target, starting the confirmation window or ending a
lowering. -/
def execVoltageSettled (s : State) : Host.Outcome State Fault Refusal :=
  s.onM (Instr.voltageSettled).wellFormed (fun m => m.voltageSettled)

/-- CONFIRMATION_WINDOW (R437): The pace confirmation window ends and the clock steps or the raise is repeated or
abandoned. -/
def execConfirmationWindow (counts : List Nat) (s : State) : Host.Outcome State Fault Refusal :=
  s.onM (Instr.confirmationWindow counts).wellFormed (fun m => m.confirmationWindow counts)

/-- DOMAIN_OFF (R443): Clearing a domain's bit in PMC_PD_REQ switches it off after its transfers retire. -/
def execDomainOff (by_ : Master) (domain : Nat) (s : State) : Host.Outcome State Fault Refusal :=
  s.onBus (Instr.domainOff by_ domain).wellFormed (fun b => fieldBy b by_ F.PMC_PD_REQ_on (putBitN (b.1.get F.PMC_PD_REQ_on) domain false))

/-- DOMAIN_ON (R444): Setting a domain's bit in PMC_PD_REQ closes its power switch. -/
def execDomainOn (by_ : Master) (domain : Nat) (s : State) : Host.Outcome State Fault Refusal :=
  s.onBus (Instr.domainOn by_ domain).wellFormed (fun b => fieldBy b by_ F.PMC_PD_REQ_on (putBitN (b.1.get F.PMC_PD_REQ_on) domain true))

/-- POWER_GOOD (R444): A domain's power becomes good and its clocks, isolation and configuration are restored. -/
def execPowerGood (domain : Nat) (s : State) : Host.Outcome State Fault Refusal :=
  s.onM (Instr.powerGood domain).wellFormed (fun m => m.powerGood domain M.restoreConfig)

/-- PGOOD_TIMEOUT (R444): Power not good within twice its bound puts the domain in FAULT. -/
def execPgoodTimeout (domain : Nat) (s : State) : Host.Outcome State Fault Refusal :=
  s.onM (Instr.pgoodTimeout domain).wellFormed (fun m => m.pgoodTimeout domain)

/-- MC_WAKE (R592): An event offered to H0 while MC is off powers MC and restarts H0. -/
def execMcWake (s : State) : Host.Outcome State Fault Refusal :=
  s.onM (Instr.mcWake).wellFormed (fun m => m.mcWake)

/-- SUPPLY_FAIL_WARNING (R447): The 24 V input below 17.5 V for 20 µs raises the supply-fail warning and starts the
shutdown sequence. -/
def execSupplyFailWarning (vin : Nat) (s : State) : Host.Outcome State Fault Refusal :=
  s.onM (Instr.supplyFailWarning vin).wellFormed (fun m => m.supplyFail vin)

/-- SHUTDOWN_CHECK (R482): At 12 ms after the warning VIN is sampled and service continues or shutdown proceeds to
reset. -/
def execShutdownCheck (vin : Nat) (s : State) : Host.Outcome State Fault Refusal :=
  s.onM (Instr.shutdownCheck vin).wellFormed (fun m => m.shutdownCheck vin)

/-- WARNING_CLEAR (R447): The input at or above 18.5 V for 100 ms clears the warning. -/
def execWarningClear (vin : Nat) (s : State) : Host.Outcome State Fault Refusal :=
  s.onM (Instr.warningClear vin).wellFormed (fun m => m.warningClear vin)

/-- CORE_SUPPLY_FAULT (R448): The core supply outside ±4 % for 1 µs clears core_ok. -/
def execCoreSupplyFault (s : State) : Host.Outcome State Fault Refusal :=
  s.onM (Instr.coreSupplyFault).wellFormed (fun m => m.coreFault)

/-- CORE_SUPPLY_RECOVER (R448): The core supply returns within ±4 % of the level's voltage and core_ok reads 1. -/
def execCoreSupplyRecover (s : State) : Host.Outcome State Fault Refusal :=
  s.onM (Instr.coreSupplyRecover).wellFormed (fun m => m.coreRecover)

end Sys2Proof.Machine
end

