-- ==== Sys2Proof/Machine/RecordRows.lean ====
section
/-! DEFINITION. Meanings of the commands of a family: flight recorder and event log (chapter 16). -/

namespace Sys2Proof.Machine

/-- TRIGGER_RECORD (R514): A queued trigger raise reads the trigger's items and writes one flight recorder record. -/
def execTriggerRecord (s : State) : Host.Outcome State Fault Refusal :=
  s.onBus (Instr.triggerRecord).wellFormed (fun b => triggerRecord b)

/-- LOG_ENTRY (R520): An event-log entry is written to the historian, replacing by severity and tenant quota or dropped.
-/
def execLogEntry (s : State) : Host.Outcome State Fault Refusal :=
  s.onM (Instr.logEntry).wellFormed (fun m => m.logWrite)

/-- RECORD_COPY (R522): Within 10 ms a written record is copied to the recorder area of the historian. -/
def execRecordCopy (s : State) : Host.Outcome State Fault Refusal :=
  s.onM (Instr.recordCopy).wellFormed (fun m => m.recordCopy)

/-- LOAD_RECORD (R523): REC_RD_CMD op 0b01 loads the record with the requested sequence. -/
def execLoadRecord (by_ : Master) (s : State) : Host.Outcome State Fault Refusal :=
  s.onBus (Instr.loadRecord by_).wellFormed (fun b => wordBy b by_ .REC_RD_CMD 1)

/-- LOAD_ENTRY (R523): REC_RD_CMD op 0b10 loads the event-log entry with the requested sequence. -/
def execLoadEntry (by_ : Master) (s : State) : Host.Outcome State Fault Refusal :=
  s.onBus (Instr.loadEntry by_).wellFormed (fun b => wordBy b by_ .REC_RD_CMD 2)

/-- CLEAR_REEL (R526): REC_CLR_CMD op 0b01 with a valid MAC clears the Reel. -/
def execClearReel (by_ : Master) (s : State) : Host.Outcome State Fault Refusal :=
  s.onBus (Instr.clearReel by_).wellFormed (fun b => wordBy b by_ .REC_CLR_CMD 1)

/-- CLEAR_RECORDER (R526): REC_CLR_CMD op 0b10 with a valid MAC clears the whole recorder and applies the new head. -/
def execClearRecorder (by_ : Master) (s : State) : Host.Outcome State Fault Refusal :=
  s.onBus (Instr.clearRecorder by_).wellFormed (fun b => wordBy b by_ .REC_CLR_CMD 2)

/-- CLEAR_LOG (R526): REC_CLR_CMD op 0b11 with a valid MAC removes every event-log entry. -/
def execClearLog (by_ : Master) (s : State) : Host.Outcome State Fault Refusal :=
  s.onBus (Instr.clearLog by_).wellFormed (fun b => wordBy b by_ .REC_CLR_CMD 3)

/-- CLEAR_UNLOCK (R527): Clearing locked after five AUTH answers is unlocked after 60 s. -/
def execClearUnlock (s : State) : Host.Outcome State Fault Refusal :=
  s.onM (Instr.clearUnlock).wellFormed (fun m => m.clearUnlock)

end Sys2Proof.Machine
end

