-- ==== Sys2Proof/Machine/StoreRows.lean ====
section
/-! DEFINITION. Meanings of the commands of a family: parameter store and historian (chapter 17). -/

namespace Sys2Proof.Machine

/-- BUFFER_WRITE (R530): A write to NVP_DATA stores a buffer word, clearing the buffer first for a new owner, and
advances word. -/
def execBufferWrite (by_ : Master) (word : Nat) (s : State) : Host.Outcome State Fault Refusal :=
  s.onBus (Instr.bufferWrite by_ word).wellFormed (fun b => wordBy b by_ .NVP_DATA word)

/-- BUFFER_READ (R531): A read of NVP_DATA returns a buffer word to its owner and advances word. -/
def execBufferRead (by_ : Master) (s : State) : Host.Outcome State Fault Refusal :=
  s.onBus (Instr.bufferRead by_).wellFormed (fun b => readBy b by_ (Reg.NVP_DATA.addr 0 0 0) 4)

/-- PAGE_LOAD (R531): NVP_CMD op load fills the buffer from the addressed page when the read right is held. -/
def execPageLoad (by_ : Master) (s : State) : Host.Outcome State Fault Refusal :=
  s.onBus (Instr.pageLoad by_).wellFormed (fun b => wordBy b by_ .NVP_CMD 1)

/-- PAGE_COMMIT (R534): NVP_CMD op commit writes the buffer to the addressed page atomically. -/
def execPageCommit (by_ : Master) (s : State) : Host.Outcome State Fault Refusal :=
  s.onBus (Instr.pageCommit by_).wellFormed (fun b => wordBy b by_ .NVP_CMD 2)

/-- PAGE_COMMIT_DONE (R534): A commit passes its commit point, releases the old copy and clears busy. -/
def execPageCommitDone (bank : Nat) (retired : Bool) (s : State) : Host.Outcome State Fault Refusal :=
  s.onM (Instr.pageCommitDone bank retired).wellFormed (fun m => m.pageCommitDone bank retired)

/-- OPEN_RD (R533): NVP op open_rd opens a region's read right on a matching password. -/
def execOpenRd (by_ : Master) (region : Nat) (s : State) : Host.Outcome State Fault Refusal :=
  s.onBus (Instr.openRd by_ region).wellFormed (fun b => wordBy b by_ .NVP_CMD (region * 65536 + 3))

/-- OPEN_WR (R533): NVP op open_wr opens a region's write right on a matching password. -/
def execOpenWr (by_ : Master) (region : Nat) (s : State) : Host.Outcome State Fault Refusal :=
  s.onBus (Instr.openWr by_ region).wellFormed (fun b => wordBy b by_ .NVP_CMD (region * 65536 + 4))

/-- CLOSE_RIGHTS (R533): NVP op close closes both rights of a region for the tag. -/
def execCloseRights (by_ : Master) (region : Nat) (s : State) : Host.Outcome State Fault Refusal :=
  s.onBus (Instr.closeRights by_ region).wellFormed (fun b => wordBy b by_ .NVP_CMD (region * 65536 + 5))

/-- SET_RD (R533): NVP op set_rd replaces a region's read password and ends open read rights. -/
def execSetRd (by_ : Master) (region : Nat) (s : State) : Host.Outcome State Fault Refusal :=
  s.onBus (Instr.setRd by_ region).wellFormed (fun b => wordBy b by_ .NVP_CMD (region * 65536 + 6))

/-- SET_WR (R533): NVP op set_wr replaces a region's write password and ends open write rights. -/
def execSetWr (by_ : Master) (region : Nat) (s : State) : Host.Outcome State Fault Refusal :=
  s.onBus (Instr.setWr by_ region).wellFormed (fun b => wordBy b by_ .NVP_CMD (region * 65536 + 7))

/-- OPEN_TIMEOUT (R533): An open right unused for NVP_CTRL.tmo seconds ends. -/
def execOpenTimeout (s : State) : Host.Outcome State Fault Refusal :=
  s.onM (Instr.openTimeout).wellFormed (fun m => m.openTimeout)

/-- MARGIN_SCAN (R537): A page read at tightened thresholds is refreshed by a commit when its margin is poor. -/
def execMarginScan (page : Nat) (found : ScanResult) (s : State) : Host.Outcome State Fault Refusal :=
  s.onM (Instr.marginScan page found).wellFormed (fun m => m.marginScan page found)

/-- TREND_ENABLE (R542): Writing HST_TRn_CFG.en = 1 checks the log and starts a segment. -/
def execTrendEnable (by_ : Master) (log : Nat) (s : State) : Host.Outcome State Fault Refusal :=
  s.onBus (Instr.trendEnable by_ log).wellFormed (fun b => fieldBy b by_ F.HST_TR_CFG_en 1 log)

/-- TREND_SAMPLE (R543): At each multiple of its interval a trend log reads its points and queues a row. -/
def execTrendSample (log : Nat) (s : State) : Host.Outcome State Fault Refusal :=
  s.onM (Instr.trendSample log).wellFormed (fun m => m.trendSample log)

end Sys2Proof.Machine
end

