-- ==== Sys2Proof/Machine/TimeRows.lean ====
section
/-! DEFINITION. Meanings of the commands of a family: calendar and module time (chapter 15). -/

namespace Sys2Proof.Machine

/-- CALENDAR_SECOND (R498): Each calendar second advances the calendar and applies leap seconds, offsets and alarm
matches. -/
def execCalendarSecond (s : State) : Host.Outcome State Fault Refusal :=
  s.onM (Instr.calendarSecond).wellFormed (fun m => m.calendarSecond)

/-- CALENDAR_SET (R500): RTC_SET_CMD op 0b01 sets the calendar from the staging registers and steps module time. -/
def execCalendarSet (by_ : Master) (s : State) : Host.Outcome State Fault Refusal :=
  s.onBus (Instr.calendarSet by_).wellFormed (fun b => wordBy b by_ .RTC_SET_CMD 1)

/-- RTC_TIME_READ (R499): A 32-bit read of RTC_TIME latches RTC_DATE for the same initiator. -/
def execRtcTimeRead (by_ : Master) (s : State) : Host.Outcome State Fault Refusal :=
  s.onBus (Instr.rtcTimeRead by_).wellFormed (fun b => readBy b by_ (Reg.RTC_TIME.addr 0 0 0) 4)

/-- HOLDOVER_EXPIRY (R504): After 60 s of holdover lock clears and RTC_EVT.unlock is set. -/
def execHoldoverExpiry (s : State) : Host.Outcome State Fault Refusal :=
  s.onM (Instr.holdoverExpiry).wellFormed (fun m => m.holdoverExpiry)

/-- TRIM_WINDOW (R505): At the end of a network or mains trim window the rate trim mt is updated. -/
def execTrimWindow (err : Int) (cycles : Nat) (s : State) : Host.Outcome State Fault Refusal :=
  s.onM (Instr.trimWindow err cycles).wellFormed (fun m => m.trimWindow err cycles)

/-- XR_CALIBRATION (R506): After 1,024 s of module time the XR error is written to xr. -/
def execXrCalibration (cycles : Nat) (s : State) : Host.Outcome State Fault Refusal :=
  s.onM (Instr.xrCalibration cycles).wellFormed (fun m => m.xrCalibration cycles)

/-- ALARM_RELEASE (R508): Writing RTC_ALM.rel = 1 clears the alarm latch and releases PWRON. -/
def execAlarmRelease (by_ : Master) (s : State) : Host.Outcome State Fault Refusal :=
  s.onBus (Instr.alarmRelease by_).wellFormed (fun b => fieldBy b by_ F.RTC_ALM_rel 1)

/-- VBAK_LOW (R495): VBAK below 2.0 V for 1 s sets vbak_low. -/
def execVbakLow (s : State) : Host.Outcome State Fault Refusal :=
  s.onM (Instr.vbakLow).wellFormed (fun m => m.vbakLow)

/-- VBAK_RISE (R495): VBAK rises to 2.1 V or above and vbak_low clears. -/
def execVbakRise (s : State) : Host.Outcome State Fault Refusal :=
  s.onM (Instr.vbakRise).wellFormed (fun m => m.vbakRise)

end Sys2Proof.Machine
end

