-- ==== Sys2Proof/Machine/UpdateRows.lean ====
section
/-! DEFINITION. Meanings of the commands of a family: field update and fall-back (chapter 19). -/

namespace Sys2Proof.Machine

/-- INSTALL (R576): UPD_CMD op install copies the active set and installs each component into the other set. -/
def execInstall (by_ : Master) (s : State) : Host.Outcome State Fault Refusal :=
  s.onBus (Instr.install by_).wellFormed (fun b => wordBy b by_ .UPD_CMD 1)

/-- COMPONENT_RESTART (R577): An installed component restarts from the trial set; a failed restart falls back. -/
def execComponentRestart (ok : Bool) (frames : Nat) (s : State) : Host.Outcome State Fault Refusal :=
  s.onM (Instr.componentRestart ok frames).wellFormed (fun m => m.componentRestart ok frames)

/-- DISCARD (R585): UPD_CMD op 0b10 discards the package held. -/
def execDiscard (by_ : Master) (s : State) : Host.Outcome State Fault Refusal :=
  s.onBus (Instr.discard by_).wellFormed (fun b => wordBy b by_ .UPD_CMD 2)

/-- FALLBACK_CMD (R580): UPD_CMD op 0b11 during TRIAL falls back with cause OPER. -/
def execFallbackCmd (by_ : Master) (s : State) : Host.Outcome State Fault Refusal :=
  s.onBus (Instr.fallbackCmd by_).wellFormed (fun b => wordBy b by_ .UPD_CMD 3)

/-- CONFIRM (R578): UPD_CONFIRM with key 0xC0DE confirms or rejects the trial set. -/
def execConfirm (by_ : Master) (key : Nat) (code : Nat) (s : State) : Host.Outcome State Fault Refusal :=
  s.onBus (Instr.confirm by_ key code).wellFormed (fun b => wordBy b by_ .UPD_CONFIRM (key * 65536 + code))

/-- WINDOW_EXPIRY (R580): The confirmation window expiring unconfirmed falls back with cause WINDOW. -/
def execWindowExpiry (s : State) : Host.Outcome State Fault Refusal :=
  s.onM (Instr.windowExpiry).wellFormed (fun m => m.windowExpiry)

end Sys2Proof.Machine
end

