-- ==== Sys2Proof/Machine/VaultRows.lean ====
section
/-! DEFINITION. Meanings of the commands of a family: key vault, life cycle and field access (chapter 18). -/

namespace Sys2Proof.Machine

/-- SLOT_READ (R554): KV_CMD op 0x1 loads a slot's attributes and check value. -/
def execSlotRead (by_ : Master) (s : State) : Host.Outcome State Fault Refusal :=
  s.onBus (Instr.slotRead by_).wellFormed (fun b => wordBy b by_ .KV_CMD 1)

/-- SLOT_WRITE (R554): KV_CMD op 0x2 stores a key with its attributes in a slot. -/
def execSlotWrite (by_ : Master) (s : State) : Host.Outcome State Fault Refusal :=
  s.onBus (Instr.slotWrite by_).wellFormed (fun b => wordBy b by_ .KV_CMD 2)

/-- DERIVE (R554): KV_CMD op 0x3 stores a derived key under the given label. -/
def execDerive (by_ : Master) (s : State) : Host.Outcome State Fault Refusal :=
  s.onBus (Instr.derive by_).wellFormed (fun b => wordBy b by_ .KV_CMD 3)

/-- ERASE (R559): KV_CMD op 0x4 empties a slot. -/
def execErase (by_ : Master) (s : State) : Host.Outcome State Fault Refusal :=
  s.onBus (Instr.erase by_).wellFormed (fun b => wordBy b by_ .KV_CMD 4)

/-- OWNER_PASSWORD (R565): KV_CMD op 0x5 sets the owner password verifier. -/
def execOwnerPassword (by_ : Master) (s : State) : Host.Outcome State Fault Refusal :=
  s.onBus (Instr.ownerPassword by_).wellFormed (fun b => wordBy b by_ .KV_CMD 5)

/-- LIFE_CYCLE_CHANGE (R552): KV_CMD op 0x6 changes the life-cycle state, erases the slots and resets the module. -/
def execLifeCycleChange (by_ : Master) (key : Nat) (target : Nat) (s : State) : Host.Outcome State Fault Refusal :=
  s.onBus (Instr.lifeCycleChange by_ key target).wellFormed (fun b => wordBy b by_ .KV_CMD (key * 65536 + target * 256 + 6))

/-- SLOT_USE (R555): One MAC, encryption or derivation under a slot by an allowed user, decrementing a counted slot. -/
def execSlotUse (slot : Nat) (user : Nat) (s : State) : Host.Outcome State Fault Refusal :=
  s.onM (Instr.slotUse slot user).wellFormed (fun m => m.slotUse slot user)

/-- VAULT_CHECK (R561): The vault check tests roots, slots, engines and the random source and sets kv_ok. -/
def execVaultCheck (passed : Bool) (s : State) : Host.Outcome State Fault Refusal :=
  s.onM (Instr.vaultCheck passed).wellFormed (fun m => m.vaultCheck passed)

/-- ATTESTATION (R562): KV_ATT_CMD.go builds a signed or MACed statement over the challenge. -/
def execAttestation (by_ : Master) (s : State) : Host.Outcome State Fault Refusal :=
  s.onBus (Instr.attestation by_).wellFormed (fun b => fieldBy b by_ F.KV_ATT_CMD_go 1)

/-- OPEN_OWNER (R564): KV_ACC_CMD op 0x1 opens UDBG or SVC on a valid owner proof. -/
def execOpenOwner (by_ : Master) (gates : Nat) (duration : Nat) (s : State) : Host.Outcome State Fault Refusal :=
  s.onBus (Instr.openOwner by_ gates duration).wellFormed (fun b => wordBy b by_ .KV_ACC_CMD (duration * 65536 + gates * 256 + 1))

/-- OPEN_VENDOR (R564): KV_ACC_CMD op 0x2 opens gates on a valid vendor response. -/
def execOpenVendor (by_ : Master) (gates : Nat) (duration : Nat) (s : State) : Host.Outcome State Fault Refusal :=
  s.onBus (Instr.openVendor by_ gates duration).wellFormed (fun b => wordBy b by_ .KV_ACC_CMD (duration * 65536 + gates * 256 + 2))

/-- CLOSE_GATES (R564): KV_ACC_CMD op 0x3 closes the named gates. -/
def execCloseGates (by_ : Master) (gates : Nat) (s : State) : Host.Outcome State Fault Refusal :=
  s.onBus (Instr.closeGates by_ gates).wellFormed (fun b => wordBy b by_ .KV_ACC_CMD (gates * 256 + 3))

/-- GATE_EXPIRY (R563): A gate opened for a duration closes when it ends. -/
def execGateExpiry (s : State) : Host.Outcome State Fault Refusal :=
  s.onM (Instr.gateExpiry).wellFormed (fun m => m.gateExpiry)

/-- OPEN_UNLOCK (R564): Opens locked after five AUTH answers are unlocked after 60 s. -/
def execOpenUnlock (s : State) : Host.Outcome State Fault Refusal :=
  s.onM (Instr.openUnlock).wellFormed (fun m => m.openUnlock)

/-- CORE_HALT (R566): Writing KV_DBG h0_halt or h1_halt halts or resumes a core while its gate is open. -/
def execCoreHalt (by_ : Master) (h0 : Bool) (h1 : Bool) (s : State) : Host.Outcome State Fault Refusal :=
  s.onBus (Instr.coreHalt by_ h0 h1).wellFormed (fun b => wordBy b by_ .KV_DBG (b2n h0 + 2 * b2n h1))

end Sys2Proof.Machine
end

