-- ==== Sys2Proof/Machine/Dispatch.lean ====
section
/-! DEFINITION. The meaning of each command. -/

namespace Sys2Proof.Machine

def exec (i : Instr) (s : State) : Host.Outcome State Fault Refusal :=
  match i with
  | .registerWrite by_ addr width value => Sys2Proof.Machine.execRegisterWrite by_ addr width value s
  | .rcRead by_ addr width => Sys2Proof.Machine.execRcRead by_ addr width s
  | .taiRead by_ => Sys2Proof.Machine.execTaiRead by_ s
  | .pointAccess by_ point op => Sys2Proof.Machine.execPointAccess by_ point op s
  | .paceWindowEnd counts => Sys2Proof.Machine.execPaceWindowEnd counts s
  | .clrMin by_ => Sys2Proof.Machine.execClrMin by_ s
  | .ageTick => Sys2Proof.Machine.execAgeTick s
  | .retainSave => Sys2Proof.Machine.execRetainSave s
  | .notifySlot place => Sys2Proof.Machine.execNotifySlot place s
  | .ptdDirRead by_ => Sys2Proof.Machine.execPtdDirRead by_ s
  | .ptdDirWrite by_ => Sys2Proof.Machine.execPtdDirWrite by_ s
  | .ptdDirDelete by_ => Sys2Proof.Machine.execPtdDirDelete by_ s
  | .ptdShrRead by_ => Sys2Proof.Machine.execPtdShrRead by_ s
  | .ptdShrWrite by_ => Sys2Proof.Machine.execPtdShrWrite by_ s
  | .ptdFrcRead by_ => Sys2Proof.Machine.execPtdFrcRead by_ s
  | .ptdFrcSet by_ => Sys2Proof.Machine.execPtdFrcSet by_ s
  | .ptdFrcRelease by_ => Sys2Proof.Machine.execPtdFrcRelease by_ s
  | .ptdCmdComplete command => Sys2Proof.Machine.execPtdCmdComplete command s
  | .notifyInterval session point => Sys2Proof.Machine.execNotifyInterval session point s
  | .aCellFiring q c slot => Sys2Proof.Machine.execACellFiring q c slot s
  | .tokenAccept q link flipped => Sys2Proof.Machine.execTokenAccept q link flipped s
  | .cellPointAccessIssue q c => Sys2Proof.Machine.execCellPointAccessIssue q c s
  | .cellPointResponse q c => Sys2Proof.Machine.execCellPointResponse q c s
  | .tCellInput q c => Sys2Proof.Machine.execTCellInput q c s
  | .tCellPreset q c => Sys2Proof.Machine.execTCellPreset q c s
  | .timerExpiry q c => Sys2Proof.Machine.execTimerExpiry q c s
  | .cycPeriod q c => Sys2Proof.Machine.execCycPeriod q c s
  | .edgeAccept q c => Sys2Proof.Machine.execEdgeAccept q c s
  | .countToken q c => Sys2Proof.Machine.execCountToken q c s
  | .carryToken q c => Sys2Proof.Machine.execCarryToken q c s
  | .snapshotFence q c => Sys2Proof.Machine.execSnapshotFence q c s
  | .mCellRequest q c two => Sys2Proof.Machine.execMCellRequest q c two s
  | .waveEnd unit => Sys2Proof.Machine.execWaveEnd unit s
  | .stallTimeout q => Sys2Proof.Machine.execStallTimeout q s
  | .springbokWrite path => Sys2Proof.Machine.execSpringbokWrite path s
  | .springbokArm by_ arm => Sys2Proof.Machine.execSpringbokArm by_ arm s
  | .quiesceRequest by_ q => Sys2Proof.Machine.execQuiesceRequest by_ q s
  | .quiesced q => Sys2Proof.Machine.execQuiesced q s
  | .quiesceTimeout q => Sys2Proof.Machine.execQuiesceTimeout q s
  | .quiesceCancel by_ q => Sys2Proof.Machine.execQuiesceCancel by_ q s
  | .selfTestFiring q c found => Sys2Proof.Machine.execSelfTestFiring q c found s
  | .mcellWordTest q c word pass => Sys2Proof.Machine.execMcellWordTest q c word pass s
  | .clrHwm by_ => Sys2Proof.Machine.execClrHwm by_ s
  | .imageVerify by_ => Sys2Proof.Machine.execImageVerify by_ s
  | .imageLoad by_ => Sys2Proof.Machine.execImageLoad by_ s
  | .partialLoad by_ => Sys2Proof.Machine.execPartialLoad by_ s
  | .imageAbort by_ => Sys2Proof.Machine.execImageAbort by_ s
  | .loadComplete => Sys2Proof.Machine.execLoadComplete s
  | .boundaryTransfer at_ => Sys2Proof.Machine.execBoundaryTransfer at_ s
  | .groupCommit by_ block g => Sys2Proof.Machine.execGroupCommit by_ block g s
  | .groupAbort by_ block g => Sys2Proof.Machine.execGroupAbort by_ block g s
  | .taskDue task => Sys2Proof.Machine.execTaskDue task s
  | .imageLatch task => Sys2Proof.Machine.execImageLatch task s
  | .outputRelease task => Sys2Proof.Machine.execOutputRelease task s
  | .errorTaskStart task => Sys2Proof.Machine.execErrorTaskStart task s
  | .stop by_ => Sys2Proof.Machine.execStop by_ s
  | .stopComplete => Sys2Proof.Machine.execStopComplete s
  | .runWarm by_ => Sys2Proof.Machine.execRunWarm by_ s
  | .runCold by_ => Sys2Proof.Machine.execRunCold by_ s
  | .exeAck by_ => Sys2Proof.Machine.execExeAck by_ s
  | .autoRun => Sys2Proof.Machine.execAutoRun s
  | .patchAdd by_ task => Sys2Proof.Machine.execPatchAdd by_ task s
  | .patchCommit by_ => Sys2Proof.Machine.execPatchCommit by_ s
  | .patchAbort by_ => Sys2Proof.Machine.execPatchAbort by_ s
  | .errorTaskDeadline task => Sys2Proof.Machine.execErrorTaskDeadline task s
  | .loopSample channel captured phase => Sys2Proof.Machine.execLoopSample channel captured phase s
  | .loopEvaluation channel => Sys2Proof.Machine.execLoopEvaluation channel s
  | .commitSlot => Sys2Proof.Machine.execCommitSlot s
  | .waltzClear by_ channel => Sys2Proof.Machine.execWaltzClear by_ channel s
  | .waltzSave => Sys2Proof.Machine.execWaltzSave s
  | .frameEnd measured => Sys2Proof.Machine.execFrameEnd measured s
  | .demandIntervalEnd => Sys2Proof.Machine.execDemandIntervalEnd s
  | .meterSave => Sys2Proof.Machine.execMeterSave s
  | .supplyEnable by_ on => Sys2Proof.Machine.execSupplyEnable by_ on s
  | .meterEnable by_ => Sys2Proof.Machine.execMeterEnable by_ s
  | .meterStop by_ => Sys2Proof.Machine.execMeterStop by_ s
  | .sensorSupplyFault => Sys2Proof.Machine.execSensorSupplyFault s
  | .modClockFault => Sys2Proof.Machine.execModClockFault s
  | .modClockReturn => Sys2Proof.Machine.execModClockReturn s
  | .inputFault input => Sys2Proof.Machine.execInputFault input s
  | .clearMaxd by_ circuit => Sys2Proof.Machine.execClearMaxd by_ circuit s
  | .clearEnergies by_ circuit => Sys2Proof.Machine.execClearEnergies by_ circuit s
  | .canEnable by_ bus => Sys2Proof.Machine.execCanEnable by_ bus s
  | .canDisable by_ bus => Sys2Proof.Machine.execCanDisable by_ bus s
  | .integrationDone bus => Sys2Proof.Machine.execIntegrationDone bus s
  | .canFrameReceived bus frame sof => Sys2Proof.Machine.execCanFrameReceived bus frame sof s
  | .frameSent bus sof tdcv => Sys2Proof.Machine.execFrameSent bus sof tdcv s
  | .txRequest by_ bus req => Sys2Proof.Machine.execTxRequest by_ bus req s
  | .rxqPop by_ bus queues => Sys2Proof.Machine.execRxqPop by_ bus queues s
  | .busoffRecovery bus => Sys2Proof.Machine.execBusoffRecovery bus s
  | .refDue bus => Sys2Proof.Machine.execRefDue bus s
  | .sleep by_ bus => Sys2Proof.Machine.execSleep by_ bus s
  | .wake by_ bus => Sys2Proof.Machine.execWake by_ bus s
  | .busWake bus seen => Sys2Proof.Machine.execBusWake bus seen s
  | .stationEnable by_ bus station => Sys2Proof.Machine.execStationEnable by_ bus station s
  | .idr bus data => Sys2Proof.Machine.execIdr bus data s
  | .cfgr bus station data => Sys2Proof.Machine.execCfgr bus station data s
  | .idqRetry bus station => Sys2Proof.Machine.execIdqRetry bus station s
  | .cfgRetry bus station => Sys2Proof.Machine.execCfgRetry bus station s
  | .inReport bus station data => Sys2Proof.Machine.execInReport bus station data s
  | .rej bus station data => Sys2Proof.Machine.execRej bus station data s
  | .stationDropout bus station => Sys2Proof.Machine.execStationDropout bus station s
  | .rejoinRetry bus station => Sys2Proof.Machine.execRejoinRetry bus station s
  | .outRefresh bus station => Sys2Proof.Machine.execOutRefresh bus station s
  | .canError bus error => Sys2Proof.Machine.execCanError bus error s
  | .portEnable by_ port => Sys2Proof.Machine.execPortEnable by_ port s
  | .portDisable by_ port => Sys2Proof.Machine.execPortDisable by_ port s
  | .linkUp port partner => Sys2Proof.Machine.execLinkUp port partner s
  | .linkLoss port => Sys2Proof.Machine.execLinkLoss port s
  | .carryHandover => Sys2Proof.Machine.execCarryHandover s
  | .carryReturn => Sys2Proof.Machine.execCarryReturn s
  | .frameReceived port frame => Sys2Proof.Machine.execFrameReceived port frame s
  | .frameTransmit port => Sys2Proof.Machine.execFrameTransmit port s
  | .pauseFrame port quanta => Sys2Proof.Machine.execPauseFrame port quanta s
  | .pauseHoldEnd port => Sys2Proof.Machine.execPauseHoldEnd port s
  | .lpiEntry port => Sys2Proof.Machine.execLpiEntry port s
  | .lpiReceived port => Sys2Proof.Machine.execLpiReceived port s
  | .loadWindow port rx tx deep => Sys2Proof.Machine.execLoadWindow port rx tx deep s
  | .stepHoldEnd port => Sys2Proof.Machine.execStepHoldEnd port s
  | .wakeListen by_ port on => Sys2Proof.Machine.execWakeListen by_ port on s
  | .sync port message origin receipt correction => Sys2Proof.Machine.execSync port message origin receipt correction s
  | .pdelayReq port message receipt => Sys2Proof.Machine.execPdelayReq port message receipt s
  | .syncTimeout port => Sys2Proof.Machine.execSyncTimeout port s
  | .delayReqSend port => Sys2Proof.Machine.execDelayReqSend port s
  | .open_ p => Sys2Proof.Machine.execOpen p s
  | .proof p => Sys2Proof.Machine.execProof p s
  | .authAnswer place => Sys2Proof.Machine.execAuthAnswer place s
  | .proofTimeout place => Sys2Proof.Machine.execProofTimeout place s
  | .accountUnlock account => Sys2Proof.Machine.execAccountUnlock account s
  | .close_ p => Sys2Proof.Machine.execClose p s
  | .sessionIdleTimeout place => Sys2Proof.Machine.execSessionIdleTimeout place s
  | .keepalive p => Sys2Proof.Machine.execKeepalive p s
  | .status p => Sys2Proof.Machine.execStatus p s
  | .pointRead p => Sys2Proof.Machine.execPointRead p s
  | .pointWrite p => Sys2Proof.Machine.execPointWrite p s
  | .subscribe p => Sys2Proof.Machine.execSubscribe p s
  | .unsubscribe p => Sys2Proof.Machine.execUnsubscribe p s
  | .forceSet p => Sys2Proof.Machine.execForceSet p s
  | .forceRelease p => Sys2Proof.Machine.execForceRelease p s
  | .forceList p => Sys2Proof.Machine.execForceList p s
  | .dirRead p => Sys2Proof.Machine.execDirRead p s
  | .dirWrite p => Sys2Proof.Machine.execDirWrite p s
  | .dirDelete p => Sys2Proof.Machine.execDirDelete p s
  | .shareRead p => Sys2Proof.Machine.execShareRead p s
  | .shareWrite p => Sys2Proof.Machine.execShareWrite p s
  | .regRead p => Sys2Proof.Machine.execRegRead p s
  | .regWrite p => Sys2Proof.Machine.execRegWrite p s
  | .xferBegin p => Sys2Proof.Machine.execXferBegin p s
  | .xferData p => Sys2Proof.Machine.execXferData p s
  | .xferEnd p => Sys2Proof.Machine.execXferEnd p s
  | .xferAbort p => Sys2Proof.Machine.execXferAbort p s
  | .xferTimeout handle => Sys2Proof.Machine.execXferTimeout handle s
  | .netGet p => Sys2Proof.Machine.execNetGet p s
  | .netSet p => Sys2Proof.Machine.execNetSet p s
  | .accountRead p => Sys2Proof.Machine.execAccountRead p s
  | .accountWrite p => Sys2Proof.Machine.execAccountWrite p s
  | .reservedOpcode op p => Sys2Proof.Machine.execReservedOpcode op p s
  | .beatSlot => Sys2Proof.Machine.execBeatSlot s
  | .beat d => Sys2Proof.Machine.execBeat d s
  | .lease d => Sys2Proof.Machine.execLease d s
  | .chState d => Sys2Proof.Machine.execChState d s
  | .release d => Sys2Proof.Machine.execRelease d s
  | .leaseEnd => Sys2Proof.Machine.execLeaseEnd s
  | .renewalMissed slot => Sys2Proof.Machine.execRenewalMissed slot s
  | .witnessLeaseEnd slot => Sys2Proof.Machine.execWitnessLeaseEnd slot s
  | .quietTimeEnd => Sys2Proof.Machine.execQuietTimeEnd s
  | .startWindowEnd slot => Sys2Proof.Machine.execStartWindowEnd slot s
  | .reservedBoundCommitted slot => Sys2Proof.Machine.execReservedBoundCommitted slot s
  | .pactChange level => Sys2Proof.Machine.execPactChange level s
  | .pactTimeout => Sys2Proof.Machine.execPactTimeout s
  | .tetherStateSlot => Sys2Proof.Machine.execTetherStateSlot s
  | .tetherState seq good health epoch image tai => Sys2Proof.Machine.execTetherState seq good health epoch image tai s
  | .mirrorCycleStart => Sys2Proof.Machine.execMirrorCycleStart s
  | .mirror seq good cycle bytes items => Sys2Proof.Machine.execMirror seq good cycle bytes items s
  | .cycleEnd seq good cycle frames bytes crcOk => Sys2Proof.Machine.execCycleEnd seq good cycle frames bytes crcOk s
  | .change seq good record => Sys2Proof.Machine.execChange seq good record s
  | .changeAckTimeout => Sys2Proof.Machine.execChangeAckTimeout s
  | .ack good seq nak => Sys2Proof.Machine.execAck good seq nak s
  | .ackTimeout => Sys2Proof.Machine.execAckTimeout s
  | .bulk seq good offset data => Sys2Proof.Machine.execBulk seq good offset data s
  | .testFrame errors => Sys2Proof.Machine.execTestFrame errors s
  | .tetherLinkDown lanes => Sys2Proof.Machine.execTetherLinkDown lanes s
  | .tetherLinkUp => Sys2Proof.Machine.execTetherLinkUp s
  | .detachTimeout => Sys2Proof.Machine.execDetachTimeout s
  | .healthPublish => Sys2Proof.Machine.execHealthPublish s
  | .peerSilence => Sys2Proof.Machine.execPeerSilence s
  | .readback follows => Sys2Proof.Machine.execReadback follows s
  | .switch by_ => Sys2Proof.Machine.execSwitch by_ s
  | .maint by_ => Sys2Proof.Machine.execMaint by_ s
  | .resume by_ => Sys2Proof.Machine.execResume by_ s
  | .handoverRequest seq good => Sys2Proof.Machine.execHandoverRequest seq good s
  | .handoverReady seq good => Sys2Proof.Machine.execHandoverReady seq good s
  | .handoverCancel seq good => Sys2Proof.Machine.execHandoverCancel seq good s
  | .handoverTimeout => Sys2Proof.Machine.execHandoverTimeout s
  | .takeback => Sys2Proof.Machine.execTakeback s
  | .failedRecovery => Sys2Proof.Machine.execFailedRecovery s
  | .clockMonitorFailure monitor kind => Sys2Proof.Machine.execClockMonitorFailure monitor kind s
  | .arbitrationDone xoOut => Sys2Proof.Machine.execArbitrationDone xoOut s
  | .restore by_ islands => Sys2Proof.Machine.execRestore by_ islands s
  | .restoreSwitch island => Sys2Proof.Machine.execRestoreSwitch island s
  | .levelRequest by_ level => Sys2Proof.Machine.execLevelRequest by_ level s
  | .voltageSettled => Sys2Proof.Machine.execVoltageSettled s
  | .confirmationWindow counts => Sys2Proof.Machine.execConfirmationWindow counts s
  | .domainOff by_ domain => Sys2Proof.Machine.execDomainOff by_ domain s
  | .domainOn by_ domain => Sys2Proof.Machine.execDomainOn by_ domain s
  | .powerGood domain => Sys2Proof.Machine.execPowerGood domain s
  | .pgoodTimeout domain => Sys2Proof.Machine.execPgoodTimeout domain s
  | .mcWake => Sys2Proof.Machine.execMcWake s
  | .supplyFailWarning vin => Sys2Proof.Machine.execSupplyFailWarning vin s
  | .shutdownCheck vin => Sys2Proof.Machine.execShutdownCheck vin s
  | .warningClear vin => Sys2Proof.Machine.execWarningClear vin s
  | .coreSupplyFault => Sys2Proof.Machine.execCoreSupplyFault s
  | .coreSupplyRecover => Sys2Proof.Machine.execCoreSupplyRecover s
  | .enaAssert => Sys2Proof.Machine.execEnaAssert s
  | .enaDeassert => Sys2Proof.Machine.execEnaDeassert s
  | .vinLow vin => Sys2Proof.Machine.execVinLow vin s
  | .vinRecover vin => Sys2Proof.Machine.execVinRecover vin s
  | .peerPresence present => Sys2Proof.Machine.execPeerPresence present s
  | .leverOpen => Sys2Proof.Machine.execLeverOpen s
  | .leverClose => Sys2Proof.Machine.execLeverClose s
  | .lioInputChange line level => Sys2Proof.Machine.execLioInputChange line level s
  | .pwmPeriodEnd line => Sys2Proof.Machine.execPwmPeriodEnd line s
  | .lioEnable by_ en => Sys2Proof.Machine.execLioEnable by_ en s
  | .backupReset => Sys2Proof.Machine.execBackupReset s
  | .powerOnReset => Sys2Proof.Machine.execPowerOnReset s
  | .powerOnResetRelease => Sys2Proof.Machine.execPowerOnResetRelease s
  | .moduleReset by_ key => Sys2Proof.Machine.execModuleReset by_ key s
  | .coreRestart by_ key => Sys2Proof.Machine.execCoreRestart by_ key s
  | .kick by_ => Sys2Proof.Machine.execKick by_ s
  | .managementWatchdog => Sys2Proof.Machine.execManagementWatchdog s
  | .bringUp checks => Sys2Proof.Machine.execBringUp checks s
  | .noPeerTimeout => Sys2Proof.Machine.execNoPeerTimeout s
  | .bringUpTimeout => Sys2Proof.Machine.execBringUpTimeout s
  | .calendarSecond => Sys2Proof.Machine.execCalendarSecond s
  | .calendarSet by_ => Sys2Proof.Machine.execCalendarSet by_ s
  | .rtcTimeRead by_ => Sys2Proof.Machine.execRtcTimeRead by_ s
  | .holdoverExpiry => Sys2Proof.Machine.execHoldoverExpiry s
  | .trimWindow err cycles => Sys2Proof.Machine.execTrimWindow err cycles s
  | .xrCalibration cycles => Sys2Proof.Machine.execXrCalibration cycles s
  | .alarmRelease by_ => Sys2Proof.Machine.execAlarmRelease by_ s
  | .vbakLow => Sys2Proof.Machine.execVbakLow s
  | .vbakRise => Sys2Proof.Machine.execVbakRise s
  | .triggerRecord => Sys2Proof.Machine.execTriggerRecord s
  | .logEntry => Sys2Proof.Machine.execLogEntry s
  | .recordCopy => Sys2Proof.Machine.execRecordCopy s
  | .loadRecord by_ => Sys2Proof.Machine.execLoadRecord by_ s
  | .loadEntry by_ => Sys2Proof.Machine.execLoadEntry by_ s
  | .clearReel by_ => Sys2Proof.Machine.execClearReel by_ s
  | .clearRecorder by_ => Sys2Proof.Machine.execClearRecorder by_ s
  | .clearLog by_ => Sys2Proof.Machine.execClearLog by_ s
  | .clearUnlock => Sys2Proof.Machine.execClearUnlock s
  | .bufferWrite by_ word => Sys2Proof.Machine.execBufferWrite by_ word s
  | .bufferRead by_ => Sys2Proof.Machine.execBufferRead by_ s
  | .pageLoad by_ => Sys2Proof.Machine.execPageLoad by_ s
  | .pageCommit by_ => Sys2Proof.Machine.execPageCommit by_ s
  | .pageCommitDone bank retired => Sys2Proof.Machine.execPageCommitDone bank retired s
  | .openRd by_ region => Sys2Proof.Machine.execOpenRd by_ region s
  | .openWr by_ region => Sys2Proof.Machine.execOpenWr by_ region s
  | .closeRights by_ region => Sys2Proof.Machine.execCloseRights by_ region s
  | .setRd by_ region => Sys2Proof.Machine.execSetRd by_ region s
  | .setWr by_ region => Sys2Proof.Machine.execSetWr by_ region s
  | .openTimeout => Sys2Proof.Machine.execOpenTimeout s
  | .marginScan page found => Sys2Proof.Machine.execMarginScan page found s
  | .trendEnable by_ log => Sys2Proof.Machine.execTrendEnable by_ log s
  | .trendSample log => Sys2Proof.Machine.execTrendSample log s
  | .slotRead by_ => Sys2Proof.Machine.execSlotRead by_ s
  | .slotWrite by_ => Sys2Proof.Machine.execSlotWrite by_ s
  | .derive by_ => Sys2Proof.Machine.execDerive by_ s
  | .erase by_ => Sys2Proof.Machine.execErase by_ s
  | .ownerPassword by_ => Sys2Proof.Machine.execOwnerPassword by_ s
  | .lifeCycleChange by_ key target => Sys2Proof.Machine.execLifeCycleChange by_ key target s
  | .slotUse slot user => Sys2Proof.Machine.execSlotUse slot user s
  | .vaultCheck passed => Sys2Proof.Machine.execVaultCheck passed s
  | .attestation by_ => Sys2Proof.Machine.execAttestation by_ s
  | .openOwner by_ gates duration => Sys2Proof.Machine.execOpenOwner by_ gates duration s
  | .openVendor by_ gates duration => Sys2Proof.Machine.execOpenVendor by_ gates duration s
  | .closeGates by_ gates => Sys2Proof.Machine.execCloseGates by_ gates s
  | .gateExpiry => Sys2Proof.Machine.execGateExpiry s
  | .openUnlock => Sys2Proof.Machine.execOpenUnlock s
  | .coreHalt by_ h0 h1 => Sys2Proof.Machine.execCoreHalt by_ h0 h1 s
  | .install by_ => Sys2Proof.Machine.execInstall by_ s
  | .componentRestart ok frames => Sys2Proof.Machine.execComponentRestart ok frames s
  | .discard by_ => Sys2Proof.Machine.execDiscard by_ s
  | .fallbackCmd by_ => Sys2Proof.Machine.execFallbackCmd by_ s
  | .confirm by_ key code => Sys2Proof.Machine.execConfirm by_ key code s
  | .windowExpiry => Sys2Proof.Machine.execWindowExpiry s
  | .eventEntry core => Sys2Proof.Machine.execEventEntry core s
  | .evcClaim by_ core => Sys2Proof.Machine.execEvcClaim by_ core s
  | .evcDone by_ core source => Sys2Proof.Machine.execEvcDone by_ core source s
  | .softwareRaise by_ source => Sys2Proof.Machine.execSoftwareRaise by_ source s
  | .counterClear by_ groups => Sys2Proof.Machine.execCounterClear by_ groups s
  | .sampleRecord addr user latency data => Sys2Proof.Machine.execSampleRecord addr user latency data s
  | .sampleRead by_ index => Sys2Proof.Machine.execSampleRead by_ index s
  | .sampleClear by_ => Sys2Proof.Machine.execSampleClear by_ s

end Sys2Proof.Machine
end

