-- ==== Sys2Proof/Safety.lean ====
section
/-! DEFINITION. What a run of commands keeps safe: it never stops, and the host memories keep their canonical form; and the
terms in which claims say what a register access leaves. -/

namespace Sys2Proof.Machine

/-- A step answers a next state. -/
def safeStep (s : State) : Prop := ∃ t, step s = .next t

/-- The host memories are in canonical form: addresses strictly rising, no cell of the value an unlisted address reads as. -/
abbrev State.memoryCanonical (s : State) : Prop := sramWf s.sram = true

/-! ### Accesses as claims name them -/

/-- The register windows of the event controller and of the recorder. -/
def eventAddr (a : Nat) : Bool := a / 65536 == 0x4002 || a / 65536 == 0x4008

/-- The sender exists and the spine takes its 32-bit access: no cause of R38 refuses it, and R155 and R156 do not keep it away. -/
def M.accepts (m : M) (by_ : Master) (w : Who) (a : Nat) (write : Bool) : Prop :=
  m.who by_ = some w ∧ m.tenantBarred w a = false ∧ (write = true → viewBarred w a = false) ∧ m.refusal w a 4 write = none

/-- `b` differs from `a` at most in the event controller's and the recorder's registers and state: events have been counted
or raised (R594, R587, R514). -/
structure M.EventsOnly (a b : M) : Prop where
  eq : b = { a with regs := b.regs, ev := b.ev, frec := b.frec }
  regs : ∀ x, eventAddr x = false → aget x b.regs = aget x a.regs

/-- `b` differs from `a` at most in what a register access itself may leave: events counted or raised, the image's dirty mark
and a frame that tells the peer (R157, R399), and the answer, given or waiting for that frame's acknowledgment. -/
structure M.AccessOnly (a b : M) : Prop where
  eq : b = { a with regs := b.regs, ev := b.ev, frec := b.frec, tth := b.tth, out := b.out, krov := { a.krov with held := b.krov.held } }
  regs : ∀ x, eventAddr x = false → x ≠ Reg.UPD_IMG_STAT.addr 0 0 0 → aget x b.regs = aget x a.regs

/-- From `s` to `t` a register access was counted, had an effect, and left no more than its answer and marks. -/
def State.accessTo (s t : State) (effect : M → M) : Prop :=
  t.pending = s.pending ∧ t.sram = s.sram ∧ ∃ e, M.EventsOnly s.m e ∧ M.AccessOnly (effect e) t.m

/-- In `s`, the command `c` is an access that is counted and has an effect, and leaves no more than its answer and marks; a reset
in it that clears the host memories clears them. -/
def State.does (s : State) (c : Instr) (effect : M → M) : Prop :=
  ∃ e m, M.EventsOnly s.m e ∧ M.AccessOnly (effect e) m ∧ exec c s = .next (s.after (m, s.sram))

/-- Registers that a change tells others of: the event controller's and the recorder's windows, the CAN windows, and the image's
dirty mark. -/
def sideAddr (a : Nat) : Bool :=
  eventAddr a || (0x4020 ≤ a / 65536 && a / 65536 ≤ 0x4027) || a == Reg.UPD_IMG_STAT.addr 0 0 0

/-- Registers whose effective word follows when a PWM line starts a period (R461). -/
def pwmAddr (a : Nat) : Bool := (List.range 16).any (fun n => Reg.LIO_PWM.addr n 0 0 == a)

/-- `b` differs from `a` at most in what others are told of a change: events, records, notifications, output frames of remote
stations, PWM periods that start, frames to the peer, the answer, given or waiting (R68, R327, R399, R461, R514). -/
structure M.UpdateOnly (a b : M) : Prop where
  eq : b = { a with regs := b.regs, effs := b.effs, ev := b.ev, frec := b.frec, tth := b.tth, out := b.out, can := b.can,
                    lio := { a.lio with pwm := b.lio.pwm }, krov := { a.krov with held := b.krov.held }
                    pts := { a.pts with subs := b.pts.subs, notes := b.pts.notes } }
  regs : ∀ x, sideAddr x = false → aget x b.regs = aget x a.regs
  effs : ∀ x, pwmAddr x = false → aget x b.effs = aget x a.effs

/-- From `s` to `t` a command had an effect, and left no more than what tells others of it. -/
def State.updateTo (s t : State) (effect : M → M) : Prop :=
  t.pending = s.pending ∧ t.sram = s.sram ∧ ∃ e, M.EventsOnly s.m e ∧ M.UpdateOnly (effect e) t.m

/-! ### The fabric as claims name it -/

/-- The fabric with one quadrant changed. -/
def FabricState.inQuad (f : FabricState) (q : Nat) (g : Quadrant → Quadrant) : FabricState :=
  { f with quads := listMod f.quads q g }

/-- Registers a firing may change: the fabric's event flags, high-water marks and drop counts, and those that tell others. -/
def fabricAddr (a : Nat) : Bool := sideAddr a || (0x40100004 ≤ a && a < 0x40100030)

/-- `b` differs from `a` at most in the fabric, in the entries and forces of points that a fabric register backs (R49), and in what
tells others of that. -/
structure M.FabricOnly (a b : M) : Prop where
  eq : b = { a with regs := b.regs, effs := b.effs, ev := b.ev, frec := b.frec, tth := b.tth, out := b.out, can := b.can,
                    lio := { a.lio with pwm := b.lio.pwm }, fab := b.fab, krov := { a.krov with held := b.krov.held }
                    pts := { a.pts with points := b.pts.points, forces := b.pts.forces, subs := b.pts.subs, notes := b.pts.notes } }
  regs : ∀ x, fabricAddr x = false → aget x b.regs = aget x a.regs
  effs : ∀ x, pwmAddr x = false → aget x b.effs = aget x a.effs
  points : ∀ id, (∀ x ∈ a.pts.points, x.1 = id → x.2.backing ≠ 1) →
    b.pts.points.filter (fun x => x.1 == id) = a.pts.points.filter (fun x => x.1 == id)

/-- From `s` to `t` a quadrant's cells or tokens changed, and nothing but what follows from that. -/
def State.fabricTo (s t : State) (q : Nat) (g : Quadrant → Quadrant) : Prop :=
  t.pending = s.pending ∧ t.sram = s.sram ∧ t.m.fab = s.m.fab.inQuad q g ∧ M.FabricOnly s.m t.m

/-- The token of a type that a valid link takes from an output of a cell; a link that is not valid takes none (R105, R141). -/
def kindToken (cell out link kind : Nat) (v : Word) (unit wave : Nat) : List (LinkId × Token) :=
  if tbit link 15 then [(⟨cell, out⟩, ⟨v, tokenTag kind (fieldN link 2 11) (fieldN link 13 2) unit wave v⟩)] else []

/-- The token a link takes with a result. -/
def linkToken (cell out link : Nat) (v : Word) (unit wave : Nat) : List (LinkId × Token) :=
  kindToken cell out link (sentKind link) v unit wave

/-- A loader command has started: busy, with what it will end with. -/
def M.jobStarted (m : M) (j : LoadJob) : M :=
  ({ m with img := { m.img with job := j, source := m.get F.UPD_IMG_SEL_src } } : M).put F.UPD_IMG_STAT_busy 1

/-- A commit register was written: a block that is stopped has its boundary at once, and so has a port (R165, R353). -/
def M.groupsSettle (m : M) : CommitBlock → M
  | .lpe => if m.bit F.LPE_CTRL_en then m else m.loopGroups
  | .mtr => if m.mtrRuns then m else m.meterGroups
  | .eth x => m.ethGroups x

/-! ### Krovtan as claims name it -/

/-- The requests with an opcode row, and their opcodes (Table 10-2). -/
def krovRows (p : KrovPacket) : List (Instr × Nat) :=
  [(.open_ p, 0x01), (.proof p, 0x02), (.close_ p, 0x03), (.keepalive p, 0x04), (.status p, 0x05), (.pointRead p, 0x10),
   (.pointWrite p, 0x11), (.subscribe p, 0x20), (.unsubscribe p, 0x21), (.forceSet p, 0x30), (.forceRelease p, 0x31),
   (.forceList p, 0x32), (.dirRead p, 0x40), (.dirWrite p, 0x41), (.dirDelete p, 0x42), (.shareRead p, 0x43), (.shareWrite p, 0x44),
   (.regRead p, 0x50), (.regWrite p, 0x51), (.xferBegin p, 0x60), (.xferData p, 0x61), (.xferEnd p, 0x62), (.xferAbort p, 0x63),
   (.netGet p, 0x70), (.netSet p, 0x71), (.accountRead p, 0x80), (.accountWrite p, 0x81)]

/-- The request is a row's, or one with an opcode that has no row (R377). -/
def krovSent (c : Instr) (op : Nat) (p : KrovPacket) : Prop :=
  (c, op) ∈ krovRows p ∨ (c = .reservedOpcode op p ∧ op < 256 ∧ ∀ x ∈ krovRows p, x.2 ≠ op)

/-- A packet arrives on a network where the module listens, is well formed, and names an open session on the packet's port and
network: checks 1 to 4 of Table 10-3. -/
structure M.heard (m : M) (op : Nat) (p : KrovPacket) (place net : Nat) (s : Session) : Prop where
  listens : (m.listens p).1 = some net
  formed : p.formed op = true
  session : p.session ≠ 0
  found : (m.listens p).2.placeOf p.session = some (place, s)
  isOpen : s.place = .open
  port : s.port = p.cls
  network : p.cls = 1 ∨ (s.net = net ∧ s.vid = p.vid)
  enc : op = 2 ∨ p.enc = s.enc

/-- The plain payload of a packet whose MAC is right, decrypted where the session encrypts (R364). -/
def Session.plainOf (s : Session) (op : Nat) (p : KrovPacket) : Option Bytes :=
  if (digestBytes (Config.hmac s.keyMac (p.header op ++ p.payload))).take 16 = p.mac then
    (if s.enc then gcmOpen (s.keyEnc.take 16) (s.nonce 0 p.sequence) (p.header op) p.payload else some p.payload)
  else none

/-- The transaction tag was completed on the session within 10 s (R374). -/
def M.completed (m : M) (s : Session) (tag : Nat) : Prop := ∃ d ∈ s.doneTags, d.1 = tag ∧ m.time.tb < d.2 + 10000000000

/-- A new request that passes checks 1 to 7, is no repetition and meets no transaction limit: `t` is the session it leaves, `w` its
sender, `b` the bus it finds, with its frame received. -/
structure State.requests (st : State) (op : Nat) (p : KrovPacket) (place : Nat) (t : Session) (w : Who) (plain : Bytes) (b : Bus) :
    Prop where
  passes : ∃ net s, st.m.heard op p place net s ∧ op ≠ 2 ∧ s.accepts p.sequence = true ∧ s.plainOf op p = some plain ∧
    t = { (s.mark p.sequence).heardFrom p with lastAt := (st.m.listens p).2.time.tb }
  tag : p.tag ≠ 0
  unused : ∀ h ∈ (st.m.listens p).2.krov.held, h.session ≠ some (t.id, p.tag)
  fresh : p.retry = false ∨ ¬ (st.m.listens p).2.completed t p.tag
  room : b.1.transactionsFull t.id = false
  sender : b.1.who (.session t.id) = some w
  bus : b = ((st.m.listens p).2.setSession place t, st.sram)

/-- The rights Table 10-6 asks of a session for an opcode. -/
def Session.opcodeRights (s : Session) (op : Nat) : Prop :=
  (op ∈ [0x30, 0x31, 0x40, 0x41, 0x43, 0x44] → 2 ≤ s.rank) ∧ (op = 0x51 → 1 ≤ s.rank) ∧
  (op ∈ [0x42, 0x71, 0x80, 0x81] → 3 ≤ s.rank) ∧ (op = 0x42 → s.tenant = 0) ∧
  (op = 0x70 → s.tenant = 0 ∨ 250 < s.tenant) ∧ (op = 0x71 → s.tenant = 0 ∨ s.role = .service)

/-- A request that passes every check before those of its own payload (R362, R377). -/
structure State.serves (st : State) (op : Nat) (p : KrovPacket) (place : Nat) (t : Session) (w : Who) (plain : Bytes) (b : Bus) :
    Prop where
  asked : st.requests op p place t w plain b
  phase : st.m.boot.phase ≠ .recovery
  rights : t.opcodeRights op
  status : p.status = 0

/-- The answer to a request: its response on the session it came on, and what follows. -/
def Session.reply (t : Session) (place op tag status : Nat) (payload : Bytes) (after : After) : Answer :=
  .response place t.id op tag status payload after

/-- The command ends as a request that was executed from the bus `b0` with this status, payload and bus: the response leaves, or it
waits until its time has come and the change frame that tells the peer of what it did is acknowledged (R85, R374, R399). -/
def State.answers (st : State) (c : Instr) (op : Nat) (p : KrovPacket) (place : Nat) (t : Session) (b0 : Bus) (status : Nat)
    (payload : Bytes) (b : Bus) (after : After := .nothing) (ready : Nat := 0) : Prop :=
  let a := t.reply place op p.tag status payload after
  let h : HeldAnswer := ⟨ready, b.1.awaits b0.1, a⟩
  exec c st = .next (st.after (if b.1.mayLeave h then b.1.giveAnswer a else b.1.hold h, b.2))

/-! ### Whole commands as claims name them -/

/-- The command completes and leaves the block at `m` (and the host memories empty where `m` counts one more clearing of them). -/
def State.leaves (s : State) (c : Instr) (m : M) : Prop := exec c s = .next (s.after (m, s.sram))

/-- A message of the unit's witness arrives and is accepted: its address, form, pair, sender, MAC and sequence number (R403); `m` is
the block with its frame received, the key used and the number taken. -/
structure M.hears (a : M) (kind : Nat) (d : ChRx) (c : ChMsg) (m : M) : Prop where
  kind : c.kind = kind
  sender : c.sender = 255
  taken : ∃ m0 k m1, a.takeChamois d = (some c, m0) ∧ m0.chamoisOn = true ∧ c.pair = m0.get F.IBX_PAIR_pair ∧
    m0.useSlot (m0.get F.IBX_PAIR_key) 24 = (some k, m1) ∧ (digestBytes (Config.hmac k c.covered)).take 16 = c.mac ∧
    m1.ibx.rxSeq < c.seq ∧ m = { m1 with ibx := { m1.ibx with rxSeq := c.seq, witAt := some m1.time.tb } }

/-- Registers that a write only stores (R13): their fields are RW and live, and no other rule gives the write an effect. -/
def plainRegs : List Reg :=
  [.PTD_CTRL, .PTD_DIR_SEL, .PTD_DIR_W0, .PTD_DIR_W1, .PTD_SHR_SEL, .PTD_SHR_DATA, .PTD_FRC_SEL, .PTD_FRC_PT, .PTD_FRC_VAL,
   .FAB_ST_CTRL, .UPD_IMG_SEL, .EXE_OLC_SEL, .EXE_OLC_DATA, .CAN_FLT_ID, .CAN_FLT_MASK,
   .IBX_LSAFE, .IBX_CHP_SEL, .RTC_SET_TIME, .RTC_SET_DATE, .RTC_BKP, .NVP_CTRL, .NVP_ADDR, .KV_SEL, .KV_ATTR]

/-- Every waiting command is in range. -/
def State.queueWellFormed (s : State) : Prop := ∀ c ∈ s.pending, c.wellFormed = true

end Sys2Proof.Machine
end

