-- ==== Sys2Proof/Certificates/Slice0/Obligations.lean ====
section
/-! DEFINITION. The statements for the provers: what the spec's rules say of the module, in the terms of the model. -/

open Sys2Proof Sys2Proof.Machine

/-! ### The block: its queue, its memories, its registers -/

/-- The command at the front of the queue acts on the queue's rest; this is how every statement about `exec` reaches a run.  On an
empty queue one timebase period passes; while no answer is held back, nothing else than the time's own follows, and an answer held
for its time alone leaves when that has come (log 20, log 68). -/
def Obligations.StepRunsTheFrontCommand : Prop :=
  (∀ (c : Instr) (rest : List Instr) (s : State), s.pending = c :: rest → step s = exec c { s with pending := rest }) ∧
  (∀ (s : State) (dt : Nat), s.pending = [] →
    dt = (if s.m.get F.PMC_LVL_STAT_level = 0 then 40 else if s.m.get F.PMC_LVL_STAT_level = 1 then 10 else 5) →
    ∃ t, step s = .next t ∧ t.pending = [] ∧
      (s.m.krov.held = [] → t.sram = s.sram ∧ t.m.time.tb = s.m.time.tb + dt ∧ t.m.krov = s.m.krov ∧ t.m.pts = s.m.pts ∧
        t.m.kv = s.m.kv ∧ t.m.nvp = s.m.nvp) ∧
      (∀ r i a, s.m.krov.held = [⟨r, none, .written i a⟩] →
        (r ≤ s.m.time.tb + dt → t.m.krov.held = [] ∧ t.m.out.getLast? = some (.written i a)) ∧
        (s.m.time.tb + dt < r → t.m.krov = s.m.krov)))

/-- Every command answers a next state and leaves the commands that wait behind it; a command that names nothing the module has
changes nothing (log 80). -/
def Obligations.NoCommandStopsTheModule : Prop :=
  ∀ (c : Instr) (s : State),
    (∃ t, exec c s = .next t ∧ t.pending = s.pending) ∧ (c.wellFormed = false → exec c s = .next s)

/-- Every step keeps the host memories in canonical form (addresses strictly rising, no cell of the value an unlisted address
reads as). -/
def Obligations.StepKeepsMemoryCanonical : Prop :=
  ∀ s t : State, s.memoryCanonical → step s = .next t → t.memoryCanonical

/-- The state after reset holds the invariant and an empty queue. -/
def Obligations.ResetIsCanonical : Prop :=
  State.reset.memoryCanonical ∧ State.reset.queueWellFormed ∧ State.reset.pending = []

/-! ### Register and point accesses (chapters 1, 2, 12) -/

/-- REGISTER_WRITE of a register whose fields are RW and live stores exactly the bits of those fields; of a register whose fields
are all RO it changes nothing.  Where no change frame can go to a peer, its answer leaves at once. -/
def Obligations.RegisterWritesFollowTheAccessCodes : Prop :=
  (∀ (s : State) (by_ : Master) (w : Who) (p : Place) (v : Nat), p.reg ∈ plainRegs → placeAt p.addr = some p →
    s.m.accepts by_ w p.addr true → v < 2 ^ 32 →
    ∃ t x, exec (.registerWrite by_ p.addr 4 v) s = .next t ∧ s.accessTo t (fun e => e.wr p.reg x p.i p.j p.k) ∧
      (∀ f ∈ p.reg.spec.fields, wfield x f.lo f.width =
        if f.acc = .rw then fieldN v f.lo f.width else wfield (s.m.rd p.reg p.i p.j p.k) f.lo f.width) ∧
      (s.m.unitState ≠ 4 ∨ s.m.get F.TTH_STAT_link ≠ 2 → t.m.out = s.m.out ++ [.written w.ini p.addr])) ∧
  (∀ (s : State) (by_ : Master) (w : Who) (p : Place) (v : Nat), (∀ f ∈ p.reg.spec.fields, f.acc = .ro) →
    placeAt p.addr = some p → s.m.accepts by_ w p.addr true → v < 2 ^ 32 →
    ∃ t, exec (.registerWrite by_ p.addr 4 v) s = .next t ∧ s.accessTo t (fun e => e))

/-- A refused access changes nothing but the record of the refusal: address, and valid, write, reason, initiator and the count.  An
access that the Krovtan engine keeps from the spine, of a tenant's session to another window than PTD or a write of a VIEW session,
changes nothing at all. -/
def Obligations.RefusedAccessesAreRecorded : Prop :=
  (∀ (s : State) (by_ : Master) (w : Who) (a width v reason : Nat) (write : Bool), s.m.who by_ = some w →
    s.m.tenantBarred w a = false → (write = true → viewBarred w a = false) → a < 2 ^ 32 → width ≤ 8 → v < 256 ^ width →
    s.m.refusal w a width write = some reason →
    ∃ t, exec (if write then .registerWrite by_ a width v else .rcRead by_ a width) s = .next t ∧
      s.accessTo t (fun e =>
        ((if write = true ∧ reason = 2 ∧ a = Reg.SYS_RST_CMD.addr 0 0 0 then e.count F.SYS_RST_STAT_refused else e).wr
          .SYS_BUSERR_ADDR (BitVec.ofNat 32 a)).wr .SYS_BUSERR_INFO
          (BitVec.ofNat 32 (min (s.m.get F.SYS_BUSERR_INFO_count + 1) 0xFFFF * 65536 + 256 + (if write then 128 else 0) +
            reason * 16 + w.ini))) ∧
      t.m.out = s.m.out ++ [.busError w.ini a reason]) ∧
  (∀ (s : State) (by_ : Master) (w : Who) (a width v : Nat), s.m.who by_ = some w →
    (s.m.tenantBarred w a = true → exec (.registerWrite by_ a width v) s = .next s ∧ exec (.rcRead by_ a width) s = .next s) ∧
    (viewBarred w a = true → exec (.registerWrite by_ a width v) s = .next s))

/-- The causes of R38 in their order: the first that applies gives the reason. -/
def Obligations.RefusalReasonsInOrder : Prop :=
  ∀ (m : M) (w : Who) (a width : Nat) (write : Bool),
    (regionOf a = none → m.refusal w a width write = some 1) ∧
    (∀ r, regionOf a = some r →
      (w.ini = 2 → m.userReach a write = false → m.refusal w a width write = some 3) ∧
      ((w.ini = 2 → m.userReach a write = true) →
        (m.reaches w r = false → m.refusal w a width write = some 1) ∧
        (m.reaches w r = true →
          (¬ ((width = 4 ∧ a % 4 = 0) ∨ (width = 8 ∧ a % 8 = 0)) → m.refusal w a width write = some 6) ∧
          (((width = 4 ∧ a % 4 = 0) ∨ (width = 8 ∧ a % 8 = 0)) →
            (r = .bootRom ∨ r = .points → m.refusal w a width write = none) ∧
            (r = .sram0 ∨ r = .sram1 → m.refusal w a width write = if m.domainOn 4 = true then none else some 4) ∧
            (∀ n d, r = .window n d →
              (32768 ≤ a % 65536 → w.tag.expert = false → m.refusal w a width write = some 2) ∧
              ((a % 65536 < 32768 ∨ w.tag.expert = true) →
                (∀ k, d = some k → m.domainOn k = false → m.refusal w a width write = some 4) ∧
                ((∀ k, d = some k → m.domainOn k = true) → m.refusal w a width write = none)))))))

/-- RC_READ answers the register and clears its RC fields; TAI_READ answers the low word of module time and latches the high word
for the same initiator; CLR_MIN sets every pace minimum to 0xFFFF. -/
def Obligations.ReadsThatChangeAndClears : Prop :=
  (∀ (s : State) (by_ : Master) (w : Who) (r : Reg),
    r ∈ [Reg.SYS_BUSERR_INFO, .EXE_DENY, .LPE_SNKDENY, .FAB_ST_FAIL, .TIM_MON_INFO] → s.m.accepts by_ w (r.addr 0 0 0) false →
    ∃ t x, exec (.rcRead by_ (r.addr 0 0 0) 4) s = .next t ∧ s.accessTo t (fun e => e.wr r x) ∧
      t.m.out = s.m.out ++ [.readData w.ini (r.addr 0 0 0) (s.m.rd r)] ∧
      ∀ f ∈ r.spec.fields, wfield x f.lo f.width = if f.acc = .rc then 0 else wfield (s.m.rd r) f.lo f.width) ∧
  (∀ (s : State) (by_ : Master) (w : Who), s.m.accepts by_ w (Reg.TIM_TAI_LO.addr 0 0 0) false →
    ∃ t, exec (.taiRead by_) s = .next t ∧
      s.accessTo t (fun e => { e with time := { e.time with
        latTaiHi := aput w.ini (BitVec.ofNat 32 (s.m.time.tai / 2 ^ 32)) s.m.time.latTaiHi } }) ∧
      t.m.out = s.m.out ++ [.readData w.ini (Reg.TIM_TAI_LO.addr 0 0 0) (BitVec.ofNat 32 s.m.time.tai)] ∧
      t.m.view w .TIM_TAI_HI 0 0 0 = BitVec.ofNat 32 (s.m.time.tai / 2 ^ 32)) ∧
  (∀ (s : State) (by_ : Master) (w : Who), s.m.accepts by_ w (Reg.SYS_PACE_CTRL.addr 0 0 0) true →
    ∃ t, exec (.clrMin by_) s = .next t ∧ (∀ n < 6, t.m.get F.SYS_PACE_CNT_min n = 0xFFFF ∧
      t.m.get F.SYS_PACE_CNT_last n = s.m.get F.SYS_PACE_CNT_last n) ∧ t.m.get F.SYS_PACE_CTRL_en = s.m.get F.SYS_PACE_CTRL_en)

/-- POINT_ACCESS: a point that the sender's tag does not see answers the absent pattern, whatever it holds, and a write to it
changes nothing; a visible point answers its entry; a granted write of a point that is not forced stores the bits its kind holds
with age 0, of a forced one only the requested value; a granted subscription of 1 ms to 60 s is made, starting from the value and
status that stand, and one outside that range is not. -/
def Obligations.PointAccessesPassTheGate : Prop :=
  (∀ (s : State) (by_ : Master) (w : Who) (id : Nat), s.m.who by_ = some w → id < 65536 →
    ∃ t, exec (.pointAccess by_ id .read) s = .next t ∧ t.m.pts = s.m.pts ∧ t.sram = s.sram ∧
      t.m.out = s.m.out ++ [.pointData w.ini id (if s.m.sees w id then s.m.pointEntry id else 0xFFFF800000000000)]) ∧
  (∀ (s : State) (by_ : Master) (w : Who) (id : Nat) (v : Word), s.m.who by_ = some w → id < 65536 → s.m.sees w id = false →
    ∃ t, exec (.pointAccess by_ id (.write v)) s = .next t ∧ t.sram = s.sram ∧
      M.EventsOnly { s.m with out := t.m.out } t.m ∧ t.m.out = s.m.out ++ [.pointData w.ini id 0xFFFF800000000000]) ∧
  (∀ (s : State) (by_ : Master) (w : Who) (id : Nat) (v : Word) (p : PointRec), s.m.who by_ = some w → id < 65536 →
    s.m.gate w .write id = .granted → s.m.point id = some p → s.m.forceOf id = none →
    ∃ t q, exec (.pointAccess by_ id (.write v)) s = .next t ∧ t.m.point id = some q ∧ q.w0 = p.w0 ∧ q.w1 = p.w1 ∧
      q.value = p.holds v ∧ q.age = 0 ∧ (p.backing ≠ 1 → q.status = p.status - Nat.land p.status stRetained)) ∧
  (∀ (s : State) (by_ : Master) (w : Who) (id i : Nat) (v : Word) (p : PointRec) (f : ForceRec), s.m.who by_ = some w → id < 65536 →
    s.m.gate w .write id = .granted → s.m.point id = some p → s.m.forceOf id = some (i, f) →
    ∃ t, exec (.pointAccess by_ id (.write v)) s = .next t ∧ t.m.point id = some p ∧
      aget i t.m.pts.forces = some { f with requested := p.holds v, reqAge := 0 }) ∧
  (∀ (s : State) (session id i st : Nat) (w : Who) (b v : Word) (p : PointRec), s.m.who (.session session) = some w → id < 65536 →
    (1 ≤ i → i ≤ 60000 → s.m.gate w .subscribe id = .granted → s.m.point id = some p → (v, st) = s.m.shown id p →
      (∀ u ∈ s.m.pts.subs, u.session = session → u.point ≠ id) → s.m.pts.subs.length < 8192 →
      (s.m.pts.subs.filter (fun u => u.session == session)).length < 1024 →
      exec (.pointAccess (.session session) id (.subscribe i b)) s = .next { s with m := { s.m with pts := { s.m.pts with
        subs := s.m.pts.subs ++ [⟨session, id, if p.kind = 3 then b else 0, i, v, st, s.m.time.tb, false, false⟩] } } }) ∧
    (i = 0 ∨ 60000 < i → exec (.pointAccess (.session session) id (.subscribe i b)) s = .next s))

/-- PACE_WINDOW_END: with the probes disabled it changes nothing; while they are enabled, a window that met a change or a ramp is
discarded with SYS_PACE_STAT.disc, and the next one is clean again unless a ramp goes on; any other writes each probe's count and
smallest count, and sets the bit of exactly each probe below the floor of the level. -/
def Obligations.PaceWindowsAreCounted : Prop :=
  (∀ (s : State) (counts : List Nat), s.m.bit F.SYS_PACE_CTRL_en = false → exec (.paceWindowEnd counts) s = .next s) ∧
  (∀ (s : State) (counts : List Nat), (Instr.paceWindowEnd counts).wellFormed = true → s.m.bit F.SYS_PACE_CTRL_en = true →
    (s.m.power.windowDirty = true ∨ s.m.ramping = true) →
    ∃ t, exec (.paceWindowEnd counts) s = .next t ∧ t.m.get F.SYS_PACE_STAT_disc = 1 ∧ t.m.power.windowDirty = s.m.ramping ∧
      ∀ n < 6, t.m.rd .SYS_PACE_CNT n = s.m.rd .SYS_PACE_CNT n) ∧
  (∀ (s : State) (counts : List Nat), (Instr.paceWindowEnd counts).wellFormed = true → s.m.bit F.SYS_PACE_CTRL_en = true →
    s.m.power.windowDirty = false → s.m.ramping = false → s.m.get F.SYS_PACE_CTRL_act = 0 →
    ∃ t, exec (.paceWindowEnd counts) s = .next t ∧
      (∀ n < 6, t.m.get F.SYS_PACE_CNT_last n = counts.getD n 0 ∧
        t.m.get F.SYS_PACE_CNT_min n = min (counts.getD n 0) (s.m.get F.SYS_PACE_CNT_min n) ∧
        t.m.bitOf F.SYS_PACE_STAT_low n =
          (decide (counts.getD n 0 < s.m.get F.SYS_PACE_FLOOR_floor) || s.m.bitOf F.SYS_PACE_STAT_low n)))

/-! ### The directory, the share lists, the force table, notifications (chapter 2) -/

/-- Directory commands are ignored while busy reads 1.  PTD_DIR_READ shows the selected entry to tenant 0 OWNER, the system tag and a
tag that sees the point, zero to any other.  PTD_DIR_WRITE and PTD_DIR_DELETE: the first rule broken, in the order of R620, gives the
error, and nothing else changes.  A write that breaks none replaces the whole entry: a new entry and another backing read what the
backing presents, the same owner and backing keep value, status and age, another owner starts at value and age zero with the status
its backing sets, and backing 0 removes the entry (what an entry reads at first is the model's choice, log 94).  The result waits
until PTD_CMD_COMPLETE at the fixed time of R85, which clears busy and shows it in err; before that time nothing shows. -/
def Obligations.DirectoryCommandsAct : Prop :=
  (∀ (s : State) (by_ : Master) (w : Who) (c : Instr), s.m.accepts by_ w (Reg.PTD_DIR_CMD.addr 0 0 0) true →
    s.m.bit F.PTD_DIR_STAT_busy = true → c ∈ [Instr.ptdDirRead by_, .ptdDirWrite by_, .ptdDirDelete by_] →
    ∃ t, exec c s = .next t ∧ s.accessTo t (fun e => e)) ∧
  (∀ (s : State) (by_ : Master) (w : Who) (a b : Word) (due : Nat), s.m.accepts by_ w (Reg.PTD_DIR_CMD.addr 0 0 0) true →
    s.m.bit F.PTD_DIR_STAT_busy = false →
    due = s.m.time.tb + 500 + (if s.m.unitState = 4 ∧ (s.m.peerState = 1 ∨ s.m.peerState = 2) then 1000000 else 0) →
    (a, b) = (match s.m.point (s.m.get F.PTD_DIR_SEL_id) with
      | some p => if w.tag = .system ∨ w.tag.owner0 = true ∨ s.m.sees w (s.m.get F.PTD_DIR_SEL_id) = true then (p.w0, p.w1) else (0, 0)
      | none => (0, 0)) →
    ∃ t, exec (.ptdDirRead by_) s = .next t ∧ s.accessTo t (fun e =>
      ({ (e.wr .PTD_DIR_W0 a).wr .PTD_DIR_W1 b with pts := { e.pts with dirCmd := some ⟨0, due⟩ } } : M).put F.PTD_DIR_STAT_busy 1)) ∧
  (∀ (s : State) (by_ : Master) (w : Who) (id due code : Nat) (n o : PointRec),
    s.m.accepts by_ w (Reg.PTD_DIR_CMD.addr 0 0 0) true → s.m.bit F.PTD_DIR_STAT_busy = false → id = s.m.get F.PTD_DIR_SEL_id →
    due = s.m.time.tb + 500 + (if s.m.unitState = 4 ∧ (s.m.peerState = 1 ∨ s.m.peerState = 2) then 1000000 else 0) →
    n = ⟨s.m.rd .PTD_DIR_W0 &&& 0xFEFFFFFF, s.m.rd .PTD_DIR_W1, false, 0, 0, 0⟩ → o = (s.m.point id).getD ⟨0, 0, false, 0, 0, 0⟩ →
    code = (if dirRights w.tag (s.m.point id) n = false then 2
      else if s.m.entryValid id n = false ∨ (s.m.point id ≠ none ∧ o.owner ≠ n.owner ∧ n.share ≠ 0) then 5
      else if s.m.forceOf id ≠ none ∧ (o.owner ≠ n.owner ∨ o.backing ≠ n.backing ∨ o.ref ≠ n.ref ∨
        (o.forceable = true ∧ n.forceable = false)) then 4
      else if s.m.dirHeld = true ∧ stopFields o n = true ∧ ¬ (s.m.point id = none ∧ (n.backing = 4 ∨ n.backing = 6)) then 1
      else if n.isLocal = true ∧ o.isLocal = false ∧ 16384 ≤ s.m.localCount then 3
      else if n.retain = true ∧ n.backing ≠ 0 ∧ o.retain = false ∧ 4096 ≤ s.m.retainCount then 6
      else 0) →
    (code ≠ 0 → ∃ t, exec (.ptdDirWrite by_) s = .next t ∧
      s.accessTo t (fun e => ({ e with pts := { e.pts with dirCmd := some ⟨code, due⟩ } } : M).put F.PTD_DIR_STAT_busy 1)) ∧
    (code = 0 → n.backing = 0 → ∃ t, exec (.ptdDirWrite by_) s = .next t ∧ t.m.point id = none ∧
      s.updateTo t (fun e => ({ e with pts := { e.pts with points := adel id e.pts.points, dirCmd := some ⟨0, due⟩ } } : M).put
        F.PTD_DIR_STAT_busy 1)) ∧
    (code = 0 → n.backing ≠ 0 → ∃ t p, exec (.ptdDirWrite by_) s = .next t ∧
      s.updateTo t (fun e => ({ e with pts := { e.pts with
        points := if s.m.point id = none then aput id p e.pts.points else amod id (fun _ => p) e.pts.points
        dirCmd := some ⟨0, due⟩ } } : M).put F.PTD_DIR_STAT_busy 1) ∧
      p.w0 = n.w0 ∧ p.w1 = n.w1 ∧
      (p.value, p.status, p.age) = (if s.m.point id = none then
          (keepKind n.kind ((s.m.backingValue n).getD 0), s.m.backingBits n, 0)
        else if o.owner ≠ n.owner then (0, s.m.backingBits n, 0)
        else if o.backing = n.backing ∧ o.ref = n.ref then (keepKind n.kind o.value, o.status, o.age)
        else (keepKind n.kind ((s.m.backingValue n).getD o.value), s.m.backingBits n,
          if (s.m.backingValue n).isSome then 0 else o.age)))) ∧
  (∀ (s : State) (by_ : Master) (w : Who) (id due code : Nat), s.m.accepts by_ w (Reg.PTD_DIR_CMD.addr 0 0 0) true →
    s.m.bit F.PTD_DIR_STAT_busy = false → id = s.m.get F.PTD_DIR_SEL_id →
    due = s.m.time.tb + 500 + (if s.m.unitState = 4 ∧ (s.m.peerState = 1 ∨ s.m.peerState = 2) then 1000000 else 0) →
    code = (if ¬ (w.tag = .system ∨ w.tag.owner0 = true) then 2 else if id = 0xFFFF then 5 else if s.m.forceOf id ≠ none then 4
      else if s.m.dirHeld = true ∧ s.m.point id ≠ none then 1 else 0) →
    (code ≠ 0 → ∃ t, exec (.ptdDirDelete by_) s = .next t ∧
      s.accessTo t (fun e => ({ e with pts := { e.pts with dirCmd := some ⟨code, due⟩ } } : M).put F.PTD_DIR_STAT_busy 1)) ∧
    (code = 0 → ∃ t, exec (.ptdDirDelete by_) s = .next t ∧ t.m.point id = none ∧
      s.updateTo t (fun e => ({ e with pts := { e.pts with points := adel id e.pts.points, dirCmd := some ⟨0, due⟩ } } : M).put
        F.PTD_DIR_STAT_busy 1))) ∧
  (∀ (s : State) (err due : Nat), s.m.pts.dirCmd = some ⟨err, due⟩ → err < 8 →
    (s.m.time.tb < due → exec (.ptdCmdComplete .directory) s = .next s) ∧
    (due ≤ s.m.time.tb → ∃ t x, exec (.ptdCmdComplete .directory) s = .next t ∧
      t = { s with m := ({ s.m with pts := { s.m.pts with dirCmd := none } } : M).wr .PTD_DIR_STAT x } ∧
      t.m.bit F.PTD_DIR_STAT_busy = false ∧ t.m.get F.PTD_DIR_STAT_err = err))

/-- Share-list commands are ignored while busy reads 1.  PTD_SHR_READ shows a list to its owner, tenant 0 OWNER and the system tag,
and owner 0 with an empty grant to any other; list 0 completes with INVAL (the model takes Table 2-10 here, log 94).
PTD_SHR_WRITE: who may not gets RIGHTS, numbers out of range and an owner that entries of the list do not have get INVAL, and
nothing else changes; any other stores owner and grant.  PTD_CMD_COMPLETE clears busy and shows the result at the time of R85. -/
def Obligations.ShareListCommandsAct : Prop :=
  (∀ (s : State) (by_ : Master) (w : Who) (c : Instr), s.m.accepts by_ w (Reg.PTD_SHR_CMD.addr 0 0 0) true →
    s.m.bit F.PTD_SHR_STAT_busy = true → c ∈ [Instr.ptdShrRead by_, .ptdShrWrite by_] →
    ∃ t, exec c s = .next t ∧ s.accessTo t (fun e => e)) ∧
  (∀ (s : State) (by_ : Master) (w : Who) (l k o g due : Nat) (may : Prop), s.m.accepts by_ w (Reg.PTD_SHR_CMD.addr 0 0 0) true →
    s.m.bit F.PTD_SHR_STAT_busy = false → l = s.m.get F.PTD_SHR_SEL_list → k = s.m.get F.PTD_SHR_SEL_slot →
    due = s.m.time.tb + 500 + (if s.m.unitState = 4 ∧ (s.m.peerState = 1 ∨ s.m.peerState = 2) then 1000000 else 0) →
    may = (w.tag = .system ∨ w.tag.owner0 = true ∨
      ∃ r, w.tag = .mk (s.m.shareList l).owner r ∧ aget l s.m.pts.shares ≠ none) →
    (may → (o, g) = ((s.m.shareList l).owner, (s.m.shareList l).grants.getD k 0)) → (¬ may → (o, g) = (0, 0)) →
    ∃ t, exec (.ptdShrRead by_) s = .next t ∧ s.accessTo t (fun e => if l = 0 then
        ({ e with pts := { e.pts with shrCmd := some ⟨5, due⟩ } } : M).put F.PTD_SHR_STAT_busy 1
      else ({ (e.put F.PTD_SHR_DATA_owner o).put F.PTD_SHR_DATA_grant g with
        pts := { e.pts with shrCmd := some ⟨0, due⟩ } } : M).put F.PTD_SHR_STAT_busy 1)) ∧
  (∀ (s : State) (by_ : Master) (w : Who) (l k o g due : Nat) (list : ShareList) (may right : Prop),
    s.m.accepts by_ w (Reg.PTD_SHR_CMD.addr 0 0 0) true →
    s.m.bit F.PTD_SHR_STAT_busy = false → l = s.m.get F.PTD_SHR_SEL_list → k = s.m.get F.PTD_SHR_SEL_slot →
    o = s.m.get F.PTD_SHR_DATA_owner → g = s.m.get F.PTD_SHR_DATA_grant → list = s.m.shareList l →
    due = s.m.time.tb + 500 + (if s.m.unitState = 4 ∧ (s.m.peerState = 1 ∨ s.m.peerState = 2) then 1000000 else 0) →
    may = (w.tag = .system ∨
      (∃ r, w.tag = .mk list.owner r ∧ (r = .engineer ∨ r = .owner) ∧ (list.owner = o ∨ (list.owner = 0 ∧ r = .owner))) ∨
      (w.tag = .mk 0 .owner ∧ list.grants.getD k 0 = Nat.land g 0xFF0F)) →
    right = (l ≠ 0 ∧ (o ≤ 250 ∨ o = 255) ∧ (fieldN g 8 8 ≤ 250 ∨ 254 ≤ fieldN g 8 8) ∧
      (list.owner ≠ o → ∀ p ∈ s.m.pts.points, p.2.share = l → p.2.owner = o)) →
    (¬ may → ∃ t, exec (.ptdShrWrite by_) s = .next t ∧
      s.accessTo t (fun e => ({ e with pts := { e.pts with shrCmd := some ⟨2, due⟩ } } : M).put F.PTD_SHR_STAT_busy 1)) ∧
    (may → ¬ right → ∃ t, exec (.ptdShrWrite by_) s = .next t ∧
      s.accessTo t (fun e => ({ e with pts := { e.pts with shrCmd := some ⟨5, due⟩ } } : M).put F.PTD_SHR_STAT_busy 1)) ∧
    (may → right → ∃ t, exec (.ptdShrWrite by_) s = .next t ∧
      s.updateTo t (fun e => ({ e with pts := { e.pts with
        shrCmd := some ⟨0, due⟩
        shares := aput l ⟨o, listSet list.grants k (Nat.land g 0xFF0F)⟩ e.pts.shares } } : M).put F.PTD_SHR_STAT_busy 1))) ∧
  (∀ (s : State) (err due : Nat), s.m.pts.shrCmd = some ⟨err, due⟩ → err < 8 →
    (s.m.time.tb < due → exec (.ptdCmdComplete .share) s = .next s) ∧
    (due ≤ s.m.time.tb → ∃ t x, exec (.ptdCmdComplete .share) s = .next t ∧
      t = { s with m := ({ s.m with pts := { s.m.pts with shrCmd := none } } : M).wr .PTD_SHR_STAT x } ∧
      t.m.bit F.PTD_SHR_STAT_busy = false ∧ t.m.get F.PTD_SHR_STAT_err = err))

/-- Force commands are ignored while busy reads 1.  PTD_FRC_READ shows the selected force to tenant 0 OWNER, the system tag and the
owner of its point, and zero to any other and where the place is free or its point no one's.  PTD_FRC_SET by who may force the point
takes a free place, keeps the value that stood as the requested one, and the point reads the force; on a forced point it replaces
value, persistence and sender.  PTD_FRC_RELEASE frees the place and the point takes the requested value.  Who may not gets RIGHTS, a
full table FULL, a point not forced NOTFORCED, and nothing else changes.  PTD_CMD_COMPLETE clears busy and shows the result at the
time of R85, 3.6 ms later for a persistent set. -/
def Obligations.ForceCommandsAct : Prop :=
  (∀ (s : State) (by_ : Master) (w : Who) (c : Instr), s.m.accepts by_ w (Reg.PTD_FRC_CMD.addr 0 0 0) true →
    s.m.bit F.PTD_FRC_STAT_busy = true → c ∈ [Instr.ptdFrcRead by_, .ptdFrcSet by_, .ptdFrcRelease by_] →
    ∃ t, exec c s = .next t ∧ s.accessTo t (fun e => e)) ∧
  (∀ (s : State) (by_ : Master) (w : Who) (due : Nat), s.m.accepts by_ w (Reg.PTD_FRC_CMD.addr 0 0 0) true →
    s.m.bit F.PTD_FRC_STAT_busy = false →
    due = s.m.time.tb + 500 + (if s.m.unitState = 4 ∧ (s.m.peerState = 1 ∨ s.m.peerState = 2) then 1000000 else 0) →
    ∃ t, exec (.ptdFrcRead by_) s = .next t ∧ t.m.pts.forces = s.m.pts.forces ∧ t.m.pts.points = s.m.pts.points ∧
      t.m.bit F.PTD_FRC_STAT_busy = true ∧ t.m.pts.frcCmd = some ⟨0, due⟩ ∧
      (t.m.rd .PTD_FRC_PT, t.m.rd .PTD_FRC_VAL, t.m.rd .PTD_FRC_REQ) =
        (match aget (s.m.get F.PTD_FRC_SEL_index) s.m.pts.forces with
         | some f => (match s.m.point f.point with
           | some p => if (match w.tag with | .system => true | .mk t _ => w.tag.owner0 || p.owner == t) = true then
               (BitVec.ofNat 32 (2 ^ 31 + b2n f.persist * 2 ^ 16 + f.point), f.value, s.m.requestedNow f)
             else (0, 0, 0)
           | none => (0, 0, 0))
         | none => (0, 0, 0))) ∧
  (∀ (s : State) (by_ : Master) (w : Who) (id due code : Nat), s.m.accepts by_ w (Reg.PTD_FRC_CMD.addr 0 0 0) true →
    s.m.bit F.PTD_FRC_STAT_busy = false → id = s.m.get F.PTD_FRC_PT_point →
    due = s.m.time.tb + 500 + (if s.m.unitState = 4 ∧ (s.m.peerState = 1 ∨ s.m.peerState = 2) then 1000000 else 0) →
    (code = (if s.m.mayForce w id = false then 2 else if s.m.forceOf id = none ∧ 1024 ≤ s.m.pts.forces.length then 6 else 0) →
      code ≠ 0 → ∃ t, exec (.ptdFrcSet by_) s = .next t ∧ s.accessTo t (fun e => ({ e with pts := { e.pts with
        frcCmd := some ⟨code, due + (if s.m.bit F.PTD_FRC_PT_persist = true then 3600000 else 0)⟩ } } : M).put F.PTD_FRC_STAT_busy 1)) ∧
    (code = (if s.m.mayForce w id = false then 2 else if s.m.forceOf id = none then 7 else 0) → code ≠ 0 →
      ∃ t, exec (.ptdFrcRelease by_) s = .next t ∧ s.accessTo t (fun e => ({ e with pts := { e.pts with
        frcCmd := some ⟨code, due⟩ } } : M).put F.PTD_FRC_STAT_busy 1))) ∧
  (∀ (s : State) (by_ : Master) (w : Who) (id i t0 r0 due : Nat) (p : PointRec) (v : Word) (persist : Bool) (port : Option Nat),
    s.m.accepts by_ w (Reg.PTD_FRC_CMD.addr 0 0 0) true → s.m.bit F.PTD_FRC_STAT_busy = false → s.m.mayForce w id = true →
    id = s.m.get F.PTD_FRC_PT_point → s.m.point id = some p → v = keepKind p.kind (s.m.rd .PTD_FRC_VAL) →
    persist = s.m.bit F.PTD_FRC_PT_persist →
    due = s.m.time.tb + 500 + (if s.m.unitState = 4 ∧ (s.m.peerState = 1 ∨ s.m.peerState = 2) then 1000000 else 0) + (if persist = true then 3600000 else 0) →
    (t0, r0) = (match w.tag with
      | .system => (0, 255)
      | .mk t r => (t, r.code)) →
    port = (w.session.bind s.m.openSession).map Session.port →
    (s.m.forceOf id = none → s.m.pts.forces.length < 1024 → freeKey 1024 s.m.pts.forces = some i →
      ∃ t q, exec (.ptdFrcSet by_) s = .next t ∧ t.m.bit F.PTD_FRC_STAT_busy = true ∧ t.m.pts.frcCmd = some ⟨0, due⟩ ∧
        t.m.get F.PTD_FRC_SEL_index = i ∧ aget i t.m.pts.forces =
          some ⟨id, v, s.m.timerValue id p, t0, r0, port, s.m.time.tai, persist, s.m.shownAge id p⟩ ∧
        t.m.point id = some q ∧ q.w0 = p.w0 ∧ q.w1 = p.w1 ∧ q.value = v ∧ q.age = 0 ∧ (p.backing ≠ 1 → q.status = p.status)) ∧
    (∀ f, s.m.forceOf id = some (i, f) → i < 1024 →
      ∃ t q, exec (.ptdFrcSet by_) s = .next t ∧ t.m.bit F.PTD_FRC_STAT_busy = true ∧ t.m.pts.frcCmd = some ⟨0, due⟩ ∧
        t.m.get F.PTD_FRC_SEL_index = i ∧ t.m.point id = some q ∧ q.w0 = p.w0 ∧ q.w1 = p.w1 ∧ q.value = v ∧
        (p.backing ≠ 1 → q.age = p.age ∧ aget i t.m.pts.forces =
          some { f with value := v, persist := persist, tenant := t0, role := r0, port := port }))) ∧
  (∀ (s : State) (by_ : Master) (w : Who) (id i due : Nat) (p : PointRec) (f : ForceRec),
    s.m.accepts by_ w (Reg.PTD_FRC_CMD.addr 0 0 0) true → s.m.bit F.PTD_FRC_STAT_busy = false → s.m.mayForce w id = true →
    id = s.m.get F.PTD_FRC_PT_point → s.m.point id = some p → s.m.forceOf id = some (i, f) →
    due = s.m.time.tb + 500 + (if s.m.unitState = 4 ∧ (s.m.peerState = 1 ∨ s.m.peerState = 2) then 1000000 else 0) →
    ∃ t q, exec (.ptdFrcRelease by_) s = .next t ∧ t.m.bit F.PTD_FRC_STAT_busy = true ∧ t.m.pts.frcCmd = some ⟨0, due⟩ ∧
      aget i t.m.pts.forces = none ∧ t.m.point id = some q ∧ q.w0 = p.w0 ∧ q.w1 = p.w1 ∧
      q.value = keepKind p.kind (s.m.requestedNow f) ∧
      (p.backing ≠ 1 → q.age = if p.dir = 0 then s.m.requestedAge f else 0)) ∧
  (∀ (s : State) (err due : Nat), s.m.pts.frcCmd = some ⟨err, due⟩ → err < 8 →
    (s.m.time.tb < due → exec (.ptdCmdComplete .force) s = .next s) ∧
    (due ≤ s.m.time.tb → ∃ t x, exec (.ptdCmdComplete .force) s = .next t ∧
      t = { s with m := ({ s.m with pts := { s.m.pts with frcCmd := none } } : M).wr .PTD_FRC_STAT x } ∧
      t.m.bit F.PTD_FRC_STAT_busy = false ∧ t.m.get F.PTD_FRC_STAT_err = err))

/-- AGE_TICK advances every age to at most 0xFFFE (a running timer's count that moved is an update and starts at 0), of forced points'
requested values as well; RETAIN_SAVE stores the values of exactly the retained entries; NOTIFY_INTERVAL queues a moved value that the
gate grants, in the place of one the point has queued, and leaves the subscription pending where the queue is full; NOTIFY_SLOT
sends the first waiting notification with the session's next counter, and passes unused where none waits. -/
def Obligations.AgesRetentionAndNotifications : Prop :=
  (∀ s : State, ∃ t, exec .ageTick s = .next t ∧ t = { s with m := { s.m with pts := t.m.pts } } ∧
    (∀ id p, s.m.point id = some p → t.m.point id = some
      (if s.m.timerValue id p = p.value then { p with age := min (p.age + 1) 0xFFFE }
       else { p with value := s.m.timerValue id p, age := 0 })) ∧
    (∀ i f, aget i s.m.pts.forces = some f → aget i t.m.pts.forces = some
      (if s.m.requestedNow f = f.requested then { f with reqAge := min (f.reqAge + 1) 0xFFFE }
       else { f with requested := s.m.requestedNow f, reqAge := 0 }))) ∧
  (∀ s : State, exec .retainSave s = .next { s with m := { s.m with pts := { s.m.pts with
    retention := (s.m.pts.points.filter (fun p => p.2.retain)).map (fun p => (p.1, s.m.timerValue p.1 p.2)) } } }) ∧
  (∀ (s : State) (session id : Nat) (u x : Subscription) (w : Who) (p : PointRec) (v : Word) (st : Nat) (it : NoteItem)
      (q q' : List NoteItem), id < 65536 →
    s.m.pts.subs.filter (fun x => x.session == session && x.point == id) = [u] → s.m.who (.session session) = some w →
    s.m.gate w .subscribe id = .granted → s.m.point id = some p → (v, st) = s.m.shown id p → u.absent = false →
    (u.pending = true ∨ u.moved p.kind v st = true) → u.lastAt + u.interval * 1000000 ≤ s.m.time.tb →
    it = ⟨id, v, st, s.m.shownAge id p⟩ → q = getd [] session s.m.pts.notes →
    (q', x) = (if q.any (fun y => y.point == id) = true then
        (q.map (fun y => if y.point == id then it else y),
          { u with lastValue := v, lastStatus := st, lastAt := s.m.time.tb, pending := false })
      else if 64 ≤ q.length then (q, { u with pending := true })
      else (q ++ [it], { u with lastValue := v, lastStatus := st, lastAt := s.m.time.tb, pending := false })) →
    exec (.notifyInterval session id) s = .next { s with m := { s.m with pts := { s.m.pts with
      notes := aput session q' s.m.pts.notes
      subs := s.m.pts.subs.map (fun y => if y.session == session && y.point == id then x else y) } } }) ∧
  (∀ (s : State) (place : Nat) (x y : Session) (it : NoteItem) (m1 : M) (packet : Bytes), place < 32 →
    aget place s.m.krov.sessions = some x → x.place = .open → s.m.inert = false → s.m.takeNote x.id = (some it, m1) →
    x.txSeq + 1 < 0xFFFFFFF0 → x.rxHigh < 0xFFFFFFF0 → y = { x with noteSeq := (x.noteSeq + 1) % 2 ^ 32, txSeq := x.txSeq + 1 } →
    packet = x.packet 0x22 0 0 9 y.txSeq (toBE 4 y.noteSeq ++ toBE 2 it.point ++ toBE 2 0 ++ toBE 4 it.value.toNat ++
      toBE 2 it.status ++ toBE 2 it.age) →
    exec (.notifySlot place) s = .next { s with m :=
      ({ m1 with krov := { m1.krov with sessions := aput place y m1.krov.sessions } } : M).krovSend x.route packet }) ∧
  (∀ (s : State) (place : Nat) (x : Session) (m1 : M), place < 32 → aget place s.m.krov.sessions = some x → x.place = .open →
    s.m.takeNote x.id = (none, m1) → s.m.inert = false → exec (.notifySlot place) s = .next { s with m := m1 }) ∧
  (∀ (m : M) (session : Nat), ∃ n u, (m.takeNote session).2 = { m with pts := { m.pts with notes := n, subs := u } }) ∧
  (∀ (m : M) (session : Nat), (∀ u ∈ m.pts.subs, u.session ≠ session) →
    (getd [] session m.pts.notes = [] → m.takeNote session = (none, m)) ∧
    (∀ it rest, getd [] session m.pts.notes = it :: rest →
      m.takeNote session = (some it, { m with pts := { m.pts with notes := aput session rest m.pts.notes } }))) ∧
  (∀ (s : State) (place : Nat), place < 32 → aget place s.m.krov.sessions = none → exec (.notifySlot place) s = .next s)

/-! ### The Lynil fabric (chapter 3) -/

/-- A_CELL_FIRING of a ready slot empties the ports it names, stores the result in its destination and the flags it raises, and
puts the result on each of its valid links; a slot of the access group queues its point access instead, with room kept for the
tokens its answer will send.  Without room for its tokens, beside those held and those owed to reads, it does not fire. -/
def Obligations.ACellsFire : Prop :=
  (∀ (s : State) (q c slot wave : Nat) (cl : Cell) (a : ACell) (o : ASlot) (r : AluRes), q < 4 → c < 0x600 → slot < 8 →
    s.m.cell q c = some cl → cl.body = .a a → a.slots[slot]? = some o → s.m.cellLive q c = true → slotReady cl o = true →
    (∀ x ∈ (s.m.quad q).waiting, x.cell ≠ c) → o.isAccess = false →
    (s.m.quad q).held + (s.m.quad q).owed + b2n (tbit o.link0 15) + b2n (tbit o.link1 15) ≤ 4096 + o.ports.length →
    o.isWrite = false →
    wave = ((cl.port (fieldN o.trigger 3 2)).map Token.wave).getD 0 →
    r = alu o.opcode (tbit o.smode 1) (tbit o.smode 2) (operand a cl o o.src0) (operand a cl o o.src1) (operand a cl o o.src2) →
    ∃ t, exec (.aCellFiring q c slot) s = .next t ∧
      s.fabricTo t q (fun x => { x with
        cells := amod c (fun _ => { cl with
          ports := o.ports.foldl (fun l p => listSet l p none) cl.ports
          fired := cl.fired || wave == s.m.unitWave cl.unit
          body := .a { a with
            g := if o.dest < 16 then listSet a.g o.dest r.value else a.g
            overflow := a.overflow || r.overflow
            invalid := a.invalid || r.invalid } }) x.cells
        flight := x.flight ++ linkToken c (2 * slot) o.link0 r.value cl.unit wave ++
          linkToken c (2 * slot + 1) o.link1 r.value cl.unit wave
        lastFire := s.m.time.tb })) ∧
  (∀ (s : State) (q c slot wave out : Nat) (cl : Cell) (a : ACell) (o : ASlot), q < 4 → c < 0x600 → slot < 8 →
    s.m.cell q c = some cl → cl.body = .a a → a.slots[slot]? = some o → s.m.cellLive q c = true → slotReady cl o = true →
    (∀ x ∈ (s.m.quad q).waiting, x.cell ≠ c) → o.isAccess = true →
    out = (if o.isWrite then 0 else b2n (tbit o.link0 15) + b2n (tbit o.link1 15)) →
    (s.m.quad q).held + (s.m.quad q).owed + out ≤ 4096 + o.ports.length →
    wave = ((cl.port (fieldN o.trigger 3 2)).map Token.wave).getD 0 →
    ∃ t, exec (.aCellFiring q c slot) s = .next t ∧
      s.fabricTo t q (fun x => { x with
        cells := amod c (fun _ => { cl with
          ports := o.ports.foldl (fun l p => listSet l p none) cl.ports
          fired := cl.fired || wave == s.m.unitWave cl.unit }) x.cells
        waiting := x.waiting ++ [⟨c, slot, (if o.constId then o.const else operand a cl o o.src0).toNat, o.isWrite,
          o.opcode == 0x51, operand a cl o o.src1, cl.unit, wave, o.constId, 0, out⟩]
        lastFire := s.m.time.tb })) ∧
  (∀ (s : State) (q c slot out : Nat) (cl : Cell) (a : ACell) (o : ASlot), q < 4 → c < 0x600 → slot < 8 →
    s.m.cell q c = some cl → cl.body = .a a → a.slots[slot]? = some o →
    out = (if o.isWrite then 0 else b2n (tbit o.link0 15) + b2n (tbit o.link1 15)) →
    4096 + o.ports.length < (s.m.quad q).held + (s.m.quad q).owed + out →
    ∃ t, exec (.aCellFiring q c slot) s = .next t ∧ s.updateTo t (fun e => e))

/-- CELL_POINT_ACCESS_ISSUE takes the access out of the cell's queue: a read keeps the answer of the gate with the unit's tag or
of the task's input image, a write goes through the gate or into the output image; a path's final write has its own lane, and a
33rd direct access waits.  CELL_POINT_RESPONSE of a read writes the answer's value to the slot's destination and sends it as data
tokens; a slot that reads value, status and age sends the entry's upper word on its second link (DEDUCED, log 26); that of a write
only ends it. -/
def Obligations.CellPointAccessesComplete : Prop :=
  (∀ (s : State) (q c : Nat) (a : CellAccess) (w : Who) (rest : List CellAccess), q < 4 → c < 0x600 →
    takeAccess (fun x => x.cell == c) (s.m.quad q).waiting = some (a, rest) → (a.write = true → s.m.finalPath q c = none) →
    (a.fromImage = true ∨ ((s.m.quad q).outstanding.filter (fun o => !o.fromImage)).length < 32) →
    s.m.who (.unit a.unit) = some w →
    ∃ t m1, exec (.cellPointAccessIssue q c) s = .next t ∧ t.pending = s.pending ∧ t.sram = s.sram ∧
      M.FabricOnly s.m m1 ∧ m1.fab = s.m.fab.inQuad q (fun x => { x with
        waiting := rest
        outstanding := x.outstanding ++ [{ a with answer :=
          if a.write then 0 else if a.fromImage then s.m.imageRead a.unit a.point else s.m.readPoint w a.point }] }) ∧
      t.m = (if a.write then (if a.fromImage then m1.imageWrite a.unit a.point a.value else (m1.writePoint w a.point a.value).2)
        else m1)) ∧
  (∀ (s : State) (q c : Nat) (a : CellAccess) (rest : List CellAccess), q < 4 → c < 0x600 →
    takeAccess (fun x => x.cell == c) (s.m.quad q).waiting = some (a, rest) →
    ((a.write = true ∧ s.m.finalPath q c ≠ none) ∨
      (a.fromImage = false ∧ 32 ≤ ((s.m.quad q).outstanding.filter (fun o => !o.fromImage)).length)) →
    exec (.cellPointAccessIssue q c) s = .next s) ∧
  (∀ (s : State) (q c : Nat) (a : CellAccess) (rest : List CellAccess) (cl : Cell) (b : ACell) (o : ASlot) (v st : Word), q < 4 →
    c < 0x600 → takeAccess (fun x => x.cell == c) (s.m.quad q).outstanding = some (a, rest) → a.write = false →
    s.m.cell q c = some cl → cl.body = .a b → b.slots[a.slot]? = some o → v = a.answer.setWidth 32 →
    st = (if a.full then BitVec.ofNat 32 (a.answer.toNat / 2 ^ 32) else v) →
    ∃ t, exec (.cellPointResponse q c) s = .next t ∧
      s.fabricTo t q (fun x =>
        let y := { x with
          cells := if o.dest < 16 then amod c (fun _ => { cl with body := .a { b with g := listSet b.g o.dest v } }) x.cells
            else x.cells
          outstanding := rest }
        { y with
          flight := x.flight ++ kindToken c (2 * a.slot) o.link0 tkData v a.unit a.wave ++
            kindToken c (2 * a.slot + 1) o.link1 tkData st a.unit a.wave
          lastFire := if (tbit o.link0 15 || tbit o.link1 15) && y.held == 0 then s.m.time.tb else x.lastFire })) ∧
  (∀ (s : State) (q c : Nat) (a : CellAccess) (rest : List CellAccess), q < 4 → c < 0x600 →
    takeAccess (fun x => x.cell == c) (s.m.quad q).outstanding = some (a, rest) → a.write = true →
    exec (.cellPointResponse q c) s = .next { s with m := { s.m with fab := s.m.fab.inQuad q (fun x => { x with outstanding := rest }) } })

/-- M_CELL_REQUEST: a request on port 0 answers the word it names; a two-operand request stores, exchanges or adds; a word number
above 255 answers 0 and sets the range flag, and stores nothing.  The answer is a data token.  Without room for it the request
waits. -/
def Obligations.MCellsServeRequests : Prop :=
  (∀ (s : State) (q c : Nat) (cl : Cell) (b : MCell) (k : Token), q < 4 → 0x700 ≤ c → c < 0x800 → s.m.cell q c = some cl →
    cl.body = .m b → cl.port 0 = some k → s.m.cellLive q c = true →
    (s.m.quad q).held + (s.m.quad q).owed + b2n (tbit b.link 15) ≤ 4097 →
    ∃ t, exec (.mCellRequest q c false) s = .next t ∧
      s.fabricTo t q (fun x => { x with
        cells := amod c (fun _ => { cl with
          ports := listSet cl.ports 0 none
          fired := cl.fired || k.wave == s.m.unitWave cl.unit
          body := .m { b with range := b.range || decide (256 ≤ k.payload.toNat) } }) x.cells
        flight := x.flight ++
          kindToken c 0 b.link tkData (if 256 ≤ k.payload.toNat then 0 else getd 0 k.payload.toNat b.words) cl.unit k.wave
        lastFire := s.m.time.tb })) ∧
  (∀ (s : State) (q c i : Nat) (cl : Cell) (b : MCell) (k n : Token) (old new ans : Word), q < 4 → 0x700 ≤ c → c < 0x800 →
    s.m.cell q c = some cl → cl.body = .m b → cl.port 1 = some k → cl.port 2 = some n → n.wave = k.wave → s.m.cellLive q c = true →
    (s.m.quad q).held + (s.m.quad q).owed + b2n (tbit b.link 15) ≤ 4098 → i = k.payload.toNat → old = getd 0 i b.words →
    (new, ans) = (if b.mop = 0 then (n.payload, n.payload) else if b.mop = 1 then (n.payload, old)
      else (old + n.payload, old + n.payload)) →
    ∃ t, exec (.mCellRequest q c true) s = .next t ∧
      s.fabricTo t q (fun x => { x with
        cells := amod c (fun _ => { cl with
          ports := listSet (listSet cl.ports 1 none) 2 none
          fired := cl.fired || k.wave == s.m.unitWave cl.unit
          body := .m (if i < 256 then { b with words := putd 0 i new b.words } else { b with range := true }) }) x.cells
        flight := x.flight ++ kindToken c 0 b.link tkData (if i < 256 then ans else 0) cl.unit k.wave
        lastFire := s.m.time.tb })) ∧
  (∀ (s : State) (q c : Nat) (two : Bool) (cl : Cell) (b : MCell), q < 4 → 0x700 ≤ c → c < 0x800 → s.m.cell q c = some cl →
    cl.body = .m b → tbit b.link 15 = true → 4096 + (if two then 2 else 1) ≤ (s.m.quad q).held + (s.m.quad q).owed →
    ∃ t, exec (.mCellRequest q c two) s = .next t ∧ s.updateTo t (fun e => e))

/-- TOKEN_ACCEPT: the first token of a link that finds its port empty, its unit's cell and the present wave is taken into the port;
one whose port is occupied waits, and so does a count behind a fence; one for no configured cell, a failed cell or another
unit's, of a past wave, or of a type the port does not take is dropped and counted; one of wrong parity is dropped, counted,
flagged, and fails the wave of its unit, and a full load that configures.  Where the token came from an EDGE cell, that cell's line is
compared again. -/
def Obligations.TokensReachTheirCells : Prop :=
  (∀ (s : State) (q : Nat) (l : LinkId) (k : Token) (rest : List (LinkId × Token)) (cl : Cell), q < 4 → l.cell ≤ 0x800 →
    takeFlight l (s.m.quad q).flight = some (k, rest) → s.m.cell q k.cell = some cl → k.cell ∉ (s.m.quad q).failed →
    cl.unit = k.unit → k.good = true → cl.body.takes k = true → (k.waveKind = true → k.wave = s.m.unitWave k.unit) →
    cl.port k.port = none → (∀ c, cl.body = .t c → c.mode.isCounter = true → k.port = 0 → cl.port 3 = none) →
    ∃ t m1, exec (.tokenAccept q l false) s = .next t ∧ s.fabricTo { s with m := m1 } q (fun x => { x with
        cells := amod k.cell (fun _ => { cl with ports := listSet cl.ports k.port (some k) }) x.cells
        flight := rest }) ∧
      t = { s with m := m1.edgeCompare q l.cell }) ∧
  (∀ (s : State) (q : Nat) (l : LinkId) (k : Token) (rest : List (LinkId × Token)) (cl : Cell), q < 4 → l.cell ≤ 0x800 →
    takeFlight l (s.m.quad q).flight = some (k, rest) → s.m.cell q k.cell = some cl → k.cell ∉ (s.m.quad q).failed →
    cl.unit = k.unit → k.good = true → cl.body.takes k = true → (k.waveKind = true → k.wave = s.m.unitWave k.unit) →
    (cl.port k.port ≠ none ∨ ∃ c, cl.body = .t c ∧ c.mode.isCounter = true ∧ k.port = 0 ∧ cl.port 3 ≠ none) →
    exec (.tokenAccept q l false) s = .next s) ∧
  (∀ (s : State) (q : Nat) (l : LinkId) (k : Token) (rest : List (LinkId × Token)), q < 4 → l.cell ≤ 0x800 →
    takeFlight l (s.m.quad q).flight = some (k, rest) →
    (∀ cl, s.m.cell q k.cell = some cl → k.cell ∈ (s.m.quad q).failed ∨ cl.unit ≠ k.unit ∨
      (k.good = true ∧ (cl.body.takes k = false ∨ (k.waveKind = true ∧ k.wave ≠ s.m.unitWave k.unit)))) →
    ∃ t m1, exec (.tokenAccept q l false) s = .next t ∧ s.fabricTo { s with m := m1 } q (fun x => { x with flight := rest }) ∧
      m1.get F.FAB_DROP_count q = min (s.m.get F.FAB_DROP_count q + 1) (2 ^ 32 - 1) ∧ m1.bitOf F.FAB_EVT_drop q = true ∧
      t = { s with m := m1.edgeCompare q l.cell }) ∧
  (∀ (s : State) (q : Nat) (l : LinkId) (flipped : Bool) (k k' : Token) (rest : List (LinkId × Token)) (cl : Cell), q < 4 →
    l.cell ≤ 0x800 → takeFlight l (s.m.quad q).flight = some (k, rest) →
    k' = (if flipped then { k with tag := k.tag ^^^ 1 } else k) → s.m.cell q k'.cell = some cl →
    k'.cell ∉ (s.m.quad q).failed → cl.unit = k'.unit → k'.good = false →
    ∃ t m1, exec (.tokenAccept q l flipped) s = .next t ∧ s.fabricTo { s with m := m1 } q (fun x => { x with flight := rest }) ∧
      m1.get F.FAB_DROP_count q = min (s.m.get F.FAB_DROP_count q + 1) (2 ^ 32 - 1) ∧ m1.bitOf F.FAB_EVT_tok_par q = true ∧
      t = s.after (((m1.instanceFail k'.unit).edgeCompare q l.cell).loadParity, s.sram)) ∧
  (∀ (m : M) (l : Nat) (b : Bytes), (m.img.job = .full 0 l b → m.loadParity = { m with img := { m.img with job := .full 0x10 l b } }) ∧
    ((∀ l b, m.img.job ≠ .full 0 l b) → m.loadParity = m))

/-- T_CELL_INPUT of a TON, TOF or TP cell takes the token, sets the timer as Table 3-3 says and sends one token with the level (with
preset 0 the input passes and a running timer stops: log 96); T_CELL_PRESET takes a new preset; TIMER_EXPIRY ends the timer with
one token of the new level; CYC_PERIOD at a boundary, a TAI multiple of the period (log 96), issues the next counted token, or
counts a missed one while its last is held; EDGE_ACCEPT takes the level that has stood for filter + 1 samples, captures the time
of the first of them and sends one token, counts a missed one while its last is held, and sends none for a path that is not
armed.  What finds no room in the quadrant waits. -/
def Obligations.TimersAndInputCellsRun : Prop :=
  (∀ (s : State) (q c : Nat) (cl : Cell) (a : TCell) (k : Token) (x : Bool), q < 4 → 0x600 ≤ c → c < 0x700 →
    s.m.cell q c = some cl → cl.body = .t a → a.mode.isTimer = true → cl.port 0 = some k → s.m.cellLive q c = true →
    x = !(k.payload == 0) →
    ∃ t b, exec (.tCellInput q c) s = .next t ∧
      s.fabricTo t q (fun y => { y with
        cells := amod c (fun _ => { cl with
          ports := listSet cl.ports 0 none
          fired := cl.fired || k.wave == s.m.unitWave cl.unit
          body := .t b }) y.cells
        flight := y.flight ++ linkToken c 0 a.outLink (BitVec.ofNat 32 (b2n b.level)) cl.unit (s.m.unitWave cl.unit)
        lastFire := s.m.time.tb }) ∧
      b = { a with
        lastIn := some x, level := b.level, running := b.running, expired := b.expired, startTick := b.startTick
        least := b.least, presetTick := b.presetTick } ∧
      (a.preset = 0 → b.level = x ∧ b.running = false ∧ b.expired = false) ∧
      (a.preset ≠ 0 →
        (a.mode = .ton → x = false → b.level = false ∧ b.running = false ∧ b.expired = false) ∧
        (a.mode = .ton → x = true → (a.running = true ∨ a.level = true) → b = { a with lastIn := some x }) ∧
        (a.mode = .ton → x = true → a.running = false → a.level = false →
          b.level = false ∧ b.running = true ∧ b.expired = false ∧ b.startTick = a.tickNow s.m.time.tai + 1) ∧
        (a.mode = .tof → x = true → b.level = true ∧ b.running = false ∧ b.expired = false) ∧
        (a.mode = .tof → x = false → a.running = false → a.level = true →
          b.level = true ∧ b.running = true ∧ b.expired = false ∧ b.startTick = a.tickNow s.m.time.tai + 1) ∧
        (a.mode = .tof → x = false → (a.running = true ∨ a.level = false) → b = { a with lastIn := some x }) ∧
        (a.mode = .tp → a.running = true → b = { a with lastIn := some x }) ∧
        (a.mode = .tp → a.running = false → (x = false ∨ a.lastIn = some true) → b = { a with lastIn := some x, level := false }) ∧
        (a.mode = .tp → a.running = false → x = true → a.lastIn ≠ some true →
          b.level = true ∧ b.running = true ∧ b.expired = false ∧ b.startTick = a.tickNow s.m.time.tai + 1))) ∧
  (∀ (s : State) (q c : Nat) (cl : Cell) (a : TCell) (k : Token), q < 4 → 0x600 ≤ c → c < 0x700 →
    s.m.cell q c = some cl → cl.body = .t a → (a.mode.isTimer = true ∨ a.mode = .cyc) → cl.port 1 = some k →
    s.m.cellLive q c = true →
    ∃ t, exec (.tCellPreset q c) s = .next t ∧
      s.fabricTo t q (fun y => { y with
        cells := amod c (fun _ => { cl with
          ports := listSet cl.ports 1 none
          body := .t { a with
            preset := k.payload
            presetTick := a.tickNow s.m.time.tai
            lastPeriod := if a.mode = .cyc then s.m.time.tai else a.lastPeriod } }) y.cells
        lastFire := s.m.time.tb })) ∧
  (∀ (s : State) (q c : Nat) (cl : Cell) (a : TCell), q < 4 → 0x600 ≤ c → c < 0x700 → s.m.cell q c = some cl → cl.body = .t a →
    a.mode.isTimer = true → a.running = true → a.frozen = none → a.preset.toNat ≤ a.elapsedAt s.m.time.tai →
    a.startTick ≤ s.m.time.tai / a.unitNs → a.presetTick < s.m.time.tai / a.unitNs → s.m.cellLive q c = true →
    ((s.m.quad q).held + (s.m.quad q).owed < 4096 →
      ∃ t, exec (.timerExpiry q c) s = .next t ∧
        s.fabricTo t q (fun y => { y with
          cells := amod c (fun _ => { cl with
            body := .t { a with
              running := false
              expired := true
              least := 0
              level := a.mode == .ton } }) y.cells
          flight := y.flight ++
            linkToken c 0 a.outLink (BitVec.ofNat 32 (b2n (a.mode == .ton))) cl.unit (s.m.unitWave cl.unit)
          lastFire := s.m.time.tb })) ∧
    (4096 ≤ (s.m.quad q).held + (s.m.quad q).owed → ∃ t, exec (.timerExpiry q c) s = .next t ∧ s.updateTo t (fun e => e))) ∧
  (∀ (s : State) (q c p : Nat) (cl : Cell) (a : TCell), q < 4 → 0x600 ≤ c → c < 0x700 → s.m.cell q c = some cl → cl.body = .t a →
    a.mode = .cyc → a.frozen = none → s.m.cellLive q c = true → p = max 1 a.preset.toNat * a.unitNs →
    a.lastPeriod < s.m.time.tai / p * p →
    (s.m.tokenHeld q c = false → (s.m.quad q).held + (s.m.quad q).owed < 4096 →
      ∃ t, exec (.cycPeriod q c) s = .next t ∧
        s.fabricTo t q (fun y => { y with
          cells := amod c (fun _ => { cl with
            body := .t { a with
              lastPeriod := s.m.time.tai
              live := a.live + 1 } }) y.cells
          flight := y.flight ++ linkToken c 0 a.outLink (a.live + 1) cl.unit (s.m.unitWave cl.unit)
          lastFire := s.m.time.tb })) ∧
    (s.m.tokenHeld q c = false → 4096 ≤ (s.m.quad q).held + (s.m.quad q).owed →
      ∃ t, exec (.cycPeriod q c) s = .next t ∧ s.updateTo t (fun e => e)) ∧
    (s.m.tokenHeld q c = true →
      ∃ t, exec (.cycPeriod q c) s = .next t ∧
        s.fabricTo t q (fun y => { y with
          cells := amod c (fun _ => { cl with
            body := .t { a with
              lastPeriod := s.m.time.tai
              missed := true
              missedCount := min (a.missedCount + 1) 0xFFFF } }) y.cells }))) ∧
  (∀ (s : State) (q c stood first : Nat) (cl : Cell) (a b : TCell) (l sent : Bool) (f : FabricState), q < 4 → 0x600 ≤ c → c < 0x700 →
    s.m.cell q c = some cl → cl.body = .t a → a.mode = .edge → a.frozen = none → s.m.cellLive q c = true →
    s.m.lineSampled a.line = true → l = s.m.lineLevel a.line → stood = s.m.time.tb - getd 0 a.line s.m.lio.pinAt →
    ((a.lastIn ≠ some l ∧
      a.filter * (if s.m.get F.PMC_LVL_STAT_level = 0 then 40 else if s.m.get F.PMC_LVL_STAT_level = 1 then 10 else 5) ≤ stood ∧
      b = { a with lastIn := some l, capture := BitVec.ofNat 32 (s.m.time.tai - stood) } ∧
      f = s.m.fab.inQuad q (fun y => { y with cells := amod c (fun _ => { cl with body := .t b }) y.cells }) ∧
      first = (s.m.time.tai - stood) % 2 ^ 32) ∨
     (a.lastIn = some l ∧ a.tokenOnReturn = true ∧ b = a ∧ f = s.m.fab ∧ first = a.capture.toNat)) →
    sent = f.quads.any (fun x => x.flight.any (fun p => p.2.unit == cl.unit) || x.waiting.any (fun y => y.unit == cl.unit) ||
      x.cells.any (fun p => p.2.unit == cl.unit && !p.2.tokens.isEmpty)) →
    ∃ t, exec (.edgeAccept q c) s = .next t ∧ t.pending = s.pending ∧ t.sram = s.sram ∧ M.FabricOnly s.m t.m ∧
      ((∃ p, s.m.edgePath q c = some p ∧ s.m.pathArmed p = false) → t.m.fab = f) ∧
      ((∀ p, s.m.edgePath q c = some p → s.m.pathArmed p = true) →
        (s.m.tokenHeld q c = true → t.m.fab = f.inQuad q (fun y => { y with
          cells := amod c (fun _ => { cl with body := .t { b with
            missed := true
            missedCount := min (a.missedCount + 1) 0xFFFF } }) y.cells })) ∧
        (s.m.tokenHeld q c = false → 4096 ≤ ((f.quads[q]?).getD Quadrant.reset).held + ((f.quads[q]?).getD Quadrant.reset).owed →
          t.m.fab = f.inQuad q (fun y => { y with
            cells := amod c (fun _ => { cl with body := .t { b with tokenOnReturn := true } }) y.cells })) ∧
        (s.m.tokenHeld q c = false → ((f.quads[q]?).getD Quadrant.reset).held + ((f.quads[q]?).getD Quadrant.reset).owed < 4096 →
          t.m.fab = { f.inQuad q (fun y => { y with
              cells := amod c (fun _ => { cl with body := .t { b with level := l, tokenOnReturn := false } }) y.cells
              flight := y.flight ++ linkToken c 0 a.outLink (BitVec.ofNat 32 (b2n l)) cl.unit (s.m.unitWave cl.unit)
              lastFire := s.m.time.tb }) with
            sbkStart := match s.m.edgePath q c with
              | some p => (if sent then s.m.fab.sbkStart else s.m.fab.sbkStart.filter (fun x => !(x.1 == p.path))) ++
                  [(p.path, first)]
              | none => s.m.fab.sbkStart })))

/-- COUNT_TOKEN on a CNT cell and CARRY_TOKEN on a CNTX cell add the signed payload to the live value; beyond 32 bits the carry goes up
the chain as a carry token, or wraps the chain's highest cell with a token on its carry link; where the next cell is gone or
failed the carry is dropped and the chain reads broken.  SNAPSHOT_FENCE copies the live value
into the capture register and sends it; on a counter the fence goes on up the chain, or is dropped where the next cell is gone or failed, and the chain's end sends snapshot-done. -/
def Obligations.CountersCarryAndSnapshot : Prop :=
  (∀ (s : State) (q c : Nat) (cmd : Instr) (mode : TMode) (cl : Cell) (a : TCell) (k : Token) (sum : Int), q < 4 → 0x600 ≤ c →
    c < 0x700 → ((cmd = .countToken q c ∧ mode = .cnt) ∨ (cmd = .carryToken q c ∧ mode = .cntx)) → s.m.cell q c = some cl →
    cl.body = .t a → a.mode = mode → cl.port 0 = some k → k.kind ≠ 2 → s.m.cellLive q c = true →
    sum = a.live.toNat + k.payload.toInt →
    (0 ≤ sum → sum < 2 ^ 32 →
      ∃ t, exec cmd s = .next t ∧ s.fabricTo t q (fun y => { y with
        cells := amod c (fun _ => { cl with
          ports := listSet cl.ports 0 none
          fired := cl.fired || k.wave == s.m.unitWave cl.unit
          body := .t { a with live := BitVec.ofInt 32 sum } }) y.cells
        lastFire := s.m.time.tb })) ∧
    ((sum < 0 ∨ 2 ^ 32 ≤ sum) → a.chained = false →
      ∃ t, exec cmd s = .next t ∧ s.fabricTo t q (fun y => { y with
        cells := amod c (fun _ => { cl with
          ports := listSet cl.ports 0 none
          fired := cl.fired || k.wave == s.m.unitWave cl.unit
          body := .t { a with
            live := BitVec.ofInt 32 sum
            wrap := true } }) y.cells
        flight := y.flight ++ linkToken c 1 a.carryLink (if sum < 0 then 0xFFFFFFFF else 1) cl.unit k.wave
        lastFire := s.m.time.tb })) ∧
    ((sum < 0 ∨ 2 ^ 32 ≤ sum) → a.chained = true → s.m.chainUp q c cl.unit = true →
      ∃ t, exec cmd s = .next t ∧ s.fabricTo t q (fun y => { y with
        cells := amod c (fun _ => { cl with
          ports := listSet cl.ports 0 none
          fired := cl.fired || k.wave == s.m.unitWave cl.unit
          body := .t { a with live := BitVec.ofInt 32 sum } }) y.cells
        flight := y.flight ++ kindToken c 1 a.carryLink 1 (if sum < 0 then 0xFFFFFFFF else 1) cl.unit k.wave
        lastFire := s.m.time.tb })) ∧
    ((sum < 0 ∨ 2 ^ 32 ≤ sum) → a.chained = true → s.m.chainUp q c cl.unit = false →
      ∃ t, exec cmd s = .next t ∧ s.fabricTo t q (fun y => { y with
        cells := amod c (fun _ => { cl with
          ports := listSet cl.ports 0 none
          fired := cl.fired || k.wave == s.m.unitWave cl.unit
          body := .t { a with
            live := BitVec.ofInt 32 sum
            broken := true } }) y.cells
        lastFire := s.m.time.tb }) ∧
        t.m.get F.FAB_DROP_count q = min (s.m.get F.FAB_DROP_count q + 1) (2 ^ 32 - 1) ∧ t.m.bitOf F.FAB_EVT_drop q = true ∧
        (a.broken = false → t.m.bitOf F.FAB_EVT_chain q = true))) ∧
  (∀ (s : State) (q c p : Nat) (cl : Cell) (a b : TCell) (k : Token), q < 4 → 0x600 ≤ c → c < 0x700 → s.m.cell q c = some cl →
    cl.body = .t a → cl.port p = some k → k.kind = 2 →
    ((p = 3 ∧ (cl.port 0 = none ∨ a.mode.isCounter = false)) ∨ (p = 0 ∧ cl.port 3 = none)) → s.m.cellLive q c = true →
    (s.m.quad q).held + (s.m.quad q).owed ≤ 4095 →
    b = (if a.mode = .edge then a else { a with capture := a.liveAt s.m.time.tai }) →
    (a.mode.isCounter = false →
      ∃ t, exec (.snapshotFence q c) s = .next t ∧ s.fabricTo t q (fun y => { y with
        cells := amod c (fun _ => { cl with
          ports := listSet cl.ports p none
          body := .t b }) y.cells
        flight := y.flight ++ linkToken c 2 a.snapLink b.capture cl.unit k.wave
        lastFire := s.m.time.tb })) ∧
    (a.mode.isCounter = true → (a.chained = false ∨ a.broken = true) →
      ∃ t, exec (.snapshotFence q c) s = .next t ∧ s.fabricTo t q (fun y => { y with
        cells := amod c (fun _ => { cl with
          ports := listSet cl.ports p none
          body := .t b }) y.cells
        flight := y.flight ++ linkToken c 2 a.snapLink b.capture cl.unit k.wave ++
          linkToken c 0 a.outLink (BitVec.ofNat 32 (b2n a.broken + 2 * b2n a.wrap)) cl.unit k.wave
        lastFire := s.m.time.tb })) ∧
    (a.mode.isCounter = true → a.chained = true → a.broken = false → s.m.chainUp q c cl.unit = true →
      ∃ t, exec (.snapshotFence q c) s = .next t ∧ s.fabricTo t q (fun y => { y with
        cells := amod c (fun _ => { cl with
          ports := listSet cl.ports p none
          body := .t b }) y.cells
        flight := y.flight ++ linkToken c 2 a.snapLink b.capture cl.unit k.wave ++ kindToken c 1 a.carryLink 2 0 cl.unit k.wave
        lastFire := s.m.time.tb })) ∧
    (a.mode.isCounter = true → a.chained = true → a.broken = false → s.m.chainUp q c cl.unit = false →
      ∃ t, exec (.snapshotFence q c) s = .next t ∧ s.fabricTo t q (fun y => { y with
        cells := amod c (fun _ => { cl with
          ports := listSet cl.ports p none
          body := .t { b with broken := true } }) y.cells
        flight := y.flight ++ linkToken c 2 a.snapLink b.capture cl.unit k.wave
        lastFire := s.m.time.tb }) ∧
        t.m.get F.FAB_DROP_count q = min (s.m.get F.FAB_DROP_count q + 1) (2 ^ 32 - 1) ∧ t.m.bitOf F.FAB_EVT_drop q = true ∧
        t.m.bitOf F.FAB_EVT_chain q = true))

/-- WAVE_END: a unit with no token whose terminal cells have all fired has no active wave any more.  STALL_TIMEOUT flags a quadrant
that holds tokens and has not fired for the stall time, and trips execution when a task is active in it.  QUIESCE_REQUEST takes a
running quadrant to quiescing, with its deadline, and holds the starts that have begun no wave; QUIESCED, once no instance, access
or token is left, freezes its timers and takes it to quiesced; QUIESCE_CANCEL and QUIESCE_TIMEOUT return it to run and clear its
request, the latter with its event; a partial load that waits for the quadrant ends with QUIESCE. -/
def Obligations.WavesEndAndQuadrantsQuiesce : Prop :=
  (∀ (s : State) (u : Nat), u < 256 → s.m.exe.active.contains u = true → s.m.unitHolds u = false → s.m.unitFired u = true →
    ∃ t, exec (.waveEnd u) s = .next t ∧
      s.updateTo t (fun e => { e with exe := { e.exe with active := e.exe.active.filter (fun x => !(x == u)) } })) ∧
  (∀ (s : State) (q : Nat) (tasks : List Nat), q < 4 → 0 < (s.m.quad q).held →
    (s.m.quad q).lastFire + max 1 (s.m.get F.FAB_CTRL_stall_tmo) * 10000 ≤ s.m.time.tb →
    tasks = (s.m.exe.units.filter (fun u => u.quadrant == q && s.m.exe.active.contains u.unit)).map UnitRec.task →
    ∃ m1, s.fabricTo { s with m := m1 } q (fun x => { x with lastFire := s.m.time.tb }) ∧ m1.bitOf F.FAB_EVT_stall q = true ∧
      exec (.stallTimeout q) s = .next (s.after (if tasks = [] then m1 else m1.trip 2 (lowest tasks), s.sram))) ∧
  (∀ (s : State) (by_ : Master) (w : Who) (q v : Nat), q < 4 → s.m.accepts by_ w (Reg.FAB_QCTRL.addr 0 0 0) true →
    v = putBitN (s.m.get F.FAB_QCTRL_req) q true →
    ∃ t, exec (.quiesceRequest by_ q) s = .next t ∧ s.accessTo t (fun e => (List.range 4).foldl (fun (a : M) n =>
      if tbit v n then a.quiesceRequest n else a.quiesceCancel n) (e.put F.FAB_QCTRL_tmo (s.m.get F.FAB_QCTRL_tmo)))) ∧
  (∀ (s : State) (by_ : Master) (w : Who) (q v : Nat), q < 4 → s.m.accepts by_ w (Reg.FAB_QCTRL.addr 0 0 0) true →
    v = putBitN (s.m.get F.FAB_QCTRL_req) q false →
    ∃ t, exec (.quiesceCancel by_ q) s = .next t ∧ s.accessTo t (fun e => (List.range 4).foldl (fun (a : M) n =>
      if tbit v n then a.quiesceRequest n else a.quiesceCancel n) (e.put F.FAB_QCTRL_tmo (s.m.get F.FAB_QCTRL_tmo)))) ∧
  (∀ (m : M) (q : Nat), q < m.fab.quads.length → q < 4 →
    (m.qstate q = 2 → (m.quiesceRequest q).qstate q = 3 ∧ (m.quiesceRequest q).bitOf F.FAB_QCTRL_req q = true ∧
      ((m.quiesceRequest q).quad q).quiesceBy = some (m.time.tb + max 1 (m.get F.FAB_QCTRL_tmo) * 1000000) ∧
      (∀ n t, m.taskState n = some t → (m.quiesceRequest q).taskState n = some
        (if t.phase = .due ∧ (m.taskUnits n).any (fun u => u.quadrant == q) = true then { t with phase := .idle, held := t.held + 1 }
          else t))) ∧
    (m.qstate q ≠ 2 → m.quiesceRequest q = m) ∧
    (m.qstate q = 3 ∨ m.qstate q = 4 → (m.quiesceCancel q).qstate q = 2 ∧
      (m.quiesceCancel q).bitOf F.FAB_QCTRL_req q = false ∧ ((m.quiesceCancel q).quad q).quiesceBy = none)) ∧
  (∀ (s : State) (q : Nat) (f : FabricState) (st : Nat), q < 4 → s.m.qstate q = 3 →
    (∀ u ∈ s.m.exe.units, u.quadrant = q → u.unit ∉ s.m.exe.active ∧ ∀ t, s.m.taskState u.task = some t → t.phase = .idle) →
    (s.m.quad q).held = 0 → (s.m.quad q).waiting = [] → (s.m.quad q).outstanding = [] →
    (∀ d, (s.m.quad q).quiesceBy = some d → s.m.time.tb < d) →
    f = s.m.fab.inQuad q (fun x => { x with
      quiesceBy := none
      cells := x.cells.map (fun p => match p.2.body with
        | .t a => (p.1, { p.2 with body := .t { a with frozen := some (a.tickNow s.m.time.tai) } })
        | _ => p) }) →
    st = setFieldN (s.m.get F.FAB_STAT_qstate) (3 * q) 3 4 →
    exec (.quiesced q) s = .next { s with m := ({ s.m with fab := f } : M).put F.FAB_STAT_qstate st }) ∧
  (∀ (s : State) (q d : Nat), q < 4 → s.m.qstate q = 3 → (s.m.quad q).quiesceBy = some d → d ≤ s.m.time.tb →
    ∃ t, exec (.quiesceTimeout q) s = .next t ∧ t.m.qstate q = 2 ∧ t.m.bitOf F.FAB_QCTRL_req q = false ∧
      t.m.bitOf F.FAB_EVT_qtmo q = true ∧ (t.m.quad q).quiesceBy = none ∧
      (∀ b, s.m.img.job = .partialQuiesce q b → t.m.img.job = .partialDone 0x12 0 b))

/-- SELF_TEST_FIRING that passes changes nothing but the rotation's own account, which counts a rotation once every cell that can be
tested has been; a failure marks the cell, which then takes no part, and records it; a cell marked failed drops the test token.
MCELL_WORD_TEST restores the word it tests, takes one word of a cell in 10 µs, and marks the cell when the word fails; it is also
the march test of a cell not in use.  SPRINGBOK_WRITE takes a path's final write through the gate, once the earlier accesses of
its cell are done, and where it moves the line stores the time since the edge; SPRINGBOK_ARM sets the arm bits of defined paths
only, and a path newly armed starts a new longest time; CLR_HWM sets every high-water mark to the present count. -/
def Obligations.SelfTestsAndSpringbokPaths : Prop :=
  (∀ (s : State) (q c : Nat), q < 4 → c < 0x800 → s.m.testsOn F.FAB_ST_CTRL_en = true → s.m.qstate q ≠ 0 → s.m.cellIdle q c = true →
    s.m.loadHoldsTests q = false → c ∉ s.m.armedCells q →
    (∀ r, c ∈ (s.m.quad q).failed → ∃ t, exec (.selfTestFiring q c r) s = .next t ∧ t.m.fab = s.m.fab ∧ M.FabricOnly s.m t.m ∧
      t.m.get F.FAB_DROP_count q = min (s.m.get F.FAB_DROP_count q + 1) (2 ^ 32 - 1) ∧ t.m.bitOf F.FAB_EVT_drop q = true) ∧
    (c ∉ (s.m.quad q).failed → ∀ (at_ : Nat) (f : FabricState) (m1 : M),
      at_ = (if ∀ x ∈ s.m.fab.quads, x.tested = 0 then s.m.time.tb else s.m.ibx.rotationAt) →
      f = s.m.fab.inQuad q (fun x => { x with tested := putBitN x.tested c true }) →
      m1 = { s.m with ibx := { s.m.ibx with rotationAt := at_ }, fab := f } →
      (m1.rotationDone = false → ∃ t, exec (.selfTestFiring q c .pass) s = .next t ∧
        s.updateTo t (fun e => { e with ibx := m1.ibx, fab := f })) ∧
      (m1.rotationDone = true → ∃ t, exec (.selfTestFiring q c .pass) s = .next t ∧
        s.updateTo t (fun e => { e.wr .FAB_ST_CNT (s.m.rd .FAB_ST_CNT + 1) with
          ibx := { m1.ibx with
            rotationOk := decide (s.m.time.tb ≤ at_ + max 1 (s.m.get F.FAB_ST_CTRL_period) * 10000000) }
          fab := { f with quads := f.quads.map (fun x => { x with tested := 0 }) } }))) ∧
    (∀ r kind, c ∉ (s.m.quad q).failed → q < s.m.fab.quads.length →
      (r, kind) ∈ [(SelfTest.cell, if c < 0x600 then 1 else if c < 0x700 then 2 else 3), (.path, 4)] →
      ∃ t, exec (.selfTestFiring q c r) s = .next t ∧ c ∈ (t.m.quad q).failed ∧ t.m.cellLive q c = false ∧
        t.m.bitOf F.FAB_EVT_st_fail q = true ∧
        t.m.rd .FAB_ST_FAIL = BitVec.ofNat 32 (2 ^ 31 + kind * 2 ^ 28 + q * 2 ^ 11 + c))) ∧
  (∀ m : M, m.rotationDone = true ↔ ∀ q < 4, m.qstate q = 0 ∨ m.loadHoldsTests q = true ∨ ∀ c < 2048,
    tbit (m.quad q).tested c = true ∨ c ∈ (m.quad q).failed ∨ m.cellIdle q c = false ∨ c ∈ m.armedCells q) ∧
  (∀ (s : State) (q c n : Nat), q < 4 → 0x700 ≤ c → c < 0x800 → n < 256 → s.m.qstate q ≠ 0 → s.m.loadHoldsTests q = false →
    (∀ cl, s.m.cell q c = some cl → s.m.bit F.FAB_ST_CTRL_mused = true → (∀ p ∈ (s.m.quad q).wordTests, p.1 = c → p.2 + 10000 ≤ s.m.time.tb) →
      exec (.mcellWordTest q c n true) s = .next { s with m := { s.m with
        fab := s.m.fab.inQuad q (fun x => { x with wordTests := aput c s.m.time.tb x.wordTests }) } }) ∧
    (∀ cl, s.m.cell q c = some cl → (∃ p ∈ (s.m.quad q).wordTests, p.1 = c ∧ s.m.time.tb < p.2 + 10000) →
      ∀ pass, exec (.mcellWordTest q c n pass) s = .next s) ∧
    (s.m.cell q c = none → s.m.testsOn F.FAB_ST_CTRL_munused = true → exec (.mcellWordTest q c n true) s = .next s) ∧
    (q < s.m.fab.quads.length → c ∉ (s.m.quad q).failed →
      ((s.m.cell q c = none ∧ s.m.testsOn F.FAB_ST_CTRL_munused = true) ∨ (s.m.cell q c ≠ none ∧
        s.m.bit F.FAB_ST_CTRL_mused = true ∧ ∀ p ∈ (s.m.quad q).wordTests, p.1 = c → p.2 + 10000 ≤ s.m.time.tb)) →
      ∃ t, exec (.mcellWordTest q c n false) s = .next t ∧ c ∈ (t.m.quad q).failed ∧ t.m.cellLive q c = false ∧
        t.m.bitOf F.FAB_EVT_st_fail q = true ∧ t.m.rd .FAB_ST_FAIL = BitVec.ofNat 32 (2 ^ 31 + 3 * 2 ^ 28 + q * 2 ^ 11 + c))) ∧
  (∀ (s : State) (n : Nat) (p : SbkPath) (a : CellAccess) (rest : List CellAccess), n < 8 →
    s.m.fab.paths.find? (fun x => x.path == n) = some p →
    takeAccess (fun x => x.cell == p.finalCell) (s.m.quad p.quadrant).waiting = some (a, rest) →
    (∀ (w : Who) (m1 m2 m3 : M) (line : Option Nat), a.write = true →
      (∀ o ∈ (s.m.quad p.quadrant).outstanding, o.cell ≠ p.finalCell) → s.m.who (.unit a.unit) = some w →
      m1 = { s.m with fab := s.m.fab.inQuad p.quadrant (fun x => { x with waiting := rest }) } →
      m2 = (m1.writePoint w a.point a.value).2 →
      line = ((m1.point a.point).filter (fun r => r.backing == 2)).map (fun r => r.ref % 64) →
      m3 = m2.springbokMeasure p (line.any (fun l => !(m2.lineDrive l == m1.lineDrive l))) →
      exec (.springbokWrite n) s = .next { s with m := m3 }) ∧
    ((a.write = false ∨ ∃ o ∈ (s.m.quad p.quadrant).outstanding, o.cell = p.finalCell) → exec (.springbokWrite n) s = .next s)) ∧
  (∀ (m : M) (p : SbkPath) (t0 d : Nat) (rest : List (Nat × Nat)), p.path < 8 → takeStart p.path m.fab.sbkStart = some (t0, rest) →
    d = (m.time.tai % 2 ^ 32 + 2 ^ 32 - t0) % 2 ^ 32 →
    m.springbokMeasure p false = { m with fab := { m.fab with sbkStart := rest } } ∧
    (m.springbokMeasure p true).fab = { m.fab with sbkStart := rest } ∧
    (m.springbokMeasure p true).get F.FAB_SBK_LAT_last p.path = min d 0xFFFF ∧
    (m.springbokMeasure p true).get F.FAB_SBK_LAT_max p.path = max (min d 0xFFFF) (m.get F.FAB_SBK_LAT_max p.path) ∧
    (m.springbokBound (((m.tcell p.quadrant p.edgeCell).map (fun x => x.2.filter)).getD 0) < d →
      (m.springbokMeasure p true).bitOf F.FAB_SBK_STAT_over p.path = true)) ∧
  (∀ (s : State) (by_ : Master) (w : Who) (v : Nat), v < 256 → s.m.accepts by_ w (Reg.FAB_SBK_ARM.addr 0 0 0) true →
    ∃ t, exec (.springbokArm by_ v) s = .next t ∧ ∀ n < 8, (t.m.bitOf F.FAB_SBK_ARM_arm n =
      if s.m.bitOf F.FAB_SBK_STAT_defined n then tbit v n else s.m.bitOf F.FAB_SBK_ARM_arm n) ∧
      t.m.get F.FAB_SBK_LAT_max n = if s.m.bitOf F.FAB_SBK_STAT_defined n && tbit v n && !s.m.bitOf F.FAB_SBK_ARM_arm n then 0
        else s.m.get F.FAB_SBK_LAT_max n) ∧
  (∀ (s : State) (by_ : Master) (w : Who), s.m.accepts by_ w (Reg.FAB_CTRL.addr 0 0 0) true →
    ∃ t, exec (.clrHwm by_) s = .next t ∧ t.m.fab = s.m.fab ∧ ∀ n < 4, t.m.get F.FAB_QSTAT_hwm n = (s.m.quad n).held % 2 ^ 13)

/-! ### The image loader and changes of settings -/

/-- The four loader commands act on the selected source.  A command written while busy is ignored, except abort.  A verify runs its
checks, a full load its checks and the one of the state; one on the reserved source ends at once with LENGTH, a load with its record.  A partial load that passes
its checks asks its quadrant to quiesce; an ACTIVE unit sends the image to its peer first and goes on only when the peer reports
passed, which is not the module's to know (log 3).  An abort ends a verify, or a load before it changes anything, with ABORTED; a load that
the quadrant's quiesce has ended already, or one past its configuration, stays as it is. -/
def Obligations.LoaderCommandsStart : Prop :=
  (∀ (s : State) (by_ : Master) (w : Who) (c : Instr) (op : Nat), s.m.accepts by_ w (Reg.UPD_IMG_CMD.addr 0 0 0) true →
    (c, op) ∈ [(Instr.imageVerify by_, 1), (.imageLoad by_, 2), (.partialLoad by_, 2), (.imageAbort by_, 3)] →
    s.does c (fun e => ({ e with free := e.free + 1 } : M).imageCommand op ((Config.freeWord e.free).toNat % 2 == 1))) ∧
  (∀ (m : M) (ok : Bool), m.bit F.UPD_IMG_STAT_busy = true → m.imageCommand 1 ok = m ∧ m.imageCommand 2 ok = m) ∧
  (∀ (m : M) (ok : Bool), m.bit F.UPD_IMG_STAT_busy = false → m.imageSource = none →
    m.imageCommand 1 ok = m.imageResult 5 0 ∧ m.imageCommand 2 ok = (m.imageResult 5 0).imageRecord 3 [] 5) ∧
  (∀ (m : M) (ok : Bool) (src : Bytes), m.bit F.UPD_IMG_STAT_busy = false → m.imageSource = some src →
    (m.imageChecks src = none → m.imageCommand 1 ok = m.jobStarted (.verify 0 0)) ∧
    (∀ e l, m.imageChecks src = some (e, l) → m.imageCommand 1 ok = m.jobStarted (.verify e l)) ∧
    ((readHeader src).partial_ = false →
      (m.loadChecks src = none → m.imageCommand 2 ok = m.jobStarted (.full 0 0 src)) ∧
      (∀ e l, m.loadChecks src = some (e, l) → m.imageCommand 2 ok = m.jobStarted (.full e l src))) ∧
    ((readHeader src).partial_ = true →
      (∀ e l, m.loadChecks src = some (e, l) → m.imageCommand 2 ok = m.jobStarted (.partialDone e l src)) ∧
      (m.loadChecks src = none → ¬ (m.unitState = 4 ∧ m.get F.TTH_STAT_link = 2) →
        m.imageCommand 2 ok = (m.jobStarted (.partialQuiesce (readHeader src).quadrant src)).quiesceRequest (readHeader src).quadrant) ∧
      (m.loadChecks src = none → m.unitState = 4 → m.get F.TTH_STAT_link = 2 →
        m.imageCommand 2 true = ((m.sendBulk (src.take (readHeader src).length)).jobStarted
          (.partialQuiesce (readHeader src).quadrant src)).quiesceRequest (readHeader src).quadrant ∧
        ∃ n e, 1 ≤ e ∧ e ≤ 0x13 ∧
          m.imageCommand 2 false = ({ m.sendBulk (src.take (readHeader src).length) with free := n } : M).jobStarted (.partialDone e 0 src)))) ∧
  (∀ (m : M) (ok : Bool),
    (∀ e l, m.img.job = .verify e l → m.imageCommand 3 ok = m.imageResult 0x13 0) ∧
    (∀ e l src, m.img.job = .full e l src →
      m.imageCommand 3 ok = (m.imageResult 0x13 0).imageRecord m.img.source src 0x13) ∧
    (∀ q src, m.img.job = .partialQuiesce q src → m.imageCommand 3 ok =
      ((({ m with img := { m.img with job := .none } } : M).quiesceCancel q).imageResult 0x13 0).imageRecord
        m.img.source src 0x13) ∧
    (∀ e l src, m.img.job = .partialDone e l src → m.imageCommand 3 ok =
      if e = 0x12 then m else (m.imageResult 0x13 0).imageRecord m.img.source src 0x13) ∧
    ((m.img.job = .none ∨ ∃ src, m.img.job = .fullWaits src) → m.imageCommand 3 ok = m)) ∧
  (∀ (m : M) (e l : Nat), e < 256 → l < 2 ^ 32 → (m.imageResult e l).get F.UPD_IMG_STAT_err = e ∧
    (m.imageResult e l).bit F.UPD_IMG_STAT_busy = false ∧ (m.imageResult e l).img.job = .none ∧
    (m.imageResult e l).get F.UPD_IMG_ERRLOC_offset = if 1 ≤ e ∧ e ≤ 0x0F then l else m.get F.UPD_IMG_ERRLOC_offset) ∧
  (∀ (m : M) (k e : Nat) (src : Bytes), M.EventsOnly m (m.imageRecord k src e) ∧
    (m.imageRecord k src e).bitOf F.EVC_PEND_pend 0x13 0 = true)

/-- LOAD_COMPLETE ends the loader's command.  A verify only sets its result.  A load that failed its checks sets its result, writes
its record and raises the image source, and changes nothing else.  A full load replaces fabric, directory and shares, applies its
records, waits for the boundaries of the B fields it wrote, restores what is retained, and then reads LOADED; metering that must
stop for it finishes its frame first; one whose quadrants have no power, or that met a parity error, fails with APPLY.  A partial
load whose quadrant is quiesced or empty returns it to run, counts it and reads LOADED as before, and waits till then. -/
def Obligations.LoadsComplete : Prop :=
  (∀ (s : State) (e l : Nat), s.m.img.job = .verify e l → exec .loadComplete s = .next { s with m := s.m.imageResult e l }) ∧
  (∀ (s : State) (e l : Nat) (src : Bytes),
    (s.m.img.job = .partialDone e l src ∨ (e ≠ 0 ∧ e ≠ 0x10 ∧ s.m.img.job = .full e l src)) →
    ∃ t, exec .loadComplete s = .next t ∧ t.pending = s.pending ∧ t.sram = s.sram ∧ M.EventsOnly (s.m.imageResult e l) t.m ∧
      t.m.bitOf F.EVC_PEND_pend 0x13 0 = true) ∧
  (∀ (s : State) (l : Nat) (src : Bytes) (x : Image) (a m1 m2 : M), x = readImage (src.take (readHeader src).length) →
    ((s.m.img.job = .full 0 l src ∧ (∀ q < 4, tbit x.header.qmask q = true → s.m.domainOn q = true) ∧ s.m.meterHolds x = false ∧
      a = s.m.loadSteps x x.header.level ∧ a.boundaryPending x = false) ∨
     (s.m.img.job = .fullWaits src ∧ a = s.m ∧ a.boundaryPending x = false)) →
    m1 = a.retainRestore →
    m2 = ((((((((m1.put F.UPD_IMG_STAT_state 1).put F.UPD_IMG_STAT_partial 0).put F.UPD_IMG_STAT_dirty 0).put F.UPD_IMG_ID_id
      x.header.imageId).put F.UPD_IMG_VER_version x.header.version).put F.UPD_IMG_QREV_qrev 0).put F.EXE_STAT_first 1).put
      F.UPD_IMG_STAT_err 0).put F.UPD_IMG_STAT_busy 0 →
    ∃ e, M.EventsOnly { m2 with img := { m2.img with job := .none, inForce := src.take x.header.length } } e ∧
      e.bitOf F.EVC_PEND_pend 0x13 0 = true ∧ exec .loadComplete s = .next (s.after (e, s.sram))) ∧
  (∀ (s : State) (l : Nat) (src : Bytes) (x : Image), x = readImage (src.take (readHeader src).length) →
    (s.m.img.job = .fullWaits src → s.m.boundaryPending x = true → exec .loadComplete s = .next s) ∧
    (s.m.img.job = .full 0 l src → (∀ q < 4, tbit x.header.qmask q = true → s.m.domainOn q = true) →
      (s.m.meterHolds x = false → ∀ a, a = s.m.loadSteps x x.header.level → a.boundaryPending x = true →
        exec .loadComplete s = .next (s.after ({ a with img := { a.img with job := .fullWaits src } }, s.sram))) ∧
      (s.m.meterHolds x = true → s.m.mtr.stopping = true → exec .loadComplete s = .next s) ∧
      (s.m.meterHolds x = true → s.m.mtr.stopping = false → exec .loadComplete s = .next (s.after
        ({ s.m.meterStop with img := { s.m.img with stopped := s.m.img.stopped ++ [Reg.MTR_CTRL.addr 0 0 0] } }, s.sram))))) ∧
  (∀ (s : State) (l : Nat) (src : Bytes),
    (s.m.img.job = .full 0x10 l src ∨ (s.m.img.job = .full 0 l src ∧
      ∃ q < 4, tbit (readImage (src.take (readHeader src).length)).header.qmask q = true ∧ s.m.domainOn q = false)) →
    ∃ e, M.EventsOnly ((s.m.loadFailed (readImage (src.take (readHeader src).length))).imageResult 0x10 0) e ∧
      e.bitOf F.EVC_PEND_pend 0x13 0 = true ∧ exec .loadComplete s = .next (s.after (e, s.sram))) ∧
  (∀ (m : M) (x : Image), (m.loadFabric x).exe.units = x.units.map Prod.snd ∧ (m.loadFabric x).fab.paths = x.paths.map Prod.snd ∧
    (∀ q < 4, (m.loadFabric x).qstate q = if m.domainOn q then (if tbit x.header.qmask q then 2 else 1) else m.qstate q) ∧
    (∀ q < 4, ((m.loadFabric x).quad q).flight = [] ∧ ((m.loadFabric x).quad q).waiting = [] ∧
      ((m.loadFabric x).quad q).failed = (m.quad q).failed) ∧
    (∀ n < 8, (m.loadFabric x).bitOf F.FAB_SBK_ARM_arm n = false)) ∧
  (∀ (s : State) (q : Nat) (src : Bytes) (x : Image), s.m.img.job = .partialQuiesce q src → q < 4 →
    ((s.m.qstate q = 4 ∨ s.m.qstate q = 1) → x = readImage (src.take (readHeader src).length) →
      ∃ t, exec .loadComplete s = .next t ∧ t.pending = s.pending ∧ t.m.qstate q = 2 ∧ t.m.get F.UPD_IMG_ID_id = x.header.imageId ∧
        t.m.get F.UPD_IMG_STAT_partial = 1 ∧ t.m.get F.UPD_IMG_STAT_err = 0 ∧ t.m.bit F.UPD_IMG_STAT_busy = false ∧
        fieldN (t.m.get F.UPD_IMG_QREV_qrev) (8 * q) 8 = min 255 (fieldN (s.m.get F.UPD_IMG_QREV_qrev) (8 * q) 8 + 1) ∧
        t.m.img.job = .none ∧ t.m.bitOf F.EVC_PEND_pend 0x13 0 = true) ∧
    (s.m.qstate q ≠ 4 → s.m.qstate q ≠ 1 → exec .loadComplete s = .next s))

/-- BOUNDARY_TRANSFER: at a block's boundary the written copies become effective, and only then; a block whose boundary has not come is
left alone.  The loop engine and the metering also validate their armed groups there, and so does a port; a channel
takes its control register and bank; a line in PWM starts a period with its period and duty.  Slots that recur by module time act
at TAI multiples of their period only. -/
def Obligations.SettingsTakeEffectAtTheBoundary : Prop :=
  (∀ (m : M) (addrs : List Nat) (r : Reg) (i j k : Nat),
    (r.addr i j k ∈ addrs → (m.transferAt addrs).effWord r i j k = m.rd r i j k) ∧
    (r.addr i j k ∉ addrs → (m.transferAt addrs).effWord r i j k = m.effWord r i j k) ∧
    (m.transferAt addrs).rd r i j k = m.rd r i j k) ∧
  (∀ (s : State) (b : BoundaryOf) (addrs : List Nat),
    ((∃ n < 8, b = .can n ∧ addrs = [Reg.CAN_REF.addr n 0 0] ∧
        s.m.time.tai % (max 1 (s.m.eff F.CAN_REF_period n) * 1000000) = 0) ∨ (b = .tether ∧ addrs = [Reg.TTH_CTRL.addr 0 0 0]) ∨
      (b = .calendar ∧ addrs = [Reg.RTC_CFG.addr 0 0 0, Reg.RTC_LEAP.addr 0 0 0]) ∨
      (∃ n < 32, b = .task n ∧ addrs = [Reg.EXE_TCFG.addr n 0 0] ∧ ∀ t, s.m.taskState n = some t → t.phase = .idle)) →
    exec (.boundaryTransfer b) s = .next { s with m := s.m.transferAt addrs }) ∧
  (∀ (s : State) (n : Nat), n < 8 → s.m.time.tai % (max 1 (s.m.eff F.CAN_REF_period n) * 1000000) ≠ 0 →
    exec (.boundaryTransfer (.can n)) s = .next s) ∧
  (∀ (s : State) (n : Nat) (t : TaskState), n < 32 → s.m.taskState n = some t → t.phase ≠ .idle →
    exec (.boundaryTransfer (.task n)) s = .next s) ∧
  (∀ (s : State) (x : Nat), x < 3 → exec (.boundaryTransfer (.ethernet x)) s =
    .next (s.after ((s.m.transferAt [Reg.ETH_SDCFG.addr x 0 0, Reg.ETH_SDUP.addr x 0 0]).ethGroups x, s.sram))) ∧
  (∀ s : State, (s.m.bit F.LPE_CTRL_en = true → s.m.time.tai % 10000 = 0 → exec (.boundaryTransfer .loopEngine) s = .next (s.after (s.m.loopGroups, s.sram))) ∧
    (s.m.bit F.LPE_CTRL_en = false ∨ s.m.time.tai % 10000 ≠ 0 → exec (.boundaryTransfer .loopEngine) s = .next s)) ∧
  (∀ (s : State) (n : Nat), n < 64 → ∃ t, exec (.boundaryTransfer (.loopChannel n)) s = .next t ∧ t.pending = s.pending ∧
    t.sram = s.sram ∧ t.m.effWord .LPE_CH_CTRL n = s.m.rd .LPE_CH_CTRL n ∧
    t.m.get F.LPE_CH_STAT_bank n = s.m.get F.LPE_CTRL_bank_sel ∧
    (wfield (s.m.rd .LPE_CH_CTRL n) F.LPE_CH_CTRL_en.lo 1 = 0 → t.m.chState n = 0)) ∧
  (∀ (s : State) (m1 m2 : M), m1 = (s.m.meterClears.transferAt meterB).meterGroups →
    m2 = (if s.m.bit F.MTR_STAT_frozen = true ∧ m1.effB F.MTR_CTRL_freeze = true then m1
      else (List.range 12).foldl (fun (a : M) c => a.showCircuit c) m1) →
    (¬ (s.m.mtrRuns = true ∧ s.m.bit F.MTR_STAT_clk = true) → s.m.time.tai % 10000000 = 0 →
      exec (.boundaryTransfer .metering) s = .next (s.after
        (((m2.putB F.MTR_STAT_frozen (m1.effB F.MTR_CTRL_freeze)).clockFollows.showClock).showFaults, s.sram))) ∧
    ((s.m.mtrRuns = true ∧ s.m.bit F.MTR_STAT_clk = true) ∨ s.m.time.tai % 10000000 ≠ 0 →
      exec (.boundaryTransfer .metering) s = .next s)) ∧
  (∀ (s : State) (n u d : Nat), n < 64 →
    u = (if s.m.get F.PMC_LVL_STAT_level = 0 then 8 else if s.m.get F.PMC_LVL_STAT_level = 1 then 2 else 1) →
    d = ((s.m.lineOutput n).map (fun p => p.2.value.toNat)).getD 0 →
    (s.m.get F.LIO_CFG_func n ≠ 3 ∨ 16 ≤ n → exec (.boundaryTransfer (.pwm n)) s = .next s) ∧
    (s.m.get F.LIO_CFG_func n = 3 → n < 16 → exec (.boundaryTransfer (.pwm n)) s =
      .next { s with m := { s.m.transferAt [Reg.LIO_PWM.addr n 0 0] with
                              lio := { s.m.lio with pwm := aput n (s.m.get F.LIO_PWM_period n / u * u, (d / u * u, s.m.time.tb)) s.m.lio.pwm } } }))

/-- A commit register: GROUP_COMMIT arms a group, GROUP_ABORT gives the written values of an unarmed group up.  At the boundary an
armed group that is valid becomes effective as a whole; one that is not sets its error and keeps its pending set; an
unarmed one waits. -/
def Obligations.PairedGroupsCommitTogether : Prop :=
  (∀ (s : State) (by_ : Master) (w : Who) (b : CommitBlock) (g : Nat), b.port < 3 → g < b.groups →
    s.m.accepts by_ w (b.reg.addr b.port 0 0) true →
    s.does (.groupCommit by_ b g) (fun e => ((e.put b.err (e.get b.err b.port) b.port).putBit b.cmt g true b.port).groupsSettle b) ∧
    s.does (.groupAbort by_ b g) (fun e => ((e.put b.err (e.get b.err b.port) b.port).abortGroup b g).groupsSettle b)) ∧
  (∀ (m : M) (b : CommitBlock) (g : Nat) (f : M → M),
    (m.armed b g = false → ∀ v, m.commitGroup b g v f = m) ∧
    (m.armed b g = true → m.commitGroup b g true f =
      f (((m.transferAt (m.pendingOf b g)).putBit b.cmt g false b.port).putBit b.pend g false b.port)) ∧
    (m.armed b g = true → m.commitGroup b g false f = (m.putBit b.err g true b.port).putBit b.cmt g false b.port)) ∧
  (∀ (m : M) (b : CommitBlock) (g : Nat), g < b.groups →
    (m.armed b g = true → m.abortGroup b g = m) ∧
    (m.armed b g = false →
      (∀ a ∈ m.pendingOf b g, aget a (m.abortGroup b g).regs = aget a m.effs ∧ aget a (m.abortGroup b g).effs = none) ∧
      (∀ a, a ∉ m.pendingOf b g → a ≠ b.pend.reg.addr b.port 0 0 →
        aget a (m.abortGroup b g).regs = aget a m.regs ∧ aget a (m.abortGroup b g).effs = aget a m.effs) ∧
      (m.abortGroup b g).bitOf b.pend g b.port = false)) ∧
  (∀ (m : M) (b : CommitBlock) (g : Nat) (r : Reg) (v : Word) (i j k : Nat), memberAt (r.addr i j k) = some (b, g) →
    (m.writeMember b g r v i j k).rd r i j k = v ∧ (m.writeMember b g r v i j k).effWord r i j k = m.effWord r i j k ∧
    r.addr i j k ∈ (m.writeMember b g r v i j k).pendingOf b g)

/-! ### Cyclic execution -/

/-- TASK_DUE, at a multiple of the task's period that has not been served, makes an idle enabled periodic task wait for its latch,
holds the start while a quadrant of it is not in run, and is an overrun while its instance still runs; at any other time it does
nothing.  ERROR_TASK_START does the same for the pending call of the lowest caller, with the
payload of Table 5-7, or loses the calls of a task that is disabled (log 99); ERROR_TASK_DEADLINE is an overrun once a call or an instance is older than the period.  A
trip names its cause and task, abandons every instance and discards the pending calls. -/
def Obligations.TasksFallDueAndTrip : Prop :=
  (∀ (s : State) (n : Nat) (r : TaskRec) (t : TaskState) (m0 m1 : M), n < 32 → s.m.taskRec n = some r → s.m.taskState n = some t →
    r.etask = false → s.m.time.tai % (1000 * r.period) = 0 → t.lastDue ≠ some s.m.time.tb →
    m0 = s.m.modTask n (fun x => { x with lastDue := some s.m.time.tb }) → m1 = m0.transferAt [Reg.EXE_TCFG.addr n 0 0] →
    (s.m.get F.EXE_STAT_state = 1 → t.phase = .idle →
      (m1.taskOn n = false → exec (.taskDue n) s = .next { s with m := m1 }) ∧
      (m1.taskOn n = true → s.m.taskRuns n = false →
        exec (.taskDue n) s = .next { s with m := m1.modTask n (fun x => { x with held := x.held + 1 }) }) ∧
      (m1.taskOn n = true → s.m.taskRuns n = true → exec (.taskDue n) s =
        .next { s with m := m1.modTask n (fun x => { x with phase := .due, began := s.m.time.tb, payload := 0 }) })) ∧
    (s.m.get F.EXE_STAT_state = 1 ∨ s.m.get F.EXE_STAT_state = 2 → t.phase ≠ .idle →
      exec (.taskDue n) s = .next (s.after (m0.trip 1 n, s.sram))) ∧
    (s.m.get F.EXE_STAT_state = 2 → t.phase = .idle → exec (.taskDue n) s = .next { s with m := m0 }) ∧
    (s.m.get F.EXE_STAT_state ≠ 1 → s.m.get F.EXE_STAT_state ≠ 2 → exec (.taskDue n) s = .next s)) ∧
  (∀ (s : State) (n : Nat) (r : TaskRec) (t : TaskState), n < 32 → s.m.taskRec n = some r → s.m.taskState n = some t →
    (r.etask = true ∨ s.m.time.tai % (1000 * r.period) ≠ 0 ∨ t.lastDue = some s.m.time.tb) → exec (.taskDue n) s = .next s) ∧
  (∀ (s : State) (n : Nat) (r : TaskRec) (t : TaskState) (m1 : M) (c : ErrorCall) (rest : List ErrorCall), n < 32 → s.m.taskRec n = some r →
    s.m.taskState n = some t → r.etask = true → t.calls = c :: rest → m1 = s.m.transferAt [Reg.EXE_TCFG.addr n 0 0] →
    (s.m.get F.EXE_STAT_state = 1 → t.phase = .idle → m1.taskOn n = false → exec (.errorTaskStart n) s =
      .next { s with m := (m1.modTask n (fun x => { x with calls := [] })).exeFlag F.EXE_EVT_elost }) ∧
    (s.m.get F.EXE_STAT_state = 1 → t.phase = .idle → m1.taskOn n = true → s.m.taskRuns n = true → exec (.errorTaskStart n) s =
      .next { s with m := m1.modTask n (fun x => { x with
        phase := .due
        began := c.at_
        payload := BitVec.ofNat 32 (bitN c.reasons 2 * 2 ^ 26 + bitN c.reasons 1 * 2 ^ 25 + bitN c.reasons 0 * 2 ^ 24 +
          c.caller * 2 ^ 16 + c.detail)
        calls := rest }) }) ∧
    (s.m.get F.EXE_STAT_state = 1 → t.phase = .idle → m1.taskOn n = true → s.m.taskRuns n = false → ∃ m2,
      m2 = m1.modTask n (fun x => { x with calls := rest }) ∧
      exec (.errorTaskStart n) s = .next { s with m := m2.modTask n (fun x => { x with held := x.held + 1 }) }) ∧
    (s.m.get F.EXE_STAT_state ≠ 1 ∨ t.phase ≠ .idle → exec (.errorTaskStart n) s = .next s)) ∧
  (∀ (s : State) (n : Nat) (r : TaskRec) (t : TaskState), n < 32 → s.m.taskRec n = some r → s.m.taskState n = some t → r.etask = true →
    ((t.phase ≠ .idle ∧ t.began + r.period * 1000 ≤ s.m.time.tb) ∨ (∃ c ∈ t.calls, c.at_ + r.period * 1000 ≤ s.m.time.tb) →
      exec (.errorTaskDeadline n) s = .next (s.after (s.m.trip 1 n, s.sram))) ∧
    (t.phase = .idle ∨ s.m.time.tb < t.began + r.period * 1000 → (∀ c ∈ t.calls, s.m.time.tb < c.at_ + r.period * 1000) →
      exec (.errorTaskDeadline n) s = .next s)) ∧
  (∀ (m : M) (c n : Nat), c < 16 → n < 32 →
    (m.get F.EXE_STAT_state = 0 ∨ m.get F.EXE_STAT_state = 3 → m.trip c n = m) ∧
    (m.get F.EXE_STAT_state = 1 ∨ m.get F.EXE_STAT_state = 2 → ∃ x : M, x.get F.EXE_STAT_state = 3 ∧ x.get F.EXE_STAT_cause = c ∧
      x.get F.EXE_STAT_trip_task = n ∧ x.bit F.EXE_EVT_trip = true ∧ x.bit F.EXE_CMD_STAT_busy = false ∧
      x.exe.tasks = m.exe.tasks.map (fun t => (t.1, { t.2 with phase := .idle, calls := [] })) ∧
      m.trip c n = if x.unitState = 4 ∧ x.bit F.IBX_CTRL_trip_act = true then x.handOverOrSafe .trip else x))

/-- IMAGE_LATCH reads every input entry with its tag, counts the absent ones, flags a dropout and a recovery, and starts a wave of each
unit, once the task's quadrants run and have room for its start tokens.  OUTPUT_RELEASE writes every output entry through the gate, counting those refused, measures the instance, and
calls the error task when the latch met a dropout or recovery; then the task's boundary runs. -/
def Obligations.InstancesLatchAndRelease : Prop :=
  (∀ (s : State) (n : Nat) (t : TaskState) (ins outs : List ImageEntry) (subst newly ended : List Nat), n < 32 →
    s.m.taskState n = some t → t.phase = .due → s.m.taskRuns n = true → s.m.servedFirst n = true → s.m.startRoom n = true →
    ins = t.inputs.map (s.m.latchEntry n) → outs = t.outputs.map s.m.firstOutput →
    subst = (ins.filter (fun e => !tbit e.data.toNat 47 && tbit e.data.toNat 34)).map ImageEntry.point →
    newly = subst.filter (fun p => !t.substituted.contains p) → ended = t.substituted.filter (fun p => !subst.contains p) →
    ∃ m4 : M,
      m4.get F.EXE_DENY_count = min (s.m.get F.EXE_DENY_count + (ins.filter (fun e => tbit e.data.toNat 47)).length) 0xFFFFFFFF ∧
      (newly ≠ [] → m4.bit F.EXE_EVT_dropout = true) ∧ (ended ≠ [] → m4.bit F.EXE_EVT_recover = true) ∧
      m4.bit F.EXE_TSTAT_subst n = !subst.isEmpty ∧ m4.pts = s.m.pts ∧ m4.fab = s.m.fab ∧
      m4.exe = { s.m.exe with
        tasks := amod n (fun x => { x with
          phase := .running
          inputs := ins
          outputs := outs
          substituted := subst
          reasons := (if newly = [] then 0 else 1) + (if ended = [] then 0 else 2)
          detail := lowest ((if newly = [] then ended else newly).filterMap s.m.stationNumber)
          failedUnit := none }) s.m.exe.tasks } ∧
      exec (.imageLatch n) s = .next (s.after ((s.m.taskUnits n).foldl (fun (a : M) u => a.startWave u.unit t.payload) m4, s.sram))) ∧
  (∀ (m : M) (u : Nat) (p : Word) (r : UnitRec), m.exe.units.find? (fun x => x.unit == u) = some r →
    (m.startWave u p).unitWave u = (m.unitWave u + 1) % 8 ∧ u ∈ (m.startWave u p).exe.active ∧ (m.startWave u p).exe.tasks = m.exe.tasks) ∧
  (∀ (m : M) (n : Nat) (e : ImageEntry) (w : Who), m.who (.unit e.unit) = some w →
    ((m.readPoint w e.point).toNat.testBit 34 = true → (m.readPoint w e.point).toNat.testBit 35 = false →
      (m.readPoint w e.point).toNat.testBit 47 = false → m.bit F.EXE_TCFG_subst n = true →
      (m.latchEntry n e).data = BitVec.ofNat 64 ((m.readPoint w e.point).toNat / 2 ^ 32 * 2 ^ 32)) ∧
    (m.bit F.EXE_TCFG_subst n = false → (m.latchEntry n e).data = m.readPoint w e.point) ∧ (m.latchEntry n e).point = e.point ∧
    (m.latchEntry n e).unit = e.unit) ∧
  (∀ (s : State) (n : Nat) (t : TaskState), n < 32 → s.m.taskState n = some t →
    (t.phase ≠ .due ∨ s.m.taskRuns n = false ∨ s.m.servedFirst n = false ∨ s.m.startRoom n = false) →
    exec (.imageLatch n) s = .next s) ∧
  (∀ (s : State) (n : Nat) (r : TaskRec) (t : TaskState) (c m1 m2 m3 m4 : M), n < 32 → s.m.taskRec n = some r → s.m.taskState n = some t →
    s.m.wavesEnded n t = true → s.m.servedFirst n = true → (s.m.get F.EXE_STAT_state = 1 ∨ s.m.get F.EXE_STAT_state = 2) →
    c = s.m.captureTask n → m1 = t.outputs.foldl (fun (a : M) e => a.releaseEntry e) c →
    m2 = (m1.modTask n (fun x => { x with phase := .idle, released := true })).measure n t.began r.bound →
    m3 = (if t.released then m2 else m2.safeChanged) → m4 = (if t.reasons = 0 then m3 else m3.callError n t.reasons t.detail) →
    exec (.outputRelease n) s = .next (s.after (m4.taskBoundary n, s.sram))) ∧
  (∀ (s : State) (n : Nat) (t : TaskState), n < 32 → s.m.taskState n = some t → (s.m.wavesEnded n t = false ∨ s.m.servedFirst n = false) →
    exec (.outputRelease n) s = .next s) ∧
  (∀ (m : M) (e : ImageEntry) (w : Who), m.who (.unit e.unit) = some w →
    ((m.writePoint w e.point (e.data.setWidth 32)).1 = .granted → m.releaseEntry e = (m.writePoint w e.point (e.data.setWidth 32)).2) ∧
    ((m.writePoint w e.point (e.data.setWidth 32)).1 ≠ .granted →
      m.releaseEntry e = (m.writePoint w e.point (e.data.setWidth 32)).2.count F.EXE_DENY_count)) ∧
  (∀ (m : M) (n b bound d : Nat), n < 32 → d = min (m.time.tb - b) 0xFFFFFFFF →
    (m.measure n b bound).get F.EXE_TLAST_ns n = d ∧ (m.measure n b bound).get F.EXE_TMAX_ns n = max d (m.get F.EXE_TMAX_ns n) ∧
    (m.measure n b bound).rd .EXE_TCNT n = m.rd .EXE_TCNT n + 1 ∧ (bound < d → (m.measure n b bound).bit F.EXE_TSTAT_ovb n = true ∧
      (m.measure n b bound).bit F.EXE_EVT_ovb = true))

/-- EXE_CMD: a command written while one runs is ignored.  A stop of a running module enters STOPPING and discards pending calls, of a
stopped one answers OK; STOP_COMPLETE ends it when every instance has released.  A run is refused for the first reason of
R192, else reads RUN with cause and task cleared and no instance; a cold run first sets every cell to its record.  An ack
moves TRIPPED to STOP.  AUTO_RUN is the module's own run command at step 10 of the bring-up. -/
def Obligations.ExecutionStopsAndRuns : Prop :=
  (∀ (s : State) (by_ : Master) (w : Who) (c : Instr) (op : Nat), s.m.accepts by_ w (Reg.EXE_CMD.addr 0 0 0) true →
    (c, op) ∈ [(Instr.runWarm by_, 1), (.runCold by_, 2), (.stop by_, 3), (.exeAck by_, 4)] →
    s.does c (fun e => e.exeCommand op)) ∧
  (∀ (m : M) (op : Nat), m.bit F.EXE_CMD_STAT_busy = true → m.exeCommand op = m) ∧
  (∀ m : M, m.bit F.EXE_CMD_STAT_busy = false →
    (m.get F.EXE_STAT_state = 0 ∨ m.get F.EXE_STAT_state = 3 →
      m.exeCommand 3 = (m.put F.EXE_CMD_STAT_err 0).put F.EXE_CMD_STAT_busy 0) ∧
    (m.get F.EXE_STAT_state = 1 → (m.exeCommand 3).get F.EXE_STAT_state = 2 ∧ (m.exeCommand 3).bit F.EXE_CMD_STAT_busy = true ∧
      (m.exeCommand 3).fab = m.fab ∧ (m.exeCommand 3).pts = m.pts ∧
      (m.exeCommand 3).exe = { m.exe with tasks := m.exe.tasks.map (fun t => (t.1, { t.2 with calls := [] })) }) ∧
    (m.get F.EXE_STAT_state = 3 →
      m.exeCommand 4 = ((m.put F.EXE_STAT_state 0).put F.EXE_CMD_STAT_err 0).put F.EXE_CMD_STAT_busy 0) ∧
    (m.get F.EXE_STAT_state ≠ 3 → m.exeCommand 4 = (m.put F.EXE_CMD_STAT_err 6).put F.EXE_CMD_STAT_busy 0)) ∧
  (∀ (m : M) (op e : Nat), (op = 1 ∨ op = 2) → m.bit F.EXE_CMD_STAT_busy = false →
    e = (if m.get F.UPD_IMG_STAT_state ≠ 1 then 2 else if m.get F.EXE_STAT_state = 3 then 3
      else if m.get F.PMC_LVL_STAT_level < m.img.level then 4 else if m.get F.EXE_STAT_state ≠ 0 then 1
      else if ∃ u ∈ m.exe.units, m.unitHolds u.unit = true then 5 else 0) →
    (e ≠ 0 → m.exeCommand op = m.put F.EXE_CMD_STAT_err e) ∧
    (e = 0 → (m.exeCommand op).get F.EXE_STAT_state = 1 ∧ (m.exeCommand op).get F.EXE_STAT_cause = 0 ∧
      (m.exeCommand op).get F.EXE_STAT_trip_task = 0 ∧ (m.exeCommand op).bit F.EXE_STAT_first = false ∧
      (m.exeCommand op).get F.EXE_CMD_STAT_err = 0 ∧ (m.exeCommand op).bit F.EXE_CMD_STAT_busy = false ∧
      ∀ t ∈ (m.exeCommand op).exe.tasks, t.2.phase = .idle ∧ t.2.released = false ∧ t.2.failedUnit = none)) ∧
  (∀ m : M, (m.runRefusal ≠ 0 → ∀ cold, m.exeRun cold M.armImage = m.put F.EXE_CMD_STAT_err m.runRefusal) ∧
    m.coldStart.fab.quads = m.fab.quads.map (fun x => { x with
      cells := x.cells.map (fun p => (p.1, { p.2 with
        body := p.2.initial.fresh m.time.tai
        fired := false
        ports := List.replicate 4 none }))
      flight := []
      waiting := []
      outstanding := [] }) ∧
    m.coldStart.exe.waves = m.exe.waves.map (fun p => (p.1, 0))) ∧
  (∀ s : State, s.m.get F.EXE_STAT_state = 2 → (∀ t ∈ s.m.exe.tasks, t.2.phase = .idle) →
    ∃ x : M, x.get F.EXE_STAT_state = 0 ∧ x.get F.EXE_CMD_STAT_err = 0 ∧ x.bit F.EXE_CMD_STAT_busy = false ∧
      x.exe.tasks = s.m.exe.tasks ∧ exec .stopComplete s = .next (s.after (x, s.sram))) ∧
  (∀ s : State, s.m.get F.EXE_STAT_state ≠ 2 ∨ (∃ t ∈ s.m.exe.tasks, t.2.phase ≠ .idle) → exec .stopComplete s = .next s) ∧
  (∀ s : State,
    (s.m.boot.phase = .rising → s.m.get F.SYS_BOOT_STAT_step = 9 → s.m.unitState ≠ 1 → s.m.bit F.EXE_CTRL_auto_run = true →
      s.m.get F.UPD_IMG_STAT_state = 1 → s.m.get F.EXE_STAT_state = 0 →
      exec .autoRun s = .next (s.after (if s.m.runRefusal = 0 then s.m.exeRun (s.m.bit F.EXE_CTRL_auto_cold) M.armImage
        else (s.m.put F.EXE_CMD_STAT_err s.m.runRefusal).bootFail 8, s.sram))) ∧
    (s.m.bit F.EXE_CTRL_auto_run = false → exec .autoRun s = .next s)) ∧
  (∀ m : M, m.bit F.EXE_CMD_STAT_busy = false → m.exeCommand 1 = m.exeRun false M.armImage ∧ m.exeCommand 2 = m.exeRun true M.armImage)

/-- PATCH_ADD checks one item and keeps it only when the answer is OK; PATCH_COMMIT arms a set that is not empty, or applies it at
once while execution is stopped; PATCH_ABORT empties an unarmed set.  Each answers in EXE_OLC_STAT.err. -/
def Obligations.PatchSetsAddCommitAbort : Prop :=
  (∀ (s : State) (by_ : Master) (w : Who) (n : Nat), n < 32 → s.m.accepts by_ w (Reg.EXE_OLC_CMD.addr 0 0 0) true →
    s.does (.patchAdd by_ n) (fun e => e.olcCommand n 1) ∧ s.does (.patchCommit by_) (fun e => e.olcCommand 0 2) ∧
    s.does (.patchAbort by_) (fun e => e.olcCommand 0 3)) ∧
  (∀ (m : M) (n e : Nat) (p : Patch) (cl : Option Cell),
    p = ⟨m.get F.EXE_OLC_SEL_kind, m.get F.EXE_OLC_SEL_quadrant, m.get F.EXE_OLC_SEL_cell, m.get F.EXE_OLC_SEL_index, m.rd .EXE_OLC_DATA⟩ →
    cl = m.cell p.quadrant p.cell →
    e = (if m.bit F.EXE_OLC_STAT_armed = true then 1
      else if m.taskRec n = none ∨ (∃ x, m.exe.patchTask = some x ∧ x ≠ n) then 6
      else if p.fits = false ∨ m.patchImagesFit n p = false then 4
      else if (¬ ∃ c, cl = some c ∧ m.taskOf c.unit = some n) ∨ m.onPath p.quadrant p.cell = true then 3
      else if ∃ c, cl = some c ∧ ∃ u ∈ m.exe.units, u.unit = c.unit ∧ u.priv = true then 2
      else if m.patchForced p = true then 7 else if 64 ≤ m.exe.patches.length then 5 else 0) →
    (e ≠ 0 → m.olcCommand n 1 = m.put F.EXE_OLC_STAT_err e) ∧
    (e = 0 → m.olcCommand n 1 = ((({ m with exe := { m.exe with patchTask := some n, patches := m.exe.patches ++ [p] } } : M).put
      F.EXE_OLC_STAT_count (m.exe.patches.length + 1)).put F.EXE_OLC_STAT_err 0))) ∧
  (∀ m : M, (m.bit F.EXE_OLC_STAT_armed = true →
      m.patchCommit = m.put F.EXE_OLC_STAT_err 1 ∧ m.olcCommand 0 3 = m.put F.EXE_OLC_STAT_err 1) ∧
    (m.bit F.EXE_OLC_STAT_armed = false → m.exe.patches = [] → m.patchCommit = m.put F.EXE_OLC_STAT_err 9) ∧
    (m.bit F.EXE_OLC_STAT_armed = false → m.exe.patches ≠ [] → m.get F.EXE_STAT_state = 1 ∨ m.get F.EXE_STAT_state = 2 →
      m.patchCommit = (m.put F.EXE_OLC_STAT_armed 1).put F.EXE_OLC_STAT_err 0) ∧
    (m.bit F.EXE_OLC_STAT_armed = false → m.exe.patches ≠ [] → m.get F.EXE_STAT_state = 0 ∨ m.get F.EXE_STAT_state = 3 →
      m.patchCommit = m.applyPatches.put F.EXE_OLC_STAT_err 0) ∧
    (m.bit F.EXE_OLC_STAT_armed = false → m.olcCommand 0 3 =
      ((({ m with exe := { m.exe with patchTask := none, patches := [] } } : M).put F.EXE_OLC_STAT_armed 0).put F.EXE_OLC_STAT_count 0).put
        F.EXE_OLC_STAT_err 0) ∧
    (m.patchCommit.get F.EXE_OLC_STAT_err ≠ 0 → m.olcCommand 0 2 = m.patchCommit) ∧
    (m.patchCommit.get F.EXE_OLC_STAT_err = 0 →
      m.olcCommand 0 2 = m.patchCommit.tellPeer (.patchSet (m.exe.patchTask.getD 0) m.exe.patches))) ∧
  (∀ (m : M) (n : Nat), m.exe.patchTask = some n → m.applyPatches.exe.patches = [] ∧ m.applyPatches.exe.patchTask = none ∧
    m.applyPatches.bit F.EXE_OLC_STAT_armed = false ∧ m.applyPatches.get F.EXE_OLC_STAT_count = 0 ∧
    m.applyPatches.bit F.UPD_IMG_STAT_dirty = true) ∧
  (∀ (m : M) (p : Patch) (cl : Cell), m.cell p.quadrant p.cell = some cl →
    (∀ a, cl.body = .a a → p.kind = 1 → m.patchOne p = m.storeReg p.quadrant p.cell p.index p.value) ∧
    (∀ a, cl.body = .a a → p.kind ≠ 1 → m.patchOne p = m.setCell p.quadrant p.cell { cl with
      body := .a { a with slots := listMod a.slots p.index (fun x => { x with const := p.value }) } }) ∧
    (∀ a y, cl.body = .t a → y = m.putT p.quadrant p.cell (a.newPreset p.value m.time.tai) →
      (a.preset ≠ p.value → m.patchOne p = y) ∧
      (a.preset = p.value → m.patchOne p = y.backedUpdate 1 (cellRef p.quadrant p.cell 3) p.value 0)) ∧
    (∀ b, cl.body = .m b → m.patchOne p = m.setCell p.quadrant p.cell { cl with body := .m { b with words := putd 0 p.index p.value b.words } }))


/-- EXE_CMD op = ack takes a tripped execution to STOP and is answered INVAL in any other state; cause and trip_task keep their
values over both, until a run command that is accepted clears them. -/
def Obligations.AckEndsATrip : Prop :=
  (∀ (s : State) (by_ : Master) (w : Who), s.m.accepts by_ w (Reg.EXE_CMD.addr 0 0 0) true → s.m.bit F.EXE_CMD_STAT_busy = false →
    ∃ t, exec (.exeAck by_) s = .next t ∧ t.m.get F.EXE_STAT_cause = s.m.get F.EXE_STAT_cause ∧
      t.m.get F.EXE_STAT_trip_task = s.m.get F.EXE_STAT_trip_task ∧
      (s.m.get F.EXE_STAT_state = 3 → t.m.get F.EXE_STAT_state = 0 ∧ t.m.get F.EXE_CMD_STAT_err = 0) ∧
      (s.m.get F.EXE_STAT_state ≠ 3 → t.m.get F.EXE_STAT_state = s.m.get F.EXE_STAT_state ∧ t.m.get F.EXE_CMD_STAT_err = 6)) ∧
  (∀ (s : State) (by_ : Master) (w : Who) (c : Instr), s.m.accepts by_ w (Reg.EXE_CMD.addr 0 0 0) true →
    c ∈ [Instr.runWarm by_, .runCold by_] → s.m.bit F.EXE_CMD_STAT_busy = false → s.m.runRefusal = 0 →
    ∃ t, exec c s = .next t ∧ t.m.get F.EXE_STAT_state = 1 ∧ t.m.get F.EXE_STAT_cause = 0 ∧ t.m.get F.EXE_STAT_trip_task = 0)
/-! ### The loop engine -/

/-- LOOP_SAMPLE at a sample instant of the channel queues the captured value, clipped to full scale, with its instant behind those
that wait, unless the channel is OFF or follows a peer; a channel that leaves FOLLOW hands over from its last output.  LOOP_EVALUATION evaluates the earliest sample, the lowest channel of
equal ones: it leaves the registers of R231 and Table 6-12, learns where R251 lets it, writes the sink, acts on a
following-error trip, shows its points, and ends with the channel's boundary. -/
def Obligations.LoopChannelsSampleAndEvaluate : Prop :=
  (∀ (s : State) (n : Nat) (x : F32) (ph : F64) (v : F32) (mi : Nat) (y : Rat) (m0 : M), n < 64 →
    mi = s.m.get F.LPE_CH_SRC_id n % 64 →
    y = (if f32Rat x < -(8388607 / 8388608) then -(8388607 / 8388608) else if 8388607 / 8388608 < f32Rat x then 8388607 / 8388608 else f32Rat x) →
    v = f32Of (y * (s.m.get F.MTR_MI_SCALE_fs mi : Rat) / 1000 + f32Rat (s.m.rd .MTR_MI_OFS mi)) →
    m0 = (if s.m.bit F.LPE_CH_SRC_kind n = true ∧ (f32Rat x < -(8388607 / 8388608) ∨ 8388607 / 8388608 < f32Rat x) then
      { s.m with mtr := { s.m.mtr with overrange := putBitN s.m.mtr.overrange mi true } } else s.m) →
    (s.m.get F.LPE_CH_STAT_state n = 0 → exec (.loopSample n x ph) s = .next s) ∧
    ((s.m.bit F.LPE_CH_PER_trig n = false ∧ s.m.time.tai % (1000 * max 1 (s.m.get F.LPE_CH_PER_period n)) ≠ 0) ∨
      (s.m.chan n).sampledAt = some s.m.time.tb → exec (.loopSample n x ph) s = .next s) ∧
    (s.m.get F.LPE_CH_STAT_state n = 3 → s.m.unitState = 2 ∨ s.m.leased = false → exec (.loopSample n x ph) s = .next s) ∧
    (s.m.sampleNow n = true →
      (s.m.get F.LPE_CH_STAT_state n = 1 ∨ s.m.get F.LPE_CH_STAT_state n = 2 → exec (.loopSample n x ph) s =
        .next { s with m := m0.modChan n (fun c => { c with queued := c.queued ++ [(s.m.time.tai, (v, ph))], sampledAt := some s.m.time.tb }) }) ∧
      (s.m.get F.LPE_CH_STAT_state n = 3 → s.m.unitState ≠ 2 → s.m.leased = true → exec (.loopSample n x ph) s =
        .next { s with m := (((m0.put F.LPE_CH_STAT_state 1 n).modChan n (fun c => { c with handOver := some c.uPrev })).loopShow n
          |>.modChan n (fun c => { c with queued := c.queued ++ [(s.m.time.tai, (v, ph))], sampledAt := some s.m.time.tb })) }))) ∧
  (∀ (m : M) (n : Nat), ((m.chan n).queued = [] ∨ m.get F.LPE_CH_STAT_state n = 3 → m.nextSample n = none) ∧
    ∀ t y l, (m.chan n).queued = (t, y) :: l → m.get F.LPE_CH_STAT_state n ≠ 3 →
      ((∀ o < 64, ∀ u z r, (m.chan o).queued = (u, z) :: r → t < u ∨ (t = u ∧ n ≤ o)) ↔ m.nextSample n = some (t, y))) ∧
  (∀ (s : State) (n : Nat), n < 64 → s.m.nextSample n = none → exec (.loopEvaluation n) s = .next s) ∧
  (∀ (s : State) (n t : Nat) (cap : F32) (ph : F64) (m0 : M) (c : LoopChannel) (x : LoopRun), n < 64 →
    s.m.nextSample n = some (t, (cap, ph)) → m0 = (s.m.modChan n (fun y => { y with queued := y.queued.tail })).cascadeFallback n → c = m0.chan n →
    x = m0.loopRun n t cap ph → ∃ b : M,
      b.rd .LPE_CH_PV n = x.pv ∧ b.rd .LPE_CH_OUT n = x.r.u ∧ b.rd .LPE_CH_ERR n = x.r.e ∧ b.rd .LPE_CH_I n = x.r.i ∧
      b.rd .LPE_CH_D n = x.r.d ∧ b.rd .LPE_CH_WZOUT n = x.w ∧ b.get F.LPE_CH_FETMR_ms n = x.feMs ∧
      b.rd .LPE_CH_MAN n = (if m0.chMode n = 0 then m0.rd .LPE_CH_MAN n else x.r.u) ∧
      b.bit F.LPE_CH_STAT_sat_hi n = x.r.satHi ∧ b.bit F.LPE_CH_STAT_sat_lo n = x.r.satLo ∧
      b.bit F.LPE_CH_STAT_int_hold n = x.r.intHold ∧ b.bit F.LPE_CH_STAT_rate_lim n = x.r.rateLim ∧
      b.bit F.LPE_CH_STAT_ho_ramp n = x.r.ramp ∧ b.bit F.LPE_CH_STAT_nan n = x.r.nan ∧ b.bit F.LPE_CH_STAT_src_bad n = x.bad ∧
      b.bit F.LPE_CH_STAT_ff_bad n = !x.ffIn.good ∧ b.bit F.LPE_CH_STAT_wz_ph n = !x.phaseOk ∧
      b.bit F.LPE_CH_STAT_fe_warn n = x.feStart.isSome ∧ b.get F.LPE_CH_STAT_state n = (if x.hold = none then 1 else 2) ∧
      b.get F.LPE_CH_STAT_mode n = m0.chMode n ∧
      (x.src.good = false ∧ c.srcEpisode = false ∨ x.spIn.good = false ∧ c.spEpisode = false ∨
        x.trkIn.good = false ∧ c.trkEpisode = false → b.bit F.LPE_EVT_src = true) ∧
      (x.ffIn.good = false → c.ffEpisode = false → b.bit F.LPE_EVT_src = true) ∧
      (x.r.nan = true → b.bit F.LPE_EVT_nan = true) ∧ (x.r.stepped = true → b.bit F.LPE_EVT_ho = true) ∧
      (x.phaseOk = false → m0.bit F.LPE_CH_STAT_wz_ph n = false → b.bit F.LPE_EVT_wz_ph = true) ∧
      b.fab = m0.fab ∧ b.mtr = m0.mtr ∧ b.exe = m0.exe ∧ b.loop = { m0.loop with waltz := m0.loopMemory n x } ∧
      exec (.loopEvaluation n) s = .next (s.after (((b.loopAfter n x).loopBoundary n).loopShow n, s.sram))) ∧
  (∀ (m d : M) (n : Nat) (x : LoopRun), d = (m.sinkWrite n x.r.u).modChan n x.keep →
    ∃ d', d' = (if x.trips = true then d.feTrip n x.r.e x.r.u else d) ∧ (m.loopAfter n x).loop = d'.loop ∧
      ∀ a, sideAddr a = false → aget a (m.loopAfter n x).regs = aget a d'.regs) ∧
  (∀ (m : M) (n id : Nat) (u : F32) (w : Who), n < 64 → id = m.get F.LPE_CH_SINK_id n → m.who (.loop n) = some w →
    (id = 0xFFFF → m.sinkWrite n u = (m.put F.LPE_CH_STAT_sink_bad 0 n).modChan n (fun c => { c with denied := false })) ∧
    (id ≠ 0xFFFF → (m.writePoint w id u).1 = .granted → m.sinkWrite n u =
      ((m.writePoint w id u).2.put F.LPE_CH_STAT_sink_bad 0 n).modChan n (fun c => { c with denied := false })) ∧
    (id ≠ 0xFFFF → (m.writePoint w id u).1 ≠ .granted → (m.sinkWrite n u).bit F.LPE_CH_STAT_sink_bad n = true ∧
      (m.sinkWrite n u).bit F.LPE_EVT_sink = true ∧
      (m.sinkWrite n u).loop = ((m.writePoint w id u).2.modChan n (fun c => { c with denied := true })).loop ∧
      (m.sinkWrite n u).get F.LPE_SNKDENY_count = min ((m.writePoint w id u).2.get F.LPE_SNKDENY_count + 1) 0xFFFFFFFF)) ∧
  (∀ (m : M) (n new : Nat), n < 64 → new = m.eff F.LPE_CH_CTRL_mode n → new ≠ m.get F.LPE_CH_STAT_mode n →
    (m.takeMode n).get F.LPE_CH_STAT_mode n = new ∧ (m.takeMode n).get F.LPE_CH_STAT_fe_warn n = 0 ∧
    (m.takeMode n).rd .LPE_CH_FETMR n = 0 ∧
    (new = 1 ∨ new = 2 → m.get F.LPE_CH_CTRL_fe_act n = 1 ∨ m.get F.LPE_CH_CTRL_fe_act n = 2 →
      (m.takeMode n).bit F.LPE_CH_STAT_fe_trip n = false) ∧
    (m.takeMode n).loop = (m.modChan n (fun c => { c with
      cascadeOff := false
      cascadeInner := c.cascadeInner || new == 2
      feStart := none
      handOver := some c.uPrev })).loop) ∧
  (∀ (m : M) (n o : Nat), n < 64 → o = m.get F.LPE_CH_SPSRC_cas n →
    (m.get F.LPE_CH_STAT_mode n ≠ 2 ∨ m.get F.LPE_CH_STAT_state o = 1 → m.cascadeFallback n = m) ∧
    (m.get F.LPE_CH_STAT_mode n = 2 → m.get F.LPE_CH_STAT_state o ≠ 1 →
      (m.cascadeFallback n).rd .LPE_CH_SP n = m.rd .LPE_CH_OUT o ∧ (m.cascadeFallback n).get F.LPE_CH_STAT_mode n = 1 ∧
      (m.cascadeFallback n).loop = (m.modChan n (fun c => { c with cascadeOff := true, feStart := none, handOver := some c.uPrev })).loop))

/-- The control law of one evaluation (R231): conditional integration, the output's clamp and rate limit, an integrator that follows a
given output, a hand-over that steps or ramps (R243), a NaN that keeps the last output (log entry 38); the causes of HELD in the order of Table 6-5; the fe timer and what
a trip does (R255, R256). -/
def Obligations.LoopLawHoldsAndSupervision : Prop :=
  (∀ (m : M) (n t : Nat) (cap : F32) (ph : F64) (x : LoopRun) (c : LoopChannel), x = m.loopRun n t cap ph → c = m.chan n →
    x.pv = (if f32Finite x.src.value then x.src.value else c.pvPrev) ∧ x.sp = (if x.spIn.good then x.spIn.value
      else if m.get F.LPE_CH_STAT_mode n ≠ 2 ∧ m.bit F.LPE_CH_SPSRC_kind n = true ∧ c.cascadeOff = false then c.lastSp else c.lastReg) ∧
    x.trk = (if x.trkIn.good then x.trkIn.value else c.lastTrk) ∧ x.ff = (if x.ffIn.good then x.ffIn.value else 0) ∧
    x.w = (if m.effB F.LPE_CH_CTRL_wz_en n = true ∧ x.phaseOk = true then
      m.waltzAt n (x.phase + m.get F.LPE_CH_WZCFG_lead n) else 0) ∧
    x.handOver = (if c.wasForced = true ∧ x.sink.forced = false then some x.sink.value
      else if c.wasHeld = true ∧ x.hold = none then some (c.handOver.getD c.uPrev) else c.handOver) ∧
    x.r = m.loopLaw n x.pv x.sp x.ff x.trk x.w x.hold x.handOver) ∧
  (∀ (m : M) (n b : Nat) (c : LoopChannel) (pv sp ffin trk w : F32) (hold : Option Hold) (ho : Option F32) (r : LoopResult)
      (olo ohi rate e p d ff i1 inc v i2 raw u1 u2 : F32) (law bites block : Bool),
    b = m.get F.LPE_CH_STAT_bank n → c = m.chan n → olo = m.effWord .LPE_CH_OLO n → ohi = m.effWord .LPE_CH_OHI n →
    rate = m.rd .LPE_CH_RATE n → r = m.loopLaw n pv sp ffin trk w hold ho → law = decide (hold = none ∧
      (m.get F.LPE_CH_STAT_mode n = 1 ∨ m.get F.LPE_CH_STAT_mode n = 2)) →
    e = f32Sub sp pv → p = f32Mul (m.rd .LPE_CH_KP n b) (f32Sub (f32Mul (m.rd .LPE_CH_BW n b) sp) pv) →
    d = f32Add (m.rd .LPE_CH_D n) (f32Mul (m.rd .LPE_CH_DF n b)
      (f32Sub (f32Mul (f32Neg (m.rd .LPE_CH_KDT n b)) (f32Sub pv c.pvPrev)) (m.rd .LPE_CH_D n))) →
    ff = f32Add (f32Mul (m.rd .LPE_CH_KFF n b) ffin) w →
    i1 = (match ho with
      | some h => f32Clamp (f32Sub h (f32Add (f32Add p d) ff)) olo ohi
      | none => m.rd .LPE_CH_I n) →
    bites = (match ho with
      | some h => law && !f32Eq i1 (f32Sub h (f32Add (f32Add p d) ff))
      | none => false) →
    inc = f32Mul (m.rd .LPE_CH_KIT n b) e → v = f32Add (f32Add (f32Add (f32Add p i1) inc) d) ff →
    block = ((f32Lt ohi v && f32Lt 0 inc) || (f32Lt v olo && f32Lt inc 0)) →
    i2 = f32Clamp (f32Add i1 (if block = true then 0 else inc)) olo ohi →
    raw = (match hold with
      | some h => h.ref
      | none => if m.get F.LPE_CH_STAT_mode n = 3 then trk else if m.get F.LPE_CH_STAT_mode n = 0 then m.rd .LPE_CH_MAN n
        else f32Add (f32Add (f32Add p i2) d) ff) →
    u1 = (match hold with
      | some h => if h.plain = true then raw else f32Clamp raw olo ohi
      | none => f32Clamp raw olo ohi) →
    u2 = (if hold = none ∧ m.get F.LPE_CH_STAT_mode n ≠ 3 ∧ f32Lt 0 rate = true then
      f32Clamp u1 (f32Sub (if bites = true then ho.getD c.uPrev else c.uPrev) rate) (f32Add (if bites = true then ho.getD c.uPrev else c.uPrev) rate)
      else u1) →
    r.e = e ∧ r.pv = pv ∧ r.w = w ∧
    (f32IsNan u2 = true → r.nan = true ∧ r.u = c.uPrev ∧ r.i = m.rd .LPE_CH_I n ∧ r.d = m.rd .LPE_CH_D n ∧
      r.satHi = false ∧ r.satLo = false ∧ r.rateLim = false ∧ r.intHold = false) ∧
    (f32IsNan u2 = false → r.nan = false ∧ r.u = u2 ∧ r.d = d ∧
      r.i = (if law = true then i2 else f32Clamp (f32Sub u2 (f32Add (f32Add p d) ff)) olo ohi) ∧ r.intHold = (law && block) ∧
      r.stepped = (bites && (if f32Lt 0 rate = true then !f32Eq u2 u1 else !f32Eq u2 (ho.getD c.uPrev))) ∧
      r.ramp = (law && (bites || c.ramp) && f32Lt 0 rate && !f32Eq u2 u1) ∧ (hold = none → r.satHi = f32Lt ohi raw ∧ r.satLo = f32Lt raw olo) ∧ (hold ≠ none → r.rateLim = false))) ∧
  (∀ (m : M) (n : Nat) (good : Bool) (k : SinkSeen) (c : LoopChannel), c = m.chan n →
    m.loopHold n good k = if k.forced = true then some ⟨k.value, false⟩
      else if good = false ∧ m.bit F.LPE_CH_CTRL_sf_act n = true then some ⟨m.rd .LPE_CH_OSAFE n, true⟩
      else if good = false ∨ k.notDriven = true ∨ c.denied = true then some ⟨c.uPrev, false⟩
      else (m.idleInner n).map (fun r => ⟨r, false⟩)) ∧
  (∀ (m : M) (n t cnt : Nat) (sp e lim : F32) (start : Option Nat) (c : LoopChannel), c = m.chan n → lim = m.effWord .LPE_CH_FELIM n →
    (m.feStep n t true sp e).2 = (m.get F.LPE_CH_FETMR_ms n, false) ∧
    (m.get F.LPE_CH_STAT_mode n = 0 ∨ m.get F.LPE_CH_STAT_mode n = 3 → m.feStep n t false sp e = (none, (0, false))) ∧
    (m.get F.LPE_CH_STAT_mode n = 1 ∨ m.get F.LPE_CH_STAT_mode n = 2 →
      (f32Lt lim (f32Abs e) = false → (m.feStep n t false sp e).1 = none ∧ (m.feStep n t false sp e).2.1 = 0) ∧
      (f32Lt lim (f32Abs e) = true → start = some (if (∃ s, c.prevSp = some s ∧ f32Lt lim (f32Abs (f32Sub sp s)) = true) then t else c.feStart.getD t) →
        cnt = min ((t - start.getD 0) / 1000000) (m.eff F.LPE_CH_FETIME_fetime n) →
        m.feStep n t false sp e = (start, (cnt, decide (m.eff F.LPE_CH_FETIME_fetime n ≤ cnt) &&
          !(m.bit F.LPE_CH_STAT_fe_trip n && decide (m.eff F.LPE_CH_FETIME_fetime n ≤ m.get F.LPE_CH_FETMR_ms n))))))) ∧
  (∀ (m : M) (n : Nat) (e u : F32), n < 64 → ∃ m2 : M, m2.bit F.LPE_CH_STAT_fe_trip n = true ∧ m2.bit F.LPE_EVT_fe = true ∧
    m2.get F.LPE_CH_STAT_mode n = m.get F.LPE_CH_STAT_mode n ∧ m2.loop = m.loop ∧
    (m.get F.LPE_CH_CTRL_fe_act n = 0 ∨ m.get F.LPE_CH_CTRL_fe_act n = 3 → m.feTrip n e u = m2) ∧
    (m.get F.LPE_CH_CTRL_fe_act n = 1 → (m.feTrip n e u).get F.LPE_CH_STAT_mode n = 0 ∧ (m.feTrip n e u).rd .LPE_CH_MAN n = u ∧
      (m.feTrip n e u).bit F.LPE_CH_STAT_fe_trip n = true ∧ (m.feTrip n e u).rd .LPE_CH_FETMR n = 0) ∧
    (m.get F.LPE_CH_CTRL_fe_act n = 2 → ∃ (x : M) (v : F32), v = f32Clamp (m.rd .LPE_CH_OSAFE n) (m.effWord .LPE_CH_OLO n) (m.effWord .LPE_CH_OHI n) ∧
      x.get F.LPE_CH_STAT_mode n = 0 ∧ x.rd .LPE_CH_MAN n = m.rd .LPE_CH_OSAFE n ∧ x.rd .LPE_CH_OUT n = v ∧
      (n < m.loop.channels.length → (x.chan n).uPrev = v ∧ (x.chan n).handOver = some v) ∧
      m.feTrip n e u = (x.sinkWrite n v).loopPoint n 2 v))

/-- COMMIT_SLOT validates and applies the armed groups while the engine runs, at multiples of 10 µs of module time; a group is valid as Table 6-6 says.  WALTZ_CLEAR
sets every value of the channel's range to 0.0 and no other.  WALTZ_SAVE keeps the range of every channel that asks for it
while the historian is on, which counts the bytes it writes. -/
def Obligations.CommitSlotAndWaltzRanges : Prop :=
  (∀ s : State, (s.m.bit F.LPE_CTRL_en = true → s.m.time.tai % 10000 = 0 → exec .commitSlot s = .next (s.after (s.m.loopGroups, s.sram))) ∧
    (s.m.bit F.LPE_CTRL_en = false ∨ s.m.time.tai % 10000 ≠ 0 → exec .commitSlot s = .next s)) ∧
  (∀ m : M,
    (m.loopGroupValid 0 = true ↔ ∀ n ∈ m.loopPending 0, f32Finite (m.rd .LPE_CH_OLO n) = true ∧ f32Finite (m.rd .LPE_CH_OHI n) = true ∧
      f32Le (m.rd .LPE_CH_OLO n) (m.rd .LPE_CH_OHI n) = true) ∧
    (m.loopGroupValid 1 = true ↔ ∀ n ∈ m.loopPending 1, f32Lt 0 (m.rd .LPE_CH_FELIM n) = true ∧ 1 ≤ m.get F.LPE_CH_FETIME_fetime n ∧
      m.get F.LPE_CH_FETIME_fetime n ≤ 86400000) ∧
    (m.loopGroupValid 2 = true ↔ ∀ n ∈ m.loopPending 2, (m.waltzRange (m.loopPending 2) n).2 ≤ 8192 ∧
      (m.waltzRange (m.loopPending 2) n).1 + (m.waltzRange (m.loopPending 2) n).2 ≤ 262144 ∧
      ∀ o < 64, o ≠ n → rangesMeet (m.waltzRange (m.loopPending 2) n) (m.waltzRange (m.loopPending 2) o) = false)) ∧
  (∀ (s : State) (by_ : Master) (w : Who) (n : Nat), n < 64 → s.m.accepts by_ w (Reg.LPE_WZCLR.addr 0 0 0) true →
    s.does (.waltzClear by_ n) (fun e => e.clearWaltz n)) ∧
  (∀ (m : M) (n b l a : Nat), b = m.eff F.LPE_CH_WZBASE_base n → l = m.eff F.LPE_CH_WZLEN_len n →
    (b ≤ a ∧ a < b + l → getd 0 a (m.clearWaltz n).loop.waltz = 0) ∧
    (a < b ∨ b + l ≤ a → getd 0 a (m.clearWaltz n).loop.waltz = getd 0 a m.loop.waltz) ∧
    m.clearWaltz n = { m with loop := { m.loop with waltz := (m.clearWaltz n).loop.waltz } }) ∧
  (∀ s : State, (s.m.domainOn 13 = false → exec .waltzSave s = .next s) ∧
    (s.m.domainOn 13 = true → ∃ kept : List (Nat × List F32),
      (∀ n < 64, s.m.bit F.LPE_CH_CTRL_wz_keep n = true → 0 < s.m.eff F.LPE_CH_WZLEN_len n →
        aget n kept = some ((List.range (s.m.eff F.LPE_CH_WZLEN_len n)).map (fun j => s.m.waltzAt n j))) ∧
      (∀ n, 64 ≤ n ∨ s.m.bit F.LPE_CH_CTRL_wz_keep n = false ∨ s.m.eff F.LPE_CH_WZLEN_len n = 0 → aget n kept = aget n s.m.loop.kept) ∧
      exec .waltzSave s = .next { s with m := (({ s.m with loop := { s.m.loop with kept := kept } } : M).hstWrites
        ((kept.map (fun (p : Nat × List F32) => 4 * p.2.length)).sum + 32)) }))

/-! ### Metering -/

/-- METER_ENABLE starts the block and its settling time, METER_STOP ends it at the end of the frame in progress (at once without a clock),
SUPPLY_ENABLE switches the sensor supply, which after a fault needs 0 and then 1.  Each fault shows in its register and flag.
CLEAR_MAXD and CLEAR_ENERGIES wait for the next frame boundary, the latter only for a tag that may; a second waits for none. -/
def Obligations.MeteringSwitchesAndFaults : Prop :=
  (∀ (s : State) (by_ : Master) (w : Who), s.m.accepts by_ w (Reg.MTR_CTRL.addr 0 0 0) true →
    s.does (.meterEnable by_) (fun e => if e.bit F.MTR_CTRL_en = true then e else e.meterEnable) ∧
    s.does (.meterStop by_) (fun e => if e.bit F.MTR_CTRL_en = true then e.meterStop else e) ∧
    ∀ on, s.does (.supplyEnable by_ on) (fun e => if e.bit F.MTR_CTRL_sup_en = on then e else e.supplyEnable on)) ∧
  (∀ m : M, m.bit F.MTR_STAT_run = false → m.meterEnable.bit F.MTR_CTRL_en = true ∧ m.meterEnable.bit F.MTR_STAT_run = true ∧
    m.meterEnable.mtr = { m.mtr with
      frames := 0, settleAt := m.time.tb + 2100000, stopping := false, stream := 0, condition := 0, overrange := 0, driving := m.leased } ∧
    m.meterEnable.bit F.MTR_STAT_clk = ((m.get F.MTR_CLK_src == 0 || (m.get F.MTR_CLK_src == 2 && m.leased) || m.mtr.clockIn) &&
      !m.bitOf F.TIM_CLK_STAT_fo 4)) ∧
  (∀ m : M, (m.bit F.MTR_STAT_run = true → ∃ x : M, x = m.put F.MTR_CTRL_en 1 ∧ m.meterEnable = { x with mtr := { x.mtr with stopping := false } }) ∧
    (m.bit F.MTR_STAT_run = false → m.meterStop = m.put F.MTR_CTRL_en 0) ∧
    (m.bit F.MTR_STAT_run = true → m.bit F.MTR_STAT_clk = true →
      ∃ x : M, x = m.put F.MTR_CTRL_en 0 ∧ m.meterStop = { x with mtr := { x.mtr with stopping := true } }) ∧
    (m.bit F.MTR_STAT_run = true → m.bit F.MTR_STAT_clk = false → m.meterStop = (m.put F.MTR_CTRL_en 0).meterStopped.meterGroups) ∧
    m.meterStopped.bit F.MTR_STAT_run = false ∧ m.meterStopped.bit F.MTR_STAT_clk = false ∧
    m.meterStopped.mtr = { m.mtr with stopping := false }) ∧
  (∀ (m : M), m.supplyEnable false = (m.put F.MTR_CTRL_sup_en 0).put F.MTR_STAT_sup_ok 0 ∧
    (m.bit F.MTR_CTRL_sup_en = false → m.supplyEnable true = (m.put F.MTR_CTRL_sup_en 1).put F.MTR_STAT_sup_ok 1) ∧
    (m.bit F.MTR_CTRL_sup_en = true → m.supplyEnable true = m.put F.MTR_CTRL_sup_en 1)) ∧
  (∀ s : State, (s.m.bit F.MTR_STAT_sup_ok = false → exec .sensorSupplyFault s = .next s) ∧
    (s.m.bit F.MTR_STAT_sup_ok = true → ∃ t : M, t.bit F.MTR_STAT_sup_ok = false ∧ t.bit F.MTR_EVT_sup = true ∧
      t.bit F.MTR_CTRL_sup_en = s.m.bit F.MTR_CTRL_sup_en ∧ t.mtr = s.m.mtr ∧ exec .sensorSupplyFault s = .next { s with m := t })) ∧
  (∀ (s : State) (x y : M), x = { s.m with mtr := { s.m.mtr with clockIn := false } } → y = { s.m with mtr := { s.m.mtr with clockIn := true } } →
    (s.m.bit F.MTR_STAT_run = false ∨ s.m.clockDriven = true → exec .modClockFault s = .next { s with m := x }) ∧
    (s.m.bit F.MTR_STAT_run = true → s.m.clockDriven = false → ∃ z : M,
      z = { x with mtr := { x.mtr with stream := 2 ^ 56 - 1, condition := 2 ^ 56 - 1 } } ∧ z.showClock.bit F.MTR_STAT_clk = false ∧
      exec .modClockFault s = .next { s with m := z.showClock.showFaults }) ∧
    exec .modClockReturn s = .next { s with m := y.showClock.showFaults } ∧
    y.showClock.bit F.MTR_STAT_clk = (s.m.bit F.MTR_STAT_run && !s.m.bitOf F.TIM_CLK_STAT_fo 4)) ∧
  (∀ (s : State) (n : Nat), n < 56 → (s.m.bit F.MTR_STAT_run = false → exec (.inputFault n) s = .next s) ∧
    (s.m.bit F.MTR_STAT_run = true → ∃ x : M,
      x = { s.m with mtr := { s.m.mtr with stream := putBitN s.m.mtr.stream n true, condition := putBitN s.m.mtr.condition n true } } ∧
      exec (.inputFault n) s = .next { s with m := x.showFaults })) ∧
  (∀ (m : M) (n : Nat), (n < 32 → m.showFaults.bitOf F.MTR_MIFLT0_flt n = m.miFaulted n) ∧
    (32 ≤ n → n < 56 → m.showFaults.bitOf F.MTR_MIFLT1_flt (n - 32) = m.miFaulted n) ∧ m.showFaults.mtr = m.mtr) ∧
  (∀ (s : State) (by_ : Master) (w : Who) (c : Nat), c < 16 → s.m.accepts by_ w (Reg.MTR_CMD.addr 0 0 0) true →
    s.does (.clearMaxd by_ c) (fun e => e.meterClear w false c) ∧ s.does (.clearEnergies by_ c) (fun e => e.meterClear w true c)) ∧
  (∀ (m : M) (w : Who) (en : Bool) (c : Nat), (∀ x, m.mtr.clear = some x → m.meterClear w en c = m) ∧
    (m.mtr.clear = none → en = true → w.tag.isSystem = false → w.tag.owner0 = false → m.meterClear w en c = m.put F.MTR_CMD_STAT_err 1) ∧
    (m.mtr.clear = none → en = false ∨ w.tag.isSystem = true ∨ w.tag.owner0 = true → 12 ≤ c → c ≠ 15 →
      m.meterClear w en c = m.put F.MTR_CMD_STAT_err 2) ∧
    (m.mtr.clear = none → en = false ∨ w.tag.isSystem = true ∨ w.tag.owner0 = true → c < 12 ∨ c = 15 → ∃ x : M,
      x = { m with mtr := { m.mtr with clear := some ⟨en, c⟩ } } ∧ m.meterClear w en c = (x.put F.MTR_CMD_STAT_err 0).put F.MTR_CMD_STAT_busy 1))

/-- A frame of a metered circuit adds its energy to the registers of Table 7-5, exactly, whole units of 10⁻⁴ Wh at a time; a
circuit with a faulted input counts the frame as lost and meters nothing.  FRAME_END does so for every set and circuit and ends with the
block's boundary; an input's fault ends after a frame without its condition; a block that was stopped then stops.
DEMAND_INTERVAL_END, once an aligned minute of the calendar has come, ends every circuit's interval: demands over its actual
length, the maximum unless it was short.  METER_SAVE keeps the circuits of a block that has power. -/
def Obligations.FramesAddEnergyIntervalsEnd : Prop :=
  (∀ (e : Energy) (wh : Rat), 0 ≤ e.residue → 0 ≤ wh →
    0 ≤ (e.add wh).residue ∧ (e.add wh).residue < 1 ∧ (e.add wh).xe < 2 ^ 64 ∧
    ∃ n : Nat, (e.add wh).xe = (e.xe + n) % 2 ^ 64 ∧ (n : Rat) + (e.add wh).residue = e.residue + wh * 10000) ∧
  (∀ (c : Circuit) (p q v dt : Rat) (start : F32) (i : Nat) (e : Energy), c.energies.length = 7 → c.energies[i]? = some e →
    (c.addFrame p q v dt start).energies[i]? = some (
      if i = 0 ∧ 0 ≤ p ∧ reaches p start = true then e.add (p * (dt / 3600))
      else if i = 1 ∧ p < 0 ∧ reaches (-p) start = true then e.add (-p * (dt / 3600))
      else if (i = 2 ∧ 0 ≤ p ∧ 0 ≤ q ∨ i = 3 ∧ p < 0 ∧ 0 ≤ q) ∧ reaches q start = true then e.add (q * (dt / 3600))
      else if (i = 4 ∧ p < 0 ∧ q < 0 ∨ i = 5 ∧ 0 ≤ p ∧ q < 0) ∧ reaches (-q) start = true then e.add (-q * (dt / 3600))
      else if i = 6 ∧ reaches v start = true then e.add (v * (dt / 3600)) else e)) ∧
  (∀ (m : M) (f : FrameMeasure) (c lost : Nat), c < 12 → m.circuitMatches c = true → (∃ n ∈ m.circuitInputs c, m.miFaulted n = true) →
    lost = min ((m.circuit c).lost + 1) 0xFFFFFFFF →
    (m.circuitFrame f c).mtr = (m.modCircuit c (fun x => { x with lost := lost, short := true })).mtr ∧
    (m.circuitFrame f c).bit F.MTR_C_STAT_fault c = true ∧ (m.circuitFrame f c).rd .MTR_C_LOST c = BitVec.ofNat 32 lost) ∧
  (∀ (m : M) (f : FrameMeasure) (c : Nat) (r0 r1 r2 : PhaseResult) (p q v : Rat), c < 12 → m.circuitMatches c = true →
    (∀ n ∈ m.circuitInputs c, m.miFaulted n = false) → r0 = m.phaseLaw f c 0 → r1 = m.phaseLaw f c 1 → r2 = m.phaseLaw f c 2 →
    p = f64Rat (f64Add (f64Add r0.p r1.p) r2.p) → q = f64Rat (f64Add (f64Add r0.q r1.q) r2.q) → v = f64Rat (f64Add (f64Add r0.s r1.s) r2.s) →
    ∀ x, m.mtr.circuits[c]? = some x →
    ((m.circuitFrame f c).circuit c).energies =
      (x.addFrame p q v (if m.clockDriven then 1 / 100 else (f.dt : Rat) / 1000000000) (m.effWord .MTR_C_START c)).energies ∧
    (m.circuitFrame f c).get F.MTR_C_STAT_quad c = quadrantOf p q ∧ (m.circuitFrame f c).bit F.MTR_C_STAT_exp c = decide (p < 0) ∧
    (m.circuitFrame f c).bit F.MTR_C_STAT_fault c = false) ∧
  (∀ (s : State) (f : FrameMeasure), (s.m.bit F.MTR_STAT_run = false → exec (.frameEnd f) s = .next s) ∧
    (s.m.bit F.MTR_STAT_run = true → ∀ dt, dt = (if s.m.clockDriven then 10000000 else f.dt) → ∃ a b d e g : M,
      a.mtr.frames = s.m.mtr.frames + 1 ∧ a.mtr.stream = Nat.lor s.m.mtr.stream f.stuck ∧
      a.mtr.condition = Nat.lor s.m.mtr.condition f.stuck ∧
      (s.m.mtr.frames ≠ 0 → a.mtr.circuits = s.m.mtr.circuits) ∧
      (s.m.mtr.frames = 0 → ∀ c < 12, ∀ k, s.m.mtr.circuits[c]? = some k →
        a.mtr.circuits[c]? = some (k.beginInterval (s.m.time.tb - dt) true)) ∧
      b = (((List.range 12).foldl (fun (y : M) c => y.circuitFrame f c)
        ((List.range 2).foldl (fun (y : M) k => y.setFrame f k) a)).analogFrame f) ∧
      d = (if s.m.mtr.frames = 0 then b else (List.range 12).foldl (fun (y : M) c => y.intervalFrame dt c) b) ∧
      e = (if d.bit F.MTR_VS_STAT_fvalid 0 then d else { d with mtr := { d.mtr with cyclesBad := true } }) ∧
      g = ({ e with mtr := { e.mtr with
        stream := Nat.land e.mtr.stream e.mtr.condition, overrange := 0
        condition := if e.bit F.MTR_STAT_clk then 0 else 2 ^ 56 - 1 } } : M).showFaults.takeMirrored.logFrame.meterBoundary ∧
      exec (.frameEnd f) s = .next (s.after (if g.mtr.stopping = true then g.meterStopped.meterGroups else g, s.sram)))) ∧
  (∀ (c : Circuit) (tb tai dx : Nat) (d : F32), dx = (c.xe 0 + 2 ^ 64 - c.epi0) % 2 ^ 64 →
    d = f32Of ((dx : Rat) / 10000 * 60 / (((tb - c.start : Nat) : Rat) / 60000000000)) →
    (c.endInterval tb tai).dpi = d ∧ (c.endInterval tb tai).energies = c.energies ∧
    (c.short = false → f32Lt c.maxd d = true → (c.endInterval tb tai).maxd = d ∧ (c.endInterval tb tai).maxdt = tai / 1000000000 % 2 ^ 32) ∧
    (c.short = true ∨ f32Lt c.maxd d = false → (c.endInterval tb tai).maxd = c.maxd ∧ (c.endInterval tb tai).maxdt = c.maxdt)) ∧
  (∀ (s : State) (len : Nat), len = max 1 (s.m.eff F.MTR_DMD_CFG_len) →
    (s.m.calMinute - s.m.calMinute % 60 % len ≤ s.m.mtr.demandAt → exec .demandIntervalEnd s = .next s) ∧
    (s.m.mtr.demandAt < s.m.calMinute - s.m.calMinute % 60 % len → ∃ x y z : M, x.mtr.sets = s.m.mtr.sets ∧
      x.mtr.demandAt = s.m.calMinute ∧
      (s.m.bit F.MTR_STAT_run = false ∨ s.m.mtr.frames = 0 → x = { s.m with mtr := { s.m.mtr with demandAt := s.m.calMinute } }) ∧
      (s.m.bit F.MTR_STAT_run = true → s.m.mtr.frames ≠ 0 → ∀ c < 12, ∀ k, s.m.mtr.circuits[c]? = some k →
        x.mtr.circuits[c]? = some ((if k.waiting = true then k else k.endInterval s.m.time.tb s.m.time.tai).beginInterval s.m.time.tb false)) ∧
      y = x.transferAt [Reg.MTR_DMD_CFG.addr 0 0 0] ∧
      z = (if y.bit F.MTR_STAT_frozen then y else (List.range 12).foldl (fun (a : M) c => a.showCircuit c) y) ∧
      exec .demandIntervalEnd s = .next { s with m := z })) ∧
  (∀ s : State, (s.m.domainOn 11 = true →
      exec .meterSave s = .next { s with m := { s.m with mtr := { s.m.mtr with saved := some ⟨s.m.mtr.circuits⟩ } } }) ∧
    (s.m.domainOn 11 = false → exec .meterSave s = .next s))

/-! ### CAN controllers and remote stations -/

/-- CAN_ENABLE checks the timing (Table 8-2) and starts integration, CAN_DISABLE ends in OFF with queues, requests and station states
cleared, and out of bus-off with its counters at 0.  SLEEP is taken only by a controller without enabled stations and requests that is up
(in which states it is taken is the model's choice, log 103), at once or after the frame on the bus; WAKE ends it.  INTEGRATION_DONE leaves
INTEGRATING as the lease stands and starts the stations, BUS_WAKE wakes a sleeper whose detector matches. -/
def Obligations.CanControllersStartSleepAndWake : Prop :=
  (∀ (s : State) (by_ : Master) (w : Who) (n : Nat), n < 8 → s.m.accepts by_ w (Reg.CAN_CTRL.addr n 0 0) true →
    s.does (.canEnable by_ n) (fun e => if e.bit F.CAN_CTRL_en n = true then e else e.canEnable n) ∧
    s.does (.canDisable by_ n) (fun e => if e.bit F.CAN_CTRL_en n = true then e.canDisable n else e) ∧
    s.does (.sleep by_ n) (fun e => if e.bit F.CAN_CTRL_sleep n = true then e else e.canSleepReq n) ∧
    s.does (.wake by_ n) (fun e => if e.bit F.CAN_CTRL_sleep n = true then e.canWake n else e)) ∧
  (∀ (m : M) (n nb n1 n2 ns db d1 d2 ds : Nat), nb = m.get F.CAN_NBT_nbrp n + 1 → n1 = m.get F.CAN_NBT_ntseg1 n + 1 →
    n2 = m.get F.CAN_NBT_ntseg2 n + 1 → ns = m.get F.CAN_NBT_nsjw n + 1 → db = m.get F.CAN_DBT_dbrp n + 1 → d1 = m.get F.CAN_DBT_dtseg1 n + 1 →
    d2 = m.get F.CAN_DBT_dtseg2 n + 1 → ds = m.get F.CAN_DBT_dsjw n + 1 →
    (m.canTiming n = 0 ↔ (80 ≤ nb * (1 + n1 + n2) ∧ 16 ≤ db * (1 + d1 + d2) ∧ db * (1 + d1 + d2) ≤ nb * (1 + n1 + n2)) ∧
      (8 ≤ 1 + n1 + n2 ∧ 5 ≤ 1 + d1 + d2) ∧ (ns ≤ n1 ∧ ns ≤ n2 ∧ ds ≤ d1 ∧ ds ≤ d2) ∧
      (80 ≤ db * (1 + d1 + d2) ∨ m.bit F.CAN_TDC_en n = true)) ∧ m.canTiming n ≤ 4) ∧
  (∀ (m : M) (n : Nat), n < 8 → (m.canEnable n).bit F.CAN_CTRL_en n = true ∧ (m.canEnable n).can = m.can ∧
    (m.canState n ≠ 0 → m.canEnable n = m.put F.CAN_CTRL_en 1 n) ∧
    (m.canState n = 0 → m.canTiming n = 0 → (m.canEnable n).canState n = 1 ∧ (m.canEnable n).get F.CAN_STAT_cfg n = 0) ∧
    (m.canState n = 0 → m.canTiming n ≠ 0 → (m.canEnable n).canState n = 0 ∧ (m.canEnable n).get F.CAN_STAT_cfg n = m.canTiming n ∧
      (m.canEnable n).bit F.CAN_EVT_cfg n = true)) ∧
  (∀ (m : M) (n : Nat), n < 8 → (m.canDisable n).bit F.CAN_CTRL_en n = false ∧ (m.canDisable n).canState n = 0 ∧
    (m.canState n = 0 → m.canDisable n = m.put F.CAN_CTRL_en 0 n) ∧
    (m.canState n ≠ 0 → (m.canDisable n).rd .CAN_TXREQ n = 0 ∧ (m.canDisable n).rd .CAN_RXQ_STAT n = 0 ∧
      (m.canDisable n).rd .CAN_ONL0 n = 0 ∧ (m.canDisable n).rd .CAN_ONL1 n = 0 ∧ (m.canDisable n).bit F.CAN_CTRL_sleep n = false ∧
      (∀ x < 64, (m.canDisable n).rd .CAN_STA_STAT n x = 0) ∧
      (n < m.can.length → (m.canDisable n).canBox n = ⟨[], [], [], 0, none, [], false, none, none⟩) ∧
      ((∀ x < 64, m.get F.CAN_STA_STAT_state n x ≠ 2) →
        (m.canDisable n).can = listSet m.can n ⟨[], [], [], 0, none, [], false, none, none⟩ ∧ (m.canDisable n).pts = m.pts)) ∧
    (m.canState n = 5 → (m.canDisable n).rd .CAN_ERR n = 0 ∧ (m.canDisable n).get F.CAN_STAT_fault n = 0)) ∧
  (∀ (s : State) (n : Nat), n < 8 →
    (s.m.canState n = 1 → s.m.bitOf F.TIM_CLK_STAT_fo 3 = false → s.leaves (.integrationDone n)
      (((s.m.put F.CAN_STAT_state (if s.m.acting = true then 2 else 3) n).stationsStart n).canStart n)) ∧
    (s.m.canState n ≠ 1 ∨ s.m.bitOf F.TIM_CLK_STAT_fo 3 = true → exec (.integrationDone n) s = .next s)) ∧
  (∀ (m : M) (n : Nat), n < 8 →
    ((∃ x < 64, m.bit F.CAN_STA_CFG_en n x = true) ∨ m.get F.CAN_TXREQ_req n ≠ 0 ∨ m.canState n = 0 ∨ 4 ≤ m.canState n → m.canSleepReq n = m) ∧
    (∀ k : WakeSettings, (∀ x < 64, m.bit F.CAN_STA_CFG_en n x = false) → m.get F.CAN_TXREQ_req n = 0 → m.canState n ≠ 0 →
      m.canState n < 4 → n < m.can.length → k = ⟨m.get F.CAN_WAKE_wmode n, m.bit F.CAN_WAKE_ide n,
        m.get F.CAN_WAKE_wdlc n, m.get F.CAN_WID_id n, m.get F.CAN_WIDM_mask n,
        m.get F.CAN_WDM1_dmask n * 2 ^ 32 + m.get F.CAN_WDM0_dmask n⟩ →
      (m.canSleepReq n).bit F.CAN_CTRL_sleep n = true ∧
      (m.canSleepReq n).canState n = (if (m.canBox n).onBus = none then 4 else m.canState n) ∧
      (m.canSleepReq n).can = listSet m.can n { m.canBox n with asleep := some k, dialogue := [], refWaiting := false
                                                                ending := if (m.canBox n).onBus = none then none else some 4 }) ∧
    ((m.canBox n).asleep = none → m.canWake n = m) ∧
    (∀ k, (m.canBox n).asleep = some k → (m.canWake n).bit F.CAN_CTRL_sleep n = false ∧
      (m.canWake n).canState n = (if m.bit F.CAN_CTRL_en n = true then 1 else m.canState n) ∧
      (m.canWake n).can = listSet m.can n { m.canBox n with asleep := none, ending := none, onBus := none })) ∧
  (∀ (s : State) (n : Nat) (x : WakeSeen), n < 8 → (Instr.busWake n x).wellFormed = true →
    ((s.m.canBox n).asleep = none → exec (.busWake n x) s = .next s) ∧
    (∀ k, (s.m.canBox n).asleep = some k → k.wakes x = false → exec (.busWake n x) s = .next s) ∧
    (∀ k, (s.m.canBox n).asleep = some k → k.wakes x = true →
      (s.m.flag F.CAN_EVT_wake (0x30 + n) n).bit F.CAN_EVT_wake n = true ∧
      exec (.busWake n x) s = .next (s.after ((s.m.flag F.CAN_EVT_wake (0x30 + n) n).canWake n, s.sram)))) ∧
  (∀ (k : WakeSettings) (f : CanFrame), k.wakes .pattern = (k.wmode == 1) ∧ k.wakes .frameErrors = (k.wmode == 2) ∧
    (k.wakes (.frame f) = true ↔ k.wmode = 2 ∧ f.fd = false ∧ f.rtr = false ∧ f.ext = k.ide ∧
      Nat.land (Nat.xor f.id k.id) k.mask = 0 ∧ f.dlc = k.wdlc ∧ Nat.land (fromLE f.data) k.dmask ≠ 0))

/-- Errors move the counters of an ACTIVE controller only, and the frame on the bus waits again; a transmit counter beyond 255 is bus-off,
which keeps queues and requests and ends on BUSOFF_RECOVERY, in ACTIVE with a REF first.  REF_DUE at a multiple of the period makes a REF
wait.  What waits goes on a free bus, the REF first, then the lowest identifier; that it goes at once is the model's choice (log 102).  A
received frame goes to the dialogue, to the queue of its first filter, or is counted as discarded; TX_REQUEST requests or refuses, and
withdraws what is not on the bus; FRAME_SENT completes the frame on the bus; RXQ_POP removes heads. -/
def Obligations.CanFramesErrorsAndRecovery : Prop :=
  (∀ (m : M) (n tec recv : Nat), n < 8 → tec < 512 → (m.canCounters n tec recv).get F.CAN_ERR_tec n = tec ∧
    (m.canCounters n tec recv).get F.CAN_ERR_rec n = min recv 255 ∧ (m.canCounters n tec recv).can = m.can ∧
    (m.canCounters n tec recv).canState n = m.canState n ∧
    (m.canCounters n tec recv).get F.CAN_STAT_fault n = (if 127 < tec ∨ 127 < recv then 1 else 0) ∧
    (m.get F.CAN_STAT_fault n = 0 → 127 < tec ∨ 127 < recv → (m.canCounters n tec recv).bit F.CAN_EVT_passive n = true)) ∧
  (∀ c : CanState, c.back = { c with
    onBus := none
    refWaiting := if c.onBus = some .ref then true else c.refWaiting
    dialogue := match c.onBus with | some (.dialogue f) => f :: c.dialogue | _ => c.dialogue }) ∧
  (∀ (s : State) (n : Nat) (f : CanFault) (tec recv : Nat), n < 8 → tec = s.m.get F.CAN_ERR_tec n → recv = s.m.get F.CAN_ERR_rec n →
    (s.m.canState n ≠ 2 → exec (.canError n f) s = .next s) ∧
    (s.m.canState n = 2 → f = .receive → s.leaves (.canError n f) (s.m.canCounters n tec (min (recv + 1) 255))) ∧
    (s.m.canState n = 2 → f = .receivePrimary → s.leaves (.canError n f) (s.m.canCounters n tec (min (recv + 8) 255))) ∧
    (s.m.canState n = 2 → f = .transmit → tec + 8 ≤ 255 → s.leaves (.canError n f)
      (((s.m.canCounters n (tec + 8) recv).setCan n (s.m.canBox n).back).canFree n)) ∧
    (s.m.canState n = 2 → f = .transmit → 255 < tec + 8 → ∃ t : M, t.canState n = 5 ∧ t.get F.CAN_STAT_fault n = 2 ∧
      t.get F.CAN_ERR_tec n = 0x100 ∧ t.bit F.CAN_EVT_boff n = true ∧
      t.get F.CAN_BOCNT_boff n = min (s.m.get F.CAN_BOCNT_boff n + 1) 0xFFFF ∧
      t.can = listSet s.m.can n { (s.m.canBox n).back with
        ending := none, refWaiting := false, dialogue := (s.m.canBox n).back.dialogue.filter (fun g => !(g.id / 64 == 1)) } ∧
      t.rd .CAN_TXREQ n = s.m.rd .CAN_TXREQ n ∧ s.leaves (.canError n f) t)) ∧
  (∀ (s : State) (n : Nat), n < 8 → (s.m.canState n ≠ 5 → exec (.busoffRecovery n) s = .next s) ∧
    (s.m.canState n = 5 → ∃ t : M, t.rd .CAN_ERR n = 0 ∧ t.get F.CAN_STAT_fault n = 0 ∧ t.bit F.CAN_EVT_recov n = true ∧
      t.canState n = (if s.m.acting = true then 2 else 3) ∧ t.get F.CAN_BOCNT_recov n = min (s.m.get F.CAN_BOCNT_recov n + 1) 0xFFFF ∧
      t.can = s.m.can ∧ s.leaves (.busoffRecovery n)
        (if s.m.acting = true then (List.range 64).foldl (fun (a : M) x => a.fullRefresh n x) (t.sendRef n) else t))) ∧
  (∀ (s : State) (n per : Nat) (x : M), n < 8 → per = max 1 (s.m.eff F.CAN_REF_period n) * 1000000 →
    x = s.m.transferAt [Reg.CAN_REF.addr n 0 0] →
    (s.m.time.tai % per ≠ 0 → exec (.refDue n) s = .next s) ∧
    (s.m.time.tai % per = 0 → s.leaves (.refDue n) (x.sendRef n)) ∧
    (s.m.canSends n = true ↔ s.m.canState n = 2 ∧ (s.m.canBox n).ending = none) ∧
    (s.m.canSends n = false → x.sendRef n = x) ∧
    (s.m.canSends n = true → x.sendRef n = (x.setCan n { x.canBox n with refWaiting := true }).canStart n) ∧
    (∀ sof, s.m.refFrame n sof = ⟨false, true, true, false, false, 0, 10, toBE 1 1 ++ toBE 1 (s.m.get F.RTC_STAT_lock) ++
      toBE 2 (s.m.canBox n).refSeq ++ toBE 8 sof ++ toBE 4 (s.m.get F.IBX_EPOCH_epoch)⟩)) ∧
  (∀ (m : M) (n : Nat) (c : CanState), n < m.can.length → c = m.canBox n →
    (m.canSends n = false ∨ c.onBus ≠ none → m.canStart n = m) ∧
    (m.canSends n = true → c.onBus = none → c.refWaiting = true →
      m.canStart n = m.setCan n { c with refWaiting := false, onBus := some .ref }) ∧
    (m.canSends n = true → c.onBus = none → c.refWaiting = false → c.dialogue = [] → (∀ b < 8, m.bitOf F.CAN_TXREQ_req b n = false) →
      m.canStart n = m) ∧
    (m.canSends n = true → c.onBus = none → c.refWaiting = false → c.dialogue ≠ [] ∨ (∃ b < 8, m.bitOf F.CAN_TXREQ_req b n = true) →
      (∃ f ∈ c.dialogue, (∀ g ∈ c.dialogue, f.key ≤ g.key) ∧
        (∀ b < 8, m.bitOf F.CAN_TXREQ_req b n = true → f.key ≤ (m.bufferFrame n b).key) ∧
        m.canStart n = m.setCan n { c with dialogue := c.dialogue.erase f, onBus := some (.dialogue f) }) ∨
      (∃ b < 8, m.bitOf F.CAN_TXREQ_req b n = true ∧ (∀ g ∈ c.dialogue, (m.bufferFrame n b).key < g.key) ∧
        (∀ x < 8, m.bitOf F.CAN_TXREQ_req x n = true → (m.bufferFrame n b).key < (m.bufferFrame n x).key ∨
          ((m.bufferFrame n b).key = (m.bufferFrame n x).key ∧ b ≤ x)) ∧
        m.canStart n = m.setCan n { c with onBus := some (.buffer b) })) ∧
    (c.ending = none → m.canFree n = m.canStart n) ∧
    (∀ e, c.ending = some e → m.canFree n =
      (m.put F.CAN_STAT_state e n).setCan n { c with ending := none, dialogue := [], refWaiting := false })) ∧
  (∀ (s : State) (n : Nat) (f : CanFrame) (sof : Nat) (y x : M), n < 8 →
    y = (s.m.setCan n (s.m.canBox n).back).count F.CAN_FCNT_rx n → x = y.receiveCredit n →
    (s.m.canState n ≠ 2 → s.m.canState n ≠ 3 → exec (.canFrameReceived n f sof) s = .next s) ∧
    (s.m.canState n = 2 ∨ s.m.canState n = 3 → f.isDialogue = true →
      s.leaves (.canFrameReceived n f sof) ((x.dialogue n f).canFree n)) ∧
    (s.m.canState n = 2 ∨ s.m.canState n = 3 → f.isDialogue = false → x.filterOf n f = none →
      s.leaves (.canFrameReceived n f sof) ((x.count F.CAN_LOST_disc n).canFree n)) ∧
    (∀ k, s.m.canState n = 2 ∨ s.m.canState n = 3 → f.isDialogue = false → x.filterOf n f = some k →
      s.leaves (.canFrameReceived n f sof) ((x.rxqPush n (x.get F.CAN_FLT_ID_q n k) ⟨f, sof⟩).canFree n)) ∧
    (s.m.canState n = 3 → x = y) ∧
    (s.m.canState n = 2 → s.m.get F.CAN_ERR_rec n ≤ 127 →
      x = y.canCounters n (s.m.get F.CAN_ERR_tec n) (s.m.get F.CAN_ERR_rec n - 1)) ∧
    (s.m.canState n = 2 → 127 < s.m.get F.CAN_ERR_rec n → 119 ≤ x.get F.CAN_ERR_rec n ∧ x.get F.CAN_ERR_rec n ≤ 127)) ∧
  (∀ (m : M) (n q : Nat) (f : CanQueued), n < m.can.length → n < 8 → q < 2 →
    (∀ l, l = (if q = 0 then (m.canBox n).rxq0 else (m.canBox n).rxq1) →
      (64 ≤ l.length → (m.rxqPush n q f).can = m.can ∧ (m.rxqPush n q f).bit F.CAN_EVT_qovf n = true) ∧
      (l.length < 64 → (m.rxqPush n q f).canBox n = (if q = 0 then { m.canBox n with rxq0 := l ++ [f] } else { m.canBox n with rxq1 := l ++ [f] }) ∧
        (m.rxqPush n q f).get (if q = 0 then F.CAN_RXQ_STAT_cnt0 else F.CAN_RXQ_STAT_cnt1) n = l.length + 1))) ∧
  (∀ (s : State) (by_ : Master) (w : Who) (n v : Nat), n < 8 →
    (v < 4 → s.m.accepts by_ w (Reg.CAN_RXQ_POP.addr n 0 0) true → s.does (.rxqPop by_ n v) (fun e => e.rxqPop n v)) ∧
    (v < 2 ^ 32 → s.m.accepts by_ w (Reg.CAN_TXREQ.addr n 0 0) true → s.does (.txRequest by_ n v) (fun e => e.txRequest n v))) ∧
  (∀ (m : M) (n v : Nat), (m.rxqPop n v).can = listSet m.can n { m.canBox n with
      rxq0 := if tbit v 0 = true then (m.canBox n).rxq0.drop 1 else (m.canBox n).rxq0
      rxq1 := if tbit v 1 = true then (m.canBox n).rxq1.drop 1 else (m.canBox n).rxq1 }) ∧
  (∀ (m : M) (n v b : Nat) (old : Bool), n < 8 → b < 8 → old = m.bitOf F.CAN_TXREQ_req b n →
    (m.txRequest n v).bitOf F.CAN_TXREQ_req b n =
      (if tbit v b = true then old || !m.bufferRefused n b else old && decide ((m.canBox n).onBus = some (.buffer b))) ∧
    (tbit v b = true → old = false → m.bufferRefused n b = true →
      (m.txRequest n v).bitOf F.CAN_TXDONE_fail b n = true ∧ (m.txRequest n v).bit F.CAN_EVT_txerr n = true)) ∧
  (∀ (s : State) (n sof tdcv : Nat), n < 8 →
    ((s.m.canBox n).onBus = none → exec (.frameSent n sof tdcv) s = .next s) ∧
    (∀ (x : CanTx) (f : CanFrame), (s.m.canBox n).onBus = some x →
      f = (match x with | .ref => s.m.refFrame n sof | .dialogue g => g | .buffer b => s.m.bufferFrame n b) →
      ∃ t : M, t.out = s.m.out ++ [.canFrame n f] ∧ t.get F.CAN_ERR_tec n = s.m.get F.CAN_ERR_tec n - 1 ∧
        t.get F.CAN_FCNT_tx n = min (s.m.get F.CAN_FCNT_tx n + 1) 0xFFFF ∧
        (f.fd = true → s.m.bit F.CAN_TDC_en n = true → t.get F.CAN_STAT_tdcv n = tdcv % 128) ∧
        (x = .ref → t.can = listSet s.m.can n { s.m.canBox n with refSeq := ((s.m.canBox n).refSeq + 1) % 65536 }) ∧
        (x ≠ .ref → t.can = s.m.can) ∧
        (∀ b < 8, x = .buffer b → t.bitOf F.CAN_TXREQ_req b n = false ∧ t.bitOf F.CAN_TXDONE_done b n = true ∧
          t.rd .CAN_TXB_W n b 2 = BitVec.ofNat 32 sof ∧ t.rd .CAN_TXB_W n b 3 = BitVec.ofNat 32 (sof / 2 ^ 32)) ∧
        s.leaves (.frameSent n sof tdcv) ((t.setCan n { t.canBox n with onBus := none }).canFree n)))

/-- STATION_ENABLE checks the times of an UNCONF station, in any state of its controller, and starts identification.  A frame of a station
counts as received on a bus that is up.  IDR compares serial and type, CFGR brings the station ONLINE with a full
refresh, IN writes its objects and restarts supervision, REJ is counted and recorded.  IDQ_RETRY, CFG_RETRY and REJOIN_RETRY repeat what is
missing, STATION_DROPOUT drops a station whose time passed and marks its points, OUT_REFRESH sends nine objects a frame. -/
def Obligations.StationsJoinReportAndDrop : Prop :=
  (∀ (s : State) (by_ : Master) (w : Who) (n x : Nat), n < 8 → x < 64 → s.m.accepts by_ w (Reg.CAN_STA_CFG.addr n x 0) true →
    s.does (.stationEnable by_ n x) (fun e => (e.wr .CAN_STA_CFG (e.rd .CAN_STA_CFG n x) n x).stationEnable n x true)) ∧
  (∀ (m : M) (n x st : Nat), x < 64 → st < 8 → (m.setStationState n x st).get F.CAN_STA_STAT_state n x = st ∧
    (x < 32 → (m.setStationState n x st).bitOf F.CAN_ONL0_online x n = (st == 2)) ∧
    (32 ≤ x → (m.setStationState n x st).bitOf F.CAN_ONL1_online (x - 32) n = (st == 2))) ∧
  (∀ (m : M) (n x : Nat) (sup ref : Nat), n < 8 → x < 64 → sup = m.get F.CAN_STA_CFG_sup n x → ref = m.get F.CAN_STA_CFG_refresh n x →
    (m.get F.CAN_STA_STAT_state n x ≠ 0 → m.stationEnable n x true = m.put F.CAN_STA_CFG_en 1 n x) ∧
    (m.get F.CAN_STA_STAT_state n x = 0 → 2 ≤ sup ∧ sup ≤ 10000 ∧ 1 ≤ ref ∧ 2 * ref ≤ sup → m.stationEnable n x true =
      ((((m.put F.CAN_STA_CFG_en 1 n x).setStation n x ⟨none, none, none, 0, [], none⟩).setStationState n x 1).sendIdq n x)) ∧
    (m.get F.CAN_STA_STAT_state n x = 0 → ¬ (2 ≤ sup ∧ sup ≤ 10000 ∧ 1 ≤ ref ∧ 2 * ref ≤ sup) → m.stationEnable n x true =
      ((m.put F.CAN_STA_CFG_en 1 n x).setStationState n x 0).flag F.CAN_EVT_cfg (0x30 + n) n) ∧
    (m.canSends n = false → m.sendIdq n x = m ∧ m.sendCfg n x = m ∧ ∀ id d, m.canSend n id d = m) ∧
    (m.canSends n = true →
      m.sendIdq n x = (m.setStation n x { m.stationOf n x with idqAt := some m.time.tb, serial := none, cfgAt := none }).canSend n (0x180 + x) [] ∧
      m.sendCfg n x = (m.setStation n x { m.stationOf n x with cfgAt := some m.time.tb }).canSend n (0x100 + x)
        (toBE 2 sup ++ toBE 2 ref ++ toBE 4 (m.get F.IBX_EPOCH_epoch)) ∧
      (∀ id d, m.canSend n id d =
        (m.setCan n { m.canBox n with dialogue := (m.canBox n).dialogue ++ [⟨false, true, true, false, false, id,
          dlcOf (padTo (fdLength d.length) d).length, padTo (fdLength d.length) d⟩] }).canStart n))) ∧
  (∀ (s : State) (n x : Nat) (d : Bytes) (y : M), n < 8 → x < 64 →
    y = ((s.m.setCan n (s.m.canBox n).back).count F.CAN_FCNT_rx n).receiveCredit n →
    (s.m.canState n ∉ [2, 3] → exec (.idr n d) s = .next s ∧ exec (.cfgr n x d) s = .next s ∧ exec (.inReport n x d) s = .next s ∧
      exec (.rej n x d) s = .next s) ∧
    (s.m.canState n ∈ [2, 3] → s.leaves (.idr n d) ((y.idr n d).canFree n) ∧ s.leaves (.cfgr n x d) ((y.cfgr n x d).canFree n) ∧
      s.leaves (.inReport n x d) ((y.inReport n x d).canFree n) ∧ s.leaves (.rej n x d) ((y.rejArrives n x d).canFree n))) ∧
  (∀ (m : M) (n : Nat) (d : Bytes) (x ser want ty : Nat) (k : Station) (y : M), n < 8 → x = be d 6 1 → ser = be d 0 6 → k = m.stationOf n x →
    want = m.get F.CAN_STA_SERH_ser_hi n x * 2 ^ 32 + m.get F.CAN_STA_SERL_ser_lo n x → ty = m.get F.CAN_STA_SERH_type n x →
    (64 ≤ x ∨ m.bit F.CAN_STA_CFG_en n x = false ∨ d.length < 16 → m.idr n d = m.count F.CAN_LOST_disc n) ∧
    (x < 64 → m.bit F.CAN_STA_CFG_en n x = true → 16 ≤ d.length →
      (m.get F.CAN_STA_STAT_state n x ∉ [1, 2, 3] → m.idr n d = m) ∧
      (m.get F.CAN_STA_STAT_state n x ∈ [1, 2, 3] →
        ((∃ a b, k.serial = some a ∧ a ≠ ser ∧ k.idqAt = some b ∧ m.time.tb ≤ b + 10000000) →
          m.idr n d = (m.setStationState n x 5).flag F.CAN_EVT_dup (0x30 + n) n) ∧
        (¬ (∃ a b, k.serial = some a ∧ a ≠ ser ∧ k.idqAt = some b ∧ m.time.tb ≤ b + 10000000) →
          (m.get F.CAN_STA_STAT_state n x = 2 → m.idr n d = m) ∧
          (m.get F.CAN_STA_STAT_state n x ≠ 2 → (want ≠ 0 ∧ want ≠ ser) ∨ (ty ≠ 0 ∧ ty ≠ be d 7 1) →
            m.idr n d = (m.setStationState n x 4).flag F.CAN_EVT_mism (0x30 + n) n) ∧
          (m.get F.CAN_STA_STAT_state n x ≠ 2 → (want = 0 ∨ want = ser) → (ty = 0 ∨ ty = be d 7 1) →
            y = m.setStation n x { k with serial := some ser } → m.idr n d = y.sendCfg n x))))) ∧
  (∀ (m : M) (n x : Nat) (d : Bytes) (y z : M) (k : Station), n < 8 → x < 64 →
    k = { m.stationOf n x with superviseBy := some (m.time.tb + m.get F.CAN_STA_CFG_sup n x * 1000000) } →
    y = (m.setStation n x k).setStationState n x 2 → z = y.flag F.CAN_EVT_ret (0x30 + n) n →
    (m.bit F.CAN_STA_CFG_en n x = false ∨ d.length < 4 → m.cfgr n x d = m.count F.CAN_LOST_disc n) ∧
    (m.bit F.CAN_STA_CFG_en n x = true → 4 ≤ d.length →
      (m.get F.CAN_STA_STAT_state n x ∉ [1, 3] ∨ be d 0 1 ≠ 0 ∨ (m.stationOf n x).serial = none → m.cfgr n x d = m) ∧
      (m.get F.CAN_STA_STAT_state n x = 1 → be d 0 1 = 0 → (m.stationOf n x).serial ≠ none → m.cfgr n x d = y.fullRefresh n x) ∧
      (m.get F.CAN_STA_STAT_state n x = 3 → be d 0 1 = 0 → (m.stationOf n x).serial ≠ none → m.cfgr n x d =
        ((z.stationPoints n x 1).foldl (fun (b : M) id => b.clearStatusBits id stStale) z).fullRefresh n x))) ∧
  (∀ (m : M) (n x : Nat) (d : Bytes) (y : M) (k : Station), n < 8 → x < 64 →
    y = (m.put F.CAN_STA_STAT_sstate (be d 0 1 % 4) n x).put F.CAN_STA_STAT_seq (be d 2 2) n x →
    k = { m.stationOf n x with superviseBy := some (m.time.tb + m.get F.CAN_STA_CFG_sup n x * 1000000) } →
    (m.bit F.CAN_STA_CFG_en n x = false ∨ d.length < 8 + 7 * be d 1 1 ∨ 8 < be d 1 1 ∨ m.get F.CAN_STA_STAT_state n x ∉ [2, 3] →
      m.inReport n x d = m.count F.CAN_LOST_disc n) ∧
    (m.bit F.CAN_STA_CFG_en n x = true → 8 + 7 * be d 1 1 ≤ d.length → be d 1 1 ≤ 8 → m.get F.CAN_STA_STAT_state n x ∈ [2, 3] →
      m.inReport n x d = (y.setStation n x k).inObjects n x d (be d 1 1))) ∧
  (∀ (m : M) (n x : Nat) (d : Bytes), n < 8 → x < 64 →
    (m.bit F.CAN_STA_CFG_en n x = false ∨ d.length < 10 → m.rejArrives n x d = m.count F.CAN_LOST_disc n) ∧
    (m.bit F.CAN_STA_CFG_en n x = true → 10 ≤ d.length → ∃ t : M, t.bit F.CAN_EVT_rej n = true ∧ t.can = m.can ∧ t.pts = m.pts ∧
      t.get F.CAN_STA_STAT_rej n x = min (m.get F.CAN_STA_STAT_rej n x + 1) 255 ∧ t.get F.CAN_STA_STAT_state n x = m.get F.CAN_STA_STAT_state n x ∧
      m.rejArrives n x d = t.note 6 3 0 [n, x, be d 0 4, be d 4 4])) ∧
  (∀ (s : State) (n x : Nat) (k : Station), n < 8 → x < 64 → k = s.m.stationOf n x →
    (s.m.get F.CAN_STA_STAT_state n x = 1 → k.serial = none → (∀ a, k.idqAt = some a → a + 10000000 ≤ s.m.time.tb) →
      s.leaves (.idqRetry n x) (s.m.sendIdq n x)) ∧
    (s.m.get F.CAN_STA_STAT_state n x ≠ 1 ∨ k.serial ≠ none ∨ (∃ a, k.idqAt = some a ∧ s.m.time.tb < a + 10000000) → exec (.idqRetry n x) s = .next s) ∧
    (s.m.get F.CAN_STA_STAT_state n x ∈ [1, 3] → k.serial ≠ none → s.leaves (.cfgRetry n x) (s.m.sendCfg n x)) ∧
    (s.m.get F.CAN_STA_STAT_state n x ∉ [1, 3] ∨ k.serial = none → exec (.cfgRetry n x) s = .next s) ∧
    (s.m.get F.CAN_STA_STAT_state n x = 3 → s.leaves (.rejoinRetry n x) (s.m.sendIdq n x)) ∧
    (s.m.get F.CAN_STA_STAT_state n x ≠ 3 → exec (.rejoinRetry n x) s = .next s)) ∧
  (∀ (s : State) (n x : Nat) (k : Station) (y z : M), n < 8 → x < 64 →
    k = { s.m.stationOf n x with superviseBy := none, idqAt := none, serial := none, cfgAt := none } →
    y = ((s.m.setStation n x k).setStationState n x 3).flag F.CAN_EVT_drop (0x30 + n) n →
    z = (y.stationPoints n x 0).foldl (fun (a : M) id => a.setStatusBits id (stStale + stSubstituted)) y →
    (s.m.get F.CAN_STA_STAT_state n x ≠ 2 ∨ s.m.due (s.m.stationOf n x).superviseBy = false → exec (.stationDropout n x) s = .next s) ∧
    (s.m.get F.CAN_STA_STAT_state n x = 2 → s.m.due (s.m.stationOf n x).superviseBy = true →
      y.get F.CAN_STA_STAT_state n x = 3 ∧ y.bit F.CAN_EVT_drop n = true ∧
      exec (.stationDropout n x) s = .next (s.after ((z.stationPoints n x 1).foldl (fun (a : M) id => a.setStatusBits id stStale) z, s.sram)))) ∧
  (∀ (s : State) (n x : Nat), n < 8 → x < 64 →
    (s.m.canSends n = false ∨ s.m.get F.CAN_STA_STAT_state n x ≠ 2 → exec (.outRefresh n x) s = .next s) ∧
    (s.m.canSends n = true → s.m.get F.CAN_STA_STAT_state n x = 2 → s.leaves (.outRefresh n x)
      (s.m.sendRefresh n x ((s.m.outObjects n x).length + 1) (s.m.outObjects n x)))) ∧
  (∀ (m : M) (n x j : Nat) (l : List (Nat × Word)) (k : Station), k = m.stationOf n x →
    (m.sendRefresh n x (j + 1) l = if l = [] then m else if l.length ≤ 9 then m.sendOut n x 3 l
      else (m.sendOut n x 1 (l.take 9)).sendRefresh n x j (l.drop 9)) ∧
    (∀ flags, m.sendOut n x flags l = (m.setStation n x { k with
        outSeq := (k.outSeq + 1) % 65536, lastSent := l.foldl (fun (a : List (Nat × Word)) o => aput o.1 o.2 a) k.lastSent }).canSend n (0x40 + x)
      (toBE 4 (m.get F.IBX_EPOCH_epoch) ++ toBE 2 k.outSeq ++ toBE 1 l.length ++ toBE 1 flags ++ l.flatMap (fun o => toBE 2 o.1 ++ toBE 4 o.2.toNat))))

/-! ### Ethernet -/

/-- PORT_ENABLE, PORT_DISABLE and WAKE_LISTEN write ETHx_CTRL, of which only the system tag writes en.  LINK_UP agrees speed and duplex and
may take the carrying role or end a rate step, LINK_LOSS moves it, CARRY_RETURN and CARRY_HANDOVER move it as planned, with the frames
queued, and the port that carrying left is changed 10 ms later; a frame is counted where it is refused or received; a queue takes 64 frames, those that go ahead before others, and its head leaves with its tenant's tag unless a hold, a
waking link or the other port's carrying delays it. -/
def Obligations.EthernetPortsCarryAndReceive : Prop :=
  (∀ (s : State) (by_ : Master) (w : Who) (x : Nat), x < 3 → s.m.accepts by_ w (Reg.ETH_CTRL.addr x 0 0) true →
    s.does (.portEnable by_ x) (fun e => e.ethCtrl w x (setFieldN (e.rd .ETH_CTRL x).toNat 0 1 1)) ∧
    s.does (.portDisable by_ x) (fun e => e.ethCtrl w x (setFieldN (e.rd .ETH_CTRL x).toNat 0 1 0)) ∧
    ∀ on, s.does (.wakeListen by_ x on) (fun e => e.ethCtrl w x (setFieldN (e.rd .ETH_CTRL x).toNat 1 1 (b2n on)))) ∧
  (∀ (m : M) (w : Who) (x v : Nat), x < 3 → m.bit F.ETH_CTRL_wl x = tbit v 1 →
    (w.tag.isSystem = false → (m.ethCtrl w x v).bit F.ETH_CTRL_en x = m.bit F.ETH_CTRL_en x) ∧
    (w.tag.isSystem = true → (m.ethCtrl w x v).bit F.ETH_CTRL_en x = tbit v 0) ∧
    (w.tag.isSystem = true → tbit v 0 = true → m.bit F.ETH_CTRL_en x = false → m.ethState x = 0 → (∀ k, m.eth.step = some k → k.port ≠ x) →
      (m.ethCtrl w x v).ethState x = (if (m.ethCtrl w x v).get F.ETH_CTRL_adv x % 8 = 0 then 0 else 1)) ∧
    (w.tag.isSystem = true → tbit v 0 = false → m.bit F.ETH_CTRL_en x = true → x < m.eth.ports.length →
      (m.ethCtrl w x v).ethState x = 0 ∧ ((m.ethCtrl w x v).ethPort x).txq = [])) ∧
  (∀ (m : M) (x : Nat) (on : Bool), (m.bit F.ETH_CTRL_wl x = on ∨ m.ethState x = 0 → m.wakeListen x on = m.putB F.ETH_CTRL_wl on x) ∧
    (m.bit F.ETH_CTRL_wl x ≠ on → m.ethState x ≠ 0 → on = true → m.carrying = some x → m.ethState (1 - x) = 2 →
      m.wakeListen x on = m.put F.ETH_CTRL_wl 1 x) ∧
    (∀ t, m.bit F.ETH_CTRL_wl x ≠ on → m.ethState x ≠ 0 → on = false → m.eth.change = some (x, t) →
      m.wakeListen x on = { m.put F.ETH_CTRL_wl 0 x with eth := { m.eth with change := none } }) ∧
    (m.bit F.ETH_CTRL_wl x ≠ on → m.ethState x ≠ 0 → (on = false ∧ ∀ t, m.eth.change ≠ some (x, t)) ∨
      (on = true ∧ (m.carrying ≠ some x ∨ m.ethState (1 - x) ≠ 2)) →
      m.wakeListen x on = (if x ≤ 1 then ((m.putB F.ETH_CTRL_wl on x).renegotiate x).carryLost x else (m.putB F.ETH_CTRL_wl on x).renegotiate x))) ∧
  (∀ (m : M) (x : Nat), x < 3 → (m.renegotiate x).ethState x = 4 ∧ (m.renegotiate x).bit F.ETH_STAT_link x = false ∧
    (m.renegotiate x).get F.ETH_STAT_p1000 x = m.get F.ETH_STAT_p1000 x) ∧
  (∀ (s : State) (x : Nat) (q : EthPartner), x < 3 →
    (s.m.ethState x ≠ 1 ∧ s.m.ethState x ≠ 4 ∨ s.m.agreed x q = none → exec (.linkUp x q) s = .next s) ∧
    (∀ speed fdx, s.m.ethState x = 1 ∨ s.m.ethState x = 4 → s.m.agreed x q = some (speed, fdx) → ∃ t : M,
      t.ethState x = (if s.m.bit F.ETH_CTRL_wl x = true then 3 else 2) ∧ t.get F.ETH_STAT_speed x = speed ∧ t.bit F.ETH_STAT_fdx x = fdx ∧
      t.bit F.ETH_STAT_link x = true ∧ t.bit F.ETH_STAT_pause_en x = (s.m.bit F.ETH_CTRL_pause_rx x && (q.pause || q.asmDir) && fdx) ∧
      t.bit F.ETH_STAT_eee_act x = (s.m.bit F.ETH_CTRL_eee x && q.eee && decide (1 ≤ speed)) ∧ t.bit F.ETH_EVT_link x = true ∧
      t.get F.ETH_STAT_sd x = s.m.get F.ETH_STAT_sd x ∧ t.bit F.ETH_STAT_p1000 x = q.m1000 ∧
      t.carrying = s.m.carrying ∧ t.eth.step = s.m.eth.step ∧
      (x = 2 ∨ s.m.bit F.ETH_CTRL_wl x = true → s.leaves (.linkUp x q) t.showStandby) ∧
      (x ≠ 2 → s.m.bit F.ETH_CTRL_wl x = false → s.m.carrying ≠ none → s.leaves (.linkUp x q) t.showStandby.deferredStep) ∧
      (x ≠ 2 → s.m.bit F.ETH_CTRL_wl x = false → s.m.carrying = none →
        (∀ k, s.m.eth.step = some k → k.port = x → k.moved = true → s.leaves (.linkUp x q) ((t.moveCarry (some x)).rateStepDone k)) ∧
        ((∀ k, s.m.eth.step = some k → k.port ≠ x ∨ k.moved = false) → s.leaves (.linkUp x q) (t.moveCarry (some x)))))) ∧
  (∀ (m : M) (x : Nat) (q : EthPartner) (speed : Nat) (fdx : Bool), m.agreed x q = some (speed, fdx) → fdx = q.fullDuplex ∧ speed ≤ 2 ∧
    tbit (m.get F.ETH_CTRL_adv x) speed = true ∧ (speed = 2 → q.m1000 = true ∧ x ≤ 1 ∧ m.bit F.ETH_CTRL_wl x = false) ∧
    (speed = 1 → q.m100 = true) ∧ (speed = 0 → q.m10 = true) ∧ (fdx = false → x = 2)) ∧
  (∀ (s : State) (x : Nat), x < 3 → (s.m.bit F.ETH_STAT_link x = false → (∀ k, s.m.eth.step = some k → k.port ≠ x ∨ k.moved = false) →
      exec (.linkLoss x) s = .next s) ∧
    (∀ k, s.m.bit F.ETH_STAT_link x = false → s.m.eth.step = some k → k.port = x → k.moved = true → ∃ t : M, t.eth.step = none ∧
      t.ethState x = 4 ∧ t.get F.ETH_STAT_sd x = 3 ∧ t.carrying = s.m.carrying ∧ s.leaves (.linkLoss x) t) ∧
    (s.m.bit F.ETH_STAT_link x = true → ∃ t : M, t.ethState x = 1 ∧ t.bit F.ETH_STAT_link x = false ∧ t.bit F.ETH_EVT_link x = true ∧
      t.carrying = s.m.carrying ∧ exec (.linkLoss x) s = .next (s.after (if x ≤ 1 then t.carryLost x else t, s.sram)))) ∧
  (∀ (m : M) (x : Nat), (m.carrying ≠ some x → m.carryLost x = m.showStandby) ∧
    (m.carrying = some x → m.ethState (1 - x) = 2 → m.carryLost x = m.moveCarry (some (1 - x))) ∧
    (m.carrying = some x → m.ethState (1 - x) ≠ 2 → m.carryLost x = m.moveCarry none)) ∧
  (∀ (m : M) (o : Option Nat), (∀ x, o = some x → x < 2) → m.carrying ≠ o → (m.moveCarry o).carrying = o ∧ (m.moveCarry o).bit F.ETH_EVT_carry 0 = true ∧ (m.moveCarry o).eth.step = m.eth.step ∧
      (∀ x, o = some x → 1 - x < m.eth.ports.length →
        ((m.moveCarry o).ethPort (1 - x)).txq = (m.ethPort (1 - x)).txq.filter (fun f => f.body.peerDelay))) ∧
  (∀ (m : M) (x : Nat) (f : EthTx), x < m.eth.ports.length → f.body.length ≤ (if x = 2 then 1518 else 1522) →
    (64 ≤ (m.ethPort x).txq.length → m.queueTx x f = m.count F.ETH_TXDROP_count x) ∧
    ((m.ethPort x).txq.length < 64 → ((m.queueTx x f).ethPort x).txq = (if f.body.ahead = true then
      (m.ethPort x).txq.takeWhile (fun g => g.body.ahead) ++ [f] ++ (m.ethPort x).txq.dropWhile (fun g => g.body.ahead)
      else (m.ethPort x).txq ++ [f]))) ∧
  (∀ (m : M) (x t : Nat), m.eth.change = some (x, t) → (m.time.tb < t → m.oldPortChanges = m) ∧
    (t ≤ m.time.tb → m.ethState x = 2 → m.carrying ≠ some x →
      m.oldPortChanges = (({ m with eth := { m.eth with change := none } } : M).renegotiate x).showStandby) ∧
    (t ≤ m.time.tb → m.ethState x ≠ 2 ∨ m.carrying = some x → m.oldPortChanges = { m with eth := { m.eth with change := none } })) ∧
  (∀ (m : M) (k : RateStep), k.port < 2 → (m.rateStepDone k).eth.step = none ∧
    (m.rateStepDone k).eth.change = some (1 - k.port, m.time.tb + 10000000) ∧ (m.rateStepDone k).get F.ETH_STAT_sd k.port = 3 ∧
    (m.rateStepDone k).bit (if k.speed = 1 then F.ETH_EVT_sd_down else F.ETH_EVT_sd_up) k.port = true) ∧
  (∀ (s : State), (s.m.bit F.ETH_BB_CTRL_ret = true → s.m.ethState (s.m.get F.ETH_BB_CTRL_pref) = 2 → s.m.carrying ≠ some (s.m.get F.ETH_BB_CTRL_pref) →
      s.m.eth.step = none → (∃ a, (s.m.ethPort (s.m.get F.ETH_BB_CTRL_pref)).upSince = some a ∧ a + s.m.get F.ETH_BB_CTRL_hold * 1000000000 ≤ s.m.time.tb) →
      exec .carryReturn s = .next (s.after (s.m.moveCarry (some (s.m.get F.ETH_BB_CTRL_pref)), s.sram))) ∧
    (s.m.bit F.ETH_BB_CTRL_ret = false ∨ s.m.ethState (s.m.get F.ETH_BB_CTRL_pref) ≠ 2 ∨ s.m.carrying = some (s.m.get F.ETH_BB_CTRL_pref) ∨
      s.m.eth.step ≠ none ∨ (∀ a, (s.m.ethPort (s.m.get F.ETH_BB_CTRL_pref)).upSince = some a → s.m.time.tb < a + s.m.get F.ETH_BB_CTRL_hold * 1000000000) →
      exec .carryReturn s = .next s)) ∧
  (∀ (s : State), (s.m.carrying = none → exec .carryHandover s = .next s) ∧
    (∀ x, s.m.carrying = some x → s.m.eth.step = none → s.m.bit F.ETH_CTRL_wl x = true → s.m.ethState x = 2 → s.m.ethState (1 - x) = 2 →
      s.leaves .carryHandover { s.m.moveCarry (some (1 - x)) with
        eth := { (s.m.moveCarry (some (1 - x))).eth with change := some (x, s.m.time.tb + 10000000) } }) ∧
    (∀ x k, s.m.carrying = some x → s.m.eth.step = some k → k.port = x → k.moved = false → s.m.ethState (1 - x) = 2 → ∃ t : M,
      t = (s.m.moveCarry (some (1 - x))).setEth x { (s.m.moveCarry (some (1 - x))).ethPort x with only := if k.speed = 1 then some 1 else none } ∧
      s.leaves .carryHandover { t with
        eth := { t.eth with step := some { k with moved := true }, change := some (x, s.m.time.tb + 10000000) } }) ∧
    (∀ x k, s.m.carrying = some x → s.m.eth.step = some k → k.port = 1 - x → k.moved = true → s.m.ethState (1 - x) = 2 →
      s.leaves .carryHandover ((s.m.moveCarry (some (1 - x))).rateStepDone k)) ∧
    (∀ x, s.m.carrying = some x → s.m.ethState (1 - x) ≠ 2 → exec .carryHandover s = .next s)) ∧
  (∀ (s : State) (x : Nat) (f : EthRx) (y : M) (bad : Prop), x < 3 →
    y = (s.m.transferAt [Reg.ETH_SDCFG.addr x 0 0, Reg.ETH_SDUP.addr x 0 0]).framePasses x →
    (bad ↔ f.length < 64 ∨ (if x = 2 then 1518 else 1522) < f.length) →
    (s.m.ethState x ≠ 2 → s.m.ethState x ≠ 3 → exec (.frameReceived x f) s = .next s) ∧
    (s.m.ethState x = 2 ∨ s.m.ethState x = 3 → f.fcsOk = false → s.leaves (.frameReceived x f) (y.count F.ETH_RXERR_fcs x)) ∧
    (s.m.ethState x = 2 ∨ s.m.ethState x = 3 → f.fcsOk = true → bad → s.leaves (.frameReceived x f) (y.count F.ETH_RXERR_size x)) ∧
    (s.m.ethState x = 3 → f.fcsOk = true → ¬ bad → y.wakeMatch x f.bytes = true →
      s.leaves (.frameReceived x f) (y.flag F.ETH_EVT_wake 0x3B x)) ∧
    (s.m.ethState x = 3 → f.fcsOk = true → ¬ bad → y.wakeMatch x f.bytes = false → s.leaves (.frameReceived x f) y) ∧
    (s.m.ethState x = 2 → f.fcsOk = true → ¬ bad →
      (x = 2 → f.vid ≠ none → s.leaves (.frameReceived x f) (y.count F.ETH_RXDROP_vlan x)) ∧
      (x < 2 → y.vlanOf x f.vid f.content = none →
        s.leaves (.frameReceived x f) ((y.count F.ETH_RXDROP_vlan x).flag F.ETH_EVT_vlan (0x38 + x) x)) ∧
      ((x = 2 ∧ f.vid = none ∧ 131072 < f.heldAll + f.length) ∨
        (x < 2 ∧ y.vlanOf x f.vid f.content ≠ none ∧ (16384 < f.heldVlan + f.length ∨ 131072 < f.heldAll + f.length)) →
        s.leaves (.frameReceived x f) ((y.count F.ETH_RXDROP_buf x).flag F.ETH_EVT_buf (0x38 + x) x)) ∧
      (x = 2 → f.vid = none → f.heldAll + f.length ≤ 131072 → s.leaves (.frameReceived x f) (y.count F.ETH_RXOK_count x)) ∧
      (∀ (t : Nat) (z : M), x < 2 → y.vlanOf x f.vid f.content = some t → f.heldVlan + f.length ≤ 16384 → f.heldAll + f.length ≤ 131072 →
        z = y.count F.ETH_RXOK_count x → s.leaves (.frameReceived x f)
          (if z.ptpHere x f.vid t = true then (z.delayResponse x f.content).leapData x f.content else z)))) ∧
  (∀ (m : M) (x v t : Nat) (c : EthContent), m.vlanOf x (some (v + 1)) c = some t → t < 251 ∧ m.bit F.ETH_VLAN_valid x t = true ∧
    m.get F.ETH_VLAN_vid x t = v + 1) ∧
  (∀ (m : M) (x : Nat) (vid : Option Nat) (c : EthContent), vid = none ∨ vid = some 0 →
    (m.vlanOf x vid c = none ∨ m.vlanOf x vid c = some 0) ∧ m.vlanOf x vid .other = none ∧ m.vlanOf x vid .macControl = some 0 ∧
    m.vlanOf x vid .resolution = some 0 ∧ (m.vlanOf x vid .chamois = some 0 ↔ m.bit F.ETH_VLAN_valid x 0 = false) ∧
    (m.vlanOf x vid .ptpOther = some 0 ↔ m.bit F.ETH_PTP_CFG_vlan x = false)) ∧
  (∀ (s : State) (x : Nat), x < 3 → ((s.m.ethPort x).txq = [] → exec (.frameTransmit x) s = .next s) ∧
    (∀ f l may, (s.m.ethPort x).txq = f :: l →
      may = (s.m.ethState x = 2 ∧ s.m.bit F.ETH_STAT_paused x = false ∧ (x = 2 ∨ s.m.carrying = some x ∨ f.body.peerDelay = true) ∧
        ∀ w, (s.m.ethPort x).wakeEnd = some w → w ≤ s.m.time.tb) →
      (¬ may → exec (.frameTransmit x) s = .next s) ∧
      (may → ∃ t : M,
        t.eth = { s.m.eth with
          ports := listSet s.m.eth.ports x { s.m.ethPort x with
            txq := l, wakeEnd := none, idleSince := if l = [] then s.m.time.tb else (s.m.ethPort x).idleSince
            reqSent := if f.body.timed = true then some s.m.time.tai else (s.m.ethPort x).reqSent }
          spFrame := if x = 2 then some s.m.time.tb else s.m.eth.spFrame } ∧
        (∀ tag, s.m.frameTag x f.tenant = some tag → t.out = s.m.out ++ [.ethFrame x tag (f.body.stamped s.m.time.tai)] ∧
          t.get F.ETH_TXOK_count x = min (s.m.get F.ETH_TXOK_count x + 1) 0xFFFFFFFF) ∧
        (s.m.frameTag x f.tenant = none → t.out = s.m.out) ∧ s.leaves (.frameTransmit x) (t.feedAnnouncements x 1))))

/-- PAUSE_FRAME is counted and, while receive pause is resolved on, holds the transmitter for its quanta; PAUSE_HOLD_END ends the hold.
LPI_ENTRY and LPI_RECEIVED count low-power idle, LOAD_WINDOW judges the step condition, STEP_HOLD_END ends the hold time.
A SYNC of the port's transport, network and domain stores the offset and steers module time from the carrying port, a PDELAY_REQ queues its
answer, the responses give the path delay, DELAY_REQ_SEND queues a request, SYNC_TIMEOUT flags and begins holdover. -/
def Obligations.EthernetHoldsIdleStepsAndPtp : Prop :=
  (∀ (s : State) (x q : Nat) (y : M), x < 3 → q < 65536 → y = (s.m.count F.ETH_PAUSE_count x).flag F.ETH_EVT_pause (0x38 + x) x →
    (s.m.ethState x ≠ 2 → exec (.pauseFrame x q) s = .next s) ∧
    (s.m.ethState x = 2 → y.bit F.ETH_EVT_pause x = true ∧ y.get F.ETH_PAUSE_count x = min (s.m.get F.ETH_PAUSE_count x + 1) 0xFFFFFFFF ∧ y.eth = s.m.eth ∧
      (s.m.bit F.ETH_STAT_pause_en x = false → exec (.pauseFrame x q) s = .next { s with m := y }) ∧
      (s.m.bit F.ETH_STAT_pause_en x = true → q = 0 → exec (.pauseFrame x q) s = .next { s with
        m := (y.setEth x { s.m.ethPort x with pauseEnd := none }).put F.ETH_STAT_paused 0 x }) ∧
      (s.m.bit F.ETH_STAT_pause_en x = true → q ≠ 0 → exec (.pauseFrame x q) s = .next { s with
        m := (y.setEth x { s.m.ethPort x with pauseEnd := some (s.m.time.tb + q * 512 *
          (if s.m.get F.ETH_STAT_speed x = 0 then 100 else if s.m.get F.ETH_STAT_speed x = 1 then 10 else 1)) }).put F.ETH_STAT_paused 1 x }))) ∧
  (∀ (s : State) (x : Nat), x < 3 →
    (s.m.due (s.m.ethPort x).pauseEnd = true → exec (.pauseHoldEnd x) s = .next { s with
      m := (s.m.setEth x { s.m.ethPort x with pauseEnd := none, idleSince := s.m.time.tb }).put F.ETH_STAT_paused 0 x }) ∧
    (s.m.due (s.m.ethPort x).pauseEnd = false → exec (.pauseHoldEnd x) s = .next s) ∧
    (s.m.bit F.ETH_STAT_eee_act x = true → exec (.lpiReceived x) s = .next { s with m := s.m.count F.ETH_LPI_rx x }) ∧
    (s.m.bit F.ETH_STAT_eee_act x = false → exec (.lpiReceived x) s = .next s) ∧
    (s.m.due (s.m.ethPort x).sdHoldEnd = true → exec (.stepHoldEnd x) s = .next { s with
      m := (s.m.setEth x { s.m.ethPort x with sdHoldEnd := none }).put F.ETH_STAT_sd 0 x }) ∧
    (s.m.due (s.m.ethPort x).sdHoldEnd = false → exec (.stepHoldEnd x) s = .next s)) ∧
  (∀ (s : State) (x : Nat) (p : EthPort), x < 3 → p = s.m.ethPort x →
    (s.m.ethState x = 2 → s.m.bit F.ETH_STAT_eee_act x = true → p.txq = [] → s.m.bit F.ETH_STAT_paused x = false → p.lpi = false →
      p.idleSince + max 1 (s.m.get F.ETH_EEE_lpi_idle x) * 1000 ≤ s.m.time.tb →
      exec (.lpiEntry x) s = .next { s with m := (s.m.setEth x { p with lpi := true }).count F.ETH_LPI_tx x }) ∧
    (s.m.ethState x ≠ 2 ∨ s.m.bit F.ETH_STAT_eee_act x = false ∨ p.txq ≠ [] ∨ s.m.bit F.ETH_STAT_paused x = true ∨ p.lpi = true ∨
      s.m.time.tb < p.idleSince + max 1 (s.m.get F.ETH_EEE_lpi_idle x) * 1000 → exec (.lpiEntry x) s = .next s)) ∧
  (∀ (s : State) (x rx tx deep low high : Nat) (p : EthPort), x < 3 → p = s.m.ethPort x →
    low = (if s.m.get F.ETH_STAT_speed x = 2 ∧ rx * 100 < min 100 (s.m.eff F.ETH_SDCFG_dthr x) * 12500000 ∧
      tx * 100 < min 100 (s.m.eff F.ETH_SDCFG_dthr x) * 12500000 then p.sdLow + 1 else 0) →
    high = (if s.m.get F.ETH_STAT_speed x = 1 ∧ p.only = some 1 ∧ (500 ≤ deep ∨ min 100 (s.m.eff F.ETH_SDUP_rthr x) * 12500000 < rx * 100) then p.sdHigh + 1 else 0) →
    (s.m.carrying ≠ some x ∨ s.m.ethState x ≠ 2 ∨ p.sdHoldEnd ≠ none ∨ s.m.eth.step ≠ none → exec (.loadWindow x rx tx deep) s = .next s) ∧
    (s.m.carrying = some x → s.m.ethState x = 2 → p.sdHoldEnd = none → s.m.eth.step = none → ∃ t : M,
      t = (s.m.setEth x { p with sdLow := low, sdHigh := high }).put F.ETH_STAT_sd (if 0 < low ∨ 0 < high then 1 else 0) x ∧
      (s.m.bit F.ETH_CTRL_sd_en x = false ∨ (low < max 1 (s.m.eff F.ETH_SDCFG_dtime x) ∧
        (high < max 1 (s.m.eff F.ETH_SDUP_utime x) ∨ s.m.bit F.ETH_STAT_p1000 x = false)) →
        exec (.loadWindow x rx tx deep) s = .next { s with m := t.put F.ETH_STAT_sd_defer 0 x }) ∧
      (s.m.bit F.ETH_CTRL_sd_en x = true → max 1 (s.m.eff F.ETH_SDCFG_dtime x) ≤ low ∨
        (max 1 (s.m.eff F.ETH_SDUP_utime x) ≤ high ∧ s.m.bit F.ETH_STAT_p1000 x = true) →
        (s.m.ethState (1 - x) ≠ 2 → exec (.loadWindow x rx tx deep) s = .next { s with m := t.put F.ETH_STAT_sd_defer 1 x }) ∧
        (s.m.ethState (1 - x) = 2 → ∃ u : M,
          u.eth = { t.eth with step := some ⟨x, if max 1 (s.m.eff F.ETH_SDCFG_dtime x) ≤ low then 1 else 2, false⟩ } ∧
          u.get F.ETH_STAT_sd x = 2 ∧ u.bit F.ETH_STAT_sd_defer x = false ∧ exec (.loadWindow x rx tx deep) s = .next { s with m := u })))) ∧
  (∀ (m : M) (x t : Nat) (vid : Option Nat), m.ptpHere x vid t = true ↔
    (m.bit F.ETH_PTP_CFG_vlan x = true ∧ t = 0 ∧ ∃ v, vid = some (v + 1)) ∨ (m.bit F.ETH_PTP_CFG_vlan x = false ∧ (vid = none ∨ vid = some 0))) ∧
  (∀ (s : State) (x : Nat) (f : PtpRx) (c : EthContent) (o : Option Nat) (origin receipt corr : Nat), x < 2 →
    c = (if f.transport = s.m.get F.ETH_PTP_CFG_transport x then .ptpOther else .other) → o = s.m.vlanOf x f.vid c →
    (s.m.ethState x ≠ 2 → exec (.sync x f origin receipt corr) s = .next s ∧ exec (.pdelayReq x f receipt) s = .next s) ∧
    (s.m.ethState x = 2 → o = none →
      s.leaves (.sync x f origin receipt corr) ((s.m.count F.ETH_RXDROP_vlan x).flag F.ETH_EVT_vlan (0x38 + x) x) ∧
      s.leaves (.pdelayReq x f receipt) ((s.m.count F.ETH_RXDROP_vlan x).flag F.ETH_EVT_vlan (0x38 + x) x)) ∧
    (∀ (t : Nat) (taken : Prop) (ofs : Int) (y z : M), s.m.ethState x = 2 → o = some t → y = s.m.count F.ETH_RXOK_count x →
      taken = (f.transport = s.m.get F.ETH_PTP_CFG_transport x ∧ s.m.ptpHere x f.vid t = true ∧ s.m.bit F.ETH_PTP_CFG_en x = true ∧
        f.domain = s.m.get F.ETH_PTP_CFG_domain x) →
      ofs = (receipt : Int) - origin - corr - s.m.get F.ETH_PTP_MPD_mpd x →
      z = (y.setEth x { y.ethPort x with syncDiff := some ((receipt : Int) - origin - corr) }).wr .ETH_PTP_OFS
        (BitVec.ofInt 32 (max (-2147483648) (min 2147483647 ofs))) x →
      (¬ taken → s.leaves (.sync x f origin receipt corr) y ∧ s.leaves (.pdelayReq x f receipt) y) ∧
      (taken → s.m.get F.ETH_STAT_speed x = 0 → s.leaves (.sync x f origin receipt corr) (y.flag F.ETH_EVT_ptp (0x38 + x) x)) ∧
      (taken → s.m.get F.ETH_STAT_speed x ≠ 0 → s.m.carrying ≠ some x ∨ s.m.get F.RTC_CFG_src ≠ 1 →
        s.leaves (.sync x f origin receipt corr) z) ∧
      (taken → s.m.get F.ETH_STAT_speed x ≠ 0 → s.m.carrying = some x → s.m.get F.RTC_CFG_src = 1 →
        s.leaves (.sync x f origin receipt corr) (z.followOffset ofs)) ∧
      (taken → s.m.bit F.ETH_PTP_CFG_dm x = false → s.leaves (.pdelayReq x f receipt) y) ∧
      (taken → s.m.bit F.ETH_PTP_CFG_dm x = true → s.m.get F.ETH_STAT_speed x = 0 →
        s.leaves (.pdelayReq x f receipt) (y.flag F.ETH_EVT_ptp (0x38 + x) x)) ∧
      (taken → s.m.bit F.ETH_PTP_CFG_dm x = true → s.m.get F.ETH_STAT_speed x ≠ 0 → s.leaves (.pdelayReq x f receipt)
        (y.queueTx x ⟨if s.m.bit F.ETH_PTP_CFG_vlan x = true then some 0 else none, .pdelayResp receipt 0⟩)))) ∧
  (∀ (m : M) (x receipt corr turn t0 : Nat) (d : Int) (put : Int → M), m.bit F.ETH_PTP_CFG_en x = true → (m.ethPort x).reqSent = some t0 →
    put = (fun i => (m.wr .ETH_PTP_MPD (BitVec.ofNat 32 (min i.toNat 0xFFFFFFFF)) x).setEth x { m.ethPort x with reqSent := none }) →
    (m.bit F.ETH_PTP_CFG_dm x = false → (m.ethPort x).syncDiff = some d →
      m.delayResponse x (.delayResp (m.get F.ETH_PTP_CFG_domain x) receipt corr) = put ((d + ((receipt : Int) - t0 - corr)) / 2)) ∧
    (m.bit F.ETH_PTP_CFG_dm x = true →
      m.delayResponse x (.pdelayResp (m.get F.ETH_PTP_CFG_domain x) receipt turn) = put (((receipt : Int) - t0 - turn) / 2))) ∧
  (∀ (m : M) (ofs : Int), ofs.natAbs ≤ 1000000 → (m.followOffset ofs).bit F.RTC_STAT_hold = false ∧ (m.followOffset ofs).time.holdEnd = none ∧
    (m.followOffset ofs).time.slew = -ofs * 33554432 ∧
    (ofs.natAbs < 1000 → (m.followOffset ofs).time.syncGood = min (m.time.syncGood + 1) 8 ∧
      (m.followOffset ofs).bit F.RTC_STAT_lock = decide (7 ≤ m.time.syncGood)) ∧
    (1000 ≤ ofs.natAbs → (m.followOffset ofs).time.syncGood = 0 ∧ (m.followOffset ofs).bit F.RTC_STAT_lock = false)) ∧
  (∀ (m : M) (ofs : Int), 1000000 < ofs.natAbs → ∃ z : M, z.bit F.RTC_STAT_lock = false ∧ z.bit F.RTC_STAT_hold = false ∧
    z.time = { m.time with syncGood := 0, syncBig := (ofs :: m.time.syncBig).take 8, holdEnd := none } ∧
    (m.time.syncBig.length < 7 → m.followOffset ofs = z) ∧
    (7 ≤ m.time.syncBig.length → m.bit F.RTC_CFG_step_ok = false → m.followOffset ofs = { z with time := { z.time with slew := -ofs * 33554432 } }) ∧
    (7 ≤ m.time.syncBig.length → m.bit F.RTC_CFG_step_ok = true → ∃ y : M,
      y = z.stepTime ((m.time.tai : Int) - meanInt ((ofs :: m.time.syncBig).take 8)).toNat ∧ m.followOffset ofs = { y with time := { y.time with syncBig := [] } })) ∧
  (∀ (s : State) (x : Nat) (dm : Bool), x < 2 → dm = s.m.bit F.ETH_PTP_CFG_dm x →
    (s.m.ethState x ≠ 2 ∨ s.m.bit F.ETH_PTP_CFG_en x = false ∨ (dm = false ∧ s.m.carrying ≠ some x) → exec (.delayReqSend x) s = .next s) ∧
    (s.m.ethState x = 2 → s.m.bit F.ETH_PTP_CFG_en x = true → dm = true ∨ s.m.carrying = some x →
      (s.m.get F.ETH_STAT_speed x = 0 → s.leaves (.delayReqSend x) (s.m.flag F.ETH_EVT_ptp (0x38 + x) x)) ∧
      (s.m.get F.ETH_STAT_speed x ≠ 0 → s.leaves (.delayReqSend x) (s.m.queueTx x
        ⟨if s.m.bit F.ETH_PTP_CFG_vlan x = true then some 0 else none, if dm = true then .pdelayReq else .delayReq 0⟩)))) ∧
  (∀ (s : State) (x : Nat), x < 2 → (s.m.carrying ≠ some x ∨ s.m.bit F.ETH_PTP_CFG_en x = false → exec (.syncTimeout x) s = .next s) ∧
    (s.m.carrying = some x → s.m.bit F.ETH_PTP_CFG_en x = true → ∃ t : M, t = s.m.flag F.ETH_EVT_ptp (0x38 + x) x ∧ t.bit F.ETH_EVT_ptp x = true ∧
      (s.m.get F.RTC_CFG_src = 1 → s.m.bit F.RTC_STAT_lock = true → s.m.time.holdEnd = none → ∃ u : M, u = t.put F.RTC_STAT_hold 1 ∧
        exec (.syncTimeout x) s = .next { s with m := { u with time := { u.time with holdEnd := some (s.m.time.tb + 60000000000) } } }) ∧
      (s.m.get F.RTC_CFG_src ≠ 1 ∨ s.m.bit F.RTC_STAT_lock = false ∨ s.m.time.holdEnd ≠ none → exec (.syncTimeout x) s = .next { s with m := t })))

/-! ### Levels, power domains, clocks and supply -/

/-- LEVEL_REQUEST writes PMC_LVL_CMD: one transition at a time, the first refused check of Table 12-7 deciding.  VOLTAGE_SETTLED and
CONFIRMATION_WINDOW carry a change to its end, PMC_PD_REQ is written by DOMAIN_OFF and DOMAIN_ON, POWER_GOOD or PGOOD_TIMEOUT ends a
switching on, a domain lost leaves nothing in its windows but the carrying port, and MC_WAKE powers the cores when an event would be offered to H0. -/
def Obligations.LevelsAndDomainsFollowTheirRequests : Prop :=
  (∀ (s : State) (by_ : Master) (w : Who), (∀ l, l < 4 → s.m.accepts by_ w (Reg.PMC_LVL_CMD.addr 0 0 0) true →
      s.does (.levelRequest by_ l) (fun e => e.pmcAsk (.level l))) ∧
    ∀ d, d < 16 → s.m.accepts by_ w (Reg.PMC_PD_REQ.addr 0 0 0) true →
      s.does (.domainOff by_ d) (fun e => e.pdRequest w (putBitN (e.get F.PMC_PD_REQ_on) d false)) ∧
      s.does (.domainOn by_ d) (fun e => e.pdRequest w (putBitN (e.get F.PMC_PD_REQ_on) d true))) ∧
  (∀ (m : M) (r : PmcReq), (m.power.busy ≠ .idle → m.pmcAsk r = { m with power := { m.power with queue := m.power.queue ++ [r] } }) ∧
    (m.power.busy = .idle → m.power.heldRaise = false → m.power.queue = [] → m.pmcAsk r =
      (match r with | .level t => m.startLevel t | .domain d => m.startDomain d))) ∧
  (∀ (m : M), (m.power.busy ≠ .idle → m.pmcGo = m) ∧ (m.power.heldRaise = false → m.power.queue = [] → m.pmcGo = m) ∧
    ∀ r rest, m.power.busy = .idle → m.power.heldRaise = false → m.power.queue = r :: rest →
      m.pmcGo = (match r with
        | .level t => ({ m with power := { m.power with queue := rest } } : M).startLevel t
        | .domain d => ({ m with power := { m.power with queue := rest } } : M).startDomain d).pmcGo) ∧
  (∀ (m : M) (t now : Nat), t < 4 → now = m.get F.PMC_LVL_STAT_level →
    (t = now → m.startLevel t = m.put F.PMC_LVL_STAT_err 0) ∧
    (t ≠ now → m.bitOf F.TIM_CLK_STAT_fo 0 = true → m.startLevel t = (m.put F.PMC_LVL_STAT_err 6).flag F.PMC_EVT_lvl_fail 0x21) ∧
    (m.bitOf F.TIM_CLK_STAT_fo 0 = false →
      (now < t → m.bit F.PMC_SUP_STAT_warn = true → m.startLevel t = (m.put F.PMC_LVL_STAT_err 5).flag F.PMC_EVT_lvl_fail 0x21) ∧
      (t ≠ now → now < t → m.bit F.PMC_SUP_STAT_warn = false → m.loopsExceed t = true →
        m.startLevel t = (m.put F.PMC_LVL_STAT_err 2).flag F.PMC_EVT_lvl_fail 0x21) ∧
      (t < now → m.loopsExceed t = true → m.startLevel t = (m.put F.PMC_LVL_STAT_err 2).flag F.PMC_EVT_lvl_fail 0x21) ∧
      (t < now → m.loopsExceed t = false → (m.exeState = 1 ∨ m.exeState = 2) → t < m.img.level →
        m.startLevel t = (m.put F.PMC_LVL_STAT_err 3).flag F.PMC_EVT_lvl_fail 0x21) ∧
      (∀ u : M, u = m.startLevel t → m.loopsExceed t = false → (m.exeState = 1 ∨ m.exeState = 2 → m.img.level ≤ t) →
        (now < t → m.bit F.PMC_SUP_STAT_warn = false → u.power = { m.power with busy := .raising now 0 none, windowDirty := true } ∧
          u.get F.PMC_LVL_STAT_level = now ∧ u.get F.SYS_PACE_FLOOR_floor = m.get F.SYS_PACE_FLOOR_floor) ∧
        (t < now → u.power = { m.power with busy := .lowering now, windowDirty := true } ∧ u.get F.PMC_LVL_STAT_level = t ∧
          u.get F.SYS_PACE_FLOOR_floor = paceFloor t) ∧
        (t ≠ now → (now < t → m.bit F.PMC_SUP_STAT_warn = false) → u.bit F.PMC_LVL_STAT_busy = true ∧ u.get F.PMC_LVL_STAT_target = t ∧
          u.get F.PMC_LVL_STAT_err = 0 ∧ u.get F.PMC_LVL_STAT_step = 2)))) ∧
  paceFloor 0 = 134 ∧ paceFloor 1 = 228 ∧ paceFloor 2 = 320 ∧ paceFloor 3 = 400 ∧
  (∀ (m : M) (e : Nat), e < 16 → ∃ t : M, m.levelEnd e = t.pmcGo ∧ t.power = { m.power with busy := .idle } ∧ t.bit F.PMC_LVL_STAT_busy = false ∧
    t.get F.PMC_LVL_STAT_step = 0 ∧ t.get F.PMC_LVL_STAT_err = e ∧ t.get F.PMC_LVL_STAT_level = m.get F.PMC_LVL_STAT_level ∧
    (e = 0 → t.bit F.PMC_EVT_lvl_done = true) ∧ (e ≠ 0 → t.bit F.PMC_EVT_lvl_fail = true)) ∧
  (∀ (s : State),
    ((∀ f a, s.m.power.busy ≠ .raising f a none ∨ s.m.get F.PMC_LVL_STAT_step ≠ 2) → (∀ f a e, s.m.power.busy ≠ .raising f a (some e)) →
      (∀ f, s.m.power.busy ≠ .lowering f) → exec .voltageSettled s = .next s) ∧
    ∀ f a, (s.m.power.busy = .raising f a none → s.m.get F.PMC_LVL_STAT_step = 2 →
        exec .voltageSettled s = .next { s with m := s.m.put F.PMC_LVL_STAT_step 4 }) ∧
      (∀ e, s.m.power.busy = .raising f a (some e) → exec .voltageSettled s = .next (s.after (s.m.levelEnd e, s.sram))) ∧
      (s.m.power.busy = .lowering f → exec .voltageSettled s = .next (s.after (s.m.levelEnd 0, s.sram)))) ∧
  (∀ (s : State) (l : List Nat), l.length = 6 →
    ((∀ f a, s.m.power.busy ≠ .raising f a none) ∨ s.m.get F.PMC_LVL_STAT_step ≠ 4 → exec (.confirmationWindow l) s = .next s) ∧
    (∀ f a t, s.m.power.busy = .raising f a none → s.m.get F.PMC_LVL_STAT_step = 4 → t = s.m.get F.PMC_LVL_STAT_target →
      ((∀ c ∈ l, paceFloor t ≤ c) → exec (.confirmationWindow l) s = .next (s.after
        (((s.m.put F.PMC_LVL_STAT_level t).put F.SYS_PACE_FLOOR_floor (paceFloor t)).levelEnd 0, s.sram))) ∧
      (¬ (∀ c ∈ l, paceFloor t ≤ c) → a = 0 → exec (.confirmationWindow l) s =
        .next { s with m := { s.m with power := { s.m.power with busy := .raising f 1 none } } }) ∧
      (¬ (∀ c ∈ l, paceFloor t ≤ c) → a ≠ 0 → exec (.confirmationWindow l) s = .next { s with m := s.m.rampBack 4 }))) ∧
  (∀ (m : M) (e : Nat), ((∀ f a, m.power.busy ≠ .raising f a none) → m.rampBack e = m) ∧ ∀ f a, m.power.busy = .raising f a none →
    m.rampBack e = { (m.put F.PMC_LVL_STAT_step 2) with power := { m.power with busy := .raising f a (some e) } }) ∧
  (∀ (m : M) (w : Who) (d : Nat) (on : Bool), d < 16 →
    (m.bitOf F.PMC_PD_REQ_on d = on → m.pdRequest w (putBitN (m.get F.PMC_PD_REQ_on) d on) = m) ∧
    (m.bitOf F.PMC_PD_REQ_on d = !on → d = 4 → on = false → w.ini ≠ 0 →
      m.pdRequest w (putBitN (m.get F.PMC_PD_REQ_on) d on) = m.pdError 4 3 F.PMC_EVT_pd_ref) ∧
    (m.bitOf F.PMC_PD_REQ_on d = !on → (d = 4 → on = true ∨ w.ini = 0) → m.power.busy ≠ .idle ∨ (m.power.heldRaise = false ∧ m.power.queue = []) →
      m.pdRequest w (putBitN (m.get F.PMC_PD_REQ_on) d on) = (m.putBit F.PMC_PD_REQ_on d on).pmcAsk (.domain d))) ∧
  (∀ (m : M) (d err : Nat) (x : FRef), d < 16 → err < 16 → (x = F.PMC_EVT_pd_ref ∨ x = F.PMC_EVT_pd_fault) →
    (m.pdError d err x).bit x = true ∧ (m.pdError d err x).bit F.PMC_PD_ERR_valid = true ∧ (m.pdError d err x).get F.PMC_PD_ERR_err = err ∧
    (m.pdError d err x).get F.PMC_PD_ERR_domain = d ∧ (m.pdError d err x).get F.PMC_PD_REQ_on = m.get F.PMC_PD_REQ_on ∧
    (m.pdError d err x).power = m.power) ∧
  (∀ (m : M) (d : Nat), d < 16 →
    (m.pdState d = 0 → m.bitOf F.PMC_PD_REQ_on d = true → m.startDomain d = { m.setPd d 2 with power := { m.power with busy := .domainOn d } }) ∧
    (m.pdState d = 3 → m.bitOf F.PMC_PD_REQ_on d = false → m.startDomain d = m.setPd d 0) ∧
    (m.pdState d = 1 → m.bitOf F.PMC_PD_REQ_on d = false →
      (m.offRefused d = 0 → m.startDomain d = (m.loseDomain d).setPd d 0) ∧
      (m.offRefused d ≠ 0 → m.startDomain d = (m.putBit F.PMC_PD_REQ_on d true).pdError d (m.offRefused d) F.PMC_EVT_pd_ref)) ∧
    (m.pdState d = 2 ∨ (m.pdState d = 1 ∨ m.pdState d = 3) ∧ m.bitOf F.PMC_PD_REQ_on d = true ∨ m.pdState d = 0 ∧ m.bitOf F.PMC_PD_REQ_on d = false →
      m.startDomain d = m) ∧
    (∀ v, v < 4 → (m.setPd d v).pdState d = v ∧ ∀ d', d' < 16 → d' ≠ d → (m.setPd d v).pdState d' = m.pdState d')) ∧
  (∀ (m : M), (∀ d, d < 4 → (m.offRefused d = 0 ↔ m.qstate d = 0 ∨ m.qstate d = 1 ∨ m.qstate d = 4)) ∧ m.offRefused 4 = 0 ∧
    (m.offRefused 5 = 0 ↔ m.bit F.LPE_CTRL_en = false) ∧
    (m.offRefused 6 = 0 ↔ m.bit F.KV_CMD_STAT_busy = false ∧ m.bit F.KV_STAT_chk_busy = false ∧ m.bit F.IBX_CTRL_en = false ∧ m.bit F.IBX_CHOST_en = false) ∧
    (m.offRefused 13 = 0 ↔ m.frec.logQueue = [] ∧ m.frec.uncopied = []) ∧
    (m.offRefused 7 = 0 ↔ m.bit F.ETH_CTRL_en 0 = false) ∧ (m.offRefused 8 = 0 ↔ m.bit F.ETH_CTRL_en 1 = false) ∧
    (m.offRefused 15 = 0 ↔ m.bit F.ETH_CTRL_en 2 = false) ∧ (m.offRefused 11 = 0 ↔ m.bit F.MTR_STAT_run = false) ∧
    (m.offRefused 12 = 0 ↔ m.bit F.TTH_CTRL_en = false) ∧ (m.offRefused 14 = 0 ↔ m.leased = false ∧ m.bit F.LIO_CTRL_en = false) ∧
    (m.offRefused 9 = 0 ↔ ∀ n, n < 4 → m.canState n = canOff ∨ m.canState n = canSleep) ∧
    (m.offRefused 10 = 0 ↔ ∀ n, n < 4 → m.canState (4 + n) = canOff ∨ m.canState (4 + n) = canSleep)) ∧
  (∀ (m : M) (t : Nat), m.loopsExceed t = false ↔
    (∀ n < 64, m.loopCounts n = true → (if t = 0 then 100 else 50) ≤ m.loopPeriod n) ∧
    (((List.range 64).filter m.loopCounts).map (fun n => (1000000 + m.loopPeriod n - 1) / m.loopPeriod n)).sum ≤ (if t = 0 then 640000 else 1280000)) ∧
  (∀ (m : M) (n : Nat), (m.effB F.LPE_CH_CTRL_en n = true → m.loopCounts n = true) ∧
    (m.domainOn 5 = true → m.loopPeriod n = m.get F.LPE_CH_PER_period n)) ∧
  (∀ (m : M) (d a : Nat), d < 16 → d ≠ 4 → windowDomain (a / 65536) = some (some d) → a ≠ Reg.ETH_BB_STAT.addr 0 0 0 →
    aget a (m.loseDomain d).regs = none) ∧
  (∀ (m : M), (m.carrying ≠ some 0 → (m.loseDomain 7).carrying = m.carrying) ∧
    (m.carrying = some 0 → (m.loseDomain 7).carrying = if m.ethState 1 = 2 then some 1 else none)) ∧
  (∀ (m : M) (d : Nat) (q : Quadrant), d < 4 → m.fab.quads[d]? = some q → (m.loseDomain d).qstate d = 0 ∧
    (m.loseDomain d).fab.quads[d]? = some { Quadrant.reset with failed := q.failed }) ∧
  (∀ (s : State) (d : Nat), d < 16 →
    (s.m.power.busy ≠ .domainOn d → exec (.powerGood d) s = .next s ∧ exec (.pgoodTimeout d) s = .next s) ∧
    (s.m.power.busy = .domainOn d → ∃ t : M, t.pdState d = 3 ∧ t.power = { s.m.power with busy := .idle } ∧ t.bit F.PMC_PD_ERR_valid = true ∧
      t.get F.PMC_PD_ERR_err = 4 ∧ t.get F.PMC_PD_ERR_domain = d ∧ t.bit F.PMC_EVT_pd_fault = true ∧
      exec (.pgoodTimeout d) s = .next (s.after (t.pmcGo, s.sram))) ∧
    (s.m.power.busy = .domainOn d → ∃ u v : M, u.pdState d = 1 ∧ u.power = { s.m.power with busy := .idle } ∧
      (∀ a, a ≠ Reg.PMC_PD_STAT.addr 0 0 0 → aget a u.regs = aget a s.m.regs) ∧ v = M.restoreConfig d u ∧
      (d < 4 → exec (.powerGood d) s = .next (s.after ((v.setQstate d 1).pmcGo, s.sram))) ∧
      (d = 4 → exec (.powerGood d) s = .next (s.after (v.coreRestart.pmcGo, s.sram))) ∧
      (d = 11 → exec (.powerGood d) s = .next (s.after (v.meterRestore.pmcGo, s.sram))) ∧
      (d = 6 ∨ d = 7 ∨ d = 8 ∨ d = 12 ∨ d = 13 ∨ d = 15 ∨ (d = 14 ∧ v.lioRun = false) → exec (.powerGood d) s = .next (s.after (v.pmcGo, s.sram))) ∧
      (d = 14 → v.lioRun = true → exec (.powerGood d) s = .next (s.after
        (((List.range 64).foldl (fun a n => a.lioInput n (tbit a.lio.pins n)) v).pmcGo, s.sram))) ∧
      (d = 5 → exec (.powerGood d) s = .next (s.after (v.waltzRestore.pmcGo, s.sram))) ∧
      (d = 9 ∨ d = 10 → ∃ z : M, z.regs = v.regs ∧ z.power = v.power ∧
        (∀ n, n < 4 → 4 * (d - 9) + n < v.can.length → (z.canBox (4 * (d - 9) + n)).asleep = none) ∧
        exec (.powerGood d) s = .next (s.after (z.pmcGo, s.sram))))) ∧
  (∀ (s : State),
    (s.m.pdState 4 = 0 → s.m.bitOf F.PMC_PD_REQ_on 4 = false → (s.m.nextSource 0).isSome = true →
      exec .mcWake s = .next (s.after ((s.m.putBit F.PMC_PD_REQ_on 4 true).pmcAsk (.domain 4), s.sram))) ∧
    (s.m.pdState 4 ≠ 0 ∨ s.m.bitOf F.PMC_PD_REQ_on 4 = true ∨ s.m.nextSource 0 = none → exec .mcWake s = .next s))

/-- pwr_ok of the health word: a domain in TRANSITION counts as in its requested state, one in FAULT clears it (R446); the core supply
out of range outside a ramp clears core_ok, sets PMC_EVT.core, and pwr_ok reads 0 until core_ok returns (R448). -/
def Obligations.PowerOkFollowsSupplyAndDomains : Prop :=
  (∀ m : M, tbit m.healthBits 13 = true ↔ (m.bit F.PMC_SUP_STAT_warn = false ∧ m.bit F.PMC_SUP_STAT_core_ok = true ∧
    ∀ d, d < 16 → m.pdState d = 2 ∨ (m.pdState d = 1 ∧ m.bitOf F.PMC_PD_REQ_on d = true) ∨ (m.pdState d = 0 ∧ m.bitOf F.PMC_PD_REQ_on d = false))) ∧
  (∀ (m : M) (d : Nat), d < 16 → m.pdState d = 3 → tbit m.healthBits 13 = false) ∧
  (∀ s : State, (∀ f a b, s.m.power.busy ≠ .raising f a b) → (∀ f, s.m.power.busy ≠ .lowering f) → s.m.bit F.PMC_SUP_STAT_core_ok = true →
    ∃ t : M, exec .coreSupplyFault s = .next { s with m := t } ∧ t.bit F.PMC_SUP_STAT_core_ok = false ∧ t.bit F.PMC_EVT_core = true ∧
      tbit t.healthBits 13 = false) ∧
  (∀ m : M, m.bit F.PMC_SUP_STAT_core_ok = false → tbit m.healthBits 13 = false) ∧
  (∀ s : State, exec .coreSupplyRecover s = .next { s with m := s.m.put F.PMC_SUP_STAT_core_ok 1 })

/-- CLOCK_MONITOR_FAILURE fails over the islands of a failed source, at once or after ARBITRATION_DONE has judged XO against RC.
RESTORE requests the return of an island, RESTORE_SWITCH makes it after 100 ms.  SUPPLY_FAIL_WARNING saves what a shutdown needs,
SHUTDOWN_CHECK goes on or resets, WARNING_CLEAR ends it; CORE_SUPPLY_FAULT and CORE_SUPPLY_RECOVER change core_ok. -/
def Obligations.ClocksFailOverAndSupplyWarns : Prop :=
  (∀ (s : State) (mon kind : Nat), mon < 7 → 1 ≤ kind → kind ≤ 3 →
    (mon ≤ 1 → kind = 2 → tbit s.m.time.monBad 2 = false → s.m.time.arbitration = none →
      exec (.clockMonitorFailure mon kind) s = .next { s with m := { s.m with time := { s.m.time with arbitration := some (s.m.time.tb, mon) } } }) ∧
    (mon ≤ 1 → kind = 2 → tbit s.m.time.monBad 2 = false → s.m.time.arbitration ≠ none → exec (.clockMonitorFailure mon kind) s = .next s) ∧
    (mon ≤ 1 → kind = 2 → tbit s.m.time.monBad 2 = true →
      exec (.clockMonitorFailure mon kind) s = .next (s.after (s.m.sourceFails 1 2, s.sram))) ∧
    (2 ≤ mon ∨ kind ≠ 2 → exec (.clockMonitorFailure mon kind) s = .next (s.after (s.m.sourceFails mon kind, s.sram)))) ∧
  (∀ (s : State) (xoOut : Bool), (s.m.time.arbitration = none → exec (.arbitrationDone xoOut) s = .next s) ∧
    (s.m.time.arbitration ≠ none → exec (.arbitrationDone xoOut) s = .next (s.after
      (({ s.m with time := { s.m.time with arbitration := none } } : M).sourceFails (if xoOut then 0 else 1) 2, s.sram)))) ∧
  (∀ (m : M) (mon kind : Nat), mon < 7 → kind < 4 → ∃ t : M,
    m.sourceFails mon kind = ((sourceIslands mon).foldl (fun a i => a.islandFails i mon kind) t).showClocks ∧
    t.bitOf F.TIM_MON_EVT_fail mon = true ∧ t.bit F.TIM_MON_INFO_valid = true ∧ t.get F.TIM_MON_INFO_kind = kind ∧ t.get F.TIM_MON_INFO_monitor = mon ∧
    t.bitOf F.EVC_PEND_pend 1 = true ∧ t.get F.TIM_CLK_STAT_fo = m.get F.TIM_CLK_STAT_fo ∧ t.time.monBad = Nat.lor m.time.monBad (failsWith mon) ∧
    t.time.tb = m.time.tb) ∧
  sourceIslands 0 = [0, 1, 2, 3, 4] ∧ sourceIslands 1 = [] ∧ sourceIslands 2 = [5] ∧ sourceIslands 3 = [0] ∧ sourceIslands 4 = [1] ∧
  sourceIslands 5 = [3] ∧ sourceIslands 6 = [4] ∧
  (∀ (m : M) (i mon kind : Nat), i < 6 → (m.bitOf F.TIM_CLK_STAT_fo i = true → m.islandFails i mon kind = m) ∧
    (m.bitOf F.TIM_CLK_STAT_fo i = false → ∃ t : M, t.bitOf F.TIM_CLK_STAT_fo i = true ∧
      (∀ j, j < 6 → j ≠ i → t.bitOf F.TIM_CLK_STAT_fo j = m.bitOf F.TIM_CLK_STAT_fo j) ∧ t.power = { m.power with windowDirty := true } ∧
      (i = 0 → m.islandFails i mon kind = t.rampBack 6) ∧
      (i = 1 → m.islandFails i mon kind = (([0, 1].foldl (fun a x => if a.ethState x = 2 then a.linkLoss x else a) t)).tetherFalls) ∧
      (i = 2 → m.islandFails i mon kind = if m.ethState 2 = 2 then t.linkLoss 2 else t) ∧
      (i = 3 → ∀ n, n < 8 → (m.islandFails i mon kind).canState n = (if m.canState n = canOff then canOff else canIntegrating) ∧
        (m.canState n ≠ canOff → n < m.can.length → ((m.islandFails i mon kind).canBox n).asleep = none ∧
          ((m.islandFails i mon kind).canBox n).onBus = none)) ∧
      (i = 4 → m.mtrRuns = true →
        m.islandFails i mon kind = (({ t with mtr := { t.mtr with stream := allInputs, condition := allInputs } } : M).showClock).showFaults) ∧
      (i = 4 → m.mtrRuns = false → m.islandFails i mon kind = t) ∧
      (i = 5 → m.islandFails i mon kind = t.setOsf))) ∧
  (∀ (m : M), (∀ i, i < 6 → m.showClocks.bitOf F.TIM_CLK_STAT_ok i = (!m.bitOf F.TIM_CLK_STAT_fo i && !tbit m.time.monBad (islandMonitor i))) ∧
    m.showClocks.get F.TIM_CLK_STAT_fo = m.get F.TIM_CLK_STAT_fo ∧ m.showClocks.get F.TIM_CLK_STAT_pend = m.get F.TIM_CLK_STAT_pend ∧
    m.showClocks.bit F.TIM_CLK_STAT_xo_ok = (!tbit m.time.monBad 0) ∧ m.showClocks.bit F.TIM_CLK_STAT_rc_ok = (!tbit m.time.monBad 1) ∧
    m.showClocks.bit F.TIM_CLK_STAT_xr_ok = (!tbit m.time.monBad 2 && !m.bit F.RTC_STAT_osf)) ∧
  (∀ (s : State) (by_ : Master) (w : Who) (bits : Nat), bits < 64 → s.m.accepts by_ w (Reg.TIM_CLK_CMD.addr 0 0 0) true →
    s.does (.restore by_ bits) (fun e => e.restoreRequest bits)) ∧
  (∀ (m : M) (bits i : Nat), i < 6 →
    (m.restoreRequest bits).bitOf F.TIM_CLK_STAT_pend i = (m.bitOf F.TIM_CLK_STAT_pend i || (tbit bits i && m.bitOf F.TIM_CLK_STAT_fo i)) ∧
    (m.restoreRequest bits).get F.TIM_CLK_STAT_fo = m.get F.TIM_CLK_STAT_fo ∧
    aget i (m.restoreRequest bits).time.goodSince =
      (if tbit bits i = true ∧ m.bitOf F.TIM_CLK_STAT_fo i = true then some m.time.tb else aget i m.time.goodSince)) ∧
  (∀ (s : State) (i : Nat), i < 6 →
    (s.m.bitOf F.TIM_CLK_STAT_pend i = false ∨ (∀ a, aget i s.m.time.goodSince = some a → s.m.time.tb < a + 100000000) →
      exec (.restoreSwitch i) s = .next s) ∧
    (∀ a, s.m.bitOf F.TIM_CLK_STAT_pend i = true → aget i s.m.time.goodSince = some a → a + 100000000 ≤ s.m.time.tb → ∃ t : M,
      t.bitOf F.TIM_CLK_STAT_fo i = false ∧ t.bitOf F.TIM_CLK_STAT_pend i = false ∧ tbit t.time.monBad (islandMonitor i) = false ∧
      (∀ j, j < 6 → j ≠ i → t.bitOf F.TIM_CLK_STAT_fo j = s.m.bitOf F.TIM_CLK_STAT_fo j ∧ t.bitOf F.TIM_CLK_STAT_pend j = s.m.bitOf F.TIM_CLK_STAT_pend j) ∧
      exec (.restoreSwitch i) s = .next (s.after ((if i = 4 then t.showClock.showFaults else t).showClocks, s.sram)))) ∧
  (∀ (s : State) (vin : Nat), vin < 4096 →
    (s.m.bit F.PMC_SUP_STAT_warn = true ∨ 1750 ≤ vin →
      exec (.supplyFailWarning vin) s = .next { s with m := s.m.put F.PMC_SUP_STAT_vin vin }) ∧
    (s.m.bit F.PMC_SUP_STAT_warn = false → vin < 1750 → ∃ t : M, t.bit F.PMC_SUP_STAT_warn = true ∧ t.get F.PMC_SUP_STAT_vin = vin ∧ t.bit F.PMC_EVT_warn = true ∧
      t.boot = { s.m.boot with shutdown := some (s.m.time.tb, false), epochSaved := s.m.get F.IBX_EPOCH_epoch } ∧
      t.pts.retention = (s.m.pts.points.filter (fun p => p.2.retain)).map (fun p => (p.1, s.m.timerValue p.1 p.2)) ∧
      t.pts.forceStore = s.m.pts.forceStore.filter (fun f => (aget f.point s.m.pts.forceDrops).isNone) ∧
      t.mtr.saved = (if s.m.domainOn 11 = true then some ⟨s.m.mtr.circuits⟩ else s.m.mtr.saved) ∧
      t.power = (s.m.rampBack 5).power ∧
      (s.m.boot.phase ≠ .rising → exec (.supplyFailWarning vin) s = .next (s.after (t, s.sram))) ∧
      (s.m.boot.phase = .rising → exec (.supplyFailWarning vin) s = .next (s.after (t.bootFail 0x0D, s.sram)))) ∧
    (s.m.boot.shutdown = none → exec (.shutdownCheck vin) s = .next s) ∧
    (s.m.boot.shutdown ≠ none → 1750 ≤ vin → exec (.shutdownCheck vin) s = .next { s with
      m := ({ s.m with boot := { s.m.boot with shutdown := none } } : M).put F.PMC_SUP_STAT_vin vin }) ∧
    (s.m.boot.shutdown ≠ none → vin < 1750 → ∃ q t : M,
      q = (({ s.m with boot := { s.m.boot with shutdown := none } } : M).put F.PMC_SUP_STAT_vin vin).releaseNow.lioEnable false ∧
      t = ({ q with boot := { q.boot with marker := true } } : M).applyReset 1 true ∧ t.boot.marker = true ∧ t.boot.mgmt = false ∧
      t.get F.SYS_RST_STAT_cause = 1 ∧ t.get F.SYS_RST_STAT_count = 0 ∧
      exec (.shutdownCheck vin) s = .next (s.after ({ t with boot := { t.boot with phase := .held } }, s.sram))) ∧
    (1850 ≤ vin → exec (.warningClear vin) s = .next { s with m := (s.m.put F.PMC_SUP_STAT_vin vin).put F.PMC_SUP_STAT_warn 0 }) ∧
    (vin < 1850 → exec (.warningClear vin) s = .next { s with m := s.m.put F.PMC_SUP_STAT_vin vin })) ∧
  (∀ (s : State),
    ((∃ f a b, s.m.power.busy = .raising f a b) ∨ (∃ f, s.m.power.busy = .lowering f) ∨ s.m.bit F.PMC_SUP_STAT_core_ok = false →
      exec .coreSupplyFault s = .next s) ∧
    ((∀ f a b, s.m.power.busy ≠ .raising f a b) → (∀ f, s.m.power.busy ≠ .lowering f) → s.m.bit F.PMC_SUP_STAT_core_ok = true →
      exec .coreSupplyFault s = .next (s.after ((s.m.put F.PMC_SUP_STAT_core_ok 0).flag F.PMC_EVT_core 0x21, s.sram))) ∧
    exec .coreSupplyRecover s = .next { s with m := s.m.put F.PMC_SUP_STAT_core_ok 1 })

/-! ### Krovtan (chapter 10) -/

/-- A packet is for the module when its port is UP and takes its frame for a network whose address it names (which frame stands for a packet
is the model's choice, log 106); another changes nothing but the port's counts, one that is malformed or names no session is counted and
dropped.  OPEN past its checks reserves a place and answers with session ID, salt, iterations and nonce; PROOF opens the session of a tenant of
the network or fails it; AUTH_ANSWER, PROOF_TIMEOUT, ACCOUNT_UNLOCK and SESSION_IDLE_TIMEOUT act when their time has passed. -/
def Obligations.SessionsOpenAndClose : Prop :=
  (∀ (m : M) (p : KrovPacket) (net : Nat), (m.listens p).1 = some net → m.ethState p.port = 2 ∧ m.frameNet p.port p.vid .other = some net ∧
    p.dst ∈ m.addressesOf (if p.port = 2 then 2 else 0) net ∧ (p.port ≠ 2 → m.ibx.addresses = true ∧ m.boot.phase ≠ .recovery)) ∧
  (∀ (s : State) (c : Instr) (op net : Nat) (p : KrovPacket) (x : M), krovSent c op p →
    (s.m.listens p = (none, x) → s.leaves c x) ∧
    (s.m.listens p = (some net, x) → p.formed op = false → s.leaves c x.dropHeader) ∧
    (s.m.listens p = (some net, x) → p.formed op = true → op ≠ 1 ∨ p.session ≠ 0 → x.placeOf p.session = none → s.leaves c x.dropNoSession)) ∧
  (∀ (s : State) (p : KrovPacket) (net : Nat) (x : M) (wrong : Bool), s.m.listens p = (some net, x) → p.formed 1 = true → p.session = 0 →
    wrong = decide (¬ (p.status = 0 ∧ p.payload.length = 24 ∧ be p.payload 2 2 ≤ 1 ∧
      (be p.payload 4 2 = 0 ∨ (10 ≤ be p.payload 4 2 ∧ be p.payload 4 2 ≤ 3600)) ∧ be p.payload 6 2 = 0)) →
    (p.mac ≠ zeroMac → s.leaves (.open_ p) x.dropNoSession) ∧
    (p.mac = zeroMac → p.tag = 0 → s.leaves (.open_ p) x) ∧
    (p.mac = zeroMac → p.tag ≠ 0 → wrong = true →
      s.leaves (.open_ p) (x.krovSend (p.back net) (openingPacket 0 1 p.tag 6 []))) ∧
    (p.mac = zeroMac → p.tag ≠ 0 → wrong = false → x.sessionsFull (((x.accountFor (be p.payload 0 2)).map Account.tenant).getD 0) = true →
      s.leaves (.open_ p) (x.krovSend (p.back net) (openingPacket 0 1 p.tag 5 []))) ∧
    (p.mac = zeroMac → p.tag ≠ 0 → wrong = false → x.sessionsFull (((x.accountFor (be p.payload 0 2)).map Account.tenant).getD 0) = false →
      ∃ (place id kind iterations : Nat) (salt : Bytes) (y : Session), place < 32 ∧ aget place x.krov.sessions = none ∧ 1 ≤ id ∧ id ≤ 65535 ∧
        x.placeOf id = none ∧ y.id = id ∧ y.place = .opening (x.time.tb + 5000000000) ∧ y.account = be p.payload 0 2 ∧
        y.port = p.cls ∧ y.net = net ∧ y.vid = p.vid ∧ y.client = p.src ∧ y.clientUdp = p.srcUdp ∧
        y.enc = tbit (be p.payload 2 2) 0 ∧ y.cnonce = slice p.payload 8 16 ∧
        y.mnonce = randomBytes x.rnd 4 ∧ y.idle = (if be p.payload 4 2 = 0 then 60 else be p.payload 4 2) ∧
        (kind, iterations, salt) = (match (x.accountFor (be p.payload 0 2)).filter (fun a => tbit a.flags 0) with
          | some a => (a.kind, a.verifier.iterations, padTo 16 a.verifier.salt)
          | none => (1, 200000, x.hiddenSalt (be p.payload 0 2))) ∧
        s.leaves (.open_ p) (({ x with
            free := x.free + 1
            rnd := x.rnd + 4
            krov := { x.krov with sessions := aput place y x.krov.sessions } } : M).krovSend (p.back net)
            (openingPacket 0 1 p.tag 0 (toBE 2 id ++ toBE 1 kind ++ toBE 1 0 ++ toBE 4 iterations ++ salt ++ y.mnonce))))) ∧
  (∀ (m : M) (net tenant : Nat), (m.mayOpen 0 net tenant = true ↔ tenant ≤ 250 ∧ tenant = net) ∧
    (m.mayOpen 1 net tenant = true ↔ tenant = 0 ∨ (tenant = 255 ∧ (tbit m.gates 2 = true ∨ m.boot.phase = .recovery)))) ∧
  (∀ (s : State) (p : KrovPacket) (place since net : Nat) (x : M) (y z : Session), s.m.listens p = (some net, x) → p.formed 2 = true →
    p.session ≠ 0 → x.placeOf p.session = some (place, y) → y.place = .opening since → y.stands p net = true → p.enc = false →
    z = y.heardFrom p →
    (p.sequence ≠ 0 → s.leaves (.proof p) (x.setSession place { z with cntSeq := satCount z.cntSeq })) ∧
    (p.sequence = 0 → p.mac ≠ zeroMac → s.leaves (.proof p) (x.setSession place { z with cntMac := satCount z.cntMac })) ∧
    (p.sequence = 0 → p.mac = zeroMac → p.tag = 0 → s.leaves (.proof p) (x.setSession place { z with cntTag := satCount z.cntTag })) ∧
    (p.sequence = 0 → p.mac = zeroMac → p.tag ≠ 0 → p.status ≠ 0 ∨ p.payload.length ≠ 32 →
      s.leaves (.proof p) (({ x with krov := { x.krov with sessions := adel place x.krov.sessions } } : M).krovSend z.route
        (openingPacket z.id 2 p.tag 6 []))) ∧
    (p.sequence = 0 → p.mac = zeroMac → p.tag ≠ 0 → p.status = 0 → p.payload.length = 32 → ∀ (a : Account) (client : Bytes),
      x.accountFor z.account = some a → client = xorBytes p.payload (digestBytes (Config.hmac a.verifier.storedKey z.auth)) →
      ((digestBytes (Config.sha256 client) = a.verifier.storedKey ∧ (∀ u, aget z.account x.krov.lockUntil = some u → u ≤ x.time.tb) ∧
        tbit a.flags 0 = true ∧ x.mayOpen z.port z.net a.tenant = true ∧ (z.enc = true ∨ tbit a.flags 1 = false)) →
        s.leaves (.proof p) (x.openingDone place p.tag z a client)) ∧
      ((digestBytes (Config.sha256 client) ≠ a.verifier.storedKey ∨ (∃ u, aget z.account x.krov.lockUntil = some u ∧ x.time.tb < u) ∨
        tbit a.flags 0 = false ∨ x.mayOpen z.port z.net a.tenant = false ∨ (z.enc = false ∧ tbit a.flags 1 = true)) →
        s.leaves (.proof p) (x.openingFails place p.tag z))) ∧
    (p.sequence = 0 → p.mac = zeroMac → p.tag ≠ 0 → p.status = 0 → p.payload.length = 32 → x.accountFor z.account = none →
        s.leaves (.proof p) (x.openingFails place p.tag z))) ∧
  (∀ (m : M) (place tag : Nat) (x : Session) (a : Account) (client : Bytes), ∃ y : Session,
    y.place = .open ∧ y.id = x.id ∧ y.tenant = a.tenant ∧ y.role = roleOf a.role ∧ y.keyMac = (sessionKeys x client).1 ∧
    y.keyEnc = (sessionKeys x client).2 ∧ y.txSeq = 1 ∧ y.lastAt = m.time.tb ∧ y.enc = x.enc ∧
    m.openingDone place tag x a client = ({ m with krov := { m.krov with
        failRun := adel x.account m.krov.failRun
        sessions := aput place y m.krov.sessions } } : M).krovSend x.route (({ y with enc := false }).packet 2 tag 0 1 1
      (digestBytes (Config.hmac a.verifier.serverKey x.auth) ++ toBE 1 a.tenant ++ toBE 1 a.role ++ toBE 2 x.idle ++ toBE 2 32 ++ toBE 2 0))) ∧
  (∀ (m : M) (place tag n : Nat) (x : Session), n = getd 0 x.account m.krov.failRun + 1 →
    aget place (m.openingFails place tag x).krov.sessions = some { x with place := .failing (m.time.tb + 250000000) tag } ∧
    (n ≠ 5 → aget x.account (m.openingFails place tag x).krov.failRun = some n ∧
      (m.openingFails place tag x).krov.lockUntil = m.krov.lockUntil) ∧
    (n = 5 → aget x.account (m.openingFails place tag x).krov.failRun = some 0 ∧
      aget x.account (m.openingFails place tag x).krov.lockUntil = some (m.time.tb + 60000000000))) ∧
  (∀ (s : State) (place : Nat) (x : Session), place < 32 → aget place s.m.krov.sessions = some x →
    (∀ t tag, x.place = .failing t tag → t ≤ s.m.time.tb → s.leaves (.authAnswer place)
      (({ s.m with krov := { s.m.krov with sessions := adel place s.m.krov.sessions } } : M).krovSend x.route
        (openingPacket x.id 2 tag 8 []))) ∧
    ((∀ t tag, x.place = .failing t tag → s.m.time.tb < t) → exec (.authAnswer place) s = .next s) ∧
    (∀ t, x.place = .opening t → t ≤ s.m.time.tb → exec (.proofTimeout place) s = .next { s with
      m := { s.m with krov := { s.m.krov with sessions := adel place s.m.krov.sessions } } }) ∧
    ((∀ t, x.place = .opening t → s.m.time.tb < t) → exec (.proofTimeout place) s = .next s) ∧
    (x.place = .open → x.lastAt + x.idle * 1000000000 ≤ s.m.time.tb →
      exec (.sessionIdleTimeout place) s = .next (s.after (s.m.closeAt place 2, s.sram))) ∧
    (x.place ≠ .open ∨ s.m.time.tb < x.lastAt + x.idle * 1000000000 → exec (.sessionIdleTimeout place) s = .next s)) ∧
  (∀ (s : State) (n : Nat), n < 65536 →
    (∀ u, aget n s.m.krov.lockUntil = some u → u ≤ s.m.time.tb → exec (.accountUnlock n) s = .next { s with
      m := { s.m with krov := { s.m.krov with lockUntil := adel n s.m.krov.lockUntil } } }) ∧
    ((∀ u, aget n s.m.krov.lockUntil = some u → s.m.time.tb < u) → exec (.accountUnlock n) s = .next s))

/-- Closing a session frees its place, drops its transfers and subscriptions and writes one log entry; a request on an open session
with a number outside the window, a wrong MAC or tag 0 is counted and dropped; a repeated one is answered again; a new one is
answered RESOURCE beyond the limits of transactions in flight, or OPCODE, RIGHTS or INVAL, in this order, before its payload is looked at; an
answer that waits for its time or for a change frame leaves when neither stands in its way (that it waits so is the model's choice, logs
67 and 68); CLOSE ends the session after its response. -/
def Obligations.RequestsAreCheckedInOrder : Prop :=
  (∀ (m : M) (place reason : Nat) (x : Session), aget place m.krov.sessions = some x →
    (m.closeAt place reason).krov.sessions = adel place m.krov.sessions ∧
    (m.closeAt place reason).krov.transfers = m.krov.transfers.filter (fun t => !(t.2.session == x.id)) ∧
    (x.place = .open → (m.closeAt place reason).pts.subs = m.pts.subs.filter (fun u => !(u.session == x.id)) ∧
      (m.closeAt place reason).pts.notes = adel x.id m.pts.notes)) ∧
  (∀ (x : Session) (n k : Nat), (x.mark n).accepts n = false ∧ (x.rxHigh < n → x.accepts n = true ∧ (x.mark n).rxHigh = n) ∧
    (n + 64 < x.rxHigh → x.accepts n = false) ∧ (n < x.rxHigh → k ≠ n → (x.mark n).accepts k = x.accepts k) ∧
    (x.rxHigh < n → k < x.rxHigh → n ≤ k + 64 → (x.mark n).accepts k = x.accepts k) ∧
    (x.rxHigh < n → (x.mark n).accepts x.rxHigh = false) ∧
    (x.rxHigh < k → k < n → n ≤ k + 64 → (x.mark n).accepts k = true)) ∧
  (∀ (st : State) (c : Instr) (op net : Nat) (p : KrovPacket) (place : Nat) (s : Session) (x : M), krovSent c op p →
    st.m.heard op p place net s → x = (st.m.listens p).2 →
    (op = 2 ∨ s.accepts p.sequence = false → st.leaves c (x.setSession place { s with cntSeq := satCount s.cntSeq })) ∧
    (op ≠ 2 → s.accepts p.sequence = true → s.plainOf op p = none → st.leaves c (x.setSession place { s with cntMac := satCount s.cntMac })) ∧
    (op ≠ 2 → s.accepts p.sequence = true → ∀ (plain : Bytes) (t : Session), s.plainOf op p = some plain →
      t = { (s.mark p.sequence).heardFrom p with lastAt := x.time.tb } →
      (p.tag = 0 ∨ x.tagInFlight s.id p.tag = true → st.leaves c (x.setSession place { t with cntTag := satCount t.cntTag })) ∧
      (p.tag ≠ 0 → x.tagInFlight s.id p.tag = false → p.retry = true → x.completed t p.tag →
        (∀ k, t.kept.find? (fun k => k.tag == p.tag) = some k →
          st.leaves c (((x.setSession place t).sendResponse place k.opcode k.tag k.status k.payload).closeExhausted place)) ∧
        (t.kept.find? (fun k => k.tag == p.tag) = none →
          st.leaves c (((x.setSession place t).sendResponse place op p.tag 14 []).closeExhausted place))) ∧
      (p.tag ≠ 0 → x.tagInFlight s.id p.tag = false → p.retry = false ∨ ¬ x.completed t p.tag →
        (x.setSession place t).transactionsFull t.id = true →
          st.leaves c (((x.setSession place t).sendResponse place op p.tag 5 []).closeExhausted place)))) ∧
  (∀ (m : M) (session : Nat), m.transactionsFull session = true ↔
    32 ≤ (m.krov.held.filter (fun h => h.session.any (fun x => x.1 == session))).length ∨ 256 < m.inFlight) ∧
  (∀ (st : State) (c : Instr) (op : Nat) (p : KrovPacket) (place : Nat) (t : Session) (w : Who) (plain : Bytes) (b : Bus),
    krovSent c op p → st.requests op p place t w plain b →
    (c = .reservedOpcode op p ∨ op = 1 → st.answers c op p place t b 7 [] b) ∧
    (st.m.boot.phase = .recovery → recoveryOpcode op plain = false → st.answers c op p place t b 7 [] b) ∧
    (st.m.boot.phase ≠ .recovery → (c, op) ∈ krovRows p → op ≠ 1 → ¬ t.opcodeRights op → st.answers c op p place t b 3 [] b) ∧
    (st.m.boot.phase ≠ .recovery → (c, op) ∈ krovRows p → op ≠ 1 → t.opcodeRights op → p.status ≠ 0 → st.answers c op p place t b 6 [] b)) ∧
  (∀ (st : State) (p : KrovPacket) (place : Nat) (t : Session) (w : Who) (plain : Bytes) (b : Bus), st.serves 3 p place t w plain b →
    (plain = [] → st.answers (.close_ p) 3 p place t b 0 [] b .close) ∧ (plain ≠ [] → st.answers (.close_ p) 3 p place t b 6 [] b)) ∧
  (∀ (m : M) (place op tag status : Nat) (plain : Bytes) (x : Session), aget place m.krov.sessions = some x →
    ∃ y : Session, y.id = x.id ∧ y.txSeq = x.txSeq + 1 ∧ y.rxHigh = x.rxHigh ∧ y.rxMap = x.rxMap ∧ y.kept.head? = some ⟨tag, op, status, plain⟩ ∧
      y.kept.length ≤ 64 ∧ y.doneTags.head? = some (tag, m.time.tb) ∧
      m.respond place op tag status plain = ({ m with krov := { m.krov with sessions := aput place y m.krov.sessions } } : M).krovSend x.route
        (x.packet op tag status 1 (x.txSeq + 1) plain)) ∧
  (∀ (m : M) (place session op tag status : Nat) (payload : Bytes) (after : After),
    (∀ x, aget place m.krov.sessions = some x → x.id = session → m.giveAnswer (.response place session op tag status payload after) =
      ((m.respond place op tag status payload).afterwards place after).closeExhausted place) ∧
    ((∀ x, aget place m.krov.sessions = some x → x.id ≠ session) →
      m.giveAnswer (.response place session op tag status payload .close) = m ∧
      m.giveAnswer (.response place session op tag status payload .nothing) = m) ∧
    m.afterwards place .close = m.closeAt place 1) ∧
  (∀ (m : M) (h : HeldAnswer), (m.mayLeave h = true ↔ h.ready ≤ m.time.tb ∧ ∀ q, h.change = some q → ∀ x ∈ m.tth.changes, x.1 ≠ q) ∧
    (m.krov.held = [h] → m.mayLeave h = true →
      m.releaseAnswers = ({ m with krov := { m.krov with held := [] } } : M).giveAnswer h.what) ∧
    (m.krov.held = [h] → m.mayLeave h = false → m.releaseAnswers = m))

/-- KEEPALIVE answers module time, STATUS the counts (the module's only to a session that stands in no tenant 1 to 250).  POINT_READ and
POINT_WRITE decide each point by itself and answer NOPOINT or the first status that is not OK; SUBSCRIBE and UNSUBSCRIBE change the
session's subscription; FORCE_SET and FORCE_RELEASE act as the force commands under the session's tag, FORCE_LIST shows the forces of the
session's tenant, as many as a response holds; the answers of force requests leave at the completion time of the command, whatever the
outcome.  A malformed payload is answered INVAL and changes nothing. -/
def Obligations.PointRequestsAnswer : Prop :=
  (∀ (st : State) (p : KrovPacket) (place : Nat) (t : Session) (w : Who) (plain : Bytes) (b : Bus), st.serves 4 p place t w plain b →
    (plain = [] → st.answers (.keepalive p) 4 p place t b 0 (toBE 8 b.1.time.tai) b) ∧
    (plain ≠ [] → st.answers (.keepalive p) 4 p place t b 6 [] b)) ∧
  (∀ (st : State) (p : KrovPacket) (place : Nat) (t : Session) (w : Who) (plain : Bytes) (b : Bus) (open_ busy header none_ : Nat),
    st.serves 5 p place t w plain b →
    (open_, busy, header, none_) = (if 1 ≤ t.tenant ∧ t.tenant ≤ 250 then (0, 0, 0, 0)
      else (b.1.openCount, b.1.inFlight, b.1.krov.cntHeader, b.1.krov.cntNoSession)) →
    (plain = [] → st.answers (.status p) 5 p place t b 0 (toBE 1 open_ ++ toBE 1 1 ++ toBE 2 busy ++ toBE 4 header ++ toBE 4 none_ ++
      toBE 4 t.cntSeq ++ toBE 4 t.cntMac ++ toBE 4 t.cntTag) b) ∧
    (plain ≠ [] → st.answers (.status p) 5 p place t b 6 [] b)) ∧
  (∀ (st : State) (p : KrovPacket) (place n : Nat) (ids : List Nat) (t : Session) (w : Who) (plain : Bytes) (b : Bus),
    st.serves 0x10 p place t w plain b → n = be plain 0 2 → ids = (List.range n).map (fun i => be plain (4 + 2 * i) 2) →
    (1 ≤ n → n ≤ 160 → plain.length = 4 + 2 * n → be plain 2 2 = 0 → ∃ m1 : M, m1.krov = b.1.krov ∧ m1.pts.points = b.1.pts.points ∧
      m1.pts.forces = b.1.pts.forces ∧ m1.fab = b.1.fab ∧
      st.answers (.pointRead p) 0x10 p place t b (if ∀ id ∈ ids, b.1.gate w .read id = .granted then 0 else 1)
        (ids.flatMap (fun id => entryBytes (if b.1.gate w .read id = .granted then b.1.pointEntry id else 0xFFFF800000000000).toNat))
        (m1, b.2)) ∧
    (n = 0 ∨ 160 < n ∨ plain.length ≠ 4 + 2 * n ∨ be plain 2 2 ≠ 0 → st.answers (.pointRead p) 0x10 p place t b 6 [] b)) ∧
  (∀ (st : State) (p : KrovPacket) (place n : Nat) (t : Session) (w : Who) (plain : Bytes) (b : Bus) (sts : List Nat) (m1 : M),
    st.serves 0x11 p place t w plain b → n = be plain 0 2 →
    (sts, m1) = (List.range n).foldl (fun (a : List Nat × M) i =>
      (a.1 ++ [(writeOne w t (be plain 2 2 == 1) (slice plain 8 40) (be plain (48 + 8 * i) 2) (BitVec.ofNat 32 (be plain (52 + 8 * i) 4)) a.2).1],
        (writeOne w t (be plain 2 2 == 1) (slice plain 8 40) (be plain (48 + 8 * i) 2) (BitVec.ofNat 32 (be plain (52 + 8 * i) 4)) a.2).2)) ([], b.1) →
    (1 ≤ n → n ≤ 160 → plain.length = 48 + 8 * n → be plain 2 2 ≤ 1 → be plain 4 4 = 0 → (∀ i < n, be plain (50 + 8 * i) 2 = 0) →
      sts.length = n ∧
      st.answers (.pointWrite p) 0x11 p place t b ((sts.find? (fun x => x != 0)).getD 0)
        (toBE 2 n ++ toBE 2 0 ++ sts.flatMap (toBE 2) ++ (if n % 2 = 1 then toBE 2 0 else [])) (m1, b.2)) ∧
    (n = 0 ∨ 160 < n ∨ plain.length ≠ 48 + 8 * n ∨ 1 < be plain 2 2 ∨ be plain 4 4 ≠ 0 ∨ (∃ i < n, be plain (50 + 8 * i) 2 ≠ 0) →
      st.answers (.pointWrite p) 0x11 p place t b 6 [] b)) ∧
  (∀ (m : M) (w : Who) (s : Session) (log : Bool) (head : Bytes) (id : Nat) (v : Word),
    (m.gate w .write id = .granted → (writeOne w s log head id v m).1 = 0 ∧
      (log = false → (writeOne w s log head id v m).2 = (m.writePoint w id v).2)) ∧
    (m.gate w .write id = .readOnly → writeOne w s log head id v m = (2, m)) ∧
    (m.gate w .write id = .absent → writeOne w s log head id v m = (1, m.countNopoint w.tag))) ∧
  (∀ (st : State) (p : KrovPacket) (place id iv : Nat) (band : Word) (t : Session) (w : Who) (plain : Bytes) (b : Bus),
    st.serves 0x20 p place t w plain b → id = be plain 0 2 → iv = be plain 4 4 → band = BitVec.ofNat 32 (be plain 8 4) →
    (plain.length ≠ 12 ∨ be plain 2 2 ≠ 0 ∨ iv = 0 ∨ 60000 < iv → st.answers (.subscribe p) 0x20 p place t b 6 [] b) ∧
    (plain.length = 12 → be plain 2 2 = 0 → 1 ≤ iv → iv ≤ 60000 →
      (b.1.gate w .subscribe id = .absent → st.answers (.subscribe p) 0x20 p place t b 1 [] (b.1.countNopoint w.tag, b.2)) ∧
      (b.1.gate w .subscribe id = .readOnly → st.answers (.subscribe p) 0x20 p place t b 2 [] b) ∧
      (∀ x, b.1.gate w .subscribe id = .granted → b.1.point id = some x → x.kind ≠ 3 → be plain 8 4 ≠ 0 →
        st.answers (.subscribe p) 0x20 p place t b 6 [] b) ∧
      (∀ x, b.1.gate w .subscribe id = .granted → b.1.point id = some x → (x.kind = 3 ∨ be plain 8 4 = 0) →
        ((∃ u ∈ b.1.pts.subs, u.session = t.id ∧ u.point = id) →
          st.answers (.subscribe p) 0x20 p place t b 0 [] ({ b.1 with pts := { b.1.pts with subs := b.1.pts.subs.map (fun u =>
            if u.session = t.id ∧ u.point = id then { u with
              interval := iv
              deadband := if x.kind = 3 then band else 0 } else u) } }, b.2)) ∧
        ((∀ u ∈ b.1.pts.subs, u.session = t.id → u.point ≠ id) →
          (8192 ≤ b.1.pts.subs.length ∨ 1024 ≤ (b.1.pts.subs.filter (fun u => u.session == t.id)).length →
            st.answers (.subscribe p) 0x20 p place t b 5 [] b) ∧
          (b.1.pts.subs.length < 8192 → (b.1.pts.subs.filter (fun u => u.session == t.id)).length < 1024 →
            st.answers (.subscribe p) 0x20 p place t b 0 [] ({ b.1 with pts := { b.1.pts with subs := b.1.pts.subs ++
              [⟨t.id, id, if x.kind = 3 then band else 0, iv, (b.1.shown id x).1, (b.1.shown id x).2, b.1.time.tb, false, false⟩] } }, b.2)))))) ∧
  (∀ (st : State) (p : KrovPacket) (place : Nat) (t : Session) (w : Who) (plain : Bytes) (b : Bus), st.serves 0x21 p place t w plain b →
    (plain.length = 4 → be plain 2 2 = 0 → st.answers (.unsubscribe p) 0x21 p place t b 0 [] ({ b.1 with pts := { b.1.pts with
      subs := b.1.pts.subs.filter (fun u => !(u.session == t.id && u.point == be plain 0 2))
      notes := amod t.id (fun q => q.filter (fun x => !(x.point == be plain 0 2))) b.1.pts.notes } }, b.2)) ∧
    (plain.length ≠ 4 ∨ be plain 2 2 ≠ 0 → st.answers (.unsubscribe p) 0x21 p place t b 6 [] b)) ∧
  (∀ (st : State) (p : KrovPacket) (place id op due : Nat) (c : Instr) (t : Session) (w : Who) (plain : Bytes) (b : Bus),
    (c, op) ∈ [(Instr.forceSet p, 0x30), (.forceRelease p, 0x31)] → st.serves op p place t w plain b → id = be plain 0 2 →
    due = b.1.ptdDue (op == 0x30 && be plain 2 2 == 1) →
    (op = 0x30 → plain.length ≠ 8 ∨ 1 < be plain 2 2 → st.answers c op p place t b 6 [] b) ∧
    (op = 0x31 → plain.length ≠ 4 ∨ be plain 2 2 ≠ 0 → st.answers c op p place t b 6 [] b) ∧
    ((op = 0x30 → plain.length = 8 ∧ be plain 2 2 ≤ 1) → (op = 0x31 → plain.length = 4 ∧ be plain 2 2 = 0) →
      (b.1.sees w id = false → st.answers c op p place t b 1 [] (b.1.countNopoint w.tag, b.2) .nothing due) ∧
      (b.1.sees w id = true → b.1.mayForce w id = false → st.answers c op p place t b 2 [] b .nothing due) ∧
      (b.1.sees w id = true → b.1.mayForce w id = true →
        (op = 0x30 → b.1.forceOf id = none → 1024 ≤ b.1.pts.forces.length → st.answers c op p place t b 5 [] b .nothing due) ∧
        (op = 0x30 → (b.1.forceOf id ≠ none ∨ b.1.pts.forces.length < 1024) → ∀ i m1, m1 = (b.1.forceSet w id (BitVec.ofNat 32 (be plain 4 4)) (be plain 2 2 == 1)).2.2 →
          i = (b.1.forceSet w id (BitVec.ofNat 32 (be plain 4 4)) (be plain 2 2 == 1)).2.1.getD 0 → st.answers c op p place t b 0 (toBE 2 i ++ toBE 2 0) (m1, b.2) .nothing due) ∧
        (op = 0x31 → b.1.forceOf id = none → st.answers c op p place t b 10 [] b .nothing due) ∧
        (op = 0x31 → b.1.forceOf id ≠ none → st.answers c op p place t b 0 [] ((b.1.forceRelease w id).2, b.2) .nothing due)))) ∧
  (∀ (st : State) (p : KrovPacket) (place : Nat) (t : Session) (w : Who) (plain : Bytes) (b : Bus) (mine : List (Nat × ForceRec)),
    st.serves 0x32 p place t w plain b →
    mine = b.1.pts.forces.filter (fun f => be plain 0 2 ≤ f.1 && ((b.1.point f.2.point).map PointRec.owner) == some t.tenant) →
    (plain.length = 4 → be plain 2 2 = 0 → st.answers (.forceList p) 0x32 p place t b 0 ((mine.take 58).flatMap (fun f =>
      toBE 2 f.1 ++ toBE 2 f.2.point ++ toBE 1 (b2n f.2.persist) ++ toBE 1 f.2.tenant ++ toBE 1 f.2.role ++ toBE 1 0 ++ toBE 4 f.2.value.toNat ++
      toBE 4 (b.1.requestedNow f.2).toNat ++ toBE 8 f.2.tai)) b) ∧
    (plain.length ≠ 4 ∨ be plain 2 2 ≠ 0 → st.answers (.forceList p) 0x32 p place t b 6 [] b))

/-- DIR_READ, DIR_WRITE, DIR_DELETE, SHARE_READ and SHARE_WRITE act as the directory and share-list commands under the session's tag, beside the
PTD registers, and their answers leave at a command's completion time (the model's choice, logs 68 and 95).
REG_READ and REG_WRITE access words in order up to the first refusal.  NET_GET shows the settings, NET_SET checks all records and applies
them after its response; ACCOUNT_READ shows a record the session reaches, ACCOUNT_WRITE needs an encrypted session. -/
def Obligations.DirectoryAndAccountRequestsAnswer : Prop :=
  (∀ (st : State) (p : KrovPacket) (place op due code : Nat) (c : Instr) (t : Session) (w : Who) (plain : Bytes) (b : Bus),
    (c, op) ∈ [(Instr.dirRead p, 0x40), (.dirDelete p, 0x42), (.shareRead p, 0x43), (.accountRead p, 0x80)] → st.serves op p place t w plain b →
    due = b.1.ptdDue false →
    code = (if ¬ (w.tag = .system ∨ w.tag.owner0 = true) then 2 else if be plain 0 2 = 0xFFFF then 5
      else if b.1.forceOf (be plain 0 2) ≠ none then 4 else if b.1.dirHeld = true ∧ b.1.point (be plain 0 2) ≠ none then 1 else 0) →
    (plain.length ≠ 4 ∨ be plain 2 2 ≠ 0 → st.answers c op p place t b 6 [] b) ∧
    (plain.length = 4 → be plain 2 2 = 0 →
      (op = 0x40 → st.answers c op p place t b 0 (toBE 4 (b.1.dirRead w (be plain 0 2)).2.toNat ++ toBE 4 (b.1.dirRead w (be plain 0 2)).1.toNat) b .nothing due) ∧
      (op = 0x42 → code = 0 →
        st.answers c op p place t b 0 [] (((b.1.removeEntry (be plain 0 2)).sendChange (.directoryDelete (be plain 0 2))).2, b.2) .nothing due) ∧
      (op = 0x42 → code ≠ 0 →
        st.answers c op p place t b (if code = 1 then 4 else if code = 2 then 3 else if code = 4 then 9 else 6) [] b .nothing due) ∧
      (op = 0x43 → be plain 0 2 = 0 ∨ 4096 ≤ be plain 0 2 → st.answers c op p place t b 6 [] b) ∧
      (op = 0x43 → 1 ≤ be plain 0 2 → be plain 0 2 < 4096 → st.answers c op p place t b 0 (toBE 1 (b.1.shareRead w (be plain 0 2) 0).1 ++ toBE 1 0 ++
        (List.range 8).flatMap (fun k => toBE 2 (b.1.shareRead w (be plain 0 2) k).2)) b .nothing due) ∧
      (op = 0x80 → 255 < be plain 0 2 → st.answers c op p place t b 6 [] b) ∧
      (op = 0x80 → be plain 0 2 ≤ 255 → ∀ a, aget (be plain 0 2) b.1.krov.accounts = some a → t.role = .owner →
        (if t.tenant = 0 then a.tenant ≤ 250 else a.tenant = t.tenant) → st.answers c op p place t b 0 (a.head (be plain 0 2)) b) ∧
      (op = 0x80 → be plain 0 2 ≤ 255 → (∀ a, aget (be plain 0 2) b.1.krov.accounts = some a → t.role ≠ .owner ∨
        (if t.tenant = 0 then 250 < a.tenant else a.tenant ≠ t.tenant)) → st.answers c op p place t b 0 (List.replicate 28 0) b))) ∧
  (∀ (st : State) (p : KrovPacket) (place : Nat) (t : Session) (w : Who) (plain : Bytes) (b : Bus) (e due : Nat) (m1 : M),
    due = b.1.ptdDue false →
    (st.serves 0x41 p place t w plain b → (plain.length ≠ 12 ∨ be plain 2 2 ≠ 0 → st.answers (.dirWrite p) 0x41 p place t b 6 [] b) ∧
      (plain.length = 12 → be plain 2 2 = 0 →
        b.1.dirWrite w (be plain 0 2) (BitVec.ofNat 32 (be plain 8 4)) (BitVec.ofNat 32 (be plain 4 4)) = (e, m1) →
        st.answers (.dirWrite p) 0x41 p place t b (if e = 0 then 0 else if e = 1 then 4 else if e = 2 then 3 else if e = 3 then 11 else
          if e = 4 then 9 else if e = 5 then 6 else if e = 6 then 5 else 10) [] (m1, b.2) .nothing due)) ∧
    (st.serves 0x44 p place t w plain b →
      (plain.length ≠ 8 ∨ be plain 6 2 ≠ 0 ∨ 8 ≤ be plain 2 1 → st.answers (.shareWrite p) 0x44 p place t b 6 [] b) ∧
      (plain.length = 8 → be plain 6 2 = 0 → be plain 2 1 < 8 →
        b.1.shareWrite w (be plain 0 2) (be plain 2 1) (be plain 3 1) (be plain 4 2) = (e, m1) →
        st.answers (.shareWrite p) 0x44 p place t b (if e = 0 then 0 else if e = 2 then 3 else 6) [] (m1, b.2) .nothing due))) ∧
  (∀ (m : M) (w : Who) (list slot owner grant : Nat), (m.shareWrite w list slot owner grant).1 ∈ [0, 2, 5]) ∧
  (∀ (st : State) (p : KrovPacket) (place a n : Nat) (t : Session) (w : Who) (plain : Bytes) (b : Bus), st.serves 0x50 p place t w plain b →
    a = be plain 0 4 → n = be plain 4 2 →
    (plain.length ≠ 8 ∨ n = 0 ∨ 256 < n ∨ be plain 6 2 ≠ 0 → st.answers (.regRead p) 0x50 p place t b 6 [] b) ∧
    (plain.length = 8 → 1 ≤ n → n ≤ 256 → be plain 6 2 = 0 →
      ((∃ i < n, b.1.tenantBarred w (a + 4 * i) = true) → st.answers (.regRead p) 0x50 p place t b 3 [] b) ∧
      ((∀ i < n, b.1.tenantBarred w (a + 4 * i) = false) → st.answers (.regRead p) 0x50 p place t b
        (if (readWords w a n b).2.1 then 12 else 0) (readWords w a n b).1 (readWords w a n b).2.2))) ∧
  (∀ (w : Who) (a n : Nat) (b c : Bus), (∀ r, busRead b w a 4 = (.error r, c) → readWords w a (n + 1) b = ([], true, c)) ∧
    (∀ x, busRead b w a 4 = (.ok x, c) → readWords w a (n + 1) b = (toBE 4 x ++ (readWords w (a + 4) n c).1, (readWords w (a + 4) n c).2)) ∧
    readWords w a 0 b = ([], false, b)) ∧
  (∀ (st : State) (p : KrovPacket) (place n : Nat) (t : Session) (w : Who) (plain : Bytes) (b : Bus) (es : List (Nat × Nat)), st.serves 0x51 p place t w plain b →
    n = be plain 0 2 → es = (List.range n).map (fun i => (be plain (4 + 8 * i) 4, be plain (8 + 8 * i) 4)) →
    (n = 0 ∨ 128 < n ∨ plain.length ≠ 4 + 8 * n ∨ be plain 2 2 ≠ 0 → st.answers (.regWrite p) 0x51 p place t b 6 [] b) ∧
    (1 ≤ n → n ≤ 128 → plain.length = 4 + 8 * n → be plain 2 2 = 0 →
      ((∃ e ∈ es, b.1.tenantBarred w e.1 = true) → st.answers (.regWrite p) 0x51 p place t b 3 [] b) ∧
      ((∀ e ∈ es, b.1.tenantBarred w e.1 = false) →
        (∀ c, writeWords w 0 es b = (none, c) → ∃ x : Nat, st.answers (.regWrite p) 0x51 p place t b 0 (toBE 2 x ++ toBE 2 0)
          ({ c.1 with free := c.1.free + 1 }, c.2)) ∧
        (∀ i reason c, writeWords w 0 es b = (some (i, reason), c) → st.answers (.regWrite p) 0x51 p place t b (if reason = 5 then 4 else 12)
          (toBE 2 i ++ toBE 1 reason ++ toBE 1 0) c)))) ∧
  (∀ (w : Who) (i a v : Nat) (r : List (Nat × Nat)) (b c : Bus), writeWords w i [] b = (none, b) ∧
    (busWrite b w a 4 v = (none, c) → writeWords w i ((a, v) :: r) b = writeWords w (i + 1) r c) ∧
    (∀ reason, busWrite b w a 4 v = (some reason, c) → writeWords w i ((a, v) :: r) b = (some (i, reason), c))) ∧
  (∀ (st : State) (p : KrovPacket) (place : Nat) (t : Session) (w : Who) (plain : Bytes) (b : Bus),
    (st.serves 0x70 p place t w plain b →
      (plain = [] → st.answers (.netGet p) 0x70 p place t b 0 (recordsThatFit (if t.enc then 1392 else 1408) b.1.krov.net) b) ∧
      (plain ≠ [] → st.answers (.netGet p) 0x70 p place t b 6 [] b)) ∧
    (st.serves 0x71 p place t w plain b →
      (readNet plain.length plain = none → st.answers (.netSet p) 0x71 p place t b 6 [] b) ∧
      (∀ rs, readNet plain.length plain = some rs →
        (t.role = .service → (∃ r ∈ rs, r.ofSp = false) → st.answers (.netSet p) 0x71 p place t b 3 [] b) ∧
        ((t.role = .service → ∀ r ∈ rs, r.ofSp = true) →
          ((∃ r ∈ rs, r.ok = false) ∨ netFits (rs.foldl netApply b.1.krov.net) = false → st.answers (.netSet p) 0x71 p place t b 6 [] b) ∧
          ((∀ r ∈ rs, r.ok = true) → netFits (rs.foldl netApply b.1.krov.net) = true →
            st.answers (.netSet p) 0x71 p place t b 0 [] (b.1.tellPeer (.net plain), b.2) (.net rs))))) ∧
    (st.serves 0x81 p place t w plain b →
      (t.enc = false → st.answers (.accountWrite p) 0x81 p place t b 3 [] b) ∧
      (t.enc = true → accountOk plain = false → st.answers (.accountWrite p) 0x81 p place t b 6 [] b) ∧
      (t.enc = true → accountOk plain = true →
        (t.reaches true (be plain 2 1) = false ∨ (∃ a, aget (be plain 0 2) b.1.krov.accounts = some a ∧ t.reaches true a.tenant = false) →
          st.answers (.accountWrite p) 0x81 p place t b 3 [] b) ∧
        (t.reaches true (be plain 2 1) = true → (∀ a, aget (be plain 0 2) b.1.krov.accounts = some a → t.reaches true a.tenant = true) →
          st.answers (.accountWrite p) 0x81 p place t b 0 [] ((b.1.putAccount plain).tellPeer (.account (be plain 0 2) plain), b.2)))))

/-- XFER_BEGIN opens a transfer within the limits and answers its handle and length; XFER_DATA reads a chunk, or stores one, and checks the
header in the first of a package; XFER_END closes a read, and of a write checks completeness and digest and what the object is; XFER_ABORT abandons it; XFER_TIMEOUT ends one unused for 30 s. -/
def Obligations.TransfersMoveObjects : Prop :=
  (∀ (st : State) (p : KrovPacket) (place kind object len : Nat) (t : Session) (w : Who) (plain : Bytes) (b : Bus),
    st.serves 0x60 p place t w plain b → kind = be plain 0 1 → object = be plain 4 4 → len = be plain 8 4 →
    (plain.length ≠ 12 ∨ be plain 1 3 ≠ 0 ∨ kind = 0 ∨ 7 < kind → st.answers (.xferBegin p) 0x60 p place t b 6 [] b) ∧
    (plain.length = 12 → be plain 1 3 = 0 → 1 ≤ kind → kind ≤ 7 →
      (t.mayTransfer kind = false → st.answers (.xferBegin p) 0x60 p place t b 3 [] b) ∧
      (t.mayTransfer kind = true →
        8 ≤ b.1.krov.transfers.length ∨ 4 ≤ (b.1.krov.transfers.filter (fun x => x.2.session == t.id)).length →
        st.answers (.xferBegin p) 0x60 p place t b 5 [] b) ∧
      (t.mayTransfer kind = true → b.1.krov.transfers.length < 8 → (b.1.krov.transfers.filter (fun x => x.2.session == t.id)).length < 4 →
        ((kind ≠ 4 → kind ≠ 5 → b.1.domainOn 13 = false) → kind ≠ 4 → kind ≠ 5 → st.answers (.xferBegin p) 0x60 p place t b 4 [] b) ∧
        ((kind ≠ 4 → kind ≠ 5 → b.1.domainOn 13 = true) → (kind = 7 → b.1.get F.UPD_STAT_state < 3) →
          ((kind = 1 ∨ kind = 7) → object ≠ 0 → st.answers (.xferBegin p) 0x60 p place t b 6 [] b) ∧
          ((kind = 1 ∨ kind = 7) → object = 0 → len = 0 ∨ (kind = 1 ∧ 8388608 < len) ∨ (kind = 7 ∧ 268435456 < len) →
            st.answers (.xferBegin p) 0x60 p place t b 13 [] b) ∧
          (kind ≠ 1 → kind ≠ 7 → b.1.objectLength w kind object = none → st.answers (.xferBegin p) 0x60 p place t b 6 [] b) ∧
          (∀ n, (kind ≠ 1 → kind ≠ 7 → b.1.objectLength w kind object = some n) →
            (kind = 1 ∨ kind = 7 → object = 0 ∧ n = len ∧ 1 ≤ len ∧ len ≤ (if kind = 1 then 8388608 else 268435456)) →
            ∃ h : Nat, 1 ≤ h ∧ h ≤ 65535 ∧ aget h b.1.krov.transfers = none ∧
              st.answers (.xferBegin p) 0x60 p place t b 0 (toBE 2 h ++ toBE 2 0 ++ toBE 4 (if len = 0 then n else min len n))
                ({ b.1 with
                  free := b.1.free + 1
                  upd := { b.1.upd with headerOk := if kind = 7 then false else b.1.upd.headerOk }
                  krov := { b.1.krov with transfers := aput h ⟨h, t.id, kind, decide (kind = 1 ∨ kind = 7), object,
                    if len = 0 then n else min len n, [], 0, b.1.time.tb⟩ b.1.krov.transfers } }, b.2)))))) ∧
  (∀ (st : State) (p : KrovPacket) (place off n : Nat) (x : Transfer) (t : Session) (w : Who) (plain : Bytes) (b : Bus),
    st.serves 0x61 p place t w plain b → 8 ≤ plain.length → be plain 2 2 = 0 → b.1.transferOf t plain = some x → off = be plain 4 4 →
    n = min 1024 (x.length - off) →
    (x.write = false → plain.length ≠ 8 → st.answers (.xferData p) 0x61 p place t b 6 [] b) ∧
    ((x.write = false → plain.length = 8) → off % 1024 ≠ 0 ∨ x.length ≤ off ∨ (x.write = true ∧ plain.length ≠ 8 + n) →
      st.answers (.xferData p) 0x61 p place t b 13 [] (b.1.setTransfer x, b.2)) ∧
    (off % 1024 = 0 → off < x.length →
      (x.write = false → plain.length = 8 → (x.kind ≠ 4 → x.kind ≠ 5 → b.1.domainOn 13 = true) →
        st.answers (.xferData p) 0x61 p place t b 0 (b.1.objectBytes w x off n) (b.1.setTransfer x, b.2)) ∧
      (x.write = true → plain.length = 8 + n → (x.kind = 7 → off ≠ 0 ∧ b.1.upd.headerOk = true) →
        st.answers (.xferData p) 0x61 p place t b 0 []
          ((b.1.setTransfer { x with chunks := aput off (plain.drop 8) x.chunks }).hstWrites (plain.drop 8).length, b.2)) ∧
      (x.write = false → plain.length = 8 → x.kind ≠ 4 → x.kind ≠ 5 → b.1.domainOn 13 = false →
        st.answers (.xferData p) 0x61 p place t b 4 [] b) ∧
      (x.write = true → plain.length = 8 + n → x.kind = 7 → off ≠ 0 → b.1.upd.headerOk = false →
        st.answers (.xferData p) 0x61 p place t b 13 [] (b.1.setTransfer x, b.2)) ∧
      (∀ e m1, x.write = true → plain.length = 8 + n → x.kind = 7 → off = 0 → b.1.packageBegins (plain.drop 8) x.length = (e, m1) →
        (e = 0 → st.answers (.xferData p) 0x61 p place t b 0 []
          ((m1.setTransfer { x with chunks := aput off (plain.drop 8) x.chunks }).hstWrites (plain.drop 8).length, b.2)) ∧
        (e ≠ 0 → st.answers (.xferData p) 0x61 p place t b 15 (toBE 1 e) (m1.endTransfer x.handle, b.2))))) ∧
  (∀ (st : State) (p : KrovPacket) (place op : Nat) (c : Instr) (t : Session) (w : Who) (plain : Bytes) (b : Bus),
    (c, op) ∈ [(Instr.xferData p, 0x61), (.xferEnd p, 0x62), (.xferAbort p, 0x63)] → st.serves op p place t w plain b →
    (be plain 2 2 ≠ 0 ∨ b.1.transferOf t plain = none ∨ (op = 0x61 ∧ plain.length < 8) ∨ plain.length < 4 ∨ (op = 0x63 ∧ plain.length ≠ 4) →
      st.answers c op p place t b 6 [] b) ∧
    (∀ x, b.1.transferOf t plain = some x → plain.length = 4 → be plain 2 2 = 0 → op = 0x63 ∨ (op = 0x62 ∧ x.write = false) →
      st.answers c op p place t b 0 [] (b.1.endTransfer x.handle, b.2)) ∧
    (∀ x, b.1.transferOf t plain = some x → op = 0x62 → 4 ≤ plain.length → be plain 2 2 = 0 →
      (plain.length ≠ (if x.write then 36 else 4) → st.answers c op p place t b 6 [] b) ∧
      (plain.length = 36 → x.write = true → x.kind ≠ 4 → x.kind ≠ 5 → b.1.domainOn 13 = false → st.answers c op p place t b 4 [] b)) ∧
    (∀ x obj, b.1.transferOf t plain = some x → op = 0x62 → plain.length = 36 → be plain 2 2 = 0 → x.write = true → b.1.domainOn 13 = true →
      x.kind ≠ 4 → x.kind ≠ 5 → obj = x.chunks.flatMap Prod.snd →
      (x.chunks.length ≠ (x.length + 1023) / 1024 ∨ digestBytes (Config.sha256 obj) ≠ slice plain 4 32 →
        st.answers c op p place t b 13 [] (b.1.setTransfer x, b.2)) ∧
      (x.chunks.length = (x.length + 1023) / 1024 → digestBytes (Config.sha256 obj) = slice plain 4 32 → x.kind = 1 → ∀ m1 : M,
        m1 = ({ b.1.endTransfer x.handle with img := { b.1.img with staging := obj } } : M) →
        (m1.imageChecks obj = none → st.answers c op p place t b 0 [] (m1, b.2)) ∧
        (∀ e l, m1.imageChecks obj = some (e, l) → st.answers c op p place t b 15 (toBE 1 e) (m1, b.2))) ∧
      (x.chunks.length = (x.length + 1023) / 1024 → digestBytes (Config.sha256 obj) = slice plain 4 32 → x.kind ≠ 1 → ∃ (first : Bool) (v : Nat),
        ∀ e m1, M.packageEnds { b.1 with free := b.1.free + 2 } obj first v = (e, m1) →
        (e = 0 → st.answers c op p place t b 0 [] (m1.endTransfer x.handle, b.2)) ∧
        (e ≠ 0 → st.answers c op p place t b 15 (toBE 1 e) (m1.endTransfer x.handle, b.2))))) ∧
  (∀ (m : M) (h : Nat), m.endTransfer h = m.dropTransfers (fun x => x.handle == h)) ∧
  (∀ (m : M) (q : Transfer → Bool), (m.dropTransfers q).krov = { m.krov with transfers := m.krov.transfers.filter (fun x => !q x.2) } ∧
    (m.get F.UPD_STAT_state ≠ 1 ∨ (∀ x ∈ m.krov.transfers, q x.2 = true → x.2.kind ≠ 7) →
      m.dropTransfers q = { m with krov := { m.krov with transfers := m.krov.transfers.filter (fun x => !q x.2) } }) ∧
    (m.get F.UPD_STAT_state = 1 → (∃ x ∈ m.krov.transfers, q x.2 = true ∧ x.2.kind = 7) →
      (m.dropTransfers q).get F.UPD_STAT_state = 0 ∧ (m.dropTransfers q).upd.headerOk = false)) ∧
  (∀ (s : State) (h : Nat),
    s.leaves (.xferTimeout h) (s.m.dropTransfers (fun x => x.handle == h && decide (x.lastAt + 30000000000 ≤ s.m.time.tb))))

/-! ### The redundant pair (chapter 11) -/

/-- BEAT_SLOT sends a BEAT under the pair's key at the unit's own 5 ms multiple of TAI; a BEAT needs Chamois acting and a unit not in MAINT.
A message is taken from tenant 0's network on E0 or E1 alone.  LEASE gains or renews the lease, or is answered RELEASE; one that fails a
check before that changes nothing but the port's counts and the key's use.  STATE of the witness and LEASE_END take the lease away;
PACT_CHANGE and PACT_TIMEOUT decide ACT. -/
def Obligations.UnitsHoldAndLoseLeases : Prop :=
  (∀ (s : State) (flags e at_ : Nat) (b : Bytes), e = s.m.get F.IBX_EPOCH_epoch → at_ = s.m.time.tai + (if s.m.slotB then 2500000 else 0) →
    flags = b2n s.m.claims + 2 * b2n (s.m.ibx.held == some e) + 4 * b2n (s.m.get F.IBX_CTRL_pref == s.m.slotByte) →
    b = toBE 4 (s.m.rd .IBX_HEALTH).toNat ++ toBE 1 flags ++ toBE 3 0 →
    (at_ % 5000000 ≠ 0 ∨ s.m.chamoisOn = false ∨ s.m.unitState = 7 → exec .beatSlot s = .next s) ∧
    (at_ % 5000000 = 0 → s.m.chamoisOn = true → s.m.unitState ≠ 7 → s.leaves .beatSlot (({ s.m with
      ibx := { s.m.ibx with beats := (s.m.ibx.txSeq, s.m.time.tb) :: s.m.ibx.beats.filter (fun p => s.m.time.tb ≤ p.2 + 12000000) }
      boot := { s.m.boot with claimAt := if s.m.claims = true ∧ s.m.boot.claimAt = none then some s.m.time.tb else s.m.boot.claimAt } } : M).unitSend
        1 e 0 b))) ∧
  (∀ (m : M) (kind epoch echo : Nat) (body : Bytes) (a : M), a = ({ m with ibx := { m.ibx with txSeq := m.ibx.txSeq + 1 } } : M) →
    (∀ m1, a.useSlot (a.get F.IBX_PAIR_key) 24 = (none, m1) → m.unitSend kind epoch echo body = m1) ∧
    (∀ k m1 h, a.useSlot (a.get F.IBX_PAIR_key) 24 = (some k, m1) →
      h = toBE 2 0xC4A3 ++ toBE 1 1 ++ toBE 1 kind ++ toBE 2 (m.get F.IBX_PAIR_pair) ++ toBE 1 m.slotByte ++ toBE 1 0 ++ toBE 4 m.ibx.txSeq ++
        toBE 4 epoch ++ toBE 4 echo ++ toBE 2 body.length ++ toBE 2 0 →
      m.unitSend kind epoch echo body = m1.backboneSend 0 (.chamois m.unitAddress m.witnessAddress
        (h ++ body ++ (digestBytes (Config.hmac k (h ++ body))).take 16)))) ∧
  (∀ (m : M) (d : ChRx), (2 ≤ d.port → m.takeChamois d = (none, m)) ∧
    (d.port < 2 → ∀ t m1, m.takeFrame d.port d.vid .chamois = (t, m1) →
      (t = some 0 → m.takeChamois d = (parseChamois d.bytes, m1)) ∧ (t ≠ some 0 → m.takeChamois d = (none, m1)))) ∧
  (∀ (s : State) (d : ChRx) (c : ChMsg) (m : M) (sent : Option Nat), s.m.hears 2 d c m →
    sent = (m.ibx.beats.find? (fun p => p.1 == c.echo)).map Prod.snd →
    (∀ t, sent = some t → m.time.tb ≤ t + 12000000 → m.get F.IBX_EPOCH_epoch ≤ c.epoch → m.unitState ∈ [0, 2, 3, 4, 5] → ∃ x : M,
      x.ibx = { (m.seeEpoch c.epoch).ibx with
        held := some c.epoch
        leaseEnd := some (t + be c.body 0 2 * 1000000) } ∧
      x = { m.seeEpoch c.epoch with ibx := x.ibx } ∧
      s.leaves (.lease d) ((if x.leased then x else x.gainLease).pairFollows s.m.unitState (!(s.m.ibx.handover == .none)))) ∧
    (sent = none ∨ (∃ t, sent = some t ∧ t + 12000000 < m.time.tb) ∨ c.epoch < m.get F.IBX_EPOCH_epoch ∨ m.unitState ∉ [0, 2, 3, 4, 5] →
      s.leaves (.lease d) ((m.sendRelease c.epoch 255).pairFollows s.m.unitState (!(s.m.ibx.handover == .none))))) ∧
  (∀ (s : State) (d : ChRx) (o : Option ChMsg) (x : M), s.m.takeChamois d = (o, x) →
    (x.chamoisOn = false ∨ (∀ c, o = some c → c.kind ≠ 2 ∨ c.pair ≠ x.get F.IBX_PAIR_pair ∨ c.sender ≠ 255) →
      s.leaves (.lease d) (x.pairFollows s.m.unitState (!(s.m.ibx.handover == .none)))) ∧
    (x.chamoisOn = false ∨ (∀ c, o = some c → c.kind ≠ 3 ∨ c.pair ≠ x.get F.IBX_PAIR_pair ∨ c.sender ≠ 255) → s.leaves (.chState d) x)) ∧
  (∀ (s : State) (d : ChRx) (c : ChMsg) (x m1 : M) (k : Option Bytes), s.m.takeChamois d = (some c, x) → x.chamoisOn = true → c.pair = x.get F.IBX_PAIR_pair →
    c.sender = 255 → x.useSlot (x.get F.IBX_PAIR_key) 24 = (k, m1) →
    (∀ v, k = some v → (digestBytes (Config.hmac v c.covered)).take 16 ≠ c.mac ∨ c.seq ≤ m1.ibx.rxSeq) →
    (c.kind = 2 → s.leaves (.lease d) (m1.pairFollows s.m.unitState (!(s.m.ibx.handover == .none)))) ∧ (c.kind = 3 → s.leaves (.chState d) m1)) ∧
  (∀ m : M, ∀ e n, (m.chamoisOn = true → m.sendRelease e n = m.unitSend 4 e 0 (toBE 1 n ++ toBE 3 0)) ∧ (m.chamoisOn = false → m.sendRelease e n = m)) ∧
  (∀ m : M, ∃ t : M, t.get F.IBX_STAT_lease = 1 ∧ t.bit F.IBX_EVT_gained = true ∧ t.ibx = { m.ibx with
      handover := .none
      healthSafe := false
      addresses := true
      prefSince := none } ∧
    t.get F.IBX_STAT_pact = m.get F.IBX_STAT_pact ∧
    (m.bit F.IBX_STAT_pact = false →
      m.gainLease = ((((t.loopsHandOver.setUnit 4).actRises).stateFrame.beat).announceAddresses).hostStart) ∧
    (m.bit F.IBX_STAT_pact = true → ∃ a : M, a.ibx.pactBy = some (m.time.tb + 5000000) ∧ a.bit F.IBX_EVT_pact = true ∧
      a = { (t.loopsHandOver.setUnit 4).flag F.IBX_EVT_pact 0x02 with ibx := a.ibx } ∧
      m.gainLease = ((a.stateFrame.beat).announceAddresses).hostStart)) ∧
  (∀ (s : State) (d : ChRx) (c : ChMsg) (m x : M) (holder : Nat) (lost : Bool), s.m.hears 3 d c m → holder = be c.body 0 1 →
    x = (if be c.body 1 1 = 1 then (m.seeEpoch c.epoch).flag F.IBX_EVT_deny 0x20 else m.seeEpoch c.epoch) →
    lost = decide ((holder ≠ 255 ∧ holder ≠ m.slotByte) ∨ m.get F.IBX_EPOCH_epoch < c.epoch) →
    (lost = true → x.unitState = 4 → x.leased = true → s.leaves (.chState d) ((x.dropLease.setUnit 5).fencedAddresses)) ∧
    (lost = true → x.unitState = 5 → s.leaves (.chState d) x.enterSyncing) ∧
    (lost = false ∨ (x.unitState = 4 ∧ x.leased = false) ∨ (x.unitState ≠ 4 ∧ x.unitState ≠ 5) → s.leaves (.chState d) x)) ∧
  (∀ (s : State),
    (s.m.leased = true → ∀ u, s.m.ibx.leaseEnd = some u → u ≤ s.m.time.tb → s.leaves .leaseEnd ((s.m.dropLease.setUnit 5).fencedAddresses)) ∧
    (s.m.leased = false ∨ (∀ u, s.m.ibx.leaseEnd = some u → s.m.time.tb < u) → exec .leaseEnd s = .next s) ∧
    (s.m.leased = true → s.m.bit F.IBX_STAT_pact = true → ∀ u, s.m.ibx.pactBy = some u → u ≤ s.m.time.tb →
      s.leaves .pactTimeout ((s.m.dropLease.sendRelease (s.m.get F.IBX_EPOCH_epoch) 255).setUnit 5).fencedAddresses) ∧
    (s.m.leased = false ∨ s.m.bit F.IBX_STAT_pact = false ∨ (∀ u, s.m.ibx.pactBy = some u → s.m.time.tb < u) → exec .pactTimeout s = .next s)) ∧
  (∀ (s : State) (level : Bool) (x : M), x = { s.m.putB F.IBX_STAT_pact level with
      ibx := { s.m.ibx with pactBy := if level then s.m.ibx.pactBy else none } } →
    (s.m.leased = false ∨ level = s.m.bit F.IBX_STAT_pact → s.leaves (.pactChange level) x) ∧
    (s.m.leased = true → s.m.bit F.IBX_STAT_pact = true → level = false → s.leaves (.pactChange level) x.canGain) ∧
    (s.m.leased = true → s.m.bit F.IBX_STAT_pact = false → level = true → s.leaves (.pactChange level)
      { x.canFence with lio := { x.canFence.lio with driven := s.m.captureDriven.lio.driven } })) ∧
  (∀ (m : M), ∃ t : M, t.get F.IBX_STAT_lease = 0 ∧ t.bit F.IBX_EVT_lost = true ∧ t.ibx = { m.ibx with
      leaseEnd := none
      pactBy := none } ∧ t.lio.driven = m.captureDriven.lio.driven ∧
    m.dropLease = (t.canFence.hostStop).stateFrame) ∧
  (∀ m : M, m.hostStop.ibx.hostStart = none ∧ m.hostStop.ibx.quietEnd = none)

/-- The witness takes messages of its hosted pairs while it hosts, with a good MAC and a new sequence number; it decides a BEAT in the
order of Table 11-9, gives up a released lease, counts missed renewals, grants when the lease has ended, after the quiet time and the
start window, and after a reserved bound is committed.  A lease given up to a named successor waits for that one alone. -/
def Obligations.WitnessDecides : Prop :=
  (∀ (p : HostedPair) (u now : Nat) (b : BeatSeen) (eligible elsewhere : Bool),
    eligible = decide (healthy b.health = true ∧ wfield b.health 28 4 ∈ [0, 2, 3, 4]) →
    elsewhere = decide (p.released = false ∧ (∃ h, p.holder = some h ∧ h ≠ u) ∧ ((∃ t, p.leaseEnd = some t ∧ now ≤ t + 1000000) ∨ p.missed < 3)) →
    ((p.holder = some u ∧ tbit b.flags 1 = true ∧ b.epoch = p.epoch ∧ tbit b.flags 0 = true) → p.decide u now b = .renewal) ∧
    (¬ (p.holder = some u ∧ tbit b.flags 1 = true ∧ b.epoch = p.epoch ∧ tbit b.flags 0 = true) →
      (b.epoch < p.epoch → tbit b.flags 1 = true → p.decide u now b = .refuse 1) ∧
      (p.epoch ≤ b.epoch ∨ tbit b.flags 1 = false →
        (tbit b.flags 0 = false ∨ eligible = false → p.decide u now b = .refuse 2) ∧
        (tbit b.flags 0 = true → eligible = true →
          (elsewhere = true → p.decide u now b = .refuse 3) ∧
          (elsewhere = false → now < p.windowEnd → p.decide u now b = .refuse 4) ∧
          (elsewhere = false → p.windowEnd ≤ now → 0xFFFFFFFF ≤ p.epoch → p.decide u now b = .refuse 5) ∧
          (elsewhere = false → p.windowEnd ≤ now → p.epoch < 0xFFFFFFFF → p.decide u now b = .grant))))) ∧
  (∀ (s : State) (d : ChRx) (i : Nat) (c : ChMsg) (m1 : M) (b : BeatSeen) (p : HostedPair), s.m.hostAccept 1 d = (some (i, c), m1) → c.sender ≤ 1 →
    b = ⟨c.seq, m1.time.tb, c.epoch, BitVec.ofNat 32 (be c.body 0 4), be c.body 4 1, d.src, d.dst⟩ →
    p = (let first := if tbit b.flags 0 = true ∧ (m1.hosted i).firstClaim = none then some c.sender else (m1.hosted i).firstClaim
      if c.sender = 0 then { m1.hosted i with beatA := some b, firstClaim := first } else { m1.hosted i with beatB := some b, firstClaim := first }) →
    (m1.ibx.quietEnd ≠ none → s.leaves (.beat d) (m1.setHosted i p)) ∧
    (m1.ibx.quietEnd = none →
      (p.decide c.sender m1.time.tb b = .renewal → s.leaves (.beat d) (((m1.setHosted i p).setHosted i { p with
        leaseEnd := some (m1.time.tb + 20000000)
        missAt := m1.time.tb + 6000000
        missed := 0 }).witnessLease i c.sender c.seq)) ∧
      (∀ r, p.decide c.sender m1.time.tb b = .refuse r → s.leaves (.beat d) ((m1.setHosted i p).witnessState i c.sender r c.seq)) ∧
      (p.decide c.sender m1.time.tb b = .grant → s.leaves (.beat d) ((m1.setHosted i p).grant i c.sender b)))) ∧
  (∀ (s : State) (d : ChRx) (m1 : M), (s.m.hostAccept 1 d = (none, m1) → s.leaves (.beat d) m1) ∧
    (s.m.hostAccept 4 d = (none, m1) → s.leaves (.release d) m1) ∧
    (∀ i c, s.m.hostAccept 4 d = (some (i, c), m1) →
      ((m1.hosted i).holder ≠ some c.sender ∨ c.epoch ≠ (m1.hosted i).epoch → s.leaves (.release d) m1) ∧
      ((m1.hosted i).holder = some c.sender → c.epoch = (m1.hosted i).epoch → s.leaves (.release d) ((m1.setHosted i { m1.hosted i with
        holder := none
        leaseEnd := none
        released := true
        successor := if be c.body 0 1 ≤ 1 then some (be c.body 0 1) else none }).tryGrant i)))) ∧
  (∀ (m m0 m1 : M) (kind i : Nat) (d : ChRx) (c : ChMsg) (k : Bytes), m.takeChamois d = (some c, m0) → c.kind = kind → c.sender ≤ 1 →
    m0.ibx.hostStart ≠ none → i < 16 → (∃ p, m0.ibx.pairs[i]? = some p ∧ p.valid = true ∧ p.pair = c.pair) →
    (∀ j < i, ∀ p, m0.ibx.pairs[j]? = some p → p.valid = false ∨ p.pair ≠ c.pair) →
    m0.useSlot (m0.hosted i).key 24 = (some k, m1) → (digestBytes (Config.hmac k c.covered)).take 16 = c.mac →
    ((m1.hosted i).seqOf c.sender < c.seq → m.hostAccept kind d = (some (i, c), m1.setHosted i (if c.sender = 0 then
        { m1.hosted i with seqA := c.seq } else { m1.hosted i with seqB := c.seq }))) ∧
    (c.seq ≤ (m1.hosted i).seqOf c.sender → m.hostAccept kind d = (none, m1))) ∧
  (∀ (m m0 m1 : M) (kind : Nat) (d : ChRx) (o : Option ChMsg), m.takeChamois d = (o, m0) →
    ((o = none ∨ (∃ c, o = some c ∧ (c.kind ≠ kind ∨ 1 < c.sender)) ∨ m0.ibx.hostStart = none ∨
      (∃ c, o = some c ∧ ∀ p ∈ m0.ibx.pairs, p.valid = false ∨ p.pair ≠ c.pair)) → m.hostAccept kind d = (none, m0)) ∧
    (∀ (c : ChMsg) (i : Nat) (k : Option Bytes), o = some c → c.kind = kind → c.sender ≤ 1 → m0.ibx.hostStart ≠ none → m0.hostedSlot c.pair = some i →
      m0.useSlot (m0.hosted i).key 24 = (k, m1) → (∀ v, k = some v → (digestBytes (Config.hmac v c.covered)).take 16 ≠ c.mac) →
      m.hostAccept kind d = (none, m1))) ∧
  (∀ (m : M) (i u kind epoch echo : Nat) (body : Bytes) (b : BeatSeen), (m.hosted i).beatOf u = some b →
    m.witnessSend i u kind epoch echo body = ({ m with ibx := { m.ibx with hostSeq := m.ibx.hostSeq + 1 } } : M).sendChamois b.dst b.src
      (m.hosted i).key kind (m.hosted i).pair 255 (m.ibx.hostSeq + 1) epoch echo body) ∧
  (∀ (m : M) (i : Nat) (p : HostedPair) (ready : Nat → BeatSeen → Prop), p = m.hosted i →
    (∀ u b, ready u b ↔ p.beatOf u = some b ∧ m.time.tb ≤ b.at_ + 6000000 ∧ p.decide u m.time.tb b = .grant) →
    (m.ibx.hostStart = none ∨ p.valid = false ∨ m.ibx.quietEnd ≠ none → m.tryGrant i = m) ∧
    (m.ibx.hostStart ≠ none → p.valid = true → m.ibx.quietEnd = none →
      (∀ u b, p.successor = some u → ready u b → m.tryGrant i = m.grant i u b) ∧
      (∀ u, p.successor = some u → (∀ b, ¬ ready u b) → m.tryGrant i = m) ∧
      (p.successor = none → (∀ b, ¬ ready 0 b ∧ ¬ ready 1 b) → m.tryGrant i = m) ∧
      (∀ u b, p.successor = none → u < 2 → ready u b → (∀ x, ¬ ready (1 - u) x) → m.tryGrant i = m.grant i u b) ∧
      (∀ u b x, p.successor = none → u < 2 → ready u b → ready (1 - u) x → b.at_ < x.at_ → m.tryGrant i = m.grant i u b))) ∧
  (∀ (m : M) (i u : Nat) (b : BeatSeen) (p : HostedPair), p = m.hosted i →
    (p.bound < p.epoch + 1 → m.grant i u b = m.setHosted i { p with
      committing := true
      waiting := some u }) ∧
    (p.epoch + 1 ≤ p.bound → m.grant i u b = (m.setHosted i { p with
      epoch := p.epoch + 1
      holder := some u
      leaseEnd := some (b.at_ + 20000000)
      missAt := b.at_ + 6000000
      missed := 0
      released := false
      successor := none
      waiting := none
      committing := p.committing || decide (p.bound - (p.epoch + 1) ≤ 128) }).witnessLease i u b.seq)) ∧
  (∀ (s : State) (i : Nat) (p : HostedPair), i < 16 → p = s.m.hosted i →
    (s.m.ibx.hostStart ≠ none → p.valid = true → p.holder ≠ none → p.missAt ≤ s.m.time.tb →
      s.leaves (.renewalMissed i) ((s.m.setHosted i { p with
        missed := p.missed + 1
        missAt := p.missAt + 6000000 }).tryGrant i)) ∧
    (s.m.ibx.hostStart = none ∨ p.valid = false ∨ p.holder = none ∨ s.m.time.tb < p.missAt → exec (.renewalMissed i) s = .next s) ∧
    (∀ t, p.leaseEnd = some t → t + 1000000 < s.m.time.tb → s.leaves (.witnessLeaseEnd i) (s.m.tryGrant i)) ∧
    ((∀ t, p.leaseEnd = some t → s.m.time.tb ≤ t + 1000000) → exec (.witnessLeaseEnd i) s = .next s) ∧
    (p.committing = false → exec (.reservedBoundCommitted i) s = .next s) ∧
    (p.committing = true → ∀ (m1 : M) (q : HostedPair), q = { p with
        bound := min (p.bound + 256) 0xFFFFFFFF
        committing := false
        waiting := none } → m1 = (s.m.setHosted i q).tellPeer (.epochs i q.epoch q.bound) →
      (p.waiting = none ∨ (∃ u, p.waiting = some u ∧ p.beatOf u = none) → s.leaves (.reservedBoundCommitted i) m1) ∧
      (∀ u b, p.waiting = some u → p.beatOf u = some b → s.leaves (.reservedBoundCommitted i) (m1.grant i u b))) ∧
    (s.m.ibx.hostStart = none ∨ p.valid = false ∨ s.m.ibx.quietEnd ≠ none ∨ s.m.time.tb < p.windowEnd → exec (.startWindowEnd i) s = .next s) ∧
    (∀ (ok holds pref first : Nat → Bool), s.m.ibx.hostStart ≠ none → p.valid = true → s.m.ibx.quietEnd = none → p.windowEnd ≤ s.m.time.tb →
      (∀ u, ok u = true ↔ ∃ b, p.beatOf u = some b ∧ tbit b.flags 0 = true ∧ b.eligible = true ∧ s.m.time.tb ≤ b.at_ + 6000000 ∧
        p.decide u s.m.time.tb b = .grant) →
      (∀ u, holds u = true ↔ ∃ b, p.beatOf u = some b ∧ tbit b.flags 1 = true ∧ b.epoch = p.epoch) →
      (∀ u, pref u = true ↔ ∃ b, p.beatOf u = some b ∧ tbit b.flags 2 = true) → (∀ u, first u = true ↔ p.firstClaim = some u) →
      (ok 0 = false → ok 1 = false → exec (.startWindowEnd i) s = .next s) ∧
      (∀ u b, u < 2 → p.beatOf u = some b → ok u = true → ok (1 - u) = false → s.leaves (.startWindowEnd i) (s.m.grant i u b)) ∧
      (∀ u b, u < 2 → p.beatOf u = some b → ok u = true → holds u = true → holds (1 - u) = false → s.leaves (.startWindowEnd i) (s.m.grant i u b)) ∧
      (∀ u b, u < 2 → p.beatOf u = some b → ok u = true → holds 0 = false → holds 1 = false → pref u = true → pref (1 - u) = false →
        s.leaves (.startWindowEnd i) (s.m.grant i u b)) ∧
      (∀ u b, u < 2 → p.beatOf u = some b → ok u = true → holds 0 = false → holds 1 = false → pref 0 = false → pref 1 = false → first u = true →
        s.leaves (.startWindowEnd i) (s.m.grant i u b)))) ∧
  (∀ (s : State),
    ((∀ u, s.m.ibx.quietEnd = some u → s.m.time.tb < u) → exec .quietTimeEnd s = .next s) ∧
    (∀ u, s.m.ibx.quietEnd = some u → u ≤ s.m.time.tb → ∃ t : M, t.ibx.quietEnd = none ∧ t.ibx.pairs.length = s.m.ibx.pairs.length ∧
      t = { s.m with ibx := { s.m.ibx with
        quietEnd := none
        pairs := t.ibx.pairs } } ∧ exec .quietTimeEnd s = .next { s with m := t } ∧
      ∀ (i : Nat) (p q : HostedPair), s.m.ibx.pairs[i]? = some p → t.ibx.pairs[i]? = some q →
        ((∀ b : BeatSeen, p.beatA = some b ∨ p.beatB = some b → tbit b.flags 1 = false ∨ b.epoch < p.epoch ∨ p.bound + 256 < b.epoch) → q = p) ∧
        p.epoch ≤ q.epoch ∧ (q.epoch ≤ p.bound + 256 ∨ q = p)))

/-- A tether frame with a good CRC and the next sequence number is taken and owed an acknowledgment, which leaves with the 64th frame or
once 100 µs have passed; another frame is discarded, counted and answered with nak.  STATE, MIRROR, CYCLE_END, CHANGE, BULK and ACK frames act as the rules say; the slots and timeouts of the tether send,
repeat, give up and detach; the link rises and falls, and a hand-over that waits for the peer ends with it (the last: log 109). -/
def Obligations.TetherCarriesFrames : Prop :=
  (∀ (m : M) (seq : Nat) (good : Bool) (f : M → M), (m.tetherUp = false → m.tetherTake seq good f = m) ∧
    (m.tetherUp = true → good = true → seq = m.tth.rxSeq → m.tetherTake seq good f =
      f ({ m with tth := { m.tth with rxSeq := seq + 1 } } : M).oweAck) ∧
    (m.tetherUp = true → good = false ∨ seq ≠ m.tth.rxSeq → ∃ t : M, m.tetherTake seq good f = t.sendAck m.tth.rxSeq ∧
      t.get F.TTH_CRCERR_count = min (m.get F.TTH_CRCERR_count + 1) 0xFFFFFFFF ∧ t.bit F.TTH_EVT_crc = true ∧
      t.tth = (if good then m.tth else { m.tth with errorAt := some m.time.tb }) ∧ (good = false → t.bit F.TTH_EVT_ber = true) ∧
      t.out = m.out ∧ t.pts = m.pts ∧ t.ibx = m.ibx ∧ t.exe = m.exe)) ∧
  (∀ (m : M) (n by_ : Nat), m.sendAck n = ({ m with tth := { m.tth with
      rxOwed := 0
      rxAckBy := none } } : M).emit (.tetherAck (m.tth.rxSeq - 1) n) ∧
    (by_ = m.tth.rxAckBy.getD (m.time.tb + 100000) →
      (m.tth.rxOwed < 63 → m.time.tb < by_ → m.oweAck = { m with tth := { m.tth with
        rxOwed := m.tth.rxOwed + 1
        rxAckBy := some by_ } }) ∧
      (63 ≤ m.tth.rxOwed ∨ by_ ≤ m.time.tb → m.oweAck = m.sendAck 0)) ∧
    (∀ u, m.tth.rxAckBy = some u → u ≤ m.time.tb → m.ackOwed = m.sendAck 0) ∧ ((∀ u, m.tth.rxAckBy = some u → m.time.tb < u) → m.ackOwed = m)) ∧
  (∀ (m : M) (b : TetherBody) (f : TetherFrame), f = ⟨m.tth.txSeq, m.tth.txCycle, b⟩ → (m.tetherUp = false → m.sendTether b = m) ∧
    (m.tetherUp = true → m.sendTether b = ({ m with tth := { m.tth with
      txSeq := m.tth.txSeq + 1
      unacked := m.tth.unacked ++ [f]
      ackAt := if m.tth.unacked = [] then m.time.tb else m.tth.ackAt } } : M).emit (.tether f false))) ∧
  (∀ s : State, exec .tetherStateSlot s = .next { s with m := s.m.sendTether (.state (s.m.rd .IBX_HEALTH) (s.m.rd .IBX_EPOCH) (s.m.rd .UPD_IMG_ID) s.m.time.tai) }) ∧
  (∀ (s : State) (seq : Nat) (good : Bool) (health epoch image : Word) (tai : Nat), s.leaves (.tetherState seq good health epoch image tai)
    (s.m.tetherTake seq good (fun a => M.loadBulk ((M.watchPreferred (M.peerMoves
      (let x : M := (({ a with ibx := { a.ibx with
          peerAt := some a.time.tb
          peerEpoch := epoch.toNat
          peerImage := image
          peerOfs := (tai : Int) - a.time.tai } } : M).wr .IBX_PHEALTH health).seeEpoch epoch.toNat
       let y : M := if x.peerActive = true ∧ x.bit F.RTC_STAT_lock = false then { x with time := { x.time with slew := ((tai : Int) - x.time.tai) * 2 ^ 25 } } else x
       if y.peerState = 1 then { y with ibx := { y.ibx with peerStale := false } } else y) epoch.toNat)).withPair M.heldHandover)))) ∧
  (∀ (m : M) (e : Nat), (m.peerActive = false → m.unitState ≠ 5 → m.peerMoves e = m) ∧ (m.peerActive = false → m.unitState = 5 → m.peerMoves e = m.fencedAddresses) ∧
    (m.peerActive = true → (m.unitState = 0 ∨ m.unitState = 3 → m.peerMoves e = m.enterSyncing) ∧
      (m.unitState = 5 → (∀ h, m.ibx.held = some h → h < e) → m.peerMoves e = m.enterSyncing) ∧
      (m.unitState = 5 → ∀ h, m.ibx.held = some h → e ≤ h → m.peerMoves e = m.fencedAddresses) ∧
      (m.unitState = 1 ∨ m.unitState = 2 ∨ m.unitState = 6 ∨ m.unitState = 7 → m.peerMoves e = m) ∧
      (m.unitState = 4 → (∀ c u, m.ibx.handover ≠ .released c u) → m.peerMoves e = m) ∧
      (m.unitState = 4 → ∀ c u, m.ibx.handover = .released c u → m.peerMoves e = m.handoverDone.pairFollows 4 true))) ∧
  (∀ (s : State) (seq cycle bytes : Nat) (good : Bool) (items : List MirrorItem), bytes ≤ 4096 → items.all MirrorItem.inRange = true →
    s.leaves (.mirror seq good cycle bytes items) (s.m.tetherTake seq good (fun a =>
      let x := if a.tth.rxFrames ≠ 0 ∧ a.tth.rxCycle ≠ cycle then a.discardCycle else a
      { x with tth := { x.tth with
        rxCycle := cycle
        rxFrames := x.tth.rxFrames + 1
        rxBytes := x.tth.rxBytes + bytes
        rxItems := x.tth.rxItems ++ items } }))) ∧
  (∀ m : M, m.discardCycle.tth = { m.tth with
      rxFrames := 0
      rxBytes := 0
      rxItems := []
      applied := false } ∧ m.discardCycle.ibx = { m.ibx with fullCycles := 0 } ∧ m.discardCycle.get F.TTH_DISC_count = min (m.get F.TTH_DISC_count + 1) 0xFFFFFFFF ∧
    m.discardCycle.bit F.TTH_EVT_disc = true ∧ m.discardCycle.pts = m.pts) ∧
  (∀ (s : State) (seq cycle frames bytes : Nat) (good crcOk : Bool), s.leaves (.cycleEnd seq good cycle frames bytes crcOk)
    (s.m.tetherTake seq good (fun a =>
      if (a.tth.rxCycle = cycle ∧ a.tth.rxFrames = frames ∧ a.tth.rxBytes = bytes ∧ crcOk = true) ∧ (a.unitState = 1 → a.get F.UPD_IMG_STAT_state = 1) then
        let x : M := { a with
          tth := { a.tth with
            rxFrames := 0
            rxBytes := 0
            rxItems := []
            applied := true }
          ibx := { a.ibx with fullCycles := if 262144 < bytes then a.ibx.fullCycles + (if bytes = 2969600 then 2 else 1) else 0 } }
        M.joinStandby (M.applyCycle (((x.put F.TTH_CYCLE_cycle cycle).put F.TTH_LOAD_bytes bytes).putB F.TTH_STAT_mode (decide (262144 < bytes))) bytes a.tth.rxItems)
      else a.discardCycle))) ∧
  (∀ (s : State) (seq : Nat) (good : Bool) (c : ChangeRec), c.inRange = true → s.leaves (.change seq good c) (s.m.tetherTake seq good (fun a =>
    match a.takeChange c with
    | some x => x
    | none => if (a.flag F.TTH_EVT_chg 0x20).unitState = 2 then (a.flag F.TTH_EVT_chg 0x20).enterSyncing
      else { a.flag F.TTH_EVT_chg 0x20 with ibx := { a.ibx with fullCycles := 0 } }))) ∧
  (∀ (s : State), ((∃ p ∈ s.m.tth.changes, p.2 ≤ s.m.time.tb) → s.leaves .changeAckTimeout ({ s.m with
      tth := { s.m.tth with changes := s.m.tth.changes.filter (fun p => s.m.time.tb < p.2) }
      ibx := { s.m.ibx with peerStale := true } } : M).releaseAnswers) ∧
    ((∀ p ∈ s.m.tth.changes, s.m.time.tb < p.2) → s.leaves .changeAckTimeout s.m.releaseAnswers) ∧
    (s.m.tetherUp = true → s.m.tth.unacked ≠ [] → s.m.tth.ackAt + 1000000 ≤ s.m.time.tb → s.leaves .ackTimeout (s.m.resend 0)) ∧
    (s.m.tetherUp = false ∨ s.m.tth.unacked = [] ∨ s.m.time.tb < s.m.tth.ackAt + 1000000 → exec .ackTimeout s = .next s)) ∧
  (∀ (m : M) (n : Nat), m.resend n = { m with
      tth := { m.tth with ackAt := m.time.tb }
      out := m.out ++ (m.tth.unacked.filter (fun f => n ≤ f.seq)).map (fun f => .tether f true) }) ∧
  (∀ (s : State) (seq nak : Nat) (x : M), x = ({ s.m with tth := { s.m.tth with
      unacked := s.m.tth.unacked.filter (fun f => seq < f.seq)
      changes := s.m.tth.changes.filter (fun p => seq < p.1)
      ackAt := s.m.time.tb } } : M) →
    (s.m.tetherUp = false → ∀ good, s.leaves (.ack good seq nak) s.m.releaseAnswers) ∧
    (s.m.tetherUp = true → nak = 0 → s.leaves (.ack true seq nak) x.releaseAnswers) ∧
    (s.m.tetherUp = true → nak ≠ 0 → s.leaves (.ack true seq nak) (x.resend nak).releaseAnswers) ∧
    (s.m.tetherUp = true → s.leaves (.ack false seq nak) (s.m.tetherTake seq false (fun a => a)).releaseAnswers)) ∧
  (∀ (s : State) (seq offset : Nat) (good : Bool) (data : Bytes), offset < 2 ^ 24 → data.length ≤ 4096 → s.leaves (.bulk seq good offset data)
    (s.m.tetherTake seq good (fun a => { a with tth := { a.tth with bulk := (if offset = 0 then [] else padTo (offset * 4096) a.tth.bulk) ++ data } }))) ∧
  (∀ (s : State) (n : Nat), (s.m.tetherUp = false ∨ n = 0 → exec (.testFrame n) s = .next s) ∧
    (s.m.tetherUp = true → n ≠ 0 → ∃ t : M, t.tth = { s.m.tth with errorAt := some s.m.time.tb } ∧ t.bit F.TTH_EVT_ber = true ∧ s.leaves (.testFrame n) t)) ∧
  (∀ (s : State) (lanes : Nat), lanes < 4 → (s.m.tetherUp = false → exec (.tetherLinkDown lanes) s = .next s) ∧
    (s.m.tetherUp = true → lanes = 0 →
      s.leaves (.tetherLinkDown lanes) (s.m.tetherFalls.pairFollows s.m.unitState (!(s.m.ibx.handover == .none)))) ∧
    (s.m.tetherUp = true → lanes ≠ 0 → s.m.get F.TTH_STAT_lanes = lanes → exec (.tetherLinkDown lanes) s = .next s) ∧
    (s.m.tetherUp = true → lanes ≠ 0 → s.m.get F.TTH_STAT_lanes ≠ lanes → ∃ t : M, t.get F.TTH_STAT_lanes = lanes ∧ t.tetherUp = true ∧
      t.bit F.TTH_EVT_lane = true ∧ t.tth = s.m.tth ∧ s.leaves (.tetherLinkDown lanes) t)) ∧
  (∀ m : M, m.tetherUp = true → ∃ t : M, t.tetherUp = false ∧ t.get F.TTH_STAT_lanes = 0 ∧ t.tth.downSince = some m.time.tb ∧ t.tth.unacked = [] ∧
    t.tth.rxFrames = 0 ∧ t.tth.rxOwed = 0 ∧ t.tth.rxAckBy = none ∧ t.bit F.TTH_EVT_link = true ∧ t.bit F.TTH_EVT_lane = true ∧
    t.get F.TTH_STAT_link = (if m.bit F.TTH_CTRL_en = true ∧ m.domainOn 12 = true then 1 else 0) ∧
    m.tetherFalls = (if m.unitState = 5 then t.fencedAddresses else t).handoverLost) ∧
  (∀ m : M, m.handoverLost = m.handoverCancel) ∧
  (∀ s : State, (s.m.bit F.TTH_CTRL_en = false ∨ s.m.domainOn 12 = false → exec .tetherLinkUp s = .next s) ∧
    (s.m.bit F.TTH_CTRL_en = true → s.m.domainOn 12 = true → s.m.tetherUp = false → ∃ t : M, t.tetherUp = true ∧ t.get F.TTH_STAT_lanes = 3 ∧ t.tth = { s.m.tth with
        txSeq := 1
        rxSeq := 1
        unacked := []
        downSince := none
        rxFrames := 0
        rxBytes := 0
        rxItems := [] } ∧ t.bit F.TTH_EVT_link = true ∧ t.boot = { s.m.boot with linkAt := some (s.m.boot.linkAt.getD s.m.time.tb) } ∧
      s.leaves .tetherLinkUp t.stateFrame) ∧
    (s.m.bit F.TTH_CTRL_en = true → s.m.domainOn 12 = true → s.m.tetherUp = true → ∃ t : M, t.tetherUp = true ∧ t.get F.TTH_STAT_lanes = 3 ∧
      t.tth = s.m.tth ∧ t.out = s.m.out ∧ (s.m.get F.TTH_STAT_lanes ≠ 3 → t.bit F.TTH_EVT_lane = true) ∧
      t.boot = { s.m.boot with linkAt := some (s.m.boot.linkAt.getD s.m.time.tb) } ∧ s.leaves .tetherLinkUp t)) ∧
  (∀ s : State, (s.m.unitState = 2 → ∀ u, s.m.tth.downSince = some u → u + 1000000 ≤ s.m.time.tb → s.leaves .detachTimeout (s.m.setUnit 3)) ∧
    (s.m.unitState ≠ 2 ∨ (∀ u, s.m.tth.downSince = some u → s.m.time.tb < u + 1000000) → exec .detachTimeout s = .next s)) ∧
  (∀ (s : State), s.m.time.tai % (max 1 (s.m.eff F.TTH_CTRL_period) * 1000000) ≠ 0 → exec .mirrorCycleStart s = .next s) ∧
  (∀ (s : State), s.m.time.tai % (max 1 (s.m.eff F.TTH_CTRL_period) * 1000000) = 0 → ∃ x : M, x = ({ (s.m.withPair M.handoverCycleDone).transferAt [Reg.TTH_CTRL.addr 0 0 0] with
      pts := x.pts
      tth := { ((s.m.withPair M.handoverCycleDone).transferAt [Reg.TTH_CTRL.addr 0 0 0]).tth with capture := [] } } : M) ∧
    (∀ p ∈ x.pts.points, p.2.mirrorEff = p.2.mirror) ∧
    (x.bit F.TTH_CTRL_en = false ∨ x.tetherUp = false ∨ x.unitState ≠ 4 → s.leaves .mirrorCycleStart x) ∧
    (x.bit F.TTH_CTRL_en = true → x.tetherUp = true → x.unitState = 4 → ∃ y : M,
      y = { x.putB F.TTH_STAT_mode x.fullMode with tth := { x.tth with txCycle := (x.tth.txCycle + 1) % 2 ^ 32 } } ∧
      s.leaves .mirrorCycleStart (if x.fullMode then y.fullCycle else y.serviceCycle)))

/-- HEALTH_PUBLISH publishes the health word, ends the driving of safe values when every required bit reads 1, and acts on a lost one: a
trip alone as IBX_CTRL.trip_act says, any other bit always; a silent peer is forgotten; READBACK shows a line that does not
follow; SWITCH, MAINT and RESUME are answered in their order of refusals; HANDOVER frames and timeouts move the lease or end the
hand-over; TAKEBACK and FAILED_RECOVERY act after their hold-off.  A hand-over that asks while the tether is down ends as on a cancel (log 109). -/
def Obligations.UnitsChangeStateAndHandOver : Prop :=
  (∀ (s : State) (bits : Nat) (okNow : Bool), bits = s.m.healthBits → okNow = decide (fieldN bits 13 7 = 127) →
    ∃ t : M, t.ibx = { s.m.ibx with
      okSince := if okNow then some (s.m.ibx.okSince.getD s.m.time.tb) else none } ∧ t.get F.IBX_HEALTH_health = (s.m.unitState * 2 ^ 28 + bits + (fieldN (s.m.get F.IBX_HEALTH_health) 0 8 + 1) % 256) % 2 ^ 32 ∧
      t.unitState = s.m.unitState ∧
      (tbit (s.m.get F.IBX_HEALTH_health) 24 = true → tbit bits 24 = false → t.bit F.IBX_EVT_wit = true) ∧
      ∀ was handing, was = s.m.unitState → handing = !(s.m.ibx.handover == .none) →
      (okNow = true → s.leaves .healthPublish ((t.driveSafe false).pairFollows was handing)) ∧
      (okNow = false → was = 6 ∨ was = 7 → s.leaves .healthPublish (t.pairFollows was handing)) ∧
      (okNow = false → was = 4 → (∃ k ∈ [13, 14, 16, 17, 18, 19], tbit bits k = false) →
        s.leaves .healthPublish ((t.handOverOrSafe .health).pairFollows was handing)) ∧
      (okNow = false → was = 4 → (∀ k ∈ [13, 14, 16, 17, 18, 19], tbit bits k = true) → t.bit F.IBX_CTRL_trip_act = true →
        s.leaves .healthPublish ((t.handOverOrSafe .trip).pairFollows was handing)) ∧
      (okNow = false → was = 4 → (∀ k ∈ [13, 14, 16, 17, 18, 19], tbit bits k = true) → t.bit F.IBX_CTRL_trip_act = false →
        s.leaves .healthPublish ((t.driveSafe false).pairFollows was handing)) ∧
      (okNow = false → was ∉ [4, 6, 7] → t.bit F.IBX_CTRL_en = true → s.leaves .healthPublish ((t.setUnit 6).pairFollows was handing)) ∧
      (okNow = false → was ∉ [4, 6, 7] → t.bit F.IBX_CTRL_en = false → s.leaves .healthPublish (t.pairFollows was handing))) ∧
  (∀ (m : M) (c : HandoverCause), (m.peerEligible = true → m.handOverOrSafe c = m.startHandover c) ∧
    (m.peerEligible = false → m.handOverOrSafe c = if c = .health then m.driveSafe true else m) ∧
    (m.ibx.handover ≠ .none → m.startHandover c = m) ∧
    (m.ibx.handover = .none → ∀ m1 : M, m1 = { m with ibx := { m.ibx with handover := .requested c } } →
      (m.tetherUp = true → m.startHandover c = m1.sendTether (.handover 1)) ∧ (m.tetherUp = false → m.startHandover c = m1.handoverCancel)) ∧
    (∀ on, m.ibx.healthSafe = on → m.driveSafe on = m) ∧
    (m.ibx.healthSafe = false → m.driveSafe true = ({ m with ibx := { m.ibx with healthSafe := true } } : M).safeChanged) ∧
    (m.ibx.healthSafe = true → m.driveSafe false = ({ m with
      ibx := { m.ibx with healthSafe := false }
      exe := { m.exe with tasks := m.exe.tasks.map (fun t => (t.1, { t.2 with released := false })) } } : M).safeChanged) ∧
    (m.unitState ≠ 4 ∨ m.ibx.handover ≠ .none ∨ m.peerEligible = false ∨
      (m.ibx.healthSafe = false ∧ (m.get F.EXE_STAT_state ≠ 3 ∨ m.bit F.IBX_CTRL_trip_act = false)) → m.heldHandover = m) ∧
    (m.unitState = 4 → m.ibx.handover = .none → m.peerEligible = true →
      (m.ibx.healthSafe = true → m.heldHandover = m.startHandover .health) ∧
      (m.ibx.healthSafe = false → m.get F.EXE_STAT_state = 3 → m.bit F.IBX_CTRL_trip_act = true → m.heldHandover = m.startHandover .trip))) ∧
  (∀ (s : State), (∀ u, s.m.ibx.peerAt = some u → u + 10000000 < s.m.time.tb → ∃ t : M, t.ibx = { s.m.ibx with
      peerAt := none
      prefSince := none } ∧ t.get F.IBX_PHEALTH_health = 0 ∧ t.bit F.IBX_EVT_peer = true ∧ s.leaves .peerSilence t) ∧
    ((∀ u, s.m.ibx.peerAt = some u → s.m.time.tb ≤ u + 10000000) → exec .peerSilence s = .next s)) ∧
  (∀ (s : State) (follows : Bool) (n : Nat), n = s.m.ibx.rbLine → n < 64 →
    (s.m.leased = true ∨ s.m.ibx.selfTest = false → exec (.readback follows) s = .next s) ∧
    (s.m.leased = false → s.m.ibx.selfTest = true → ∃ t : M, t.bitOf F.LIO_RBF_rbf (n % 32) (n / 32) = !follows ∧ t.ibx = { s.m.ibx with rbLine := (n + 1) % 64 } ∧
      (follows = false → s.m.bitOf F.LIO_RBF_rbf (n % 32) (n / 32) = false → t.bit F.LIO_EVT_rbf = true) ∧ s.leaves (.readback follows) t)) ∧
  (∀ (s : State) (by_ : Master) (w : Who) (c : Instr) (op : Nat), s.m.accepts by_ w (Reg.IBX_CMD.addr 0 0 0) true →
    (c, op) ∈ [(Instr.switch by_, 1), (.maint by_, 2), (.resume by_, 3)] →
    s.does c (fun e => if op = 1 then e.cmdSwitch.pairFollows e.unitState (!(e.ibx.handover == .none)) else if op = 2 then e.cmdMaint else e.cmdResume)) ∧
  (∀ m : M, (m.bit F.IBX_CMD_STAT_busy = true → m.cmdSwitch = m ∧ m.cmdMaint = m ∧ m.cmdResume = m) ∧
    (m.bit F.IBX_CMD_STAT_busy = false →
      (m.unitState ≠ 4 → m.cmdSwitch = m.ibxResult 3) ∧
      (m.unitState = 4 → m.ibx.handover ≠ .none → m.cmdSwitch = m.ibxResult 1) ∧
      (m.unitState = 4 → m.ibx.handover = .none → m.peerReadyFor = false → m.cmdSwitch = m.ibxResult 2) ∧
      (m.unitState = 4 → m.ibx.handover = .none → m.peerReadyFor = true → m.cmdSwitch = ((m.ibxResult 0).put F.IBX_CMD_STAT_busy 1).startHandover .switch) ∧
      (m.unitState = 4 → m.cmdMaint = m.ibxResult 3) ∧ (m.unitState ≠ 4 → m.cmdMaint = (m.setUnit 7).ibxResult 0) ∧
      (m.unitState ≠ 7 → m.cmdResume = m.ibxResult 3) ∧
      (m.unitState = 7 → m.cmdResume = (if m.bit F.SYS_SLOT_peer_present then m.enterSyncing else m.setUnit 0).ibxResult 0)) ∧
    (∀ e < 8, (m.ibxResult e).get F.IBX_CMD_STAT_err = e ∧ (m.ibxResult e).bit F.IBX_CMD_STAT_busy = false)) ∧
  (∀ (s : State) (seq : Nat) (good : Bool), s.leaves (.handoverRequest seq good) (s.m.tetherTake seq good (fun a =>
      a.sendTether (.handover (if a.unitState = 2 ∧ a.eligible = true ∧ a.bit F.LIO_STAT_warn = false then 2 else 3)))) ∧
    s.leaves (.handoverReady seq good) ((s.m.tetherTake seq good M.handoverReady).pairFollows s.m.unitState (!(s.m.ibx.handover == .none))) ∧
    s.leaves (.handoverCancel seq good) ((s.m.tetherTake seq good M.handoverCancel).pairFollows s.m.unitState (!(s.m.ibx.handover == .none)))) ∧
  (∀ m : M, (m.ibx.handover = .requested .extraction → m.handoverReady = m.releaseToPeer .extraction ∧ m.handoverCancel = m.releaseToPeer .extraction) ∧
    (∀ c, m.ibx.handover = .requested c → c ≠ .extraction → m.handoverReady = { m with ibx := { m.ibx with handover := .completing c } }) ∧
    (∀ c, (m.ibx.handover = .requested c ∨ m.ibx.handover = .completing c) → ∀ m1 : M, m1 = { m with ibx := { m.ibx with handover := .none } } →
      (c = .health ∨ c = .trip → m.handoverCancel = m1.driveSafe true) ∧ (c = .reset → m.handoverCancel = m.releaseToPeer .reset) ∧
      (c = .takeback ∨ c = .switch → ∀ m2 : M, m2 = (if m.get F.UPD_STAT_pair = 2 then (m1.put F.UPD_STAT_pair 5).put F.UPD_STAT_err 0x2E else m1) →
        m.handoverCancel = if c = .switch then m2.ibxResult 0 else m2)) ∧
    ((m.ibx.handover = .none ∨ ∃ c u, m.ibx.handover = .released c u) → m.handoverReady = m ∧ m.handoverCancel = m) ∧
    (∀ c, ∃ t : M, t = m.dropLease.sendRelease (m.get F.IBX_EPOCH_epoch) (1 - m.slotByte) ∧ t.get F.IBX_STAT_lease = 0 ∧
      m.releaseToPeer c = { t with ibx := { t.ibx with handover := .released c (m.time.tb + 30000000) } })) ∧
  (∀ (m : M), ((∀ c u, m.ibx.handover ≠ .released c u) → m.handoverDone = m) ∧
    (∀ c u, m.ibx.handover = .released c u → m.boot.resetWaits = false → ∃ t : M, t.bit F.IBX_EVT_tb = true ∧
      t.ibx = { m.ibx with handover := .none } ∧ t.unitState = m.unitState ∧ t.tth = m.tth ∧
      (c = .switch → t.bit F.IBX_CMD_STAT_busy = false ∧ t.get F.IBX_CMD_STAT_err = 0) ∧
      m.handoverDone = (if m.unitState = 4 then (if c = .trip ∨ c = .health then t.setUnit 6 else t.setUnit 2) else t).withdraw)) ∧
  (∀ (s : State), (∀ c u, s.m.ibx.handover = .released c u → s.m.time.tb < u) →
    s.leaves .handoverTimeout (s.m.pairFollows s.m.unitState (!(s.m.ibx.handover == .none)))) ∧
  (∀ (s : State) (c : HandoverCause) (u : Nat) (a x : M), s.m.ibx.handover = .released c u → u ≤ s.m.time.tb →
      a = { s.m with ibx := { s.m.ibx with handover := .none } } → x = (if c = .switch then a.ibxResult 0 else a) →
      (s.m.boot.resetWaits = true → s.leaves .handoverTimeout ((x.applyReset 3 false).pairFollows s.m.unitState true)) ∧
      (s.m.boot.resetWaits = false → s.m.unitState = 4 → s.leaves .handoverTimeout ((x.setUnit 5).fencedAddresses.pairFollows 4 true)) ∧
      (s.m.boot.resetWaits = false → s.m.unitState ≠ 4 → s.leaves .handoverTimeout (x.pairFollows s.m.unitState true))) ∧
  (∀ (s : State) (hold : Nat), hold = (if s.m.get F.IBX_CTRL_holdoff = 0 then 1 else s.m.get F.IBX_CTRL_holdoff) * 1000000000 →
    (∀ u, s.m.ibx.prefSince = some u → u + hold ≤ s.m.time.tb → s.m.unitState = 4 → s.m.ibx.handover = .none →
      s.leaves .takeback ((s.m.startHandover .takeback).pairFollows 4 false)) ∧
    ((∀ u, s.m.ibx.prefSince = some u → s.m.time.tb < u + hold) ∨ s.m.unitState ≠ 4 ∨ s.m.ibx.handover ≠ .none →
      s.leaves .takeback (s.m.pairFollows s.m.unitState (!(s.m.ibx.handover == .none)))) ∧
    (s.m.unitState = 6 → ∀ u, s.m.ibx.okSince = some u → u + 10000000000 ≤ s.m.time.tb →
      s.leaves .failedRecovery (if s.m.bit F.SYS_SLOT_peer_present then s.m.enterSyncing else s.m.setUnit 0)) ∧
    (s.m.unitState ≠ 6 ∨ (∀ u, s.m.ibx.okSince = some u → s.m.time.tb < u + 10000000000) → exec .failedRecovery s = .next s)) ∧
  (∀ (m : M) (was : Nat) (handing : Bool), m.get F.UPD_STAT_pair = 0 ∨ 3 ≤ m.get F.UPD_STAT_pair → m.pairFollows was handing = m)

/-! ### Lines, lever and input switch (chapter 13) -/

/-- ENA and VIN move the input switch: below 15 V it opens, at 15 V or above it closes while ENA is asserted.  LIO_ENABLE starts and ends the lines: while run = 0 no line drives and none is sampled.  A new level
updates the line's input entries (a forced one keeps its value), a PWM line takes period and duty at the
end of its period.  The lever,
or ENA lost without a warning, raises the extraction warning, releases the lease and ends the service; the lever closed again ends the
warning and brings the unit up again (as far as log 111 reads it).
Lines driven by the module itself, and ENA and shutdown with the lease, follow the model's readings (logs 57, 61). -/
def Obligations.LinesLeverAndInputSwitchAct : Prop :=
  (∀ s : State, exec .enaAssert s = .next { s with m := ({ s.m with lio := { s.m.lio with inSwitch := true } } : M).put F.LIO_STAT_ena 1 }) ∧
  (∀ (s : State) (vin : Nat), vin < 4096 → exec (.vinLow vin) s =
    .next { s with m := ({ s.m with lio := { s.m.lio with inSwitch := s.m.lio.inSwitch && decide (1500 ≤ vin) } } : M).put F.PMC_SUP_STAT_vin vin }) ∧
  (∀ (s : State) (vin : Nat), vin < 4096 →
    (s.m.bit F.LIO_STAT_ena = true → 1500 ≤ vin → exec (.vinRecover vin) s =
      .next { s with m := ({ s.m with lio := { s.m.lio with inSwitch := true } } : M).put F.PMC_SUP_STAT_vin vin }) ∧
    (s.m.bit F.LIO_STAT_ena = false ∨ vin < 1500 → exec (.vinRecover vin) s = .next { s with m := s.m.put F.PMC_SUP_STAT_vin vin })) ∧
  (∀ (s : State) (present : Bool), exec (.peerPresence present) s =
    .next { s with m := s.m.put F.SYS_SLOT_peer_present (if present = true then 1 else 0) }) ∧
  (∀ (s : State) (by_ : Master) (w : Who) (en : Bool), s.m.accepts by_ w (Reg.LIO_CTRL.addr 0 0 0) true →
    s.does (.lioEnable by_ en) (fun e => (e.wr .LIO_CTRL (e.rd .LIO_CTRL)).lioEnable en)) ∧
  (∀ m : M,
    (m.domainOn 14 = false ∨ m.bit F.LIO_CTRL_en = true → m.lioEnable true = m.put F.LIO_CTRL_en 1) ∧
    (m.domainOn 14 = true → m.bit F.LIO_CTRL_en = false → m.lioEnable true = M.pwmAllStill ((List.range 64).foldl (fun a n => a.lioInput n (tbit a.lio.pins n))
      { m.put F.LIO_CTRL_en 1 with lio := { m.lio with
                                              driven := []
                                              pwm := []
                                              funcSeen := false
                                              pinAt := (List.range 64).map (fun n => (n, m.time.tb)) } })) ∧
    (m.lioRun = false → m.lioEnable false = m.captureDriven.put F.LIO_CTRL_en 0) ∧
    (m.lioRun = true → m.lioEnable false = (m.captureDriven.put F.LIO_CTRL_en 0).lioStale)) ∧
  (∀ (m : M) (n : Nat), n < 64 →
    (∀ p b, m.linePresents n = some p → m.lineDrive n = some b → aget n m.captureDriven.lio.driven = some b) ∧
    (m.linePresents n = none ∨ m.lineDrive n = none → aget n m.captureDriven.lio.driven = aget n m.lio.driven)) ∧
  (∀ (m : M) (k : Nat), m.lioRun = false → m.pinWord k = 0 ∧ m.drvWord k = 0 ∧ ∀ n, m.lineDrive n = none) ∧
  (∀ (s : State) (n : Nat) (level : Bool), n < 64 → ∀ m1 : M, m1 = { s.m with lio := { s.m.lio with
      pins := putBitN s.m.lio.pins n level
      pinAt := if tbit s.m.lio.pins n = level then s.m.lio.pinAt else aput n s.m.time.tb s.m.lio.pinAt } } →
    (s.m.lioRun = false ∨ s.m.get F.LIO_CFG_func n = 0 → exec (.lioInputChange n level) s = .next { s with m := m1 }) ∧
    (s.m.lioRun = true → s.m.get F.LIO_CFG_func n ≠ 0 →
      s.leaves (.lioInputChange n level) ((s.m.lineInputs n).foldl (fun a id => a.backingUpdate id (if level = true then 1 else 0) 0) m1))) ∧
  (∀ (m : M) (n id : Nat), n < 64 → m.get F.LIO_CFG_func n ≠ 0 → (id ∈ m.lineInputs n ↔
    ∃ p, (id, p) ∈ m.pts.points ∧ p.backing = 2 ∧ p.ref = n ∧ p.dir = 0 ∧ p.kind = 0)) ∧
  (∀ (m : M) (id st : Nat) (v : Word) (p : PointRec), m.point id = some p →
    (m.forceOf id = none → m.backingUpdate id v st = m.putEntry id { p with
      value := keepKind p.kind v
      status := st
      age := 0 }) ∧
    (∀ i f, m.forceOf id = some (i, f) → p.dir = 0 →
      m.backingUpdate id v st = ({ m with pts := { m.pts with forces := aput i { f with requested := keepKind p.kind v, reqAge := 0 } m.pts.forces } }
        : M).putEntry id { p with status := st }) ∧
    (∀ i f, m.forceOf id = some (i, f) → p.dir ≠ 0 → m.backingUpdate id v st = m.putEntry id { p with status := st })) ∧
  (∀ (m : M) (n : Nat), n < 16 →
    (m.get F.LIO_CFG_func n ≠ 3 ∨ m.lioRun = false ∨ m.pwmPulses n = true → m.pwmStill n = m) ∧
    (m.get F.LIO_CFG_func n = 3 → m.lioRun = true → m.pwmPulses n = false → m.pwmStill n = m.pwmLoad n) ∧
    (m.pwmPulses n = true ↔ m.get F.LIO_CFG_func n = 3 ∧ m.linePresents n ≠ none ∧
      ∃ per duty start, aget n m.lio.pwm = some (per, (duty, start)) ∧ 20 ≤ per ∧ 0 < duty ∧ duty < per)) ∧
  (∀ (s : State) (n u d : Nat), n < 64 →
    u = (if s.m.get F.PMC_LVL_STAT_level = 0 then 8 else if s.m.get F.PMC_LVL_STAT_level = 1 then 2 else 1) →
    d = ((s.m.lineOutput n).map (fun p => p.2.value.toNat)).getD 0 →
    (s.m.get F.LIO_CFG_func n ≠ 3 ∨ 16 ≤ n → exec (.pwmPeriodEnd n) s = .next s) ∧
    (s.m.get F.LIO_CFG_func n = 3 → n < 16 → exec (.pwmPeriodEnd n) s =
      .next { s with m := { s.m.transferAt [Reg.LIO_PWM.addr n 0 0] with
                              lio := { s.m.lio with pwm := aput n (s.m.get F.LIO_PWM_period n / u * u, (d / u * u, s.m.time.tb)) s.m.lio.pwm } } })) ∧
  (∀ (m : M) (n per duty start : Nat), aget n m.lio.pwm = some (per, (duty, start)) →
    (per < 20 ∨ duty = 0 → m.pwmLevel n = false) ∧ (20 ≤ per → per ≤ duty → m.pwmLevel n = true) ∧
    (20 ≤ per → 0 < duty → duty < per → (m.pwmLevel n = true ↔ (m.time.tb - start) / 5 % per < duty))) ∧
  (∀ m : M, m.powerNote = m.note 0x0A 1 0
    [m.get F.LIO_STAT_lever, m.get F.LIO_STAT_warn + 2 * m.get F.PMC_SUP_STAT_warn, m.get F.PMC_SUP_STAT_vin]) ∧
  (∀ s : State,
    (s.m.bit F.LIO_STAT_ena = false → exec .enaDeassert s = .next s) ∧
    (s.m.bit F.LIO_STAT_ena = true → ∀ m1 : M, m1 = ({ s.m with lio := { s.m.lio with inSwitch := false } } : M).put F.LIO_STAT_ena 0 →
      (s.m.bit F.LIO_STAT_warn = true → exec .enaDeassert s = .next { s with m := m1 }) ∧
      (s.m.bit F.LIO_STAT_warn = false → ∀ a b : M,
        a = (if m1.leased = true then (({ m1.dropLease with ibx := { m1.dropLease.ibx with handover := .none } } : M).sendRelease
          (m1.get F.IBX_EPOCH_epoch) 255).setUnit 5 else m1).lioEnable false →
        b = ({ (a.put F.LIO_STAT_warn 1).flag F.LIO_EVT_ext 0x03 with lio := { a.lio with extraction := .warned a.time.tb } } : M).powerNote →
        (b.bit F.PMC_SUP_STAT_warn = true → s.leaves .enaDeassert b.endService) ∧
        (b.bit F.PMC_SUP_STAT_warn = false → s.leaves .enaDeassert b.supplyWarns.endService)))) ∧
  (∀ s : State,
    (s.m.bit F.LIO_STAT_lever = false → exec .leverOpen s = .next s) ∧
    (s.m.bit F.LIO_STAT_lever = true → ∀ m2 : M,
      m2 = ({ ((s.m.put F.LIO_STAT_lever 0).put F.LIO_STAT_warn 1).flag F.LIO_EVT_ext 0x03 with
                lio := { s.m.lio with extraction := .warned s.m.time.tb } } : M).powerNote →
      (m2.leased = false → s.leaves .leverOpen m2.endService) ∧
      (m2.leased = true → s.leaves .leverOpen
        ((({ m2 with ibx := { m2.ibx with handover := .none } } : M).startHandover .extraction).releaseToPeer .extraction).endService))) ∧
  (∀ (m a b : M), a = (((m.exeStop).retainSave.meterSave).closeSessions 6).lioEnable false →
    b = (List.range 8).foldl (fun (x : M) n => if x.domainOn (if n < 4 then 9 else 10) = true then x.canDisable n else x) a →
    m.endService = (if b.domainOn 11 = true then
      { b.meterStop.supplyEnable false with
          lio := { (b.meterStop.supplyEnable false).lio with extraction := .disabled (b.meterStop.supplyEnable false).withdrawAt } }
      else { b with lio := { b.lio with extraction := .disabled b.withdrawAt } })) ∧
  (∀ m : M, (∀ t, m.lio.extraction = .warned t → m.withdrawAt = t + 20000000) ∧ (∀ t, m.lio.extraction = .disabled t → m.withdrawAt = t ∧
      (m.withdrawing = true ↔ t ≤ m.time.tb)) ∧ (m.lio.extraction = .none → m.withdrawAt = m.time.tb + 20000000)) ∧
  (∀ s : State,
    (s.m.bit F.LIO_STAT_warn = false ∨ s.m.bit F.LIO_STAT_ena = false → exec .leverClose s = .next { s with m := s.m.put F.LIO_STAT_lever 1 }) ∧
    (s.m.bit F.LIO_STAT_warn = true → s.m.bit F.LIO_STAT_ena = true → ∀ a m3 m4 : M,
      a = (((s.m.put F.LIO_STAT_lever 1).put F.LIO_STAT_warn 0).flag F.LIO_EVT_ext_end 0x22).powerNote →
      m3 = { a with lio := { s.m.lio with extraction := .none } } →
      m4 = (if m3.boot.resetWaits = true ∨ m3.ibx.handover = .none then m3 else { m3 with ibx := { m3.ibx with handover := .none } }) →
      (m4.bit F.SYS_SLOT_peer_present = true → s.leaves .leverClose m4.enterSyncing.bringUpAgain) ∧
      (m4.bit F.SYS_SLOT_peer_present = false → s.leaves .leverClose (m4.setUnit 0).bringUpAgain))) ∧
  (∀ m : M, m.bringUpAgain.boot = { m.boot with
      phase := .rising
      since := m.time.tb
      stepTimes := []
      linkAt := if m.tetherUp = true then some m.time.tb else none
      step6At := none
      claimAt := none
      step12At := none
      settings := m.regs.filter (fun p => keptSetting p.1) } ∧
    m.bringUpAgain.bit F.SYS_BOOT_STAT_done = false ∧ m.bringUpAgain.get F.SYS_BOOT_STAT_step = 4 ∧ m.bringUpAgain.pts = m.pts ∧
    m.bringUpAgain.ibx = m.ibx ∧ m.bringUpAgain.exe = m.exe ∧ m.bringUpAgain.fab = m.fab)

/-! ### Resets and bring-up (chapter 14) -/

/-- Each reset keeps and loses what Table 14-2 states, page commits in progress being taken first, and shows its cause and count.  Module reset and core restart ask for key and
sender, a refused write is counted; KICK and MANAGEMENT_WATCHDOG keep and end the watchdog time.  BRING_UP does the step after the last one
completed, halts, waits or goes on with a failure as Tables 14-4 and 14-5 say.
Step times as operands and SP's address are the model's readings (log 59). -/
def Obligations.ResetsAndBringUpProceed : Prop :=
  (∀ (m x : M) (cause : Nat) (power : Bool), cause < 16 → x = m.applyReset cause power →
    x.slotB = m.slotB ∧ x.pts.retention = m.commitsTaken.pts.retention ∧ x.pts.forceStore = m.commitsTaken.forcesStored ∧
    x.krov.accounts = m.commitsTaken.krov.accounts ∧ x.ibx.pairStore = m.ibx.pairStore ∧ x.hst.written = m.hst.written ∧
    x.krov.net = m.krov.net ∧ x.mtr.saved = m.mtr.saved ∧ x.loop.kept = m.loop.kept ∧ x.img.bank0 = m.img.bank0 ∧ x.img.bank1 = m.img.bank1 ∧
    x.upd.boot = m.upd.boot ∧ x.kv.slots = m.kv.slots ∧ x.boot.marker = m.boot.marker ∧ x.boot.epochSaved = m.boot.epochSaved ∧
    x.time.calDay = m.time.calDay ∧ x.time.calSec = m.time.calSec ∧ x.nvp = m.nvp.afterReset ∧
    x.pts.points = [] ∧ x.pts.shares = [] ∧ x.pts.forces = [] ∧ x.krov.sessions = [] ∧ x.krov.transfers = [] ∧ x.krov.held = [] ∧ x.exe = ExecState.reset ∧
    x.loop.channels = LoopState.reset.channels ∧ x.mtr.circuits = MeterState.reset.circuits ∧ x.can = List.replicate 8 CanState.reset ∧
    x.eth = EthState.reset ∧ x.tth = TetherState.reset ∧ x.ibx.leaseEnd = none ∧ x.ev = EventState.reset ∧ x.kv.opened = none ∧
    x.boot.phase = .rising ∧ x.boot.mgmt = false ∧ x.boot.wipes = m.boot.wipes + 1 ∧
    x.get F.SYS_RST_STAT_cause = cause ∧ (power = true → x.get F.SYS_RST_STAT_count = 0 ∧ x.get F.SYS_RST_STAT_refused = 0) ∧
    (power = false → x.get F.SYS_RST_STAT_count = min (m.get F.SYS_RST_STAT_count + 1) 255 ∧
      x.get F.SYS_RST_STAT_refused = m.get F.SYS_RST_STAT_refused) ∧
    x.get F.SYS_SLOT_peer_present = m.get F.SYS_SLOT_peer_present ∧ x.get F.LIO_STAT_lever = m.get F.LIO_STAT_lever ∧
    x.get F.LIO_STAT_ena = m.get F.LIO_STAT_ena) ∧
  (∀ (m : M) (power : Bool), (m.kv.opened = none ∨ power = true → m.gatesReset power = m) ∧
    (∀ g u, m.kv.opened = some (g, u) → power = false → m.gatesReset power = m.kvNote none 3 g 3 false) ∧
    ∀ cause, (m.applyReset cause power).frec.log = (((m.closeSessions 7).commitsTaken).gatesReset power).frec.log) ∧
  (∀ (m : M) (cause a : Nat), a / 65536 ≠ 0x4004 → a ≠ Reg.SYS_SLOT.addr 0 0 0 → a ≠ Reg.LIO_STAT.addr 0 0 0 → a ≠ Reg.SYS_RST_STAT.addr 0 0 0 →
    a ≠ Reg.NVP_WEAR.addr 0 0 0 → aget a (m.applyReset cause true).regs = none) ∧
  (∀ (m : M) (cause a : Nat) (power : Bool), arising (((m.closeSessions 7).commitsTaken).gatesReset power).regs = true →
    a / 65536 = 0x4004 ∨ a = Reg.NVP_WEAR.addr 0 0 0 →
    aget a (m.applyReset cause power).regs = aget a m.regs) ∧
  (∀ (s : State) (x : M), x = s.m.applyReset 1 true → exec .powerOnReset s = .next { s with
    m := { x with boot := { x.boot with phase := .held } }
    sram := [] }) ∧
  (∀ s : State, (s.m.boot.phase ≠ .held → exec .powerOnResetRelease s = .next s) ∧
    (s.m.boot.phase = .held → ∀ a : M, a = { s.m with
        time := { s.m.time with vinPresent := true }
        boot := { s.m.boot with
          phase := .rising
          marker := false
          since := s.m.time.tb
          stepTimes := []
          mwdBy := s.m.time.tb + 1000000000 } } →
      exec .powerOnResetRelease s = .next { s with m :=
        (a.put F.SYS_RST_STAT_cause (if s.m.boot.marker = true then 2 else 1)).put F.SYS_SLOT_slot (if s.m.slotB = true then 1 else 0) })) ∧
  (∀ (s : State) (by_ : Master) (w : Who) (key : Nat), key < 65536 → s.m.accepts by_ w (Reg.SYS_RST_CMD.addr 0 0 0) true →
    (key = 0x9640 → (w.ini = 0 ∨ (w.ini = 3 ∧ (w.tag.owner0 = true ∨ w.tag.service255 = true))) →
      s.does (.moduleReset by_ key) (fun e => e.moduleReset) ∧ s.does (.coreRestart by_ key) (fun e => e.coreRestart)) ∧
    (key ≠ 0x9640 ∨ (w.ini ≠ 0 ∧ (w.ini ≠ 3 ∨ (w.tag.owner0 = false ∧ w.tag.service255 = false))) →
      s.does (.moduleReset by_ key) (fun e => e.count F.SYS_RST_STAT_refused) ∧
      s.does (.coreRestart by_ key) (fun e => e.count F.SYS_RST_STAT_refused))) ∧
  (∀ m : M, (m.unitState = 4 → m.peerReadyFor = true →
      m.moduleReset = ({ m with boot := { m.boot with resetWaits := true } } : M).startHandover .reset) ∧
    (m.unitState ≠ 4 ∨ m.peerReadyFor = false → m.moduleReset = m.applyReset 3 false)) ∧
  (∀ m x : M, x = m.coreRestart → x.krov.sessions = [] ∧ x.krov.transfers = [] ∧ x.krov.held = [] ∧ x.pts.subs = [] ∧ x.pts.notes = [] ∧ x.ev.stack0 = [] ∧
    x.ev.stack1 = [] ∧ x.boot.mgmt = false ∧ x.boot.wipes = m.boot.wipes + 1 ∧ x.get F.EVC_STAT_h0_lvl = 16 ∧ x.get F.EVC_STAT_h1_lvl = 16 ∧
    x.get F.SYS_RST_STAT_cause = 5 ∧ x.get F.SYS_RST_STAT_count = min (m.get F.SYS_RST_STAT_count + 1) 255 ∧
    x.exe = m.exe ∧ x.loop = m.loop ∧ x.mtr = m.mtr ∧ x.can = m.can ∧ x.tth = m.tth ∧ x.ibx = m.ibx ∧ x.pts.points = m.pts.points) ∧
  (∀ (s : State) (by_ : Master) (w : Who), s.m.accepts by_ w (Reg.SYS_MWD.addr 0 0 0) true →
    s.does (.kick by_) (fun e => { e.wr .SYS_MWD (e.rd .SYS_MWD) with
      boot := { e.boot with
        mwdBy := e.time.tb + max 100 (e.get F.SYS_MWD_tmo) * 1000000
        mwdLeft := e.boot.mwdLeft.map (fun _ => max 100 (e.get F.SYS_MWD_tmo) * 1000000) } })) ∧
  (∀ s : State,
    (s.m.boot.mgmt = true → s.m.domainOn 4 = true → s.m.boot.mwdLeft = none → s.m.boot.mwdBy ≤ s.m.time.tb → exec .managementWatchdog s = .next { s with
      m := s.m.applyReset 4 false
      sram := [] }) ∧
    (s.m.boot.mgmt = false ∨ s.m.domainOn 4 = false ∨ s.m.boot.mwdLeft ≠ none ∨ s.m.time.tb < s.m.boot.mwdBy → exec .managementWatchdog s = .next s)) ∧
  (∀ (s : State) (x : M), x = ({ s.m with
      regs := s.m.regs.filter (fun p => !(p.1 / 65536 == 0x4004))
      effs := s.m.effs.filter (fun p => !(p.1 / 65536 == 0x4004))
      time := { s.m.time with
        calDay := 0
        calSec := 0
        calSub := 0
        calLeap := false
        vinPresent := false
        vbakPresent := false
        mainsApplied := false } } : M) → s.leaves .backupReset x.setOsf) ∧
  (∀ (s : State) (c : BootChecks) (restarted : Prop),
    (restarted ↔ s.m.boot.mgmt = false ∧ 4 ≤ s.m.get F.SYS_BOOT_STAT_step ∧ s.m.domainOn 4 = true) →
    (s.m.boot.phase ∈ [BootPhase.held, .halted, .recovery] → exec (.bringUp c) s = .next s) ∧
    (s.m.boot.phase = .rising → s.m.bit F.PMC_SUP_STAT_warn = true → exec (.bringUp c) s = .next s) ∧
    (s.m.boot.phase = .service → ¬ restarted ∨ c.active = false → exec (.bringUp c) s = .next s) ∧
    (s.m.boot.phase = .service ∨ (s.m.boot.phase = .rising ∧ s.m.bit F.PMC_SUP_STAT_warn = false) → restarted → c.active = true →
      exec (.bringUp c) s = .next { s with m := { s.m with boot := { s.m.boot with
        mgmt := true
        mwdBy := s.m.time.tb + max 100 (s.m.get F.SYS_MWD_tmo) * 1000000 } } }) ∧
    (s.m.boot.phase = .rising → s.m.bit F.PMC_SUP_STAT_warn = false → restarted → c.active = false → exec (.bringUp c) s = .next s) ∧
    (s.m.boot.phase = .rising → s.m.bit F.PMC_SUP_STAT_warn = false → ¬ restarted → s.leaves (.bringUp c) (s.m.nextStep c))) ∧
  (∀ (m : M) (n : Nat), n < 16 → (m.bootStep n).get F.SYS_BOOT_STAT_step = n ∧
    (m.bootStep n).boot = { m.boot with stepTimes := m.boot.stepTimes ++ [(m.time.tb - m.boot.since) / 1000000] }) ∧
  (∀ (m : M) (code : Nat), code < 256 → 0 < code → (m.bootFail code).boot = m.boot ∧
    (m.bootFail code).get F.SYS_BOOT_STAT_fail = if m.get F.SYS_BOOT_STAT_fail = 0 then code else m.get F.SYS_BOOT_STAT_fail) ∧
  (∀ (m : M) (c : BootChecks), m.get F.SYS_BOOT_STAT_step = 1 →
    (c.aon = false → m.nextStep c = ({ m with boot := { m.boot with phase := .halted } } : M).bootFail 1) ∧
    (c.aon = true → m.nextStep c = (m.timeFromCalendar.put F.SYS_SLOT_slot (if m.slotB = true then 1 else 0)).bootStep 2)) ∧
  (∀ (m x : M) (c : BootChecks), m.get F.SYS_BOOT_STAT_step = 2 → x = (m.bringOn { c with faults := 0 } 6).vaultAtReset →
    (x.kv.lc = 5 → m.nextStep c = ({ x with boot := { x.boot with phase := .halted } } : M).bootFail 2) ∧
    (x.kv.lc ≠ 5 → m.nextStep c =
      (if c.vault = true then x.vaultCheck true else (x.vaultCheck false).bootFail 3).bootStep 3)) ∧
  (∀ (m x y : M) (c : BootChecks) (ok : Bool), m.get F.SYS_BOOT_STAT_step = 3 → x = (m.bringOn { c with faults := 0 } 13).restoreRecorder →
    x.startSet c.active c.other = (ok, y) →
    (ok = true → m.nextStep c = y.mgmtStarts.bootStep 4) ∧
    (ok = false → ∀ z t : M, z = (y.bringOn { c with faults := 0 } 15).bootFail 4 → t = { z with boot := { z.boot with phase := .recovery } } →
      m.nextStep c = if t.bit F.ETH_CTRL_en 2 = true then t else t.portEnable ⟨0, .system, none, false⟩ 2)) ∧
  (∀ (m a b d : M) (c : BootChecks) (bad : List Nat), m.get F.SYS_BOOT_STAT_step = 4 → bad = (List.range 8).filter m.regionBad →
    a = bad.foldl M.regionDefaults m → b = (if bad = [] then a else a.bootFail 5) →
    d = { b with regs := b.boot.settings.foldl (fun (l : List (Nat × Word)) (p : Nat × Word) => aput p.1 p.2 l) b.regs } →
    m.nextStep c = (if d.get F.IBX_EPOCH_epoch < d.boot.epochSaved then d.put F.IBX_EPOCH_epoch d.boot.epochSaved else d).bootStep 5) ∧
  (∀ (m : M) (r : Nat), m.regionBad r = true ↔ (1 ≤ r ∧ m.kv.lc ≠ 2 ∧ m.kv.lc ≠ 3) ∨
    ∃ p, p ∈ m.nvp.bad ∧ (regionPages r).1 ≤ p ∧ p ≤ (regionPages r).2) ∧
  (∀ (m a b d : M) (c : BootChecks), m.get F.SYS_BOOT_STAT_step = 5 → a = [7, 8, 15, 12].foldl (M.bringOn c) m →
    b = [(0, 7), (1, 8), (2, 15)].foldl (fun (x : M) (p : Nat × Nat) => if x.domainOn p.2 = true then x.applyPort p.1 else x) a →
    d = (if b.domainOn 12 = true then b.tetherEnable true else b).put F.IBX_CTRL_en 1 →
    m.nextStep c = ({ d with boot := { d.boot with step6At := some d.time.tb } } : M).bootStep 6) ∧
  (∀ (m : M) (c : BootChecks), m.get F.SYS_BOOT_STAT_step = 6 → m.nextStep c = ([0, 1, 2, 3, 5, 11, 9, 10, 14].foldl (M.bringOn c) m).bootStep 7) ∧
  (∀ (m : M) (c : BootChecks) (d : Nat), (m.pdState d = 1 → m.bringOn c d = m) ∧
    (m.pdState d ≠ 1 → ∀ a b : M, a = (m.putBit F.PMC_PD_REQ_on d true).setPd d 2 → b = { a with power := { a.power with busy := .domainOn d } } →
      m.bringOn c d = if tbit c.faults d = true then (b.pgoodTimeout d).bootFail 6 else b.powerGood d M.restoreConfig)) ∧
  (∀ (m : M) (c : BootChecks), m.get F.SYS_BOOT_STAT_step = 7 →
    (m.bit F.SYS_SLOT_peer_present = false → m.nextStep c = (m.put F.SYS_BOOT_STAT_alone 1).bootStep 8) ∧
    (m.bit F.SYS_SLOT_peer_present = true → m.ibx.peerAt = none → m.nextStep c = m) ∧
    (m.bit F.SYS_SLOT_peer_present = true → m.ibx.peerAt ≠ none →
      m.nextStep c = (if m.peerActive = true ∧ m.unitState = 0 then m.enterSyncing else m).bootStep 8)) ∧
  (∀ (m x y z : M) (c : BootChecks) (b : Nat) (ok ok2 : Bool), m.get F.SYS_BOOT_STAT_step = 8 → b = m.upd.boot.active → m.loadBank b = (ok, x) →
    x.loadBank (1 - b) = (ok2, y) →
    z = (if ok = true then (x.put F.SYS_BOOT_STAT_img_bank b).waltzRestore else if ok2 = true then
      (y.put F.SYS_BOOT_STAT_img_bank (1 - b)).waltzRestore else y.bootFail 7) →
    m.nextStep c = (if z.unitState = 1 ∧ z.ibx.peerAt ≠ none ∧ z.imagesMatch = false then z.bootFail 0x0B else z).bootStep 9) ∧
  (∀ (m : M) (b : Nat) (f e : Nat), m.imageChecks (m.bank b) = some (f, e) →
    m.loadBank b = (((m.imageResult f e).imageRecord b (m.bank b) f).get F.UPD_IMG_STAT_state == 1, (m.imageResult f e).imageRecord b (m.bank b) f)) ∧
  (∀ (m : M) (b : Nat), m.imageChecks (m.bank b) = none →
    m.loadBank b = ((m.finishFull b (m.bank b)).get F.UPD_IMG_STAT_state == 1, m.finishFull b (m.bank b))) ∧
  (∀ (m : M) (c : BootChecks), m.get F.SYS_BOOT_STAT_step = 9 →
    (m.unitState = 2 → m.nextStep c = m.bootDone 10) ∧ (m.unitState = 1 → m.nextStep c = m) ∧
    (m.unitState ≠ 1 → m.unitState ≠ 2 → (m.power.busy ≠ .idle → m.nextStep c = m) ∧
      (m.power.busy = .idle → m.get F.PMC_LVL_STAT_level < m.img.level → m.get F.PMC_LVL_STAT_err = 0 → m.nextStep c = m.levelRequest m.img.level) ∧
      (m.power.busy = .idle → m.img.level ≤ m.get F.PMC_LVL_STAT_level ∨ m.get F.PMC_LVL_STAT_err ≠ 0 →
        m.nextStep c = m.autoRun.bootStep 10))) ∧
  (∀ (m : M) (c : BootChecks),
    (m.get F.SYS_BOOT_STAT_step ∈ [10, 11] → m.unitState = 2 → m.nextStep c = m.bootDone 10) ∧
    (m.get F.SYS_BOOT_STAT_step = 10 → m.unitState ≠ 2 →
      m.nextStep c = if m.ethState 0 = ethUp ∨ m.ethState 1 = ethUp then m.bootStep 11 else m) ∧
    (m.get F.SYS_BOOT_STAT_step = 11 → m.unitState ≠ 2 → m.nextStep c = if m.unitState = 4 ∧ m.acting = true then
      ({ m with boot := { m.boot with step12At := some m.time.tb } } : M).bootStep 12 else m) ∧
    (m.get F.SYS_BOOT_STAT_step = 12 → m.nextStep c = if m.stationsOnline = true then m.bootStep 13 else m) ∧
    (m.get F.SYS_BOOT_STAT_step = 13 → m.nextStep c = m.bootDone 14)) ∧
  (∀ (m : M) (n : Nat), (m.bootDone n).boot.phase = .service ∧ ∃ l, m.bootDone n =
    ({ (m.bootStep n).put F.SYS_BOOT_STAT_done 1 with boot := { (m.bootStep n).boot with phase := .service } } : M).note 0x0B 5 0 l) ∧
  (∀ (s : State) (late : Prop), (late ↔ (s.m.boot.linkAt = none ∧ s.m.boot.since + 400000000 ≤ s.m.time.tb) ∨
      ∃ t, s.m.boot.linkAt = some t ∧ t + 20000000 ≤ s.m.time.tb) →
    (s.m.boot.phase = .rising → s.m.get F.SYS_BOOT_STAT_step = 7 → s.m.ibx.peerAt = none → late →
      exec .noPeerTimeout s = .next { s with m := (s.m.put F.SYS_BOOT_STAT_alone 1).bootStep 8 }) ∧
    (s.m.boot.phase ≠ .rising ∨ s.m.get F.SYS_BOOT_STAT_step ≠ 7 ∨ s.m.ibx.peerAt ≠ none ∨ ¬ late → exec .noPeerTimeout s = .next s)) ∧
  (∀ (s : State) (k : Nat), k = s.m.get F.SYS_BOOT_STAT_step →
    (s.m.boot.phase ≠ .rising ∨ k ∉ [10, 11, 12] → exec .bringUpTimeout s = .next s) ∧
    (s.m.boot.phase = .rising → k = 10 → ((∃ t, s.m.boot.step6At = some t ∧ t + 3000000000 ≤ s.m.time.tb) → 
        s.leaves .bringUpTimeout (({ s.m with boot := { s.m.boot with step6At := none } } : M).bootFail 9)) ∧
      ((∀ t, s.m.boot.step6At = some t → s.m.time.tb < t + 3000000000) → exec .bringUpTimeout s = .next s)) ∧
    (s.m.boot.phase = .rising → k = 11 → ((∃ t, s.m.boot.claimAt = some t ∧ t + 2000000000 ≤ s.m.time.tb) → s.m.ibx.witAt = none →
        s.leaves .bringUpTimeout (s.m.bootFail 0x0A)) ∧
      ((∀ t, s.m.boot.claimAt = some t → s.m.time.tb < t + 2000000000) ∨ s.m.ibx.witAt ≠ none → exec .bringUpTimeout s = .next s)) ∧
    (s.m.boot.phase = .rising → k = 12 → ((∃ t, s.m.boot.step12At = some t ∧ t + 1000000000 ≤ s.m.time.tb) →
        s.leaves .bringUpTimeout (((s.m.bootFail 0x0C).put F.SYS_BOOT_STAT_stn_miss 1).bootStep 13)) ∧
      ((∀ t, s.m.boot.step12At = some t → s.m.time.tb < t + 1000000000) → exec .bringUpTimeout s = .next s)))

/-! ### Calendar, trims and the backup domain (chapter 15) -/

/-- CALENDAR_SECOND moves the calendar on by module time, or alone without VIN and until step 2 of the bring-up sets module time from it, with leap seconds, changed offsets and the alarm, and holds
it at the end of 2399.  CALENDAR_SET checks the staged date and steps calendar and module time.  RTC_TIME_READ latches the date, the
holdover ends after its time, the trims follow their windows within ±17,180 steps, ALARM_RELEASE clears the latch, VBAK is watched.
The missed alarm for steps in either direction is the model's reading (log 73). -/
def Obligations.CalendarAndTrimsRun : Prop :=
  (∀ (s : State) (m0 : M), m0 = s.m.transferAt [Reg.RTC_LEAP.addr 0 0 0, Reg.RTC_CFG.addr 0 0 0] →
    (m0.bit F.RTC_STAT_end = true → exec .calendarSecond s = .next { s with m := m0 }) ∧
    (m0.bit F.RTC_STAT_end = false →
      (s.m.calendarAlone = true →
        s.leaves .calendarSecond (m0.setCalendar (s.m.time.calDay * 86400 + s.m.time.calSec + 1)).alarmTick) ∧
      (s.m.calendarAlone = false →
        (s.m.time.calLeap = true → ∀ m1 : M, m1 = (m0.setLeap (m0.get F.RTC_LEAP_tai_utc + 1) 0).flag F.RTC_EVT_leap 0x23 →
          s.leaves .calendarSecond (m1.setCalendar (m1.localTime m1.time.tai).1).alarmTick) ∧
        (s.m.time.calLeap = false →
          (s.m.eff F.RTC_LEAP_pend = 1 → m0.utc % 86400 = 0 → exec .calendarSecond s = .next { s with m := { m0 with time := { m0.time with
            calLeap := true
            calSub := 0 } } }) ∧
          (s.m.eff F.RTC_LEAP_pend = 2 → m0.utc % 86400 = 86399 → ∀ m1 : M,
            m1 = (m0.setLeap (m0.get F.RTC_LEAP_tai_utc - 1) 0).flag F.RTC_EVT_leap 0x23 →
            s.leaves .calendarSecond (m1.setCalendar (m1.localTime m1.time.tai).1).alarmTick) ∧
          ((s.m.eff F.RTC_LEAP_pend = 1 → m0.utc % 86400 ≠ 0) → (s.m.eff F.RTC_LEAP_pend = 2 → m0.utc % 86400 ≠ 86399) →
            ∀ before after : Nat, before = (s.m.localTime s.m.time.tai).1 → after = (m0.localTime s.m.time.tai).1 →
            (after = before → s.leaves .calendarSecond (m0.setCalendar after).alarmTick) ∧
            (after ≠ before → s.leaves .calendarSecond ((m0.setCalendar after).calendarStep before after))))))) ∧
  (∀ m : M, (m.calendarAlone = true ↔ m.time.vinPresent = false ∨ m.get F.SYS_BOOT_STAT_step ≤ 1) ∧ m.timeFromCalendar = { m with time := { m.time with
      tai := m.taiAt (m.time.calDay * 86400 + m.time.calSec) + m.time.calSub * 1000000000 / 32768
      slew := 0
      rateAcc := 0 } } ∧
    ∀ t, m.taiAt t = ((t : Int) + 946684800 - 60 * signedN (m.eff F.RTC_CFG_ofs) 12 + (m.eff F.RTC_LEAP_tai_utc : Int)).toNat * 1000000000) ∧
  (∀ (m : M) (tai : Nat), m.localTime tai =
    ((((tai / 1000000000 : Nat) : Int) - (m.eff F.RTC_LEAP_tai_utc : Int) + 60 * signedN (m.eff F.RTC_CFG_ofs) 12 - 946684800).toNat, tai % 1000000000)) ∧
  (∀ (m : M) (t : Nat),
    (t / 86400 ≤ 146096 → m.setCalendar t = { m with time := { m.time with
      calDay := t / 86400
      calSec := t % 86400
      calSub := 0
      calLeap := false } }) ∧
    (146096 < t / 86400 → (m.setCalendar t).bit F.RTC_STAT_end = true ∧
      (m.bit F.RTC_STAT_end = false → (m.setCalendar t).bit F.RTC_EVT_end = true) ∧ (m.setCalendar t).time = { m.time with
        calDay := 146096
        calSec := 86399
        calSub := 0
        calLeap := false })) ∧
  (∀ (m : M) (day hour min : Nat), m.alarmMatch day hour min = true ↔ m.bit F.RTC_ALM_en = true ∧
    (m.get F.RTC_ALM_day = 0 ∨ m.get F.RTC_ALM_day = (dateOf day).2.2) ∧ (m.get F.RTC_ALM_hour = 31 ∨ m.get F.RTC_ALM_hour = hour) ∧
    m.get F.RTC_ALM_min = min) ∧
  (∀ m : M,
    (m.time.calSec % 60 = 0 → m.alarmMatch m.time.calDay (m.time.calSec / 3600) (m.time.calSec / 60 % 60) = true →
      m.alarmTick = (m.put F.RTC_STAT_alm 1).flag F.RTC_EVT_alm 0x23) ∧
    (m.time.calSec % 60 ≠ 0 ∨ m.alarmMatch m.time.calDay (m.time.calSec / 3600) (m.time.calSec / 60 % 60) = false → m.alarmTick = m)) ∧
  (∀ (m : M) (old new : Nat),
    (m.alarmMatch (new / 86400) (new % 86400 / 3600) (new % 86400 / 60 % 60) = true →
      m.calendarStep old new = (m.demandShort.put F.RTC_STAT_alm 1).flag F.RTC_EVT_alm 0x23) ∧
    (m.alarmMatch (new / 86400) (new % 86400 / 3600) (new % 86400 / 60 % 60) = false →
      m.calendarStep old new = if m.alarmBetween (min old new) (max old new) = true then m.demandShort.flag F.RTC_EVT_alm_miss 0x23 else m.demandShort)) ∧
  (∀ (s : State) (by_ : Master) (w : Who), s.m.accepts by_ w (Reg.RTC_SET_CMD.addr 0 0 0) true →
    s.does (.calendarSet by_) (fun e => e.calendarSet)) ∧
  (∀ (m : M) (y mo d h mi sec : Nat), y = m.get F.RTC_SET_DATE_year → mo = m.get F.RTC_SET_DATE_month → d = m.get F.RTC_SET_DATE_day →
    h = m.get F.RTC_SET_TIME_hour → mi = m.get F.RTC_SET_TIME_min → sec = m.get F.RTC_SET_TIME_sec → ∀ valid : Prop,
    (valid ↔ 2000 ≤ y ∧ y ≤ 2399 ∧ 1 ≤ mo ∧ mo ≤ 12 ∧ 1 ≤ d ∧ d ≤ monthDays y mo ∧ h ≤ 23 ∧ mi ≤ 59 ∧ sec ≤ 59) →
    (m.get F.RTC_CFG_src = 1 → m.bit F.RTC_STAT_lock = true → m.calendarSet = m.put F.RTC_STAT_set_err 2) ∧
    (m.get F.RTC_CFG_src ≠ 1 ∨ m.bit F.RTC_STAT_lock = false → (¬ valid → m.calendarSet = m.put F.RTC_STAT_set_err 1) ∧
      (valid → ∀ (t : Nat) (a b : M), t = dayNumber y mo d * 86400 + h * 3600 + mi * 60 + sec →
        a = (((m.put F.RTC_STAT_set_err 0).put F.RTC_STAT_end 0).setCalendar t).stepTime
          (((t : Int) + 946684800 - 60 * signedN (m.eff F.RTC_CFG_ofs) 12 + (m.eff F.RTC_LEAP_tai_utc : Int)).toNat * 1000000000) →
        b = (a.calendarStep (m.time.calDay * 86400 + m.time.calSec) t).clearOsf →
        m.calendarSet = b.note 8 5 0 [m.calendarDate.toNat, m.calendarTime.toNat, b.calendarDate.toNat, b.calendarTime.toNat]))) ∧
  (∀ (m : M) (new : Nat), (m.stepTime new).time = { m.time with
      tai := new
      slew := 0 } ∧ (m.stepTime new).bit F.RTC_EVT_step = true ∧ (m.stepTime new).tth = { m.tth with capture := [] } ∧
    ∀ c, c ∈ (m.stepTime new).mtr.circuits → c.short = true ∧ c.stepped = true) ∧
  (∀ (s : State) (by_ : Master) (w : Who), s.m.accepts by_ w (Reg.RTC_TIME.addr 0 0 0) false → ∃ e t : M, M.EventsOnly s.m e ∧
    t = { e with time := { s.m.time with latDate := aput w.ini s.m.calendarDate s.m.time.latDate } } ∧
    exec (.rtcTimeRead by_) s = .next { s with m := t.emit (.readData w.ini (Reg.RTC_TIME.addr 0 0 0) s.m.calendarTime) }) ∧
  (∀ s : State,
    (∀ u, s.m.time.holdEnd = some u → u ≤ s.m.time.tb → ∀ a : M, a = { s.m with time := { s.m.time with
        holdEnd := none
        syncGood := 0 } } →
      exec .holdoverExpiry s = .next { s with m := ((a.put F.RTC_STAT_hold 0).put F.RTC_STAT_lock 0).flag F.RTC_EVT_unlock 0x23 }) ∧
    ((∀ u, s.m.time.holdEnd = some u → s.m.time.tb < u) → exec .holdoverExpiry s = .next s)) ∧
  (∀ (m : M) (t : Int),
    (m.putMt t).get F.RTC_TRIM_mt = encodeInt (max (-17180) (min 17180 t)) 16 ∧
    ((m.putMt t).bit F.RTC_STAT_trim_lim = true ↔ t < -17180 ∨ 17180 < t)) ∧
  (∀ (s : State) (err mt : Int) (cycles : Nat), mt = signedN (s.m.get F.RTC_TRIM_mt) 16 →
    (s.m.get F.RTC_CFG_src ∉ [1, 2] → exec (.trimWindow err cycles) s = .next s) ∧
    (s.m.get F.RTC_CFG_src = 1 → s.m.bit F.RTC_STAT_lock = true → exec (.trimWindow err cycles) s = .next { s with m := s.m.putMt (mt - err) }) ∧
    (s.m.get F.RTC_CFG_src = 1 → s.m.bit F.RTC_STAT_lock = false → exec (.trimWindow err cycles) s = .next s) ∧
    (s.m.get F.RTC_CFG_src = 2 → ∀ a : M, a = { s.m with mtr := { s.m.mtr with cyclesBad := false } } →
      (s.m.mtr.cyclesBad = true ∨ s.m.bit F.MTR_STAT_run = false → exec (.trimWindow err cycles) s = .next { s with m := a }) ∧
      (s.m.mtr.cyclesBad = false → s.m.bit F.MTR_STAT_run = true → ∀ (nom : Int) (b : M),
        nom = (if s.m.bit F.MTR_VS_CFG_fnom 0 = true then 216000 else 180000) →
        b = a.putMt (mt + ratRound ((((cycles : Int) - nom : Int) : Rat) / (nom : Rat) * 8388608)) →
        exec (.trimWindow err cycles) s = .next { s with m := { b with time := { b.time with mainsApplied := true } } }))) ∧
  (∀ (s : State) (cycles : Nat) (e : Int), e = (cycles : Int) - 33554432 →
    ((s.m.bit F.RTC_CFG_xrcal = true ∧ s.m.bit F.RTC_STAT_lock = true) ∨ (s.m.get F.RTC_CFG_src = 2 ∧ s.m.time.mainsApplied = true) →
      exec (.xrCalibration cycles) s = .next { s with m :=
        (s.m.put F.RTC_TRIM_xr (encodeInt (max (-17180) (min 17180 e)) 16)).put F.RTC_STAT_trim_lim (if e < -17180 ∨ 17180 < e then 1 else 0) }) ∧
    ((s.m.bit F.RTC_CFG_xrcal = false ∨ s.m.bit F.RTC_STAT_lock = false) → (s.m.get F.RTC_CFG_src ≠ 2 ∨ s.m.time.mainsApplied = false) →
      exec (.xrCalibration cycles) s = .next s)) ∧
  (∀ (s : State) (by_ : Master) (w : Who), s.m.accepts by_ w (Reg.RTC_ALM.addr 0 0 0) true →
    s.does (.alarmRelease by_) (fun e => (e.wr .RTC_ALM (e.rd .RTC_ALM)).put F.RTC_STAT_alm 0)) ∧
  (∀ s : State,
    (s.m.time.vinPresent = true → s.m.bit F.RTC_STAT_vbak_low = false →
      exec .vbakLow s = .next { s with m := (s.m.put F.RTC_STAT_vbak_low 1).flag F.RTC_EVT_vbak 0x23 }) ∧
    (s.m.time.vinPresent = false ∨ s.m.bit F.RTC_STAT_vbak_low = true → exec .vbakLow s = .next s) ∧
    exec .vbakRise s = .next { s with m := { s.m.put F.RTC_STAT_vbak_low 0 with time := { s.m.time with vbakPresent := true } } })

/-! ### Recorder, log, events and samples (chapters 16 and 20) -/

/-- The event controller offers the pending source of lowest level and number; EVENT_ENTRY enters at it, EVC_CLAIM takes it and EVC_DONE
ends it.  SOFTWARE_RAISE raises a software source, COUNTER_CLEAR zeroes groups, a wrap carries into a chained counter or
sets its overflow bit, sample records are written, latched and cleared.
TRIGGER_RECORD, LOG_ENTRY and RECORD_COPY serve their queues and add to the historian's wear (log 113), LOAD_RECORD and LOAD_ENTRY show what is held, the clears ask for tag, lock
and MAC and draw a new nonce, CLEAR_UNLOCK ends the lock.
The claim with nothing offered, core entry and the sample latch are the model's readings (logs 63, 81). -/
def Obligations.EventsAreServedAndRecorded : Prop :=
  (∀ (m : M) (c x : Nat), x < 256 → (m.offered c x = true ↔ m.bitOf F.EVC_PEND_pend (x % 32) (x / 32) = true ∧ m.sourceLevel x < m.coreLevel c ∧
      (x < 4 → c = 0) ∧ (4 ≤ x → m.get F.EVC_SRC_CFG_dest x = c ∧ m.bit F.EVC_SRC_CFG_en x = true ∧
        m.sourceLevel x < min 16 (max 1 (m.get F.EVC_THR_thr c)))) ∧
    (x < 4 → m.sourceLevel x = 0) ∧ (4 ≤ x → m.sourceLevel x = max 1 (m.get F.EVC_SRC_CFG_level x))) ∧
  (∀ (m : M) (c : Nat), (m.nextSource c = none ↔ ∀ x, x < 256 → m.offered c x = false) ∧
    (∀ x, m.nextSource c = some x → x < 256 ∧ m.offered c x = true ∧ ∀ y, y < 256 → m.offered c y = true →
      m.sourceLevel x < m.sourceLevel y ∨ (m.sourceLevel x = m.sourceLevel y ∧ x ≤ y))) ∧
  (∀ (s : State) (c : Nat), c < 2 →
    (s.m.domainOn 4 = false ∨ (c = 0 ∧ s.m.bit F.KV_DBG_h0_halt = true) ∨ (c = 1 ∧ s.m.bit F.KV_DBG_h1_halt = true) ∨ s.m.nextSource c = none →
      exec (.eventEntry c) s = .next s) ∧
    (s.m.domainOn 4 = true → (c = 0 → s.m.bit F.KV_DBG_h0_halt = false) → (c = 1 → s.m.bit F.KV_DBG_h1_halt = false) → s.m.nextSource c ≠ none →
      exec (.eventEntry c) s = .next { s with m := { s.m with ev := if c = 0 then { s.m.ev with entry0 := true } else { s.m.ev with entry1 := true } } })) ∧
  (∀ (s : State) (by_ : Master) (w : Who) (c : Nat), c < 2 → s.m.accepts by_ w (Reg.EVC_CLAIM.addr c 0 0) false → ∃ e, M.EventsOnly s.m e ∧
    exec (.evcClaim by_ c) s =
      .next { s with m := (e.evcClaim c).emit (.readData w.ini (Reg.EVC_CLAIM.addr c 0 0) (BitVec.ofNat 32 (e.claimWord c))) }) ∧
  (∀ (m : M) (c : Nat), c < 2 → (m.nextSource c = none → m.evcClaim c = m ∧ m.claimWord c = 0) ∧
    (∀ x, m.nextSource c = some x → m.claimWord c = 2 ^ 31 + m.sourceLevel x * 256 + x ∧ ∃ t : M, m.evcClaim c = t.coreEvent c 9 false ∧
      t.bitOf F.EVC_PEND_pend (x % 32) (x / 32) = false ∧ t.coreLevel c = m.sourceLevel x ∧
      t.ev = (m.ev.setStack c ((m.coreLevel c, x) :: m.ev.stack c)).setEntry c false)) ∧
  (∀ (s : State) (by_ : Master) (w : Who) (c x : Nat), c < 2 → x < 256 → s.m.accepts by_ w (Reg.EVC_DONE.addr c 0 0) true →
    s.does (.evcDone by_ c x) (fun e => e.evcDone c x)) ∧
  (∀ (m : M) (c x l : Nat) (rest : List (Nat × Nat)), c < 2 → l < 32 → m.ev.stack c = (l, x) :: rest →
    (m.evcDone c x).ev = m.ev.setStack c rest ∧ (m.evcDone c x).coreLevel c = l ∧ (m.evcDone c x).bit F.EVC_STAT_done_err = false ∧
    ∀ y, y ≠ x → m.evcDone c y = m.put F.EVC_STAT_done_err 1) ∧
  (∀ (m : M) (c x : Nat), m.ev.stack c = [] → m.evcDone c x = m.put F.EVC_STAT_done_err 1) ∧
  (∀ (s : State) (by_ : Master) (w : Who) (x : Nat), x < 256 → s.m.accepts by_ w (Reg.EVC_SWSET.addr 0 0 0) true →
    s.does (.softwareRaise by_ x) (fun e => if 0x80 ≤ x then e.raise x else e)) ∧
  (∀ (m : M) (x : Nat), x < 256 → (m.raise x).bitOf F.EVC_PEND_pend (x % 32) (x / 32) = true ∧
    (m.bitOf F.EVC_PEND_pend (x % 32) (x / 32) = true → (m.raise x).bitOf F.EVC_OVR_ovr (x % 32) (x / 32) = true)) ∧
  (∀ (s : State) (by_ : Master) (w : Who) (groups : Nat), groups < 8 → s.m.accepts by_ w (Reg.EVC_CNTCTL.addr 0 0 0) true →
    s.does (.counterClear by_ groups) (fun e =>
      (e.wr .EVC_CNTCTL (BitVec.ofNat 32 (e.merge .EVC_CNTCTL 0 0 0 (s.m.rd .EVC_CNTCTL).toNat))).counterClear groups)) ∧
  (∀ (m : M) (groups g n : Nat), g < 3 → n < groupSize g →
    (m.counterClear groups).rd (cntReg g) n = if tbit groups g then 0 else m.rd (cntReg g) n) ∧
  (∀ (m m1 : M) (g n k v fuel : Nat), g < 3 → n < groupSize g → v = (m.rd (cntReg g) n).toNat + k → m1 = m.wr (cntReg g) (BitVec.ofNat 32 v) n →
    (v < 2 ^ 32 → M.countUp g (fuel + 1) n k m = m1) ∧
    (2 ^ 32 ≤ v → n + 1 < groupSize g → tbit (m1.rd (selReg g) (n + 1)).toNat 30 = true →
      (tbit (m1.rd (selReg g) (n + 1)).toNat 31 = true → M.countUp g (fuel + 1) n k m = M.countUp g fuel (n + 1) 1 m1) ∧
      (tbit (m1.rd (selReg g) (n + 1)).toNat 31 = false → M.countUp g (fuel + 1) n k m = m1)) ∧
    (2 ^ 32 ≤ v → groupSize g ≤ n + 1 ∨ tbit (m1.rd (selReg g) (n + 1)).toNat 30 = false → ∃ t : M,
      (g = 0 → t = m1.putBit F.EVC_COVF0_h0 n true) ∧ (g = 1 → t = m1.putBit F.EVC_COVF0_h1 n true) ∧ (g = 2 → t = m1.putBit F.EVC_COVF1_fab n true) ∧
      M.countUp g (fuel + 1) n k m = if tbit (t.rd (selReg g) n).toNat 29 = true then t.raise (0x48 + g) else t)) ∧
  (∀ (s : State) (addr data : Word) (user : Bool) (lat i k : Nat), i = s.m.get F.EVC_SMP_STAT_next → k = s.m.get F.EVC_SMP_STAT_count →
    (s.m.bit F.EVC_SMP_CFG_en = false ∨ s.m.get F.EVC_SMP_CFG_event ∉ [1, 2, 3, 4, 5, 7] → exec (.sampleRecord addr user lat data) s = .next s) ∧
    (s.m.bit F.EVC_SMP_CFG_en = true → s.m.get F.EVC_SMP_CFG_event ∈ [1, 2, 3, 4, 5, 7] →
      (s.m.bit F.EVC_SMP_CFG_stop = true → k = 512 →
        exec (.sampleRecord addr user lat data) s = .next { s with m := { s.m with ev := { s.m.ev with smpTagged := false } } }) ∧
      (s.m.bit F.EVC_SMP_CFG_stop = false ∨ k ≠ 512 → ∃ t : M, t.ev = { s.m.ev with smpTagged := false, smpLost := false } ∧
        t.rd .EVC_SMP_W i 0 = addr ∧ t.rd .EVC_SMP_W i 2 = (if s.m.get F.EVC_SMP_CFG_event = 4 then 0 else data) ∧ t.rd .EVC_SMP_W i 3 = BitVec.ofNat 32 s.m.time.tai ∧
        t.rd .EVC_SMP_W i 1 = BitVec.ofNat 32 (s.m.get F.EVC_SMP_CFG_event * 2 ^ 24 + s.m.get F.EVC_SMP_CFG_core * 2 ^ 23 + b2n user * 2 ^ 22 +
          b2n s.m.ev.smpLost * 2 ^ 21 + min lat 0xFFFF) ∧
        t.get F.EVC_SMP_STAT_next = (i + 1) % 512 ∧ t.get F.EVC_SMP_STAT_count = min 512 (k + 1) ∧
        (∀ r j, r < 512 → j < 4 → r ≠ i → t.rd .EVC_SMP_W r j = s.m.rd .EVC_SMP_W r j) ∧
        s.leaves (.sampleRecord addr user lat data) (if k = 255 ∨ k = 511 then t.raise 0x4B else t)))) ∧
  (∀ (s : State) (by_ : Master) (w : Who) (r : Nat), r < 512 → s.m.accepts by_ w (Reg.EVC_SMP_W.addr r 0 0) false → ∃ e, M.EventsOnly s.m e ∧
    exec (.sampleRead by_ r) s = .next { s with m := (e.sampleLatch w r).emit (.readData w.ini (Reg.EVC_SMP_W.addr r 0 0) (e.rd .EVC_SMP_W r 0)) }) ∧
  (∀ (m : M) (w : Who) (r : Nat), m.sampleLatch w r = { m with ev := { m.ev with
    smpLatch := aput w.ini (r, (m.sampleWord w.tag r 1, (m.sampleWord w.tag r 2, m.sampleWord w.tag r 3))) m.ev.smpLatch } }) ∧
  (∀ (m : M) (t : Tag) (r : Nat), m.sampleWord t r 2 = (if t.isSystem = false ∧ tbit (m.rd .EVC_SMP_W r 1).toNat 22 = true then 0 else m.rd .EVC_SMP_W r 2) ∧
    m.sampleWord t r 1 = m.rd .EVC_SMP_W r 1 ∧ m.sampleWord t r 3 = m.rd .EVC_SMP_W r 3) ∧
  (∀ (s : State) (by_ : Master) (w : Who), s.m.accepts by_ w (Reg.EVC_SMP_CMD.addr 0 0 0) true →
    s.does (.sampleClear by_) (fun e => e.wr .EVC_SMP_STAT 0)) ∧
  (∀ (s : State),
    (s.m.frec.queue = [] ∨ s.m.frec.ready = false → exec .triggerRecord s = .next s) ∧
    (∀ x rest, s.m.frec.queue = x :: rest → s.m.frec.ready = true → ∀ m1 : M, m1 = { s.m with frec := { s.m.frec with queue := rest } } →
      (∀ ts, x.body = .triggers ts →
        exec .triggerRecord s = .next (s.after (ts.foldl (fun (a : Bus) t => triggerOne a x.source x.tai t) (m1, s.sram)))) ∧
      (∀ code items, x.body = .record code items →
        s.leaves .triggerRecord (m1.storeItems x.tai x.source code (pieces12 (items.length + 1) items))))) ∧
  (∀ (b c : Bus) (source tai t : Nat) (items : List RecItem), readItems b t = (items, c) → ∃ m1 : M,
    m1 = c.1.storeRecord (c.1.recordWords tai source 0 (items.take 12)) ∧
    (m1.bit F.REC_TRG_CFG_log t = false → triggerOne b source tai t = (m1, c.2)) ∧
    (m1.bit F.REC_TRG_CFG_log t = true → ∀ r, m1.records.find? (fun r => r.seq == c.1.frec.nextSeq) = some r → triggerOne b source tai t =
      (m1.logEntry 0 (m1.get F.REC_TRG_CFG_sev t) 0 c.1.frec.nextSeq (r.words.flatMap (fun x => toBE 4 x.toNat)) (mapOf (items.take 12) * 16), c.2))) ∧
  (∀ (m : M) (ws : List Word) (rc : FrRecord), rc = ⟨m.frec.nextSeq, BitVec.ofNat 32 m.frec.nextSeq ::
      (ws.headD 0 ||| (if m.frec.lost then 0x80000000 else 0)) :: ws.drop 1⟩ →
    (m.storeRecord ws).frec.nextSeq = (m.frec.nextSeq + 1) % 2 ^ 32 ∧ (m.storeRecord ws).frec.lost = false ∧
    (m.storeRecord ws).frec.uncopied = m.frec.uncopied ++ [m.frec.nextSeq] ∧ (m.storeRecord ws).get F.REC_SEQ_seq = m.frec.nextSeq % 2 ^ 32 ∧
    (m.frec.head.length < m.get F.REC_STAT_head → (m.storeRecord ws).frec.head = m.frec.head ++ [rc] ∧ (m.storeRecord ws).frec.reel = m.frec.reel) ∧
    (m.get F.REC_STAT_head ≤ m.frec.head.length → (m.storeRecord ws).frec.head = m.frec.head ∧ (m.storeRecord ws).frec.reel =
      (m.frec.reel ++ [rc]).drop (m.frec.reel.length + 1 - (8192 - m.get F.REC_STAT_head)))) ∧
  (∀ (s : State),
    (s.m.frec.logQueue = [] ∨ s.m.domainOn 13 = false → exec .logEntry s = .next s) ∧
    (∀ e rest, s.m.frec.logQueue = e :: rest → s.m.domainOn 13 = true → ∀ m1 : M, m1 = { s.m with frec := { s.m.frec with logQueue := rest } } →
      (s.m.hstReadOnly = true ∨ s.m.logRoom e.sev e.tenant = none → s.leaves .logEntry (m1.dropEntry e.tenant)) ∧
      (s.m.hstReadOnly = false → ∀ l, s.m.logRoom e.sev e.tenant = some l → ∃ t : M, s.leaves .logEntry (t.hstWrites 128) ∧
        t = { m1.put F.REC_LOG_SEQ_seq s.m.frec.nextLogSeq with frec := t.frec } ∧
        t.frec = { m1.frec with
          log := l ++ [⟨s.m.frec.nextLogSeq, getd 0 e.tenant s.m.frec.tseq, e.tai, e.code, e.sev, e.tenant, s.m.frec.logLost.contains e.tenant, e.rseq,
            padTo 104 e.body, e.map⟩]
          nextLogSeq := (s.m.frec.nextLogSeq + 1) % 2 ^ 32
          tseq := aput e.tenant ((getd 0 e.tenant s.m.frec.tseq + 1) % 2 ^ 32) s.m.frec.tseq
          logLost := s.m.frec.logLost.filter (fun t => !(t == e.tenant)) }))) ∧
  (∀ (m : M) (sev tenant : Nat) (own : List LogEntry), own = m.frec.log.filter (fun e => e.tenant == tenant) →
    (1 ≤ tenant → tenant ≤ 250 → max 16 (m.get F.REC_LOG_CFG_quota) ≤ own.length →
      m.logRoom sev tenant = (m.frec.log.find? (fun e => e.tenant == tenant && sev ≤ e.sev)).map (fun e => m.frec.log.erase e)) ∧
    (tenant = 0 ∨ 250 < tenant ∨ own.length < max 16 (m.get F.REC_LOG_CFG_quota) →
      (m.frec.log.length < 1048576 → m.logRoom sev tenant = some m.frec.log) ∧
      (1048576 ≤ m.frec.log.length →
        m.logRoom sev tenant = (m.frec.log.find? (fun e => sev ≤ e.sev)).map (fun e => m.frec.log.erase e)))) ∧
  (∀ (s : State),
    (s.m.frec.uncopied = [] ∨ s.m.domainOn 13 = false ∨ s.m.hstReadOnly = true → exec .recordCopy s = .next s) ∧
    (∀ x rest, s.m.frec.uncopied = x :: rest → s.m.domainOn 13 = true → s.m.hstReadOnly = false →
      s.leaves .recordCopy (({ s.m with frec := { s.m.frec with
        uncopied := rest
        copyHead := s.m.frec.head.filter (fun r => !(rest.contains r.seq))
        copyReel := s.m.frec.reel.filter (fun r => !(rest.contains r.seq))
        copyHeadSize := s.m.get F.REC_STAT_head } } : M).hstWrites 64))) ∧
  (∀ (m m1 : M) (n : Nat), m1 = { m with hst := { m.hst with written := m.hst.written + n } } →
    (m.hstWear ≤ 80 → 80 < m1.hstWear → m.hstWrites n = m1.flag F.HST_EVT_wear 0x25) ∧
    (80 < m.hstWear ∨ m1.hstWear ≤ 80 → m.hstWrites n = m1) ∧ (m.hstReadOnly = true ↔ m.hstWear = 100)) ∧
  (∀ (s : State) (by_ : Master) (w : Who), s.m.accepts by_ w (Reg.REC_RD_CMD.addr 0 0 0) true →
    s.does (.loadRecord by_) (fun e => e.loadRecord w) ∧ s.does (.loadEntry by_) (fun e => e.loadEntry w)) ∧
  (∀ (m : M) (w : Who) (q : Nat), q = m.get F.REC_RD_SEQ_seq →
    (∀ r, m.records.find? (fun r => r.seq == q) = some r → (m.loadRecord w).get F.REC_RD_STAT_err = 0 ∧
      (m.loadRecord w).get F.REC_RD_NEXT_seq = (q + 1) % 2 ^ 32 ∧ ∀ k, k < 32 → (m.loadRecord w).rd .REC_RD_W k = (m.recordSeen w r).getD k 0) ∧
    (m.records.find? (fun r => r.seq == q) = none → (written q m.frec.nextSeq = true → (m.loadRecord w).get F.REC_RD_STAT_err = 1 ∧
        (m.loadRecord w).get F.REC_RD_NEXT_seq = oldestAbove q m.frec.nextSeq (m.records.map FrRecord.seq) % 2 ^ 32) ∧
      (written q m.frec.nextSeq = false → m.loadRecord w = m.put F.REC_RD_STAT_err 2)) ∧
    (∀ x, m.frec.log.find? (fun x => x.seq == q) = some x → (m.loadEntry w).get F.REC_RD_STAT_err = 0 ∧
      (m.loadEntry w).get F.REC_RD_NEXT_seq = (q + 1) % 2 ^ 32 ∧ ∀ k, k < 32 → (m.loadEntry w).rd .REC_RD_W k = (m.entrySeen w false x).getD k 0) ∧
    (m.frec.log.find? (fun x => x.seq == q) = none → (written q m.frec.nextLogSeq = true → (m.loadEntry w).get F.REC_RD_STAT_err = 1 ∧
        (m.loadEntry w).get F.REC_RD_NEXT_seq = oldestAbove q m.frec.nextLogSeq (m.frec.log.map LogEntry.seq) % 2 ^ 32) ∧
      (written q m.frec.nextLogSeq = false → m.loadEntry w = m.put F.REC_RD_STAT_err 2))) ∧
  (∀ (s : State) (by_ : Master) (w : Who), s.m.accepts by_ w (Reg.REC_CLR_CMD.addr 0 0 0) true →
    s.does (.clearReel by_) (fun e => e.clearReel w) ∧ s.does (.clearRecorder by_) (fun e => e.clearRecorder w) ∧
    s.does (.clearLog by_) (fun e => e.clearLog w)) ∧
  (∀ (m m0 : M) (w : Who) (op : Nat) (act : M → Word → M), m0 = { m with rnd := m.rnd + 1, frec := { m.frec with nonce := m.rnd } } →
    (¬ ((w.tag.isSystem = true ∧ w.ini = 0) ∨ w.tag.owner0 = true) → m.clearCommand w op act = m0.clrRefused w (Config.random m.frec.nonce) 1) ∧
    ((w.tag.isSystem = true ∧ w.ini = 0) ∨ w.tag.owner0 = true →
      (∀ u, m.frec.lockUntil = some u → m.time.tb < u → m.clearCommand w op act = m0.clrResult 3) ∧
      ((∀ u, m.frec.lockUntil = some u → u ≤ m.time.tb) → ∀ (k : Option Bytes) (m1 : M), m0.useSlot (m0.get F.REC_CTRL_clr_key) 25 = (k, m1) →
        ((∃ key, k = some key ∧ (digestBytes (Config.hmac key (ascii "RECCLR" ++ toBE 4 (Config.random m.frec.nonce).toNat ++ toBE 1 op))).take 16 =
            m0.kvBytes .REC_CLR_AUTH 4) →
          m.clearCommand w op act = act { m1 with frec := { m1.frec with authRun := 0 } } (Config.random m.frec.nonce)) ∧
        ((∀ key, k = some key → (digestBytes (Config.hmac key (ascii "RECCLR" ++ toBE 4 (Config.random m.frec.nonce).toNat ++ toBE 1 op))).take 16 ≠
            m0.kvBytes .REC_CLR_AUTH 4) →
          m.clearCommand w op act = ({ m1 with frec := { m1.frec with
            authRun := (m1.frec.authRun + 1) % 5
            lockUntil := if m1.frec.authRun + 1 = 5 then some (m1.time.tb + 60000000000) else m1.frec.lockUntil } } : M).clrRefused w
              (Config.random m.frec.nonce) 2)))) ∧
  (∀ (m : M) (w : Who) (nonce : Word) (err : Nat), err < 16 → (m.clrResult err).get F.REC_CLR_STAT_err = err ∧
    (m.clrResult err).bit F.REC_CLR_STAT_busy = false ∧ (m.clrResult err).frec = m.frec ∧
    m.clrRefused w nonce err = ((m.clrResult err).flag F.REC_EVT_clr_fail 0x24).note 0x0D 1 0
      [w.tag.bytes.1 * 2 ^ 16 + w.tag.bytes.2 * 2 ^ 8 + w.ini, 0, 0, nonce.toNat]) ∧
  (∀ (m : M) (w : Who) (k : Option Bytes) (m0 m1 : M) (op : Nat), m0 = { m with rnd := m.rnd + 1, frec := { m.frec with nonce := m.rnd } } →
    (w.tag.isSystem = true ∧ w.ini = 0) ∨ w.tag.owner0 = true → m.frec.lockUntil = none → m0.useSlot (m0.get F.REC_CTRL_clr_key) 25 = (k, m1) →
    (∃ key, k = some key ∧ (digestBytes (Config.hmac key (ascii "RECCLR" ++ toBE 4 (Config.random m.frec.nonce).toNat ++ toBE 1 op))).take 16 =
      m0.kvBytes .REC_CLR_AUTH 4) →
    (op = 1 → ∃ y, m.clearReel w = (((({ m1 with frec := { m1.frec with
        authRun := 0
        reel := []
        copyReel := []
        uncopied := m1.frec.uncopied.filter (fun q => m1.frec.head.any (fun x => x.seq == q)) } } : M).note 0x0D 1 0 y).flag F.REC_EVT_cleared 0x24).clrResult 0)) ∧
    (op = 2 → ∃ (t : M) (y : List Nat), t.frec = { m1.frec with
        authRun := 0
        head := []
        reel := []
        copyHead := []
        copyReel := []
        uncopied := [] } ∧ t.get F.REC_STAT_head = m1.get F.REC_CTRL_head ∧
        m.clearRecorder w = ((t.note 0x0D 1 0 y).flag F.REC_EVT_cleared 0x24).clrResult 0) ∧
    (op = 3 → ∃ (y : List Nat) (t : M), t = ({ m1 with frec := { m1.frec with
        authRun := 0
        log := []
        logQueue := [] } } : M).note 0x0D 1 0 y ∧ m.clearLog w =
          (({ t with frec := { t.frec with logQueue := t.frec.logQueue ++ m1.frec.logQueue } } : M).flag F.REC_EVT_cleared 0x24).clrResult 0)) ∧
  (∀ (s : State), (∀ u, s.m.frec.lockUntil = some u → u ≤ s.m.time.tb →
      exec .clearUnlock s = .next { s with m := { s.m with frec := { s.m.frec with lockUntil := none } } }) ∧
    ((∀ u, s.m.frec.lockUntil = some u → s.m.time.tb < u) → exec .clearUnlock s = .next s))

/-! ### Parameter store and trend logs (chapter 17) -/

/-- BUFFER_WRITE and BUFFER_READ move words of the page buffer for its owner; PAGE_LOAD and PAGE_COMMIT need the region's right, and a
commit's point is PAGE_COMMIT_DONE; pages of regions 2 to 4 show and take the accounts, retained values and persistent forces (log 72).  OPEN_RD and OPEN_WR compare the password, CLOSE_RIGHTS and OPEN_TIMEOUT end rights, SET_RD and SET_WR
replace passwords, MARGIN_SCAN refreshes.  TREND_ENABLE checks a log, TREND_SAMPLE at a TAI multiple of its interval appends a row or counts it lost.
The skipped scan, and the code and severity of the entry of an uncorrectable page, are the model's choices (logs 77, 83). -/
def Obligations.StoreAndTrendsKeepData : Prop :=
  (∀ (s : State) (by_ : Master) (w : Who) (word : Nat), word < 2 ^ 32 → s.m.accepts by_ w (Reg.NVP_DATA.addr 0 0 0) true →
    s.does (.bufferWrite by_ word) (fun e => e.bufferWrite w (BitVec.ofNat 32 word))) ∧
  (∀ (m : M) (w : Who) (v : Word) (i : Nat), i = m.get F.NVP_ADDR_word → ∃ t : M, m.bufferWrite w v = t.put F.NVP_ADDR_word ((i + 1) % 64) ∧
    t = { m with nvp := { m.nvp with owner := some w.tag, buffer := t.nvp.buffer } } ∧ getd 0 i t.nvp.buffer = v ∧
    ∀ k, k ≠ i → getd 0 k t.nvp.buffer = if m.nvp.owner = some w.tag then getd 0 k m.nvp.buffer else 0) ∧
  (∀ (s : State) (by_ : Master) (w : Who) (i : Nat) (v : Word), i = s.m.get F.NVP_ADDR_word →
    v = (if s.m.nvp.owner = some w.tag then getd 0 i s.m.nvp.buffer else 0) → s.m.accepts by_ w (Reg.NVP_DATA.addr 0 0 0) false →
    ∃ e, M.EventsOnly s.m e ∧ exec (.bufferRead by_) s =
      .next { s with m := (e.put F.NVP_ADDR_word ((i + 1) % 64)).emit (.readData w.ini (Reg.NVP_DATA.addr 0 0 0) v) }) ∧
  (∀ (s : State) (by_ : Master) (w : Who) (r : Nat), r < 8 → s.m.accepts by_ w (Reg.NVP_CMD.addr 0 0 0) true →
    s.does (.pageLoad by_) (fun e => e.pageLoad w) ∧ s.does (.pageCommit by_) (fun e => e.pageCommit w) ∧
    s.does (.openRd by_ r) (fun e => e.openRd w r) ∧ s.does (.openWr by_ r) (fun e => e.openWr w r) ∧
    s.does (.closeRights by_ r) (fun e => e.closeRights w r) ∧ s.does (.setRd by_ r) (fun e => e.setRd w r) ∧
    s.does (.setWr by_ r) (fun e => e.setWr w r)) ∧
  (∀ (m : M) (w : Who) (r : Nat), m.bit F.NVP_STAT_busy = true → m.pageLoad w = m ∧ m.pageCommit w = m ∧ m.openRd w r = m ∧ m.openWr w r = m ∧
    m.closeRights w r = m ∧ m.setRd w r = m ∧ m.setWr w r = m) ∧
  (∀ (m : M) (x : Nat), m.nvpResult x = (m.put F.NVP_STAT_err x).put F.NVP_STAT_busy 0 ∧ m.clearPw = (m.wr .NVP_PW 0 0).wr .NVP_PW 0 1) ∧
  (∀ (m : M) (p r : Nat), r < 8 → m.get F.NVP_RGN_first r ≤ p → p ≤ m.get F.NVP_RGN_last r →
    (∀ q, q < r → p < m.get F.NVP_RGN_first q ∨ m.get F.NVP_RGN_last q < p) → m.regionOfPage p = r) ∧
  (∀ (m : M) (t : Tag) (r : Nat),
    (m.mayRead t r = true ↔ (t.isSystem = true ∧ aget r m.nvp.rdPw = none) ∨ ∃ u, aget r m.nvp.rdOpen = some (t, u)) ∧
    (m.mayWrite t r = true ↔ (t.isSystem = true ∧ aget r m.nvp.wrPw = none) ∨ ∃ u, aget r m.nvp.wrOpen = some (t, u)) ∧
    (m.maySetPw t r = true ↔ t.isSystem = true ∨ (t.owner0 = true ∧ (m.mayWrite t r = true ∨ (6 ≤ r ∧ aget r m.nvp.wrPw = none))))) ∧
  (∀ (m : M) (t : Tag) (r : Nat) (f : Tag × Nat → Tag × Nat), (∀ p, f p = if p.1 = t then (t, m.time.tb) else p) →
    m.touchRights t r = { m with nvp := { m.nvp with rdOpen := amod r f m.nvp.rdOpen, wrOpen := amod r f m.nvp.wrOpen } }) ∧
  (∀ (m : M) (w : Who) (p r : Nat), m.bit F.NVP_STAT_busy = false → p = m.get F.NVP_ADDR_page → r = m.regionOfPage p →
    (m.mayRead w.tag r = false → m.pageLoad w = m.nvpResult 1) ∧
    (m.mayRead w.tag r = true → ∀ m1 : M, m1 = (m.touchRights w.tag r).put F.NVP_STAT_page p →
      (p ∉ m.nvp.bad → m.pageLoad w =
        ({ m1 with nvp := { m1.nvp with buffer := m.pageShown p, owner := some w.tag } } : M).nvpResult 0) ∧
      (p ∈ m.nvp.bad → m.pageLoad w = ((({ m1 with nvp := { m1.nvp with buffer := [], owner := some w.tag } } : M).flag F.NVP_EVT_uncorr 0x25).logEntry
        Config.uncorrCode.toNat Config.uncorrSeverity.toNat 0 0 (toBE 4 p)).nvpResult 4)) ∧
    (m.nvp.owner ≠ some w.tag ∨ m.mayWrite w.tag r = false → m.pageCommit w = m.nvpResult 1) ∧
    (m.nvp.owner = some w.tag → m.mayWrite w.tag r = true →
      (m.get F.NVP_WEAR_spare = 0 → m.pageCommit w = m.nvpResult 5) ∧
      (m.get F.NVP_WEAR_spare ≠ 0 → ∀ m1 : M, m1 = (m.touchRights w.tag r).put F.NVP_STAT_page p → m.pageCommit w =
        ({ m1 with nvp := { m1.nvp with commits := m.nvp.commits ++ [⟨p, m.nvp.buffer, true⟩] } } : M).put F.NVP_STAT_busy 1))) ∧
  (∀ (s : State) (bank : Nat) (retired : Bool), bank < 8 →
    ((∀ c ∈ s.m.nvp.commits, c.page % 8 ≠ bank) → exec (.pageCommitDone bank retired) s = .next s) ∧
    (∀ pre c post, s.m.nvp.commits = pre ++ c :: post → (∀ d ∈ pre, d.page % 8 ≠ bank) → c.page % 8 = bank → ∀ m2 m3 : M,
      m2 = (({ s.m with nvp := { s.m.nvp with commits := pre ++ post } } : M).pageTaken c.page c.words).commitPage c.page c.words →
      m3 = (if retired = true then (m2.put F.NVP_WEAR_spare (m2.get F.NVP_WEAR_spare - 1)).flag F.NVP_EVT_retire 0x25 else m2) →
      s.leaves (.pageCommitDone bank retired) (if c.commanded = true then m3.nvpResult 0 else m3))) ∧
  (∀ (m : M) (p : Nat) (ws : List (Nat × Word)),
    ((p < (regionPages 2).1 ∨ (regionPages 2).2 < p) → (p < (regionPages 3).1 ∨ (regionPages 3).2 < p) →
      (p < (regionPages 4).1 ∨ (regionPages 4).2 < p) → m.pageShown p = (aget p m.nvp.pages).getD [] ∧ m.pageTaken p ws = m) ∧
    (∀ r, r ∈ [2, 3, 4] → (regionPages r).1 ≤ p → p ≤ (regionPages r).2 → ∀ o, o = 256 * (p - (regionPages r).1) →
      m.pageShown p = pageWords (slice (m.regionBytes r) o 256) ∧
      m.pageTaken p ws = m.regionTaken r ((m.regionBytes r).take o ++ pageBytes ws ++ (m.regionBytes r).drop (o + 256)))) ∧
  (∀ m : M, m.regionBytes 2 = (List.range 256).flatMap (fun n => padTo 128 (match aget n m.krov.accounts with
        | some a => a.head n ++ padTo 32 a.verifier.storedKey ++ padTo 32 a.verifier.serverKey
        | none => [])) ∧
    m.regionBytes 3 = padTo 32768 (m.pts.retention.flatMap (fun x => toBE 2 x.1 ++ toBE 2 0 ++ toBE 4 x.2.toNat)) ∧
    m.regionBytes 4 = padTo 24576 (((List.range m.pts.forceStore.length).zip m.pts.forceStore).flatMap (fun p => forceBytes p.1 p.2))) ∧
  (∀ (m : M) (p : Nat) (ws : List (Nat × Word)), (m.commitPage p ws).nvp.pages = aput p ws m.nvp.pages ∧
    getd 0 p (m.commitPage p ws).nvp.copies = getd 0 p m.nvp.copies + 1 ∧ p ∉ (m.commitPage p ws).nvp.bad ∧
    ((m.get F.UPD_STAT_state = 3 ∨ m.get F.UPD_STAT_state = 4) → 0x20 ≤ p → p < 0x1C0 →
      (m.commitPage p ws).upd.snapshot = aput p ws m.upd.snapshot)) ∧
  (∀ (m : M) (w : Who) (r : Nat), m.bit F.NVP_STAT_busy = false → ∀ pw : Word × Word, pw = (m.rd .NVP_PW 0, m.rd .NVP_PW 1) →
    ((∃ t, aget r m.nvp.lockUntil = some t ∧ m.time.tb < t) → m.openRd w r = m.clearPw.nvpResult 3 ∧ m.openWr w r = m.clearPw.nvpResult 3) ∧
    ((∀ t, aget r m.nvp.lockUntil = some t → t ≤ m.time.tb) →
      (aget r m.nvp.rdPw = some pw → m.openRd w r = ({ m with nvp := { m.nvp with
        rdOpen := aput r (w.tag, m.time.tb) m.nvp.rdOpen
        authRun := adel r m.nvp.authRun } } : M).clearPw.nvpResult 0) ∧
      (aget r m.nvp.rdPw ≠ some pw → m.openRd w r = m.clearPw.nvpAuthFail r) ∧
      (aget r m.nvp.wrPw = some pw → m.openWr w r = ({ m with nvp := { m.nvp with
        wrOpen := aput r (w.tag, m.time.tb) m.nvp.wrOpen
        authRun := adel r m.nvp.authRun } } : M).clearPw.nvpResult 0) ∧
      (aget r m.nvp.wrPw ≠ some pw → m.openWr w r = m.clearPw.nvpAuthFail r)) ∧
    m.closeRights w r = ({ m with nvp := { m.nvp with
      rdOpen := m.nvp.rdOpen.filter (fun p => !(p.1 == r && p.2.1 == w.tag))
      wrOpen := m.nvp.wrOpen.filter (fun p => !(p.1 == r && p.2.1 == w.tag)) } } : M).clearPw.nvpResult 0 ∧
    (m.maySetPw w.tag r = false → m.setRd w r = m.clearPw.nvpResult 1 ∧ m.setWr w r = m.clearPw.nvpResult 1) ∧
    (m.maySetPw w.tag r = true →
      m.setRd w r = (({ m with nvp := { m.nvp with
        rdPw := if pw = (0, 0) then adel r m.nvp.rdPw else aput r pw m.nvp.rdPw
        rdOpen := adel r m.nvp.rdOpen } } : M).put F.NVP_RGN_rd_set (if pw = (0, 0) then 0 else 1) r).clearPw.nvpResult 0 ∧
      m.setWr w r = (({ m with nvp := { m.nvp with
        wrPw := if pw = (0, 0) then adel r m.nvp.wrPw else aput r pw m.nvp.wrPw
        wrOpen := adel r m.nvp.wrOpen } } : M).put F.NVP_RGN_wr_set (if pw = (0, 0) then 0 else 1) r).clearPw.nvpResult 0)) ∧
  (∀ (m : M) (r run : Nat) (m1 : M), run = getd 0 r m.nvp.authRun + 1 → m1 = { m with nvp := { m.nvp with
      authRun := aput r (run % 5) m.nvp.authRun
      lockUntil := if run = 5 then aput r (m.time.tb + 60 * sec) m.nvp.lockUntil else m.nvp.lockUntil } } →
    (run = 1 → m.nvpAuthFail r = (m1.flag F.NVP_EVT_lock 0x25).nvpResult 2) ∧ (run ≠ 1 → m.nvpAuthFail r = m1.nvpResult 2)) ∧
  (∀ (s : State) (tmo : Nat), tmo = max 1 (s.m.get F.NVP_CTRL_tmo) * sec →
    exec .openTimeout s = .next { s with m := { s.m with nvp := { s.m.nvp with
      rdOpen := s.m.nvp.rdOpen.filter (fun p => s.m.time.tb < p.2.2 + tmo)
      wrOpen := s.m.nvp.wrOpen.filter (fun p => s.m.time.tb < p.2.2 + tmo) } } }) ∧
  (∀ (s : State) (p : Nat) (found : ScanResult), p < 1024 →
    (p ∈ s.m.nvp.scanned → exec (.marginScan p found) s =
      .next { s with m := { s.m with nvp := { s.m.nvp with scanned := s.m.nvp.scanned.filter (fun q => !(q == p)) } } }) ∧
    (p ∉ s.m.nvp.scanned →
      (found = .good ∨ (found = .poor ∧ p ∈ s.m.nvp.bad) ∨ (found = .uncorrectable ∧ p ∈ s.m.nvp.bad) → exec (.marginScan p found) s = .next s) ∧
      (found = .uncorrectable → p ∉ s.m.nvp.bad →
        exec (.marginScan p found) s = .next { s with m := { s.m with nvp := { s.m.nvp with bad := p :: s.m.nvp.bad } } }) ∧
      (found = .poor → p ∉ s.m.nvp.bad → ∀ m1 : M,
        m1 = (s.m.commitPage p (s.m.pageShown p)).flag F.NVP_EVT_refresh 0x25 →
        s.leaves (.marginScan p found) { m1 with nvp := { m1.nvp with scanned := m1.nvp.scanned.filter (fun q => !(q == p)) } }))) ∧
  (∀ (s : State) (by_ : Master) (w : Who) (n : Nat), n < 64 → s.m.accepts by_ w (Reg.HST_TR_CFG.addr n 0 0) true →
    s.does (.trendEnable by_ n) (fun e => (e.wr .HST_TR_CFG (e.rd .HST_TR_CFG n) n).trendEnable n true)) ∧
  (∀ (m : M) (n : Nat),
    (m.bit F.HST_TR_CFG_en n = true → m.trendEnable n true = m) ∧
    (m.bit F.HST_TR_CFG_en n = false →
      (m.trendValid n = true → m.trendEnable n true = (m.put F.HST_TR_CFG_en 1 n).setTrend n ⟨(m.trendLog n).segments, true⟩) ∧
      (m.trendValid n = false → m.trendEnable n true = m.flag F.HST_EVT_tcfg 0x25))) ∧
  (∀ (m : M) (n : Nat) (on : List Nat), on = (List.range 64).filter (fun k => k == n || m.bit F.HST_TR_CFG_en k) →
    (m.trendValid n = true ↔ m.get F.HST_TR_CFG_tenant n ≤ 250 ∧ 1 ≤ m.get F.HST_TR_CFG_npts n ∧ m.get F.HST_TR_CFG_npts n ≤ 64 ∧
      1 ≤ m.get F.HST_TR_CFG_interval n ∧ m.get F.HST_TR_CFG_interval n ≤ 3600 ∧ 1 ≤ m.get F.HST_TR_SIZE_mib n ∧
      (on.map (fun k => m.get F.HST_TR_SIZE_mib k)).sum ≤ 7424 ∧
      (on.map (fun k => ((8 + 8 * m.get F.HST_TR_CFG_npts k : Nat) : Rat) / (m.get F.HST_TR_CFG_interval k : Nat))).sum ≤ 16384)) ∧
  (∀ (s : State) (n : Nat), n < 64 →
    (s.m.bit F.HST_TR_CFG_en n = false ∨ s.m.time.tai % (max 1 (s.m.get F.HST_TR_CFG_interval n) * 1000000000) ≠ 0 →
      exec (.trendSample n) s = .next s) ∧
    (s.m.bit F.HST_TR_CFG_en n = true → s.m.time.tai % (max 1 (s.m.get F.HST_TR_CFG_interval n) * 1000000000) = 0 →
      (s.m.domainOn 13 = false ∨ s.m.hstReadOnly = true → ∀ m1 : M, m1 = (s.m.count F.HST_TR_LOST_count n).flag F.HST_EVT_tdrop 0x25 →
        s.leaves (.trendSample n) (m1.setTrend n ⟨(s.m.trendLog n).segments, true⟩)) ∧
      (s.m.domainOn 13 = true → s.m.hstReadOnly = false →
        ∀ (ids : List Nat) (row : TrendRow) (one : TrendSegment) (t : TrendLog) (segs held : List TrendSegment) (ovr : Bool),
        ids = s.m.trendPoints n → row = ⟨s.m.time.tai, ids.map s.m.trendRead⟩ → one = ⟨s.m.get F.HST_TR_CFG_interval n, s.m.time.tai, ids, [row]⟩ →
        t = s.m.trendLog n →
        (t.fresh = true → segs = t.segments ++ [one]) → (t.fresh = false → t.segments = [] → segs = [one]) →
        (t.fresh = false → ∀ pre x, t.segments = pre ++ [x] → segs = pre ++ [⟨x.interval, x.first, x.ids, x.rows ++ [row]⟩]) →
        (held, ovr) = fitRing (s.m.get F.HST_TR_SIZE_mib n * 2 ^ 20) (segs.map (fun x => x.rows.length)).sum segs →
        ∀ m1 : M, m1 = ((s.m.hstWrites ((segs.map TrendSegment.bytes).sum - (t.segments.map TrendSegment.bytes).sum)).setTrend n
          ⟨held, false⟩).put F.HST_TR_STAT_rows (held.map (fun x => x.rows.length)).sum n →
        s.leaves (.trendSample n) (if ovr = true then m1.put F.HST_TR_STAT_wrapped 1 n else m1)))) ∧
  (∀ (m : M) (n k : Nat), k < m.get F.HST_TR_CFG_npts n → (m.trendPoints n).length = m.get F.HST_TR_CFG_npts n ∧ (m.trendPoints n)[k]? =
    some (if k % 2 = 0 then m.get F.HST_TR_PT_id_lo n (k / 2) else m.get F.HST_TR_PT_id_hi n (k / 2))) ∧
  (∀ (size k : Nat) (l : List TrendSegment),
    ((l.map TrendSegment.bytes).sum ≤ size → fitRing size k l = (l, false)) ∧
    (size < (l.map TrendSegment.bytes).sum → fitRing size (k + 1) l = ((fitRing size k (dropOldest l)).1, true)) ∧
    (∀ x, l.head? = some x → (x.rows.length ≤ 1 → dropOldest l = l.tail) ∧
      (∀ a b rest, x.rows = a :: b :: rest → dropOldest l = ⟨x.interval, x.first, x.ids, b :: rest⟩ :: l.tail)))

/-! ### Key vault, life cycle and field access (chapter 18) -/

/-- SLOT_READ, SLOT_WRITE, DERIVE, ERASE and OWNER_PASSWORD need their tags, clear the key data and tell of the act;
LIFE_CYCLE_CHANGE follows Table 18-2 with its proofs, loses the stores with the owner root, and ends in a module reset.  SLOT_USE spends a counted slot, VAULT_CHECK and
ATTESTATION leave their results.  OPEN_OWNER and OPEN_VENDOR open gates on a proof, CLOSE_GATES and GATE_EXPIRY close them, OPEN_UNLOCK
ends the lock, CORE_HALT needs its gate, and a halt of H0 pauses the management watchdog.
Uses while domain KV is off and commands at corners follow the model's readings (log 62). -/
def Obligations.VaultAndGatesAct : Prop :=
  (∀ (s : State) (by_ : Master) (w : Who) (key target : Nat), key < 65536 → target < 256 → s.m.accepts by_ w (Reg.KV_CMD.addr 0 0 0) true →
    s.does (.slotRead by_) (fun e => e.slotRead w) ∧ s.does (.slotWrite by_) (fun e => e.slotWrite w) ∧
    s.does (.derive by_) (fun e => e.slotDerive w) ∧ s.does (.erase by_) (fun e => e.slotErase w) ∧
    s.does (.ownerPassword by_) (fun e => e.ownerPassword w) ∧ s.does (.lifeCycleChange by_ key target) (fun e => e.lifeCycle w key target)) ∧
  (∀ (m : M) (x i : Nat), i < 8 → m.kvResult x = (m.put F.KV_CMD_STAT_err x).put F.KV_CMD_STAT_busy 0 ∧
    m.clearKeyData.rd .KV_KEYD i = 0 ∧ m.clearProof.rd .KV_PROOF i = 0 ∧ m.clearKeyData = { m with regs := m.clearKeyData.regs } ∧
    m.clearProof = { m with regs := m.clearProof.regs } ∧ m.replaceNonce = { m with rnd := m.rnd + 4, kv := { m.kv with nonce := m.rnd } }) ∧
  (∀ t : Tag, (tagStores t = true ↔ t = .system ∨ t = .mk 0 .owner) ∧
    (tagReads t = true ↔ t = .system ∨ t = .mk 0 .owner ∨ t = .mk 255 .service ∨ t = .mk 0 .engineer)) ∧
  (∀ (m : M) (w : Who) (x : Nat), x = m.get F.KV_SEL_slot →
    (tagReads w.tag = false → m.slotRead w = m.clearKeyData.kvResult 1) ∧
    (tagReads w.tag = true →
      (m.kvSlot x = none → m.slotRead w = (((m.wr .KV_ATTR 0).wr .KV_KCV 0).clearKeyData).kvResult 0) ∧
      (∀ k, m.kvSlot x = some k → m.slotRead w = (((m.wr .KV_ATTR (BitVec.ofNat 32
          (2 ^ 31 + b2n k.expire * 2 ^ 30 + b2n k.counted * 2 ^ 29 + k.users * 2 ^ 24 + k.count))).wr .KV_KCV
        (BitVec.ofNat 32 (be (digestBytes (Config.hmac k.key (ascii "KCV"))) 0 4))).clearKeyData).kvResult 0)) ∧
    (tagStores w.tag = false → m.slotWrite w = m.clearKeyData.kvResult 1 ∧ m.slotDerive w = m.clearKeyData.kvResult 1 ∧
      m.slotErase w = m.clearKeyData.kvResult 1 ∧ m.ownerPassword w = m.clearKeyData.kvResult 1) ∧
    (tagStores w.tag = true →
      (m.bit F.KV_ATTR_counted = true → m.get F.KV_ATTR_count = 0 → m.slotWrite w = m.clearKeyData.kvResult 6 ∧
        m.slotDerive w = m.clearKeyData.kvResult 6) ∧
      (m.bit F.KV_ATTR_counted = false ∨ m.get F.KV_ATTR_count ≠ 0 → m.slotWrite w = m.fillSlot w 2 (m.kvBytes .KV_KEYD 8) ∧
        (m.deriveKey (m.kvBytes .KV_KEYD 4) = none → m.slotDerive w = m.clearKeyData.kvResult 5) ∧
        (∀ k, m.deriveKey (m.kvBytes .KV_KEYD 4) = some k → m.slotDerive w = m.fillSlot w 3 k)) ∧
      m.slotErase w = ((((m.dropSlot x).clearKeyData).kvResult 0).flag F.KV_EVT_key 0x26).kvNote (some w) 4 x 3 false)) ∧
  (∀ (m : M) (w : Who) (op : Nat) (key : Bytes) (x : Nat), x = m.get F.KV_SEL_slot → m.fillSlot w op key =
    ((((m.putSlot x ⟨key, m.get F.KV_ATTR_users, m.bit F.KV_ATTR_expire, m.bit F.KV_ATTR_counted, m.get F.KV_ATTR_count⟩).clearKeyData).kvResult 0).flag
      F.KV_EVT_key 0x26).kvNote (some w) op x 3 false) ∧
  (∀ (m : M) (lbl : Bytes) (root : Option Bytes) (key : Bytes → Bytes),
    (∀ r, key r = digestBytes (Config.hkdfExpand (digestBytes (Config.hmac (toBE 8 Config.serial.toNat) r)) lbl)) →
    (m.kv.lc = 1 → root = some Config.mfgRoot) → (m.kv.lc = 2 → root = m.kv.ownerRoot.map Config.ownerRoot) →
    (m.kv.lc = 3 → root = m.kv.ownerRoot.map (fun g => digestBytes (Config.hmac Config.fieldRoot (Config.ownerRoot g)))) →
    (m.kv.lc = 4 → root = some Config.returnRoot) → (m.kv.lc = 0 ∨ 4 < m.kv.lc → root = none) → m.deriveKey lbl = root.map key) ∧
  (∀ (m : M) (w : Who) (b : Bytes), tagStores w.tag = true → b = m.kvBytes .KV_OPW 21 →
    (be b 0 4 < 10000 ∨ 10000000 < be b 0 4 → m.ownerPassword w = m.clearKeyData.kvResult 6) ∧
    (10000 ≤ be b 0 4 → be b 0 4 ≤ 10000000 → ∀ m1 : M,
      m1 = { m with kv := { m.kv with opw := some ⟨be b 0 4, slice b 4 16, slice b 20 32, slice b 52 32⟩ } } →
      m.ownerPassword w = (((m1.clearKeyData).kvResult 0).flag F.KV_EVT_opw 0x26).kvNote (some w) 5 0 3 false)) ∧
  (∀ (t : Tag) (stores vendor own : Bool), (stores = true ↔ t = .system ∨ t = .mk 0 .owner) → (own = true ↔ t = .mk 0 .owner) →
    (vendor = true ↔ t = .system ∨ t = .mk 0 .owner ∨ t = .mk 255 .service) →
    lifeCycleRow 1 2 t = some (false, vendor, false) ∧ lifeCycleRow 2 3 t = some (false, false, stores) ∧
    lifeCycleRow 3 2 t = some (own, false, false) ∧ lifeCycleRow 2 4 t = some (own, vendor, false) ∧
    lifeCycleRow 3 4 t = some (own, vendor, false) ∧ lifeCycleRow 4 1 t = some (false, vendor, false) ∧
    lifeCycleRow 0 5 t = some (false, vendor, false) ∧ lifeCycleRow 1 5 t = some (false, vendor, false) ∧
    lifeCycleRow 4 5 t = some (false, vendor, false) ∧ lifeCycleRow 2 5 t = some (own, false, false) ∧
    lifeCycleRow 3 5 t = some (own, false, false) ∧ lifeCycleRow 0 1 t = some (false, false, false) ∧
    ∀ a b, (a, b) ∉ [(1, 2), (2, 3), (3, 2), (2, 4), (3, 4), (4, 1), (0, 5), (1, 5), (4, 5), (2, 5), (3, 5), (0, 1)] → lifeCycleRow a b t = none) ∧
  (∀ (m : M) (w : Who) (key target : Nat) (fin : Nat → M), (∀ e, fin e = ((m.clearKeyData.clearProof).replaceNonce).kvResult e) →
    (key ≠ 0x4B56 → m.lifeCycle w key target = fin 6) ∧
    (key = 0x4B56 → w.tag ≠ .system → w.tag ≠ .mk 0 .owner → w.tag ≠ .mk 255 .service → m.lifeCycle w key target = fin 1) ∧
    (key = 0x4B56 → w.tag = .system ∨ w.tag = .mk 0 .owner ∨ w.tag = .mk 255 .service →
      (lifeCycleRow m.kv.lc target w.tag = none → m.lifeCycle w key target = fin 9) ∧
      (∀ owner vendor free, lifeCycleRow m.kv.lc target w.tag = some (owner, vendor, free) → ∀ barred : Prop,
        (barred ↔ (owner = false ∧ vendor = false ∧ free = false) ∨ ((m.kv.lc = 2 ∨ m.kv.lc = 3) ∧ target = 4 ∧ w.tag ≠ .mk 0 .owner ∧
          m.bit F.KV_CTRL_vend_ok = false)) →
        (barred → m.lifeCycle w key target = fin 1) ∧
        (¬ barred → m.leased = true → m.lifeCycle w key target = fin 7) ∧
        (¬ barred → m.leased = false → free = true → m.kv.opw = none → m.lifeCycle w key target = fin 8) ∧
        (¬ barred → m.leased = false → (free = true → m.kv.opw ≠ none) → ∀ proved : Prop,
          (proved ↔ free = true ∨ (owner = true ∧ m.ownerProof 6 target 0 = true) ∨ (vendor = true ∧ m.vendorProof 6 target 0 = true)) →
          (¬ proved → m.lifeCycle w key target = ((fin 2).flag F.KV_EVT_acc_fail 0x26).kvNote (some w) 6 0 3 true) ∧
          (proved → m.lifeCycle w key target =
            ((((fin 0).enterLifeCycle target).flag F.KV_EVT_lc 0x26).kvNote (some w) 6 0 2 false).applyReset 3 false))))) ∧
  (∀ m : M, m.storesLost = { m with
      nvp := { m.nvp with
        pages := m.nvp.pages.filter (fun p => p.1 < 0x20)
        bad := m.storesLost.nvp.bad }
      pts := { m.pts with
        retention := []
        forceStore := []
        forceDrops := [] }
      mtr := { m.mtr with saved := none }
      loop := { m.loop with kept := [] }
      img := { m.img with
        bank0 := []
        bank1 := []
        staging := [] }
      frec := { m.frec with
        copyHead := []
        copyReel := []
        log := [] }
      hst := { m.hst with logs := [] } } ∧
    ∀ p, p ∈ m.storesLost.nvp.bad ↔ p ∈ m.nvp.bad ∨ (0x20 ≤ p ∧ ∃ ws, (p, ws) ∈ m.nvp.pages)) ∧
  (∀ (m : M) (target : Nat), ∃ a t : M, a = (if (target = 4 ∨ target = 5) ∧ m.kv.ownerRoot ≠ none then m.storesLost else m) ∧
    m.enterLifeCycle target = t ∧ t = { a with rnd := m.rnd + 1, kv := t.kv } ∧ t.kv.lc = target ∧ t.kv.marker = none ∧
    t.kv.slots = [] ∧ t.kv.opened = none ∧ t.kv.opw = (if target = 1 ∨ target = 4 ∨ target = 5 then none else m.kv.opw) ∧
    t.kv.ownerRoot = (if target = 4 ∨ target = 5 then none else if target = 2 ∧ m.kv.lc = 1 then some m.rnd else m.kv.ownerRoot)) ∧
  (∀ (m : M) (op arg duration : Nat) (msg : Bytes),
    msg = ascii "KVACC" ++ toBE 8 Config.serial.toNat ++ randomBytes m.kv.nonce 4 ++ toBE 1 op ++ toBE 2 arg ++ toBE 2 duration →
    (m.ownerProof op arg duration = true ↔ ∃ v, m.kv.opw = some v ∧ digestBytes (Config.sha256
      (xorBytes (m.kvBytes .KV_PROOF 8) (digestBytes (Config.hmac v.storedKey msg)))) = v.storedKey) ∧
    (m.vendorProof op arg duration = true ↔ m.bit F.KV_CTRL_vend_ok = true ∧ m.kvBytes .KV_PROOF 8 = digestBytes (Config.hmac m.vendorKey msg))) ∧
  (∀ (s : State) (x bit : Nat), x < 64 → 24 ≤ bit → bit < 28 → ∀ fails : Prop,
    (fails ↔ s.m.domainOn 6 = false ∨ ∀ k, s.m.kvSlot x = some k → tbit k.users (bit - 24) = false) →
    (fails → bit ≠ 27 → exec (.slotUse x bit) s = .next s) ∧
    (fails → bit = 27 → exec (.slotUse x bit) s = .next { s with m := s.m.kvResult 5 }) ∧
    (¬ fails → ∀ k, s.m.kvSlot x = some k →
      (k.counted = false → exec (.slotUse x bit) s = .next s) ∧
      (k.counted = true → k.count ≤ 1 → s.leaves (.slotUse x bit) (((s.m.dropSlot x).flag F.KV_EVT_gone 0x26).kvNote none 0 x 3 false)) ∧
      (k.counted = true → 1 < k.count → exec (.slotUse x bit) s =
        .next { s with m := s.m.putSlot x ⟨k.key, k.users, k.expire, true, k.count - 1⟩ }))) ∧
  (∀ (s : State) (passed : Bool), ∀ m1 : M, m1 = (s.m.put F.KV_STAT_kv_ok (if passed = true then 1 else 0)).put F.KV_STAT_chk_busy 0 →
    s.leaves (.vaultCheck passed) (if passed = true then m1 else m1.flag F.KV_EVT_chk_fail 0x26)) ∧
  (∀ (s : State) (by_ : Master) (w : Who), s.m.accepts by_ w (Reg.KV_ATT_CMD.addr 0 0 0) true → s.does (.attestation by_) (fun e => e.attest w)) ∧
  (∀ (m : M) (w : Who) (done : M → List Word → Nat → Nat → Nat → M),
    (∀ a st mode words e, done a st mode words e = (((({ a with kv := { a.kv with statement := st } } : M).put F.KV_ATT_STAT_mode mode).put
      F.KV_ATT_STAT_words words).put F.KV_ATT_STAT_err e).put F.KV_ATT_STAT_busy 0) →
    (tagReads w.tag = false → m.attest w = m.put F.KV_ATT_STAT_err 1) ∧
    (tagReads w.tag = true →
      (m.get F.IBX_PAIR_pair = 0 → m.get F.IBX_CHOST_en = 0 → m.attest w = done m
        (wordsBE (m.attestBody 1 ++ padTo 64 (Config.identitySign (digestBytes (Config.sha256 (m.attestBody 1))))) 81) 1 81 0) ∧
      (m.get F.IBX_PAIR_pair ≠ 0 ∨ m.get F.IBX_CHOST_en ≠ 0 →
        (∀ m1, m.useSlot (m.get F.KV_CTRL_att_key) 26 = (none, m1) → m1 = m ∧ m.attest w = done m [] 0 0 5) ∧
        (∀ k m1, m.useSlot (m.get F.KV_CTRL_att_key) 26 = (some k, m1) → m.attest w = done m1
          (wordsBE (m1.attestBody 2 ++ digestBytes (Config.hmac k (m1.attestBody 2))) 73) 2 73 0)))) ∧
  (∀ (s : State) (by_ : Master) (w : Who) (gates duration : Nat), gates < 8 → duration < 65536 →
    s.m.accepts by_ w (Reg.KV_ACC_CMD.addr 0 0 0) true →
    s.does (.openOwner by_ gates duration) (fun e => e.openOwner w gates duration) ∧
    s.does (.openVendor by_ gates duration) (fun e => e.openVendor w gates duration) ∧
    s.does (.closeGates by_ gates) (fun e => e.closeGates w gates)) ∧
  (∀ (m : M) (w : Who) (op gates duration : Nat) (after : M) (fits : Bool) (fin : Nat → M), (op = 1 ∨ op = 2) →
    after = (if op = 1 then m.openOwner w gates duration else m.openVendor w gates duration) →
    fits = (if op = 1 then m.ownerProof 1 gates duration else m.vendorProof 2 gates duration) →
    (∀ e, fin e = (m.clearProof.replaceNonce).kvResult e) →
    (tagReads w.tag = false ∨ (op = 1 ∧ tbit gates 0 = true) → after = fin 1) ∧
    (tagReads w.tag = true → (op = 1 → tbit gates 0 = false) →
      (duration < 1 ∨ 480 < duration → after = fin 6) ∧
      (1 ≤ duration → duration ≤ 480 →
        (m.kv.lockUntil ≠ none → after = fin 3) ∧
        (m.kv.lockUntil = none → fits = false → after = (fin 2).kvAuthFail w op gates) ∧
        (m.kv.lockUntil = none → fits = true → ∀ m2 : M, m2 = { fin 0 with kv := { (fin 0).kv with
            authRun := 0
            opened := some (Nat.lor ((m.kv.opened.map Prod.fst).getD 0) gates, (op, m.time.tb + duration * 60 * sec)) } } →
          after = (m2.flag F.KV_EVT_acc 0x26).kvNote (some w) op gates 3 false)))) ∧
  (∀ (m : M) (w : Who) (op gates run : Nat) (m1 : M), run = m.kv.authRun + 1 → m1 = { m with kv := { m.kv with
      authRun := if run = 5 then 0 else run
      lockUntil := if run = 5 then some (m.time.tb + 60 * sec) else m.kv.lockUntil } } →
    m.kvAuthFail w op gates = ((if run = 1 then m1.flag F.KV_EVT_lock 0x26 else m1).flag F.KV_EVT_acc_fail 0x26).kvNote (some w) op gates 3 true) ∧
  (∀ (m : M) (w : Who) (gates : Nat), gates < 8 →
    (tagReads w.tag = false → m.closeGates w gates = m.clearProof.kvResult 1) ∧
    (tagReads w.tag = true → ∀ (o : Option (Nat × (Nat × Nat))), (m.kv.opened = none → o = none) →
      (∀ g x, m.kv.opened = some (g, x) → o = if Nat.land g (7 - gates) = 0 then none else some (Nat.land g (7 - gates), x)) →
      (o = m.kv.opened → m.closeGates w gates = m.clearProof.kvResult 0) ∧
      (o ≠ m.kv.opened → m.closeGates w gates = ((((({ m with kv := { m.kv with opened := o } } : M).clearProof).kvResult 0).haltsFollowGates).flag
        F.KV_EVT_acc 0x26).kvNote (some w) 3 gates 3 false))) ∧
  (∀ (m : M) (b : Bool) (m1 : M), m1 = m.put F.KV_DBG_h0_halt (if b = true then 1 else 0) →
    (m.bit F.KV_DBG_h0_halt = b → m.haltH0 b = m1) ∧
    (m.bit F.KV_DBG_h0_halt = false → b = true → m.haltH0 b = { m1 with boot := { m1.boot with mwdLeft := some (m.boot.mwdBy - m.time.tb) } }) ∧
    (m.bit F.KV_DBG_h0_halt = true → b = false → m.haltH0 b = { m1 with boot := { m1.boot with
      mwdBy := match m.boot.mwdLeft with
        | some l => m.time.tb + l
        | none => m.boot.mwdBy
      mwdLeft := none } })) ∧
  (∀ m : M, ∃ a : M, a = (if tbit m.gates 0 = true then m else m.haltH0 false) ∧
    m.haltsFollowGates = if tbit m.gates 1 = true then a else a.put F.KV_DBG_h1_halt 0) ∧
  (∀ s : State,
    (s.m.kv.opened = none → exec .gateExpiry s = .next s) ∧
    (∀ g how u, s.m.kv.opened = some (g, (how, u)) →
      (s.m.time.tb < u → exec .gateExpiry s = .next s) ∧
      (u ≤ s.m.time.tb → s.leaves .gateExpiry
        ((({ s.m with kv := { s.m.kv with opened := none } } : M).haltsFollowGates.flag F.KV_EVT_acc 0x26).kvNote none 3 g 3 false))) ∧
    (∀ u, s.m.kv.lockUntil = some u → u ≤ s.m.time.tb →
      exec .openUnlock s = .next { s with m := { s.m with kv := { s.m.kv with lockUntil := none } } }) ∧
    ((∀ u, s.m.kv.lockUntil = some u → s.m.time.tb < u) → exec .openUnlock s = .next s)) ∧
  (∀ (s : State) (by_ : Master) (w : Who) (h0 h1 : Bool), s.m.accepts by_ w (Reg.KV_DBG.addr 0 0 0) true →
    s.does (.coreHalt by_ h0 h1) (fun e => e.coreHalt w h0 h1)) ∧
  (∀ (m : M) (w : Who) (h0 h1 : Bool),
    (tagReads w.tag = false → m.coreHalt w h0 h1 = m.kvResult 1) ∧
    (tagReads w.tag = true → ∀ m1 : M,
      m1 = (if h1 = true ∧ tbit m.gates 1 = false then m else m.put F.KV_DBG_h1_halt (if h1 = true then 1 else 0)) →
      (h0 = false → m.coreHalt w h0 h1 = (m1.haltH0 false).kvResult 0) ∧
      (h0 = true →
        (tbit m.gates 0 = false → m.coreHalt w h0 h1 = m1) ∧
        (tbit m.gates 0 = true → m.leased = true → m.coreHalt w h0 h1 = m1.kvResult 7) ∧
        (tbit m.gates 0 = true → m.leased = false → m.unitState ≠ 7 → m.coreHalt w h0 h1 = m1.kvResult 9) ∧
        (tbit m.gates 0 = true → m.leased = false → m.unitState = 7 → m.coreHalt w h0 h1 = (m1.haltH0 true).kvResult 0)))) ∧
  (∀ (m : M) (w : Option Who) (op x sev t r : Nat) (failed : Bool), (t, r) = ((w.map Who.tag).getD .system).bytes →
    m.kvNote w op x sev failed = m.note 0x0E sev 0
      [op * 2 ^ 24 + x * 2 ^ 16 + m.kv.lc * 2 ^ 8 + (w.map Who.ini).getD 0, t * 2 ^ 24 + r * 2 ^ 16 + (if failed = true then 1 else 0)])

/-! ### Field update and fall-back (chapter 19) -/

/-- INSTALL, DISCARD and FALLBACK_CMD are answered in their order of refusals.  An installation copies the active set with its snapshot and
takes its steps; COMPONENT_RESTART goes on to the next step or the trial, or falls back.  CONFIRM records each confirmation, confirms the
set or rejects it, WINDOW_EXPIRY falls back; a fall-back restores the snapshot and resets the module.
The order of refusals and of an unpaired reset is the model's reading (log 71). -/
def Obligations.UpdatesInstallConfirmFallBack : Prop :=
  (∀ (s : State) (by_ : Master) (w : Who), s.m.accepts by_ w (Reg.UPD_CMD.addr 0 0 0) true →
    s.does (.install by_) (fun e => e.install w) ∧ s.does (.discard by_) (fun e => e.discardPackage w) ∧
    s.does (.fallbackCmd by_) (fun e => e.fallbackCmd w)) ∧
  (∀ (s : State) (by_ : Master) (w : Who) (key code : Nat), key < 65536 → code < 65536 → s.m.accepts by_ w (Reg.UPD_CONFIRM.addr 0 0 0) true →
    s.does (.confirm by_ key code) (fun e => e.confirm w key code)) ∧
  (∀ (m : M) (x : Nat), m.updResult x = (m.put F.UPD_CMD_STAT_err x).put F.UPD_CMD_STAT_busy 0) ∧
  (∀ t : Tag, mayUpdate t = true ↔ t = .system ∨ t = .mk 0 .owner ∨ t = .mk 255 .service) ∧
  (∀ (m : M) (w : Who) (u p : Nat) (pair : Bool), u = m.unitState → p = m.peerState → pair = pkgPair m.upd.package →
    (m.bit F.UPD_CMD_STAT_busy = true → m.install w = m ∧ m.discardPackage w = m ∧ m.fallbackCmd w = m) ∧
    (m.bit F.UPD_CMD_STAT_busy = false →
      (mayUpdate w.tag = false → m.install w = m.updResult 1 ∧ m.discardPackage w = m.updResult 1 ∧ m.fallbackCmd w = m.updResult 1) ∧
      (mayUpdate w.tag = true →
        (m.get F.UPD_STAT_state ≠ 2 → m.install w = m.updResult 2 ∧ m.discardPackage w = m.updResult 2) ∧
        (m.get F.UPD_STAT_state ≠ 4 → m.fallbackCmd w = m.updResult 2) ∧
        (m.get F.UPD_STAT_state = 4 → m.fallbackCmd w = (m.updResult 0).fallBack 6) ∧
        (m.get F.UPD_STAT_state = 2 →
          m.discardPackage w = ((({ m with upd := { m.upd with package := [], headerOk := false } } : M).put F.UPD_PKG_VER_version 0).put
            F.UPD_STAT_state 0).updResult 0 ∧
          (pair = false → u = 4 → p = 2 → m.install w = m.updResult 5) ∧
          (pair = false → u ≠ 4 ∨ p ≠ 2 → m.install w = (m.updResult 0).beginInstall) ∧
          (pair = true → u = 2 → p = 4 → m.eligible = true → m.install w =
            ((m.updResult 0).put F.UPD_STAT_pair (if m.get F.UPD_STAT_pair = 5 then 3 else 1)).beginInstall) ∧
          (pair = true → u = 2 → p ≠ 4 ∨ m.eligible = false → m.install w = m.updResult 4) ∧
          (pair = true → u = 4 → m.peerReadyFor = true → m.install w = { (m.updResult 0).put F.UPD_STAT_pair 1 with upd := { m.upd with
            swapIds := (pkgImage m.upd.package).map (fun e => (e.baseId, be (slice m.upd.package e.off e.len) 0x10 4)) } }) ∧
          (pair = true → u = 4 → m.peerReadyFor = false → m.install w = m.updResult 4) ∧
          (pair = true → u ≠ 2 → u ≠ 4 → m.install w = m.updResult 4))))) ∧
  (∀ (m : M) (a t : Nat), a = m.upd.boot.active → a < 2 → t = 1 - a → ∃ m2 : M, m.beginInstall = m2.installStep 1 ∧
    m2.get F.UPD_STAT_state = 3 ∧ m2.get F.UPD_STAT_step = 0 ∧ m2.get F.UPD_CMD_STAT_busy = 1 ∧ m2.get F.UPD_STAT_h0_conf = 0 ∧
    m2.get F.UPD_STAT_op_conf = 0 ∧ m2.upd.boot = { m.upd.boot with trial := some 0, prevValid := false } ∧ m2.upd.package = m.upd.package ∧
    (∀ c, 1 ≤ c → c ≤ 4 → m2.component t c = m.component a c) ∧ aget t m2.upd.imageNeeds = aget a m.upd.imageNeeds ∧
    m2.bank t = m.bank a ∧ m2.bank a = m.bank a ∧ m2.upd.snapshot = m.nvp.pages.filter (fun p => 0x20 ≤ p.1 && p.1 < 0x1C0)) ∧
  (∀ (m : M) (k : Nat),
    (pkgStep m.upd.package k = none → m.installStep k = m) ∧
    (∀ (e : PackageEntry) (m1 : M), pkgStep m.upd.package k = some e → m1 = m.writeComponent m.upd.package e → ∀ m2 : M,
      m2 = { m1 with upd := { m1.upd with boot := { m1.upd.boot with trial := some k }, restarting := some k } } →
      (e.comp = 5 → m.installStep k = m2.exeStop) ∧
      (e.comp = 3 → m.installStep k = m2.meterHalt) ∧ (e.comp ≠ 5 → e.comp ≠ 3 → m.installStep k = m2))) ∧
  (∀ m : M, (m.mtrRuns = false → m.meterHalt = m) ∧
    (m.mtrRuns = true → m.bit F.MTR_STAT_clk = true → m.meterHalt = { m with mtr := { m.mtr with stopping := true } }) ∧
    (m.mtrRuns = true → m.bit F.MTR_STAT_clk = false → m.meterHalt = m.meterStopped.meterGroups)) ∧
  (∀ (m : M) (b : Bytes) (e : PackageEntry) (t : Nat), t = 1 - m.upd.boot.active →
    (e.comp = 5 → (m.writeComponent b e).bank t = slice b e.off e.len ∧
      aget t (m.writeComponent b e).upd.imageNeeds = some (be (slice b e.off e.len) 0x24 4, (e.needsMin, e.needsMax))) ∧
    (e.comp ≠ 5 → (m.writeComponent b e).component t e.comp =
      some ⟨e.version, e.needsMin, e.needsMax, e.peerMin, e.fmt, slice b e.off e.len⟩)) ∧
  (∀ (s : State) (ok : Bool) (frames : Nat),
    (s.m.upd.restarting = none → exec (.componentRestart ok frames) s = .next s) ∧
    (∀ k, s.m.upd.restarting = some k →
      (pkgStep s.m.upd.package k = none → exec (.componentRestart ok frames) s = .next s) ∧
      (∀ e, pkgStep s.m.upd.package k = some e →
        (ok = false → s.leaves (.componentRestart ok frames) (s.m.fallBack 4)) ∧
        (ok = true →
          (e.comp ≠ 5 → e.comp ≠ 3 ∨ s.m.mtrRuns = false → s.leaves (.componentRestart ok frames) ((s.m.componentUp e frames).stepDone k)) ∧
          (e.comp = 3 → s.m.mtrRuns = true → exec (.componentRestart ok frames) s = .next s) ∧
          (e.comp = 5 →
            (s.m.exeStopped = false → exec (.componentRestart ok frames) s = .next s) ∧
            (s.m.exeStopped = true → ∀ (t : Nat) (src : Bytes) (loaded ready : M), t = 1 - s.m.upd.boot.active → src = s.m.bank t →
              (s.m.loadChecks src = none → loaded = s.m.finishFull t src) →
              (∀ c l, s.m.loadChecks src = some (c, l) → loaded = (s.m.imageResult c l).imageRecord t src c) →
              ready = (if loaded.exeState = 3 then loaded.exeAck else loaded) →
              (ready.get F.UPD_IMG_STAT_err ≠ 0 ∨ ready.runRefusal ≠ 0 → s.leaves (.componentRestart ok frames) (ready.fallBack 5)) ∧
              (ready.get F.UPD_IMG_STAT_err = 0 → ready.runRefusal = 0 →
                s.leaves (.componentRestart ok frames) ((ready.exeRun true M.armImage).stepDone k)))))))) ∧
  (∀ (m : M) (e : PackageEntry) (frames : Nat),
    (e.comp = 1 → m.componentUp e frames = m.coreRestart.wr .UPD_VER (BitVec.ofNat 32 e.version) 0) ∧
    (e.comp = 2 → m.componentUp e frames = ((List.range 8).foldl (fun (a : M) n => if a.canActive n = true then a.busTakeover n else a) m).wr
      .UPD_VER (BitVec.ofNat 32 e.version) 1) ∧
    (e.comp = 3 → ∀ m1 : M, m1 = (if m.bit F.MTR_CTRL_en = true then m.meterEnable else m) → m.componentUp e frames =
      (m1.meteringCircuits.foldl (fun (a : M) c => a.wr .MTR_C_LOST (BitVec.ofNat 32 (min ((a.rd .MTR_C_LOST c).toNat + frames) 0xFFFFFFFF)) c) m1).wr
        .UPD_VER (BitVec.ofNat 32 e.version) 2) ∧
    (e.comp = 4 → m.componentUp e frames = ((List.range 64).foldl (fun (a : M) n => if a.chState n = chOff then a else
      a.modChan n (fun c => { c with queued := [], handOver := some c.uPrev })) m).wr .UPD_VER (BitVec.ofNat 32 e.version) 3)) ∧
  (∀ (m : M) (k : Nat) (m1 : M), m1 = ({ m with upd := { m.upd with restarting := none } } : M).put F.UPD_STAT_step k →
    (k < pkgCount m.upd.package → m.stepDone k = m1.installStep (k + 1)) ∧
    (pkgCount m.upd.package ≤ k → ∀ m2 : M,
      m2 = { m1 with upd := { m1.upd with windowEnd := some (m.time.tb + max 60 (m.get F.UPD_CTRL_window) * sec) } } →
      m.stepDone k = (((m2.put F.UPD_STAT_state 4).updResult 0).flag F.UPD_EVT_trial 0x27).updateNote 4)) ∧
  (∀ (m : M) (w : Who) (key code : Nat) (oper h0 : Bool),
    (oper = true ↔ (w.tag = .mk 0 .owner ∨ w.tag = .mk 255 .service) ∧ w.session ≠ none) → (h0 = true ↔ w.ini = 0) →
    (m.get F.UPD_STAT_state ≠ 4 ∨ key ≠ 0xC0DE ∨ (h0 = false ∧ oper = false) → m.confirm w key code = m) ∧
    (m.get F.UPD_STAT_state = 4 → key = 0xC0DE → h0 = true ∨ oper = true →
      (0x8000 ≤ code → m.confirm w key code = m.fallBack 2) ∧
      (code < 0x8000 → code ≠ 1 → m.confirm w key code = m) ∧
      (code = 1 → m.selfHealthy = false → m.confirm w key code = m.flag F.UPD_EVT_nothealthy 0x27) ∧
      (code = 1 → m.selfHealthy = true → ∀ (m1 : M) (both : Prop),
        m1 = (if h0 = true then m.put F.UPD_STAT_h0_conf 1 else m.put F.UPD_STAT_op_conf 1) →
        (both ↔ m1.bit F.UPD_STAT_h0_conf = true ∧ (m1.bit F.UPD_STAT_op_conf = true ∨ m1.bit F.UPD_CTRL_hold = false)) →
        (both → m.confirm w key code = m1.confirmed) ∧ (¬ both → m.confirm w key code = m1)))) ∧
  (∀ (m : M) (t mgmt : Nat), t = 1 - m.upd.boot.active → mgmt = ((m.component t 1).map Component.version).getD 0 →
    m.confirmed.get F.UPD_STAT_state = 0 ∧ m.confirmed.get F.UPD_PKG_VER_version = 0 ∧
    m.confirmed.get F.UPD_STAT_pair = (if m.get F.UPD_STAT_pair = 1 then 2 else if m.get F.UPD_STAT_pair = 3 then 4 else m.get F.UPD_STAT_pair) ∧ m.confirmed.upd.package = [] ∧ m.confirmed.upd.snapshot = [] ∧ m.confirmed.upd.windowEnd = none ∧
    m.confirmed.upd.boot = { m.upd.boot with
      active := t
      trial := none
      prevValid := true
      floor := if pkgFloor m.upd.package = true then max m.upd.boot.floor mgmt else m.upd.boot.floor }) ∧
  (∀ s : State,
    (s.m.get F.UPD_STAT_state ≠ 4 ∨ (∀ u, s.m.upd.windowEnd = some u → s.m.time.tb < u) → exec .windowExpiry s = .next s) ∧
    (∀ u, s.m.get F.UPD_STAT_state = 4 → s.m.upd.windowEnd = some u → u ≤ s.m.time.tb → s.leaves .windowExpiry (s.m.fallBack 1))) ∧
  (∀ (m : M) (cause : Nat) (m1 m2 : M), m1 = ((m.put F.UPD_STAT_state 5).put F.UPD_STAT_fb cause).put F.UPD_CMD_STAT_busy 0 →
    m2 = (if m1.get F.UPD_STAT_pair = 1 then (m1.put F.UPD_STAT_pair 5).put F.UPD_STAT_err 0x2E else m1) →
    m.fallBack cause = ((m2.updateNote 2).restoreSet cause).moduleReset) ∧
  (∀ (m : M) (cause : Nat), (m.restoreSet cause).upd.boot = { m.upd.boot with trial := none, prevValid := false, cause := cause } ∧
    (m.restoreSet cause).upd.snapshot = [] ∧ (m.restoreSet cause).upd.windowEnd = none ∧ (m.restoreSet cause).upd.fellBack = true ∧
    (m.restoreSet cause).nvp = m.upd.snapshot.foldl (fun (a : NvpState) p => a.store p.1 p.2) m.nvp ∧
    (m.unitState = 4 → m.peerReadyFor = true → m.moduleReset =
      ({ m with boot := { m.boot with resetWaits := true } } : M).startHandover .reset) ∧
    (m.unitState ≠ 4 ∨ m.peerReadyFor = false → m.moduleReset = m.applyReset 3 false))
end

