-- ==== Sys2Proof/Laws/Bits.lean ====
section
/-! SUPPORT. What the field and table helpers answer: a field read after a field is set, a key looked up after a table is
changed. -/

namespace Sys2Proof.Machine

/-! ### Sparse tables -/

@[simp] theorem aget_aput_same {α : Type} (k : Nat) (v : α) (l : List (Nat × α)) : aget k (aput k v l) = some v := by
  induction l with
  | nil => simp [aput, aget]
  | cons p t ih =>
    obtain ⟨k', v'⟩ := p
    simp only [aput]
    split
    · simp [aget]
    · split
      · simp [aget]
      · next h1 h2 =>
        have : ¬ k' = k := by intro h; subst h; simp at h2
        simp [aget, this, ih]

theorem aget_aput_ne {α : Type} {k j : Nat} (h : j ≠ k) (v : α) (l : List (Nat × α)) : aget j (aput k v l) = aget j l := by
  induction l with
  | nil => simp [aput, aget, Ne.symm h]
  | cons p t ih =>
    obtain ⟨k', v'⟩ := p
    simp only [aput]
    split
    · simp [aget, Ne.symm h]
    · split
      · next h1 h2 =>
        have h3 : k = k' := by simpa using h2
        subst h3
        simp [aget, Ne.symm h]
      · simp only [aget]; split <;> simp_all

theorem aget_aput {α : Type} (k j : Nat) (v : α) (l : List (Nat × α)) :
    aget j (aput k v l) = if j = k then some v else aget j l := by
  split
  · next h => subst h; simp
  · next h => exact aget_aput_ne h v l

@[simp] theorem aget_adel_same {α : Type} (k : Nat) (l : List (Nat × α)) : aget k (adel k l) = none := by
  induction l with
  | nil => rfl
  | cons p t ih =>
    obtain ⟨k', v'⟩ := p
    by_cases h : k' = k
    · subst h; simpa [adel] using ih
    · simpa [adel, h, aget] using ih

theorem aget_adel_ne {α : Type} {k j : Nat} (h : j ≠ k) (l : List (Nat × α)) : aget j (adel k l) = aget j l := by
  induction l with
  | nil => rfl
  | cons p t ih =>
    obtain ⟨k', v'⟩ := p
    by_cases h' : k' = k
    · subst h'
      simp only [adel, List.filter_cons, beq_self_eq_true, Bool.not_true, Bool.false_eq_true, ↓reduceIte, aget]
      simp only [adel] at ih
      rw [ih]; simp [Ne.symm h]
    · simp only [adel] at ih
      simp [adel, h', aget, ih]

theorem aget_amod {α : Type} (k j : Nat) (f : α → α) (l : List (Nat × α)) :
    aget j (amod k f l) = if j = k then (aget j l).map f else aget j l := by
  induction l with
  | nil => simp [amod, aget]
  | cons p t ih =>
    obtain ⟨k', v'⟩ := p
    simp only [amod, List.map_cons] at ih ⊢
    by_cases h : k' = k <;> by_cases h' : k' = j <;> simp_all [aget]

/-! ### Fields of natural numbers -/

/-- A filter by key. -/
theorem aget_filter {α : Type} (p : Nat → Bool) (k : Nat) (l : List (Nat × α)) :
    aget k (l.filter (fun x => p x.1)) = if p k then aget k l else none := by
  induction l with
  | nil => simp [aget]
  | cons x t ih =>
    rw [List.filter_cons]
    by_cases h : p x.1 = true
    · rw [if_pos h]
      by_cases e : x.1 = k
      · subst e; simp [aget, h]
      · simp only [aget, e, if_false, ih, beq_iff_eq]
    · rw [if_neg h, ih]
      by_cases e : x.1 = k
      · subst e; simp [h]
      · simp [aget, e]

theorem fieldN_lt (n lo w : Nat) : fieldN n lo w < 2 ^ w := Nat.mod_lt _ (Nat.two_pow_pos w)

theorem fieldN_mul_le (n lo w : Nat) : fieldN n lo w * 2 ^ lo ≤ n := by
  have h1 : fieldN n lo w ≤ n / 2 ^ lo := Nat.mod_le _ _
  calc fieldN n lo w * 2 ^ lo ≤ n / 2 ^ lo * 2 ^ lo := Nat.mul_le_mul_right _ h1
    _ ≤ n := Nat.div_mul_le_self _ _

/-- A number as what lies below a field, the field, and what lies above it. -/
theorem field_split (n lo w : Nat) :
    n = n % 2 ^ lo + fieldN n lo w * 2 ^ lo + n / 2 ^ (lo + w) * 2 ^ (lo + w) := by
  have h1 := Nat.div_add_mod n (2 ^ lo)
  have h2 := Nat.div_add_mod (n / 2 ^ lo) (2 ^ w)
  have h3 : n / 2 ^ lo / 2 ^ w = n / 2 ^ (lo + w) := by rw [Nat.div_div_eq_div_mul, ← Nat.pow_add]
  rw [h3] at h2
  have h4 : 2 ^ (lo + w) = 2 ^ lo * 2 ^ w := Nat.pow_add ..
  unfold fieldN
  calc n = 2 ^ lo * (n / 2 ^ lo) + n % 2 ^ lo := h1.symm
    _ = 2 ^ lo * (2 ^ w * (n / 2 ^ (lo + w)) + n / 2 ^ lo % 2 ^ w) + n % 2 ^ lo := by rw [h2]
    _ = _ := by rw [h4, Nat.mul_add, ← Nat.mul_assoc]; simp only [Nat.mul_comm]; omega

theorem setFieldN_split (n lo w v : Nat) :
    setFieldN n lo w v = n % 2 ^ lo + v % 2 ^ w * 2 ^ lo + n / 2 ^ (lo + w) * 2 ^ (lo + w) := by
  have h := field_split n lo w
  have h' := fieldN_mul_le n lo w
  unfold setFieldN
  omega

theorem regroup (a b q x y : Nat) : a + b * x + q * (x * y) = a + x * (b + y * q) := by
  rw [Nat.mul_add, Nat.mul_comm b x, ← Nat.mul_assoc x y q, Nat.mul_comm q (x * y), Nat.add_assoc]

@[simp] theorem fieldN_setFieldN (n lo w v : Nat) : fieldN (setFieldN n lo w v) lo w = v % 2 ^ w := by
  rw [setFieldN_split]
  unfold fieldN
  have h4 : 2 ^ (lo + w) = 2 ^ lo * 2 ^ w := Nat.pow_add ..
  have e : n % 2 ^ lo + v % 2 ^ w * 2 ^ lo + n / 2 ^ (lo + w) * 2 ^ (lo + w)
      = n % 2 ^ lo + 2 ^ lo * (v % 2 ^ w + 2 ^ w * (n / 2 ^ (lo + w))) := by
    rw [h4]; exact regroup ..
  rw [e, Nat.add_mul_div_left _ _ (Nat.two_pow_pos lo), Nat.div_eq_of_lt (Nat.mod_lt _ (Nat.two_pow_pos lo))]
  simp

theorem fieldN_setFieldN_below (n lo w v lo' w' : Nat) (h : lo' + w' ≤ lo) :
    fieldN (setFieldN n lo w v) lo' w' = fieldN n lo' w' := by
  have key : ∀ x : Nat, fieldN x lo' w' = x % 2 ^ lo / 2 ^ lo' % 2 ^ w' := by
    intro x
    unfold fieldN
    have e : 2 ^ lo = 2 ^ lo' * 2 ^ (lo - lo') := by rw [← Nat.pow_add]; congr 1; omega
    rw [e, Nat.mod_mul_right_div_self, Nat.mod_mod_of_dvd]
    exact Nat.pow_dvd_pow 2 (by omega)
  rw [key, key n, setFieldN_split]
  congr 2
  have h4 : 2 ^ (lo + w) = 2 ^ lo * 2 ^ w := Nat.pow_add ..
  rw [h4]
  have e : n % 2 ^ lo + v % 2 ^ w * 2 ^ lo + n / (2 ^ lo * 2 ^ w) * (2 ^ lo * 2 ^ w)
      = n % 2 ^ lo + 2 ^ lo * (v % 2 ^ w + 2 ^ w * (n / (2 ^ lo * 2 ^ w))) := by
    exact regroup ..
  rw [e, Nat.add_mul_mod_self_left, Nat.mod_mod]

theorem fieldN_setFieldN_above (n lo w v lo' w' : Nat) (h : lo + w ≤ lo') :
    fieldN (setFieldN n lo w v) lo' w' = fieldN n lo' w' := by
  have key : ∀ x : Nat, fieldN x lo' w' = x / 2 ^ (lo + w) / 2 ^ (lo' - (lo + w)) % 2 ^ w' := by
    intro x
    unfold fieldN
    rw [Nat.div_div_eq_div_mul, ← Nat.pow_add]; congr 3; omega
  have top : setFieldN n lo w v / 2 ^ (lo + w) = n / 2 ^ (lo + w) := by
    rw [setFieldN_split]
    have hb : n % 2 ^ lo + v % 2 ^ w * 2 ^ lo < 2 ^ (lo + w) := by
      have h1 : n % 2 ^ lo < 2 ^ lo := Nat.mod_lt _ (Nat.two_pow_pos lo)
      have h2 : v % 2 ^ w + 1 ≤ 2 ^ w := Nat.mod_lt _ (Nat.two_pow_pos w)
      have h3 := Nat.mul_le_mul_right (2 ^ lo) h2
      rw [Nat.add_mul, Nat.one_mul, ← Nat.pow_add, Nat.add_comm w lo] at h3
      omega
    rw [Nat.add_mul_div_right _ _ (Nat.two_pow_pos _), Nat.div_eq_of_lt hb, Nat.zero_add]
  rw [key, key n, top]

theorem setFieldN_lt {n lo w v k : Nat} (h : n < 2 ^ k) (hk : lo + w ≤ k) : setFieldN n lo w v < 2 ^ k := by
  rw [setFieldN_split]
  have h1 : n % 2 ^ lo < 2 ^ lo := Nat.mod_lt _ (Nat.two_pow_pos lo)
  have h2 : v % 2 ^ w + 1 ≤ 2 ^ w := Nat.mod_lt _ (Nat.two_pow_pos w)
  have h3 := Nat.mul_le_mul_right (2 ^ lo) h2
  have e : 2 ^ w * 2 ^ lo = 2 ^ (lo + w) := by rw [← Nat.pow_add, Nat.add_comm]
  rw [Nat.add_mul, Nat.one_mul, e] at h3
  have e2 : 2 ^ k = 2 ^ (k - (lo + w)) * 2 ^ (lo + w) := by rw [← Nat.pow_add]; congr 1; omega
  have h5 : n / 2 ^ (lo + w) + 1 ≤ 2 ^ (k - (lo + w)) := by
    have : n / 2 ^ (lo + w) < 2 ^ (k - (lo + w)) := by
      rw [Nat.div_lt_iff_lt_mul (Nat.two_pow_pos _), ← e2]; exact h
    exact this
  have h6 := Nat.mul_le_mul_right (2 ^ (lo + w)) h5
  rw [Nat.add_mul, Nat.one_mul, ← e2] at h6
  omega

@[simp] theorem tbit_putBitN (n i : Nat) (b : Bool) : tbit (putBitN n i b) i = b := by
  have h := fieldN_setFieldN n i 1 (if b then 1 else 0)
  unfold tbit bitN putBitN
  unfold fieldN at h
  rw [Nat.pow_one] at h
  rw [h]
  cases b <;> rfl

theorem tbit_putBitN_ne {n i j : Nat} (b : Bool) (h : j ≠ i) : tbit (putBitN n i b) j = tbit n j := by
  have : fieldN (setFieldN n i 1 (if b then 1 else 0)) j 1 = fieldN n j 1 := by
    rcases Nat.lt_or_gt_of_ne h with h1 | h1
    · exact fieldN_setFieldN_below _ _ _ _ _ _ (by omega)
    · exact fieldN_setFieldN_above _ _ _ _ _ _ (by omega)
  unfold tbit bitN putBitN
  unfold fieldN at this
  rw [Nat.pow_one] at this
  rw [this]

theorem putBitN_lt {n i k : Nat} (b : Bool) (h : n < 2 ^ k) (hi : i < k) : putBitN n i b < 2 ^ k :=
  setFieldN_lt h (by omega)

/-! ### Fields of words -/

theorem wfield_lt (x : Word) (lo w : Nat) : wfield x lo w < 2 ^ w := fieldN_lt ..

theorem wset_toNat (x : Word) {lo w : Nat} (v : Nat) (h : lo + w ≤ 32) : (wset x lo w v).toNat = setFieldN x.toNat lo w v := by
  unfold wset
  rw [BitVec.toNat_ofNat, Nat.mod_eq_of_lt (setFieldN_lt x.isLt h)]

@[simp] theorem wfield_ofNat_lt (n lo w : Nat) : wfield (BitVec.ofNat 32 n) lo w = fieldN (n % 2 ^ 32) lo w := by
  unfold wfield; rw [BitVec.toNat_ofNat]

theorem wfield_wset (x : Word) {lo w : Nat} (v : Nat) (h : lo + w ≤ 32) : wfield (wset x lo w v) lo w = v % 2 ^ w := by
  unfold wfield; rw [wset_toNat x v h]; simp

theorem wfield_wset_ne (x : Word) {lo w lo' w' : Nat} (v : Nat) (h : lo + w ≤ 32) (hd : lo' + w' ≤ lo ∨ lo + w ≤ lo') :
    wfield (wset x lo w v) lo' w' = wfield x lo' w' := by
  unfold wfield; rw [wset_toNat x v h]
  rcases hd with hd | hd
  · exact fieldN_setFieldN_below _ _ _ _ _ _ hd
  · exact fieldN_setFieldN_above _ _ _ _ _ _ hd

end Sys2Proof.Machine
end

