-- ==== Sys2Proof/Laws/State.lean ====
section
/-! SUPPORT. What each update of the state leaves of every other field: one lemma for each field and each named operation over
registers, events, records and outputs. -/

namespace Sys2Proof.Machine

/-! ### wr -/

@[simp] theorem M.wr_effs (m : M) (r : Reg) (v : Word) (i j k : Nat) : (m.wr r v i j k).effs = m.effs := rfl
@[simp] theorem M.wr_slotB (m : M) (r : Reg) (v : Word) (i j k : Nat) : (m.wr r v i j k).slotB = m.slotB := rfl
@[simp] theorem M.wr_time (m : M) (r : Reg) (v : Word) (i j k : Nat) : (m.wr r v i j k).time = m.time := rfl
@[simp] theorem M.wr_power (m : M) (r : Reg) (v : Word) (i j k : Nat) : (m.wr r v i j k).power = m.power := rfl
@[simp] theorem M.wr_ev (m : M) (r : Reg) (v : Word) (i j k : Nat) : (m.wr r v i j k).ev = m.ev := rfl
@[simp] theorem M.wr_frec (m : M) (r : Reg) (v : Word) (i j k : Nat) : (m.wr r v i j k).frec = m.frec := rfl
@[simp] theorem M.wr_pts (m : M) (r : Reg) (v : Word) (i j k : Nat) : (m.wr r v i j k).pts = m.pts := rfl
@[simp] theorem M.wr_fab (m : M) (r : Reg) (v : Word) (i j k : Nat) : (m.wr r v i j k).fab = m.fab := rfl
@[simp] theorem M.wr_img (m : M) (r : Reg) (v : Word) (i j k : Nat) : (m.wr r v i j k).img = m.img := rfl
@[simp] theorem M.wr_exe (m : M) (r : Reg) (v : Word) (i j k : Nat) : (m.wr r v i j k).exe = m.exe := rfl
@[simp] theorem M.wr_loop (m : M) (r : Reg) (v : Word) (i j k : Nat) : (m.wr r v i j k).loop = m.loop := rfl
@[simp] theorem M.wr_mtr (m : M) (r : Reg) (v : Word) (i j k : Nat) : (m.wr r v i j k).mtr = m.mtr := rfl
@[simp] theorem M.wr_can (m : M) (r : Reg) (v : Word) (i j k : Nat) : (m.wr r v i j k).can = m.can := rfl
@[simp] theorem M.wr_eth (m : M) (r : Reg) (v : Word) (i j k : Nat) : (m.wr r v i j k).eth = m.eth := rfl
@[simp] theorem M.wr_krov (m : M) (r : Reg) (v : Word) (i j k : Nat) : (m.wr r v i j k).krov = m.krov := rfl
@[simp] theorem M.wr_ibx (m : M) (r : Reg) (v : Word) (i j k : Nat) : (m.wr r v i j k).ibx = m.ibx := rfl
@[simp] theorem M.wr_tth (m : M) (r : Reg) (v : Word) (i j k : Nat) : (m.wr r v i j k).tth = m.tth := rfl
@[simp] theorem M.wr_lio (m : M) (r : Reg) (v : Word) (i j k : Nat) : (m.wr r v i j k).lio = m.lio := rfl
@[simp] theorem M.wr_boot (m : M) (r : Reg) (v : Word) (i j k : Nat) : (m.wr r v i j k).boot = m.boot := rfl
@[simp] theorem M.wr_nvp (m : M) (r : Reg) (v : Word) (i j k : Nat) : (m.wr r v i j k).nvp = m.nvp := rfl
@[simp] theorem M.wr_hst (m : M) (r : Reg) (v : Word) (i j k : Nat) : (m.wr r v i j k).hst = m.hst := rfl
@[simp] theorem M.wr_kv (m : M) (r : Reg) (v : Word) (i j k : Nat) : (m.wr r v i j k).kv = m.kv := rfl
@[simp] theorem M.wr_upd (m : M) (r : Reg) (v : Word) (i j k : Nat) : (m.wr r v i j k).upd = m.upd := rfl
@[simp] theorem M.wr_rnd (m : M) (r : Reg) (v : Word) (i j k : Nat) : (m.wr r v i j k).rnd = m.rnd := rfl
@[simp] theorem M.wr_free (m : M) (r : Reg) (v : Word) (i j k : Nat) : (m.wr r v i j k).free = m.free := rfl
@[simp] theorem M.wr_out (m : M) (r : Reg) (v : Word) (i j k : Nat) : (m.wr r v i j k).out = m.out := rfl

/-! ### put -/

@[simp] theorem M.put_effs (m : M) (x : FRef) (v i j k : Nat) : (m.put x v i j k).effs = m.effs := rfl
@[simp] theorem M.put_slotB (m : M) (x : FRef) (v i j k : Nat) : (m.put x v i j k).slotB = m.slotB := rfl
@[simp] theorem M.put_time (m : M) (x : FRef) (v i j k : Nat) : (m.put x v i j k).time = m.time := rfl
@[simp] theorem M.put_power (m : M) (x : FRef) (v i j k : Nat) : (m.put x v i j k).power = m.power := rfl
@[simp] theorem M.put_ev (m : M) (x : FRef) (v i j k : Nat) : (m.put x v i j k).ev = m.ev := rfl
@[simp] theorem M.put_frec (m : M) (x : FRef) (v i j k : Nat) : (m.put x v i j k).frec = m.frec := rfl
@[simp] theorem M.put_pts (m : M) (x : FRef) (v i j k : Nat) : (m.put x v i j k).pts = m.pts := rfl
@[simp] theorem M.put_fab (m : M) (x : FRef) (v i j k : Nat) : (m.put x v i j k).fab = m.fab := rfl
@[simp] theorem M.put_img (m : M) (x : FRef) (v i j k : Nat) : (m.put x v i j k).img = m.img := rfl
@[simp] theorem M.put_exe (m : M) (x : FRef) (v i j k : Nat) : (m.put x v i j k).exe = m.exe := rfl
@[simp] theorem M.put_loop (m : M) (x : FRef) (v i j k : Nat) : (m.put x v i j k).loop = m.loop := rfl
@[simp] theorem M.put_mtr (m : M) (x : FRef) (v i j k : Nat) : (m.put x v i j k).mtr = m.mtr := rfl
@[simp] theorem M.put_can (m : M) (x : FRef) (v i j k : Nat) : (m.put x v i j k).can = m.can := rfl
@[simp] theorem M.put_eth (m : M) (x : FRef) (v i j k : Nat) : (m.put x v i j k).eth = m.eth := rfl
@[simp] theorem M.put_krov (m : M) (x : FRef) (v i j k : Nat) : (m.put x v i j k).krov = m.krov := rfl
@[simp] theorem M.put_ibx (m : M) (x : FRef) (v i j k : Nat) : (m.put x v i j k).ibx = m.ibx := rfl
@[simp] theorem M.put_tth (m : M) (x : FRef) (v i j k : Nat) : (m.put x v i j k).tth = m.tth := rfl
@[simp] theorem M.put_lio (m : M) (x : FRef) (v i j k : Nat) : (m.put x v i j k).lio = m.lio := rfl
@[simp] theorem M.put_boot (m : M) (x : FRef) (v i j k : Nat) : (m.put x v i j k).boot = m.boot := rfl
@[simp] theorem M.put_nvp (m : M) (x : FRef) (v i j k : Nat) : (m.put x v i j k).nvp = m.nvp := rfl
@[simp] theorem M.put_hst (m : M) (x : FRef) (v i j k : Nat) : (m.put x v i j k).hst = m.hst := rfl
@[simp] theorem M.put_kv (m : M) (x : FRef) (v i j k : Nat) : (m.put x v i j k).kv = m.kv := rfl
@[simp] theorem M.put_upd (m : M) (x : FRef) (v i j k : Nat) : (m.put x v i j k).upd = m.upd := rfl
@[simp] theorem M.put_rnd (m : M) (x : FRef) (v i j k : Nat) : (m.put x v i j k).rnd = m.rnd := rfl
@[simp] theorem M.put_free (m : M) (x : FRef) (v i j k : Nat) : (m.put x v i j k).free = m.free := rfl
@[simp] theorem M.put_out (m : M) (x : FRef) (v i j k : Nat) : (m.put x v i j k).out = m.out := rfl

/-! ### putB -/

@[simp] theorem M.putB_effs (m : M) (x : FRef) (b : Bool) (i j k : Nat) : (m.putB x b i j k).effs = m.effs := rfl
@[simp] theorem M.putB_slotB (m : M) (x : FRef) (b : Bool) (i j k : Nat) : (m.putB x b i j k).slotB = m.slotB := rfl
@[simp] theorem M.putB_time (m : M) (x : FRef) (b : Bool) (i j k : Nat) : (m.putB x b i j k).time = m.time := rfl
@[simp] theorem M.putB_power (m : M) (x : FRef) (b : Bool) (i j k : Nat) : (m.putB x b i j k).power = m.power := rfl
@[simp] theorem M.putB_ev (m : M) (x : FRef) (b : Bool) (i j k : Nat) : (m.putB x b i j k).ev = m.ev := rfl
@[simp] theorem M.putB_frec (m : M) (x : FRef) (b : Bool) (i j k : Nat) : (m.putB x b i j k).frec = m.frec := rfl
@[simp] theorem M.putB_pts (m : M) (x : FRef) (b : Bool) (i j k : Nat) : (m.putB x b i j k).pts = m.pts := rfl
@[simp] theorem M.putB_fab (m : M) (x : FRef) (b : Bool) (i j k : Nat) : (m.putB x b i j k).fab = m.fab := rfl
@[simp] theorem M.putB_img (m : M) (x : FRef) (b : Bool) (i j k : Nat) : (m.putB x b i j k).img = m.img := rfl
@[simp] theorem M.putB_exe (m : M) (x : FRef) (b : Bool) (i j k : Nat) : (m.putB x b i j k).exe = m.exe := rfl
@[simp] theorem M.putB_loop (m : M) (x : FRef) (b : Bool) (i j k : Nat) : (m.putB x b i j k).loop = m.loop := rfl
@[simp] theorem M.putB_mtr (m : M) (x : FRef) (b : Bool) (i j k : Nat) : (m.putB x b i j k).mtr = m.mtr := rfl
@[simp] theorem M.putB_can (m : M) (x : FRef) (b : Bool) (i j k : Nat) : (m.putB x b i j k).can = m.can := rfl
@[simp] theorem M.putB_eth (m : M) (x : FRef) (b : Bool) (i j k : Nat) : (m.putB x b i j k).eth = m.eth := rfl
@[simp] theorem M.putB_krov (m : M) (x : FRef) (b : Bool) (i j k : Nat) : (m.putB x b i j k).krov = m.krov := rfl
@[simp] theorem M.putB_ibx (m : M) (x : FRef) (b : Bool) (i j k : Nat) : (m.putB x b i j k).ibx = m.ibx := rfl
@[simp] theorem M.putB_tth (m : M) (x : FRef) (b : Bool) (i j k : Nat) : (m.putB x b i j k).tth = m.tth := rfl
@[simp] theorem M.putB_lio (m : M) (x : FRef) (b : Bool) (i j k : Nat) : (m.putB x b i j k).lio = m.lio := rfl
@[simp] theorem M.putB_boot (m : M) (x : FRef) (b : Bool) (i j k : Nat) : (m.putB x b i j k).boot = m.boot := rfl
@[simp] theorem M.putB_nvp (m : M) (x : FRef) (b : Bool) (i j k : Nat) : (m.putB x b i j k).nvp = m.nvp := rfl
@[simp] theorem M.putB_hst (m : M) (x : FRef) (b : Bool) (i j k : Nat) : (m.putB x b i j k).hst = m.hst := rfl
@[simp] theorem M.putB_kv (m : M) (x : FRef) (b : Bool) (i j k : Nat) : (m.putB x b i j k).kv = m.kv := rfl
@[simp] theorem M.putB_upd (m : M) (x : FRef) (b : Bool) (i j k : Nat) : (m.putB x b i j k).upd = m.upd := rfl
@[simp] theorem M.putB_rnd (m : M) (x : FRef) (b : Bool) (i j k : Nat) : (m.putB x b i j k).rnd = m.rnd := rfl
@[simp] theorem M.putB_free (m : M) (x : FRef) (b : Bool) (i j k : Nat) : (m.putB x b i j k).free = m.free := rfl
@[simp] theorem M.putB_out (m : M) (x : FRef) (b : Bool) (i j k : Nat) : (m.putB x b i j k).out = m.out := rfl

/-! ### putBit -/

@[simp] theorem M.putBit_effs (m : M) (x : FRef) (n : Nat) (b : Bool) (i j k : Nat) : (m.putBit x n b i j k).effs = m.effs := rfl
@[simp] theorem M.putBit_slotB (m : M) (x : FRef) (n : Nat) (b : Bool) (i j k : Nat) : (m.putBit x n b i j k).slotB = m.slotB := rfl
@[simp] theorem M.putBit_time (m : M) (x : FRef) (n : Nat) (b : Bool) (i j k : Nat) : (m.putBit x n b i j k).time = m.time := rfl
@[simp] theorem M.putBit_power (m : M) (x : FRef) (n : Nat) (b : Bool) (i j k : Nat) : (m.putBit x n b i j k).power = m.power := rfl
@[simp] theorem M.putBit_ev (m : M) (x : FRef) (n : Nat) (b : Bool) (i j k : Nat) : (m.putBit x n b i j k).ev = m.ev := rfl
@[simp] theorem M.putBit_frec (m : M) (x : FRef) (n : Nat) (b : Bool) (i j k : Nat) : (m.putBit x n b i j k).frec = m.frec := rfl
@[simp] theorem M.putBit_pts (m : M) (x : FRef) (n : Nat) (b : Bool) (i j k : Nat) : (m.putBit x n b i j k).pts = m.pts := rfl
@[simp] theorem M.putBit_fab (m : M) (x : FRef) (n : Nat) (b : Bool) (i j k : Nat) : (m.putBit x n b i j k).fab = m.fab := rfl
@[simp] theorem M.putBit_img (m : M) (x : FRef) (n : Nat) (b : Bool) (i j k : Nat) : (m.putBit x n b i j k).img = m.img := rfl
@[simp] theorem M.putBit_exe (m : M) (x : FRef) (n : Nat) (b : Bool) (i j k : Nat) : (m.putBit x n b i j k).exe = m.exe := rfl
@[simp] theorem M.putBit_loop (m : M) (x : FRef) (n : Nat) (b : Bool) (i j k : Nat) : (m.putBit x n b i j k).loop = m.loop := rfl
@[simp] theorem M.putBit_mtr (m : M) (x : FRef) (n : Nat) (b : Bool) (i j k : Nat) : (m.putBit x n b i j k).mtr = m.mtr := rfl
@[simp] theorem M.putBit_can (m : M) (x : FRef) (n : Nat) (b : Bool) (i j k : Nat) : (m.putBit x n b i j k).can = m.can := rfl
@[simp] theorem M.putBit_eth (m : M) (x : FRef) (n : Nat) (b : Bool) (i j k : Nat) : (m.putBit x n b i j k).eth = m.eth := rfl
@[simp] theorem M.putBit_krov (m : M) (x : FRef) (n : Nat) (b : Bool) (i j k : Nat) : (m.putBit x n b i j k).krov = m.krov := rfl
@[simp] theorem M.putBit_ibx (m : M) (x : FRef) (n : Nat) (b : Bool) (i j k : Nat) : (m.putBit x n b i j k).ibx = m.ibx := rfl
@[simp] theorem M.putBit_tth (m : M) (x : FRef) (n : Nat) (b : Bool) (i j k : Nat) : (m.putBit x n b i j k).tth = m.tth := rfl
@[simp] theorem M.putBit_lio (m : M) (x : FRef) (n : Nat) (b : Bool) (i j k : Nat) : (m.putBit x n b i j k).lio = m.lio := rfl
@[simp] theorem M.putBit_boot (m : M) (x : FRef) (n : Nat) (b : Bool) (i j k : Nat) : (m.putBit x n b i j k).boot = m.boot := rfl
@[simp] theorem M.putBit_nvp (m : M) (x : FRef) (n : Nat) (b : Bool) (i j k : Nat) : (m.putBit x n b i j k).nvp = m.nvp := rfl
@[simp] theorem M.putBit_hst (m : M) (x : FRef) (n : Nat) (b : Bool) (i j k : Nat) : (m.putBit x n b i j k).hst = m.hst := rfl
@[simp] theorem M.putBit_kv (m : M) (x : FRef) (n : Nat) (b : Bool) (i j k : Nat) : (m.putBit x n b i j k).kv = m.kv := rfl
@[simp] theorem M.putBit_upd (m : M) (x : FRef) (n : Nat) (b : Bool) (i j k : Nat) : (m.putBit x n b i j k).upd = m.upd := rfl
@[simp] theorem M.putBit_rnd (m : M) (x : FRef) (n : Nat) (b : Bool) (i j k : Nat) : (m.putBit x n b i j k).rnd = m.rnd := rfl
@[simp] theorem M.putBit_free (m : M) (x : FRef) (n : Nat) (b : Bool) (i j k : Nat) : (m.putBit x n b i j k).free = m.free := rfl
@[simp] theorem M.putBit_out (m : M) (x : FRef) (n : Nat) (b : Bool) (i j k : Nat) : (m.putBit x n b i j k).out = m.out := rfl

/-! ### count -/

@[simp] theorem M.count_effs (m : M) (x : FRef) (i j k : Nat) : (m.count x i j k).effs = m.effs := rfl
@[simp] theorem M.count_slotB (m : M) (x : FRef) (i j k : Nat) : (m.count x i j k).slotB = m.slotB := rfl
@[simp] theorem M.count_time (m : M) (x : FRef) (i j k : Nat) : (m.count x i j k).time = m.time := rfl
@[simp] theorem M.count_power (m : M) (x : FRef) (i j k : Nat) : (m.count x i j k).power = m.power := rfl
@[simp] theorem M.count_ev (m : M) (x : FRef) (i j k : Nat) : (m.count x i j k).ev = m.ev := rfl
@[simp] theorem M.count_frec (m : M) (x : FRef) (i j k : Nat) : (m.count x i j k).frec = m.frec := rfl
@[simp] theorem M.count_pts (m : M) (x : FRef) (i j k : Nat) : (m.count x i j k).pts = m.pts := rfl
@[simp] theorem M.count_fab (m : M) (x : FRef) (i j k : Nat) : (m.count x i j k).fab = m.fab := rfl
@[simp] theorem M.count_img (m : M) (x : FRef) (i j k : Nat) : (m.count x i j k).img = m.img := rfl
@[simp] theorem M.count_exe (m : M) (x : FRef) (i j k : Nat) : (m.count x i j k).exe = m.exe := rfl
@[simp] theorem M.count_loop (m : M) (x : FRef) (i j k : Nat) : (m.count x i j k).loop = m.loop := rfl
@[simp] theorem M.count_mtr (m : M) (x : FRef) (i j k : Nat) : (m.count x i j k).mtr = m.mtr := rfl
@[simp] theorem M.count_can (m : M) (x : FRef) (i j k : Nat) : (m.count x i j k).can = m.can := rfl
@[simp] theorem M.count_eth (m : M) (x : FRef) (i j k : Nat) : (m.count x i j k).eth = m.eth := rfl
@[simp] theorem M.count_krov (m : M) (x : FRef) (i j k : Nat) : (m.count x i j k).krov = m.krov := rfl
@[simp] theorem M.count_ibx (m : M) (x : FRef) (i j k : Nat) : (m.count x i j k).ibx = m.ibx := rfl
@[simp] theorem M.count_tth (m : M) (x : FRef) (i j k : Nat) : (m.count x i j k).tth = m.tth := rfl
@[simp] theorem M.count_lio (m : M) (x : FRef) (i j k : Nat) : (m.count x i j k).lio = m.lio := rfl
@[simp] theorem M.count_boot (m : M) (x : FRef) (i j k : Nat) : (m.count x i j k).boot = m.boot := rfl
@[simp] theorem M.count_nvp (m : M) (x : FRef) (i j k : Nat) : (m.count x i j k).nvp = m.nvp := rfl
@[simp] theorem M.count_hst (m : M) (x : FRef) (i j k : Nat) : (m.count x i j k).hst = m.hst := rfl
@[simp] theorem M.count_kv (m : M) (x : FRef) (i j k : Nat) : (m.count x i j k).kv = m.kv := rfl
@[simp] theorem M.count_upd (m : M) (x : FRef) (i j k : Nat) : (m.count x i j k).upd = m.upd := rfl
@[simp] theorem M.count_rnd (m : M) (x : FRef) (i j k : Nat) : (m.count x i j k).rnd = m.rnd := rfl
@[simp] theorem M.count_free (m : M) (x : FRef) (i j k : Nat) : (m.count x i j k).free = m.free := rfl
@[simp] theorem M.count_out (m : M) (x : FRef) (i j k : Nat) : (m.count x i j k).out = m.out := rfl

/-! ### transferAt -/

@[simp] theorem M.transferAt_regs (m : M) (l : List Nat) : (m.transferAt l).regs = m.regs := rfl
@[simp] theorem M.transferAt_slotB (m : M) (l : List Nat) : (m.transferAt l).slotB = m.slotB := rfl
@[simp] theorem M.transferAt_time (m : M) (l : List Nat) : (m.transferAt l).time = m.time := rfl
@[simp] theorem M.transferAt_power (m : M) (l : List Nat) : (m.transferAt l).power = m.power := rfl
@[simp] theorem M.transferAt_ev (m : M) (l : List Nat) : (m.transferAt l).ev = m.ev := rfl
@[simp] theorem M.transferAt_frec (m : M) (l : List Nat) : (m.transferAt l).frec = m.frec := rfl
@[simp] theorem M.transferAt_pts (m : M) (l : List Nat) : (m.transferAt l).pts = m.pts := rfl
@[simp] theorem M.transferAt_fab (m : M) (l : List Nat) : (m.transferAt l).fab = m.fab := rfl
@[simp] theorem M.transferAt_img (m : M) (l : List Nat) : (m.transferAt l).img = m.img := rfl
@[simp] theorem M.transferAt_exe (m : M) (l : List Nat) : (m.transferAt l).exe = m.exe := rfl
@[simp] theorem M.transferAt_loop (m : M) (l : List Nat) : (m.transferAt l).loop = m.loop := rfl
@[simp] theorem M.transferAt_mtr (m : M) (l : List Nat) : (m.transferAt l).mtr = m.mtr := rfl
@[simp] theorem M.transferAt_can (m : M) (l : List Nat) : (m.transferAt l).can = m.can := rfl
@[simp] theorem M.transferAt_eth (m : M) (l : List Nat) : (m.transferAt l).eth = m.eth := rfl
@[simp] theorem M.transferAt_krov (m : M) (l : List Nat) : (m.transferAt l).krov = m.krov := rfl
@[simp] theorem M.transferAt_ibx (m : M) (l : List Nat) : (m.transferAt l).ibx = m.ibx := rfl
@[simp] theorem M.transferAt_tth (m : M) (l : List Nat) : (m.transferAt l).tth = m.tth := rfl
@[simp] theorem M.transferAt_lio (m : M) (l : List Nat) : (m.transferAt l).lio = m.lio := rfl
@[simp] theorem M.transferAt_boot (m : M) (l : List Nat) : (m.transferAt l).boot = m.boot := rfl
@[simp] theorem M.transferAt_nvp (m : M) (l : List Nat) : (m.transferAt l).nvp = m.nvp := rfl
@[simp] theorem M.transferAt_hst (m : M) (l : List Nat) : (m.transferAt l).hst = m.hst := rfl
@[simp] theorem M.transferAt_kv (m : M) (l : List Nat) : (m.transferAt l).kv = m.kv := rfl
@[simp] theorem M.transferAt_upd (m : M) (l : List Nat) : (m.transferAt l).upd = m.upd := rfl
@[simp] theorem M.transferAt_rnd (m : M) (l : List Nat) : (m.transferAt l).rnd = m.rnd := rfl
@[simp] theorem M.transferAt_free (m : M) (l : List Nat) : (m.transferAt l).free = m.free := rfl
@[simp] theorem M.transferAt_out (m : M) (l : List Nat) : (m.transferAt l).out = m.out := rfl

/-! ### emit -/

@[simp] theorem M.emit_regs (m : M) (e : Emission) : (m.emit e).regs = m.regs := rfl
@[simp] theorem M.emit_effs (m : M) (e : Emission) : (m.emit e).effs = m.effs := rfl
@[simp] theorem M.emit_slotB (m : M) (e : Emission) : (m.emit e).slotB = m.slotB := rfl
@[simp] theorem M.emit_time (m : M) (e : Emission) : (m.emit e).time = m.time := rfl
@[simp] theorem M.emit_power (m : M) (e : Emission) : (m.emit e).power = m.power := rfl
@[simp] theorem M.emit_ev (m : M) (e : Emission) : (m.emit e).ev = m.ev := rfl
@[simp] theorem M.emit_frec (m : M) (e : Emission) : (m.emit e).frec = m.frec := rfl
@[simp] theorem M.emit_pts (m : M) (e : Emission) : (m.emit e).pts = m.pts := rfl
@[simp] theorem M.emit_fab (m : M) (e : Emission) : (m.emit e).fab = m.fab := rfl
@[simp] theorem M.emit_img (m : M) (e : Emission) : (m.emit e).img = m.img := rfl
@[simp] theorem M.emit_exe (m : M) (e : Emission) : (m.emit e).exe = m.exe := rfl
@[simp] theorem M.emit_loop (m : M) (e : Emission) : (m.emit e).loop = m.loop := rfl
@[simp] theorem M.emit_mtr (m : M) (e : Emission) : (m.emit e).mtr = m.mtr := rfl
@[simp] theorem M.emit_can (m : M) (e : Emission) : (m.emit e).can = m.can := rfl
@[simp] theorem M.emit_eth (m : M) (e : Emission) : (m.emit e).eth = m.eth := rfl
@[simp] theorem M.emit_krov (m : M) (e : Emission) : (m.emit e).krov = m.krov := rfl
@[simp] theorem M.emit_ibx (m : M) (e : Emission) : (m.emit e).ibx = m.ibx := rfl
@[simp] theorem M.emit_tth (m : M) (e : Emission) : (m.emit e).tth = m.tth := rfl
@[simp] theorem M.emit_lio (m : M) (e : Emission) : (m.emit e).lio = m.lio := rfl
@[simp] theorem M.emit_boot (m : M) (e : Emission) : (m.emit e).boot = m.boot := rfl
@[simp] theorem M.emit_nvp (m : M) (e : Emission) : (m.emit e).nvp = m.nvp := rfl
@[simp] theorem M.emit_hst (m : M) (e : Emission) : (m.emit e).hst = m.hst := rfl
@[simp] theorem M.emit_kv (m : M) (e : Emission) : (m.emit e).kv = m.kv := rfl
@[simp] theorem M.emit_upd (m : M) (e : Emission) : (m.emit e).upd = m.upd := rfl
@[simp] theorem M.emit_rnd (m : M) (e : Emission) : (m.emit e).rnd = m.rnd := rfl
@[simp] theorem M.emit_free (m : M) (e : Emission) : (m.emit e).free = m.free := rfl

/-- The event controller's part of a raise changes registers only. -/
theorem M.pend_eq (m : M) (s : Nat) : m.pend s = { m with regs := (m.pend s).regs } := by
  unfold M.pend
  simp only []
  split <;> split <;> rfl

/-- A raise that the recorder loses changes registers and the recorder's state only. -/
theorem M.loseRaise_eq (m : M) : m.loseRaise = { m with regs := m.loseRaise.regs, frec := m.loseRaise.frec } := by
  unfold M.loseRaise
  simp only []
  rw [M.pend_eq]
  split <;> rfl

/-- A raise changes registers and the trigger queue only. -/
theorem M.raise_eq (m : M) (s : Nat) : m.raise s = { m with regs := (m.raise s).regs, frec := (m.raise s).frec } := by
  unfold M.raise
  simp only []
  rw [M.pend_eq]
  split
  · rfl
  · split
    · rfl
    · exact M.loseRaise_eq _

/-! ### raise -/

@[simp] theorem M.raise_effs (m : M) (s : Nat) : (m.raise s).effs = m.effs := by rw [M.raise_eq]
@[simp] theorem M.raise_slotB (m : M) (s : Nat) : (m.raise s).slotB = m.slotB := by rw [M.raise_eq]
@[simp] theorem M.raise_time (m : M) (s : Nat) : (m.raise s).time = m.time := by rw [M.raise_eq]
@[simp] theorem M.raise_power (m : M) (s : Nat) : (m.raise s).power = m.power := by rw [M.raise_eq]
@[simp] theorem M.raise_ev (m : M) (s : Nat) : (m.raise s).ev = m.ev := by rw [M.raise_eq]
@[simp] theorem M.raise_pts (m : M) (s : Nat) : (m.raise s).pts = m.pts := by rw [M.raise_eq]
@[simp] theorem M.raise_fab (m : M) (s : Nat) : (m.raise s).fab = m.fab := by rw [M.raise_eq]
@[simp] theorem M.raise_img (m : M) (s : Nat) : (m.raise s).img = m.img := by rw [M.raise_eq]
@[simp] theorem M.raise_exe (m : M) (s : Nat) : (m.raise s).exe = m.exe := by rw [M.raise_eq]
@[simp] theorem M.raise_loop (m : M) (s : Nat) : (m.raise s).loop = m.loop := by rw [M.raise_eq]
@[simp] theorem M.raise_mtr (m : M) (s : Nat) : (m.raise s).mtr = m.mtr := by rw [M.raise_eq]
@[simp] theorem M.raise_can (m : M) (s : Nat) : (m.raise s).can = m.can := by rw [M.raise_eq]
@[simp] theorem M.raise_eth (m : M) (s : Nat) : (m.raise s).eth = m.eth := by rw [M.raise_eq]
@[simp] theorem M.raise_krov (m : M) (s : Nat) : (m.raise s).krov = m.krov := by rw [M.raise_eq]
@[simp] theorem M.raise_ibx (m : M) (s : Nat) : (m.raise s).ibx = m.ibx := by rw [M.raise_eq]
@[simp] theorem M.raise_tth (m : M) (s : Nat) : (m.raise s).tth = m.tth := by rw [M.raise_eq]
@[simp] theorem M.raise_lio (m : M) (s : Nat) : (m.raise s).lio = m.lio := by rw [M.raise_eq]
@[simp] theorem M.raise_boot (m : M) (s : Nat) : (m.raise s).boot = m.boot := by rw [M.raise_eq]
@[simp] theorem M.raise_nvp (m : M) (s : Nat) : (m.raise s).nvp = m.nvp := by rw [M.raise_eq]
@[simp] theorem M.raise_hst (m : M) (s : Nat) : (m.raise s).hst = m.hst := by rw [M.raise_eq]
@[simp] theorem M.raise_kv (m : M) (s : Nat) : (m.raise s).kv = m.kv := by rw [M.raise_eq]
@[simp] theorem M.raise_upd (m : M) (s : Nat) : (m.raise s).upd = m.upd := by rw [M.raise_eq]
@[simp] theorem M.raise_rnd (m : M) (s : Nat) : (m.raise s).rnd = m.rnd := by rw [M.raise_eq]
@[simp] theorem M.raise_free (m : M) (s : Nat) : (m.raise s).free = m.free := by rw [M.raise_eq]
@[simp] theorem M.raise_out (m : M) (s : Nat) : (m.raise s).out = m.out := by rw [M.raise_eq]

/-! ### flag -/

@[simp] theorem M.flag_effs (m : M) (x : FRef) (s i j k : Nat) : (m.flag x s i j k).effs = m.effs := by simp [M.flag]
@[simp] theorem M.flag_slotB (m : M) (x : FRef) (s i j k : Nat) : (m.flag x s i j k).slotB = m.slotB := by simp [M.flag]
@[simp] theorem M.flag_time (m : M) (x : FRef) (s i j k : Nat) : (m.flag x s i j k).time = m.time := by simp [M.flag]
@[simp] theorem M.flag_power (m : M) (x : FRef) (s i j k : Nat) : (m.flag x s i j k).power = m.power := by simp [M.flag]
@[simp] theorem M.flag_ev (m : M) (x : FRef) (s i j k : Nat) : (m.flag x s i j k).ev = m.ev := by simp [M.flag]
@[simp] theorem M.flag_pts (m : M) (x : FRef) (s i j k : Nat) : (m.flag x s i j k).pts = m.pts := by simp [M.flag]
@[simp] theorem M.flag_fab (m : M) (x : FRef) (s i j k : Nat) : (m.flag x s i j k).fab = m.fab := by simp [M.flag]
@[simp] theorem M.flag_img (m : M) (x : FRef) (s i j k : Nat) : (m.flag x s i j k).img = m.img := by simp [M.flag]
@[simp] theorem M.flag_exe (m : M) (x : FRef) (s i j k : Nat) : (m.flag x s i j k).exe = m.exe := by simp [M.flag]
@[simp] theorem M.flag_loop (m : M) (x : FRef) (s i j k : Nat) : (m.flag x s i j k).loop = m.loop := by simp [M.flag]
@[simp] theorem M.flag_mtr (m : M) (x : FRef) (s i j k : Nat) : (m.flag x s i j k).mtr = m.mtr := by simp [M.flag]
@[simp] theorem M.flag_can (m : M) (x : FRef) (s i j k : Nat) : (m.flag x s i j k).can = m.can := by simp [M.flag]
@[simp] theorem M.flag_eth (m : M) (x : FRef) (s i j k : Nat) : (m.flag x s i j k).eth = m.eth := by simp [M.flag]
@[simp] theorem M.flag_krov (m : M) (x : FRef) (s i j k : Nat) : (m.flag x s i j k).krov = m.krov := by simp [M.flag]
@[simp] theorem M.flag_ibx (m : M) (x : FRef) (s i j k : Nat) : (m.flag x s i j k).ibx = m.ibx := by simp [M.flag]
@[simp] theorem M.flag_tth (m : M) (x : FRef) (s i j k : Nat) : (m.flag x s i j k).tth = m.tth := by simp [M.flag]
@[simp] theorem M.flag_lio (m : M) (x : FRef) (s i j k : Nat) : (m.flag x s i j k).lio = m.lio := by simp [M.flag]
@[simp] theorem M.flag_boot (m : M) (x : FRef) (s i j k : Nat) : (m.flag x s i j k).boot = m.boot := by simp [M.flag]
@[simp] theorem M.flag_nvp (m : M) (x : FRef) (s i j k : Nat) : (m.flag x s i j k).nvp = m.nvp := by simp [M.flag]
@[simp] theorem M.flag_hst (m : M) (x : FRef) (s i j k : Nat) : (m.flag x s i j k).hst = m.hst := by simp [M.flag]
@[simp] theorem M.flag_kv (m : M) (x : FRef) (s i j k : Nat) : (m.flag x s i j k).kv = m.kv := by simp [M.flag]
@[simp] theorem M.flag_upd (m : M) (x : FRef) (s i j k : Nat) : (m.flag x s i j k).upd = m.upd := by simp [M.flag]
@[simp] theorem M.flag_rnd (m : M) (x : FRef) (s i j k : Nat) : (m.flag x s i j k).rnd = m.rnd := by simp [M.flag]
@[simp] theorem M.flag_free (m : M) (x : FRef) (s i j k : Nat) : (m.flag x s i j k).free = m.free := by simp [M.flag]
@[simp] theorem M.flag_out (m : M) (x : FRef) (s i j k : Nat) : (m.flag x s i j k).out = m.out := by simp [M.flag]

/-! ### dropEntry -/

@[simp] theorem M.dropEntry_effs (m : M) (t : Nat) : (m.dropEntry t).effs = m.effs := by simp [M.dropEntry]
@[simp] theorem M.dropEntry_slotB (m : M) (t : Nat) : (m.dropEntry t).slotB = m.slotB := by simp [M.dropEntry]
@[simp] theorem M.dropEntry_time (m : M) (t : Nat) : (m.dropEntry t).time = m.time := by simp [M.dropEntry]
@[simp] theorem M.dropEntry_power (m : M) (t : Nat) : (m.dropEntry t).power = m.power := by simp [M.dropEntry]
@[simp] theorem M.dropEntry_ev (m : M) (t : Nat) : (m.dropEntry t).ev = m.ev := by simp [M.dropEntry]
@[simp] theorem M.dropEntry_pts (m : M) (t : Nat) : (m.dropEntry t).pts = m.pts := by simp [M.dropEntry]
@[simp] theorem M.dropEntry_fab (m : M) (t : Nat) : (m.dropEntry t).fab = m.fab := by simp [M.dropEntry]
@[simp] theorem M.dropEntry_img (m : M) (t : Nat) : (m.dropEntry t).img = m.img := by simp [M.dropEntry]
@[simp] theorem M.dropEntry_exe (m : M) (t : Nat) : (m.dropEntry t).exe = m.exe := by simp [M.dropEntry]
@[simp] theorem M.dropEntry_loop (m : M) (t : Nat) : (m.dropEntry t).loop = m.loop := by simp [M.dropEntry]
@[simp] theorem M.dropEntry_mtr (m : M) (t : Nat) : (m.dropEntry t).mtr = m.mtr := by simp [M.dropEntry]
@[simp] theorem M.dropEntry_can (m : M) (t : Nat) : (m.dropEntry t).can = m.can := by simp [M.dropEntry]
@[simp] theorem M.dropEntry_eth (m : M) (t : Nat) : (m.dropEntry t).eth = m.eth := by simp [M.dropEntry]
@[simp] theorem M.dropEntry_krov (m : M) (t : Nat) : (m.dropEntry t).krov = m.krov := by simp [M.dropEntry]
@[simp] theorem M.dropEntry_ibx (m : M) (t : Nat) : (m.dropEntry t).ibx = m.ibx := by simp [M.dropEntry]
@[simp] theorem M.dropEntry_tth (m : M) (t : Nat) : (m.dropEntry t).tth = m.tth := by simp [M.dropEntry]
@[simp] theorem M.dropEntry_lio (m : M) (t : Nat) : (m.dropEntry t).lio = m.lio := by simp [M.dropEntry]
@[simp] theorem M.dropEntry_boot (m : M) (t : Nat) : (m.dropEntry t).boot = m.boot := by simp [M.dropEntry]
@[simp] theorem M.dropEntry_nvp (m : M) (t : Nat) : (m.dropEntry t).nvp = m.nvp := by simp [M.dropEntry]
@[simp] theorem M.dropEntry_hst (m : M) (t : Nat) : (m.dropEntry t).hst = m.hst := by simp [M.dropEntry]
@[simp] theorem M.dropEntry_kv (m : M) (t : Nat) : (m.dropEntry t).kv = m.kv := by simp [M.dropEntry]
@[simp] theorem M.dropEntry_upd (m : M) (t : Nat) : (m.dropEntry t).upd = m.upd := by simp [M.dropEntry]
@[simp] theorem M.dropEntry_rnd (m : M) (t : Nat) : (m.dropEntry t).rnd = m.rnd := by simp [M.dropEntry]
@[simp] theorem M.dropEntry_free (m : M) (t : Nat) : (m.dropEntry t).free = m.free := by simp [M.dropEntry]
@[simp] theorem M.dropEntry_out (m : M) (t : Nat) : (m.dropEntry t).out = m.out := by simp [M.dropEntry]

/-- A log entry changes registers and the recorder's state only. -/
theorem M.logEntry_eq (m : M) (c v t q : Nat) (b : Bytes) (k : Nat) :
    m.logEntry c v t q b k = { m with regs := (m.logEntry c v t q b k).regs, frec := (m.logEntry c v t q b k).frec } := by
  unfold M.logEntry
  split
  · rfl
  · split
    · simp only [M.dropEntry]; rw [M.flag, M.raise_eq]; rfl
    · rfl

/-! ### logEntry -/

@[simp] theorem M.logEntry_effs (m : M) (c v t q : Nat) (b : Bytes) (k : Nat) : (m.logEntry c v t q b k).effs = m.effs := by rw [M.logEntry_eq]
@[simp] theorem M.logEntry_slotB (m : M) (c v t q : Nat) (b : Bytes) (k : Nat) : (m.logEntry c v t q b k).slotB = m.slotB := by rw [M.logEntry_eq]
@[simp] theorem M.logEntry_time (m : M) (c v t q : Nat) (b : Bytes) (k : Nat) : (m.logEntry c v t q b k).time = m.time := by rw [M.logEntry_eq]
@[simp] theorem M.logEntry_power (m : M) (c v t q : Nat) (b : Bytes) (k : Nat) : (m.logEntry c v t q b k).power = m.power := by rw [M.logEntry_eq]
@[simp] theorem M.logEntry_ev (m : M) (c v t q : Nat) (b : Bytes) (k : Nat) : (m.logEntry c v t q b k).ev = m.ev := by rw [M.logEntry_eq]
@[simp] theorem M.logEntry_pts (m : M) (c v t q : Nat) (b : Bytes) (k : Nat) : (m.logEntry c v t q b k).pts = m.pts := by rw [M.logEntry_eq]
@[simp] theorem M.logEntry_fab (m : M) (c v t q : Nat) (b : Bytes) (k : Nat) : (m.logEntry c v t q b k).fab = m.fab := by rw [M.logEntry_eq]
@[simp] theorem M.logEntry_img (m : M) (c v t q : Nat) (b : Bytes) (k : Nat) : (m.logEntry c v t q b k).img = m.img := by rw [M.logEntry_eq]
@[simp] theorem M.logEntry_exe (m : M) (c v t q : Nat) (b : Bytes) (k : Nat) : (m.logEntry c v t q b k).exe = m.exe := by rw [M.logEntry_eq]
@[simp] theorem M.logEntry_loop (m : M) (c v t q : Nat) (b : Bytes) (k : Nat) : (m.logEntry c v t q b k).loop = m.loop := by rw [M.logEntry_eq]
@[simp] theorem M.logEntry_mtr (m : M) (c v t q : Nat) (b : Bytes) (k : Nat) : (m.logEntry c v t q b k).mtr = m.mtr := by rw [M.logEntry_eq]
@[simp] theorem M.logEntry_can (m : M) (c v t q : Nat) (b : Bytes) (k : Nat) : (m.logEntry c v t q b k).can = m.can := by rw [M.logEntry_eq]
@[simp] theorem M.logEntry_eth (m : M) (c v t q : Nat) (b : Bytes) (k : Nat) : (m.logEntry c v t q b k).eth = m.eth := by rw [M.logEntry_eq]
@[simp] theorem M.logEntry_krov (m : M) (c v t q : Nat) (b : Bytes) (k : Nat) : (m.logEntry c v t q b k).krov = m.krov := by rw [M.logEntry_eq]
@[simp] theorem M.logEntry_ibx (m : M) (c v t q : Nat) (b : Bytes) (k : Nat) : (m.logEntry c v t q b k).ibx = m.ibx := by rw [M.logEntry_eq]
@[simp] theorem M.logEntry_tth (m : M) (c v t q : Nat) (b : Bytes) (k : Nat) : (m.logEntry c v t q b k).tth = m.tth := by rw [M.logEntry_eq]
@[simp] theorem M.logEntry_lio (m : M) (c v t q : Nat) (b : Bytes) (k : Nat) : (m.logEntry c v t q b k).lio = m.lio := by rw [M.logEntry_eq]
@[simp] theorem M.logEntry_boot (m : M) (c v t q : Nat) (b : Bytes) (k : Nat) : (m.logEntry c v t q b k).boot = m.boot := by rw [M.logEntry_eq]
@[simp] theorem M.logEntry_nvp (m : M) (c v t q : Nat) (b : Bytes) (k : Nat) : (m.logEntry c v t q b k).nvp = m.nvp := by rw [M.logEntry_eq]
@[simp] theorem M.logEntry_hst (m : M) (c v t q : Nat) (b : Bytes) (k : Nat) : (m.logEntry c v t q b k).hst = m.hst := by rw [M.logEntry_eq]
@[simp] theorem M.logEntry_kv (m : M) (c v t q : Nat) (b : Bytes) (k : Nat) : (m.logEntry c v t q b k).kv = m.kv := by rw [M.logEntry_eq]
@[simp] theorem M.logEntry_upd (m : M) (c v t q : Nat) (b : Bytes) (k : Nat) : (m.logEntry c v t q b k).upd = m.upd := by rw [M.logEntry_eq]
@[simp] theorem M.logEntry_rnd (m : M) (c v t q : Nat) (b : Bytes) (k : Nat) : (m.logEntry c v t q b k).rnd = m.rnd := by rw [M.logEntry_eq]
@[simp] theorem M.logEntry_free (m : M) (c v t q : Nat) (b : Bytes) (k : Nat) : (m.logEntry c v t q b k).free = m.free := by rw [M.logEntry_eq]
@[simp] theorem M.logEntry_out (m : M) (c v t q : Nat) (b : Bytes) (k : Nat) : (m.logEntry c v t q b k).out = m.out := by rw [M.logEntry_eq]

/-! ### storeRecord -/

@[simp] theorem M.storeRecord_effs (m : M) (l : List Word) : (m.storeRecord l).effs = m.effs := by simp [M.storeRecord]
@[simp] theorem M.storeRecord_slotB (m : M) (l : List Word) : (m.storeRecord l).slotB = m.slotB := by simp [M.storeRecord]
@[simp] theorem M.storeRecord_time (m : M) (l : List Word) : (m.storeRecord l).time = m.time := by simp [M.storeRecord]
@[simp] theorem M.storeRecord_power (m : M) (l : List Word) : (m.storeRecord l).power = m.power := by simp [M.storeRecord]
@[simp] theorem M.storeRecord_ev (m : M) (l : List Word) : (m.storeRecord l).ev = m.ev := by simp [M.storeRecord]
@[simp] theorem M.storeRecord_pts (m : M) (l : List Word) : (m.storeRecord l).pts = m.pts := by simp [M.storeRecord]
@[simp] theorem M.storeRecord_fab (m : M) (l : List Word) : (m.storeRecord l).fab = m.fab := by simp [M.storeRecord]
@[simp] theorem M.storeRecord_img (m : M) (l : List Word) : (m.storeRecord l).img = m.img := by simp [M.storeRecord]
@[simp] theorem M.storeRecord_exe (m : M) (l : List Word) : (m.storeRecord l).exe = m.exe := by simp [M.storeRecord]
@[simp] theorem M.storeRecord_loop (m : M) (l : List Word) : (m.storeRecord l).loop = m.loop := by simp [M.storeRecord]
@[simp] theorem M.storeRecord_mtr (m : M) (l : List Word) : (m.storeRecord l).mtr = m.mtr := by simp [M.storeRecord]
@[simp] theorem M.storeRecord_can (m : M) (l : List Word) : (m.storeRecord l).can = m.can := by simp [M.storeRecord]
@[simp] theorem M.storeRecord_eth (m : M) (l : List Word) : (m.storeRecord l).eth = m.eth := by simp [M.storeRecord]
@[simp] theorem M.storeRecord_krov (m : M) (l : List Word) : (m.storeRecord l).krov = m.krov := by simp [M.storeRecord]
@[simp] theorem M.storeRecord_ibx (m : M) (l : List Word) : (m.storeRecord l).ibx = m.ibx := by simp [M.storeRecord]
@[simp] theorem M.storeRecord_tth (m : M) (l : List Word) : (m.storeRecord l).tth = m.tth := by simp [M.storeRecord]
@[simp] theorem M.storeRecord_lio (m : M) (l : List Word) : (m.storeRecord l).lio = m.lio := by simp [M.storeRecord]
@[simp] theorem M.storeRecord_boot (m : M) (l : List Word) : (m.storeRecord l).boot = m.boot := by simp [M.storeRecord]
@[simp] theorem M.storeRecord_nvp (m : M) (l : List Word) : (m.storeRecord l).nvp = m.nvp := by simp [M.storeRecord]
@[simp] theorem M.storeRecord_hst (m : M) (l : List Word) : (m.storeRecord l).hst = m.hst := by simp [M.storeRecord]
@[simp] theorem M.storeRecord_kv (m : M) (l : List Word) : (m.storeRecord l).kv = m.kv := by simp [M.storeRecord]
@[simp] theorem M.storeRecord_upd (m : M) (l : List Word) : (m.storeRecord l).upd = m.upd := by simp [M.storeRecord]
@[simp] theorem M.storeRecord_rnd (m : M) (l : List Word) : (m.storeRecord l).rnd = m.rnd := by simp [M.storeRecord]
@[simp] theorem M.storeRecord_free (m : M) (l : List Word) : (m.storeRecord l).free = m.free := by simp [M.storeRecord]
@[simp] theorem M.storeRecord_out (m : M) (l : List Word) : (m.storeRecord l).out = m.out := by simp [M.storeRecord]

/-- Records of one happening change registers and the recorder's state only. -/
theorem M.storeItems_eq (m : M) (a b c : Nat) (l : List (List RecItem)) :
    m.storeItems a b c l = { m with regs := (m.storeItems a b c l).regs, frec := (m.storeItems a b c l).frec } := by
  induction l generalizing m with
  | nil => rfl
  | cons x t ih =>
    cases t with
    | nil => rfl
    | cons y u => simp only [M.storeItems]; rw [ih]; rfl

theorem M.recordItems_eq (m : M) (c : Nat) (l : List RecItem) :
    m.recordItems c l = { m with regs := (m.recordItems c l).regs, frec := (m.recordItems c l).frec } := by
  unfold M.recordItems
  simp only []
  split
  · exact M.storeItems_eq ..
  · split
    · rfl
    · exact M.loseRaise_eq _

/-! ### recordItems -/

@[simp] theorem M.recordItems_effs (m : M) (c : Nat) (l : List RecItem) : (m.recordItems c l).effs = m.effs := by rw [M.recordItems_eq]
@[simp] theorem M.recordItems_slotB (m : M) (c : Nat) (l : List RecItem) : (m.recordItems c l).slotB = m.slotB := by rw [M.recordItems_eq]
@[simp] theorem M.recordItems_time (m : M) (c : Nat) (l : List RecItem) : (m.recordItems c l).time = m.time := by rw [M.recordItems_eq]
@[simp] theorem M.recordItems_power (m : M) (c : Nat) (l : List RecItem) : (m.recordItems c l).power = m.power := by rw [M.recordItems_eq]
@[simp] theorem M.recordItems_ev (m : M) (c : Nat) (l : List RecItem) : (m.recordItems c l).ev = m.ev := by rw [M.recordItems_eq]
@[simp] theorem M.recordItems_pts (m : M) (c : Nat) (l : List RecItem) : (m.recordItems c l).pts = m.pts := by rw [M.recordItems_eq]
@[simp] theorem M.recordItems_fab (m : M) (c : Nat) (l : List RecItem) : (m.recordItems c l).fab = m.fab := by rw [M.recordItems_eq]
@[simp] theorem M.recordItems_img (m : M) (c : Nat) (l : List RecItem) : (m.recordItems c l).img = m.img := by rw [M.recordItems_eq]
@[simp] theorem M.recordItems_exe (m : M) (c : Nat) (l : List RecItem) : (m.recordItems c l).exe = m.exe := by rw [M.recordItems_eq]
@[simp] theorem M.recordItems_loop (m : M) (c : Nat) (l : List RecItem) : (m.recordItems c l).loop = m.loop := by rw [M.recordItems_eq]
@[simp] theorem M.recordItems_mtr (m : M) (c : Nat) (l : List RecItem) : (m.recordItems c l).mtr = m.mtr := by rw [M.recordItems_eq]
@[simp] theorem M.recordItems_can (m : M) (c : Nat) (l : List RecItem) : (m.recordItems c l).can = m.can := by rw [M.recordItems_eq]
@[simp] theorem M.recordItems_eth (m : M) (c : Nat) (l : List RecItem) : (m.recordItems c l).eth = m.eth := by rw [M.recordItems_eq]
@[simp] theorem M.recordItems_krov (m : M) (c : Nat) (l : List RecItem) : (m.recordItems c l).krov = m.krov := by rw [M.recordItems_eq]
@[simp] theorem M.recordItems_ibx (m : M) (c : Nat) (l : List RecItem) : (m.recordItems c l).ibx = m.ibx := by rw [M.recordItems_eq]
@[simp] theorem M.recordItems_tth (m : M) (c : Nat) (l : List RecItem) : (m.recordItems c l).tth = m.tth := by rw [M.recordItems_eq]
@[simp] theorem M.recordItems_lio (m : M) (c : Nat) (l : List RecItem) : (m.recordItems c l).lio = m.lio := by rw [M.recordItems_eq]
@[simp] theorem M.recordItems_boot (m : M) (c : Nat) (l : List RecItem) : (m.recordItems c l).boot = m.boot := by rw [M.recordItems_eq]
@[simp] theorem M.recordItems_nvp (m : M) (c : Nat) (l : List RecItem) : (m.recordItems c l).nvp = m.nvp := by rw [M.recordItems_eq]
@[simp] theorem M.recordItems_hst (m : M) (c : Nat) (l : List RecItem) : (m.recordItems c l).hst = m.hst := by rw [M.recordItems_eq]
@[simp] theorem M.recordItems_kv (m : M) (c : Nat) (l : List RecItem) : (m.recordItems c l).kv = m.kv := by rw [M.recordItems_eq]
@[simp] theorem M.recordItems_upd (m : M) (c : Nat) (l : List RecItem) : (m.recordItems c l).upd = m.upd := by rw [M.recordItems_eq]
@[simp] theorem M.recordItems_rnd (m : M) (c : Nat) (l : List RecItem) : (m.recordItems c l).rnd = m.rnd := by rw [M.recordItems_eq]
@[simp] theorem M.recordItems_free (m : M) (c : Nat) (l : List RecItem) : (m.recordItems c l).free = m.free := by rw [M.recordItems_eq]
@[simp] theorem M.recordItems_out (m : M) (c : Nat) (l : List RecItem) : (m.recordItems c l).out = m.out := by rw [M.recordItems_eq]

/-! ### note -/

@[simp] theorem M.note_effs (m : M) (c v t : Nat) (l : List Nat) : (m.note c v t l).effs = m.effs := by simp [M.note]
@[simp] theorem M.note_slotB (m : M) (c v t : Nat) (l : List Nat) : (m.note c v t l).slotB = m.slotB := by simp [M.note]
@[simp] theorem M.note_time (m : M) (c v t : Nat) (l : List Nat) : (m.note c v t l).time = m.time := by simp [M.note]
@[simp] theorem M.note_power (m : M) (c v t : Nat) (l : List Nat) : (m.note c v t l).power = m.power := by simp [M.note]
@[simp] theorem M.note_ev (m : M) (c v t : Nat) (l : List Nat) : (m.note c v t l).ev = m.ev := by simp [M.note]
@[simp] theorem M.note_pts (m : M) (c v t : Nat) (l : List Nat) : (m.note c v t l).pts = m.pts := by simp [M.note]
@[simp] theorem M.note_fab (m : M) (c v t : Nat) (l : List Nat) : (m.note c v t l).fab = m.fab := by simp [M.note]
@[simp] theorem M.note_img (m : M) (c v t : Nat) (l : List Nat) : (m.note c v t l).img = m.img := by simp [M.note]
@[simp] theorem M.note_exe (m : M) (c v t : Nat) (l : List Nat) : (m.note c v t l).exe = m.exe := by simp [M.note]
@[simp] theorem M.note_loop (m : M) (c v t : Nat) (l : List Nat) : (m.note c v t l).loop = m.loop := by simp [M.note]
@[simp] theorem M.note_mtr (m : M) (c v t : Nat) (l : List Nat) : (m.note c v t l).mtr = m.mtr := by simp [M.note]
@[simp] theorem M.note_can (m : M) (c v t : Nat) (l : List Nat) : (m.note c v t l).can = m.can := by simp [M.note]
@[simp] theorem M.note_eth (m : M) (c v t : Nat) (l : List Nat) : (m.note c v t l).eth = m.eth := by simp [M.note]
@[simp] theorem M.note_krov (m : M) (c v t : Nat) (l : List Nat) : (m.note c v t l).krov = m.krov := by simp [M.note]
@[simp] theorem M.note_ibx (m : M) (c v t : Nat) (l : List Nat) : (m.note c v t l).ibx = m.ibx := by simp [M.note]
@[simp] theorem M.note_tth (m : M) (c v t : Nat) (l : List Nat) : (m.note c v t l).tth = m.tth := by simp [M.note]
@[simp] theorem M.note_lio (m : M) (c v t : Nat) (l : List Nat) : (m.note c v t l).lio = m.lio := by simp [M.note]
@[simp] theorem M.note_boot (m : M) (c v t : Nat) (l : List Nat) : (m.note c v t l).boot = m.boot := by simp [M.note]
@[simp] theorem M.note_nvp (m : M) (c v t : Nat) (l : List Nat) : (m.note c v t l).nvp = m.nvp := by simp [M.note]
@[simp] theorem M.note_hst (m : M) (c v t : Nat) (l : List Nat) : (m.note c v t l).hst = m.hst := by simp [M.note]
@[simp] theorem M.note_kv (m : M) (c v t : Nat) (l : List Nat) : (m.note c v t l).kv = m.kv := by simp [M.note]
@[simp] theorem M.note_upd (m : M) (c v t : Nat) (l : List Nat) : (m.note c v t l).upd = m.upd := by simp [M.note]
@[simp] theorem M.note_rnd (m : M) (c v t : Nat) (l : List Nat) : (m.note c v t l).rnd = m.rnd := by simp [M.note]
@[simp] theorem M.note_free (m : M) (c v t : Nat) (l : List Nat) : (m.note c v t l).free = m.free := by simp [M.note]
@[simp] theorem M.note_out (m : M) (c v t : Nat) (l : List Nat) : (m.note c v t l).out = m.out := by simp [M.note]

/-! ### noteItems -/

@[simp] theorem M.noteItems_effs (m : M) (c v t : Nat) (l : List RecItem) : (m.noteItems c v t l).effs = m.effs := by simp [M.noteItems]
@[simp] theorem M.noteItems_slotB (m : M) (c v t : Nat) (l : List RecItem) : (m.noteItems c v t l).slotB = m.slotB := by simp [M.noteItems]
@[simp] theorem M.noteItems_time (m : M) (c v t : Nat) (l : List RecItem) : (m.noteItems c v t l).time = m.time := by simp [M.noteItems]
@[simp] theorem M.noteItems_power (m : M) (c v t : Nat) (l : List RecItem) : (m.noteItems c v t l).power = m.power := by simp [M.noteItems]
@[simp] theorem M.noteItems_ev (m : M) (c v t : Nat) (l : List RecItem) : (m.noteItems c v t l).ev = m.ev := by simp [M.noteItems]
@[simp] theorem M.noteItems_pts (m : M) (c v t : Nat) (l : List RecItem) : (m.noteItems c v t l).pts = m.pts := by simp [M.noteItems]
@[simp] theorem M.noteItems_fab (m : M) (c v t : Nat) (l : List RecItem) : (m.noteItems c v t l).fab = m.fab := by simp [M.noteItems]
@[simp] theorem M.noteItems_img (m : M) (c v t : Nat) (l : List RecItem) : (m.noteItems c v t l).img = m.img := by simp [M.noteItems]
@[simp] theorem M.noteItems_exe (m : M) (c v t : Nat) (l : List RecItem) : (m.noteItems c v t l).exe = m.exe := by simp [M.noteItems]
@[simp] theorem M.noteItems_loop (m : M) (c v t : Nat) (l : List RecItem) : (m.noteItems c v t l).loop = m.loop := by simp [M.noteItems]
@[simp] theorem M.noteItems_mtr (m : M) (c v t : Nat) (l : List RecItem) : (m.noteItems c v t l).mtr = m.mtr := by simp [M.noteItems]
@[simp] theorem M.noteItems_can (m : M) (c v t : Nat) (l : List RecItem) : (m.noteItems c v t l).can = m.can := by simp [M.noteItems]
@[simp] theorem M.noteItems_eth (m : M) (c v t : Nat) (l : List RecItem) : (m.noteItems c v t l).eth = m.eth := by simp [M.noteItems]
@[simp] theorem M.noteItems_krov (m : M) (c v t : Nat) (l : List RecItem) : (m.noteItems c v t l).krov = m.krov := by simp [M.noteItems]
@[simp] theorem M.noteItems_ibx (m : M) (c v t : Nat) (l : List RecItem) : (m.noteItems c v t l).ibx = m.ibx := by simp [M.noteItems]
@[simp] theorem M.noteItems_tth (m : M) (c v t : Nat) (l : List RecItem) : (m.noteItems c v t l).tth = m.tth := by simp [M.noteItems]
@[simp] theorem M.noteItems_lio (m : M) (c v t : Nat) (l : List RecItem) : (m.noteItems c v t l).lio = m.lio := by simp [M.noteItems]
@[simp] theorem M.noteItems_boot (m : M) (c v t : Nat) (l : List RecItem) : (m.noteItems c v t l).boot = m.boot := by simp [M.noteItems]
@[simp] theorem M.noteItems_nvp (m : M) (c v t : Nat) (l : List RecItem) : (m.noteItems c v t l).nvp = m.nvp := by simp [M.noteItems]
@[simp] theorem M.noteItems_hst (m : M) (c v t : Nat) (l : List RecItem) : (m.noteItems c v t l).hst = m.hst := by simp [M.noteItems]
@[simp] theorem M.noteItems_kv (m : M) (c v t : Nat) (l : List RecItem) : (m.noteItems c v t l).kv = m.kv := by simp [M.noteItems]
@[simp] theorem M.noteItems_upd (m : M) (c v t : Nat) (l : List RecItem) : (m.noteItems c v t l).upd = m.upd := by simp [M.noteItems]
@[simp] theorem M.noteItems_rnd (m : M) (c v t : Nat) (l : List RecItem) : (m.noteItems c v t l).rnd = m.rnd := by simp [M.noteItems]
@[simp] theorem M.noteItems_free (m : M) (c v t : Nat) (l : List RecItem) : (m.noteItems c v t l).free = m.free := by simp [M.noteItems]
@[simp] theorem M.noteItems_out (m : M) (c v t : Nat) (l : List RecItem) : (m.noteItems c v t l).out = m.out := by simp [M.noteItems]

/-! ### recordOnly -/

@[simp] theorem M.recordOnly_effs (m : M) (c : Nat) (l : List Nat) : (m.recordOnly c l).effs = m.effs := by simp [M.recordOnly]
@[simp] theorem M.recordOnly_slotB (m : M) (c : Nat) (l : List Nat) : (m.recordOnly c l).slotB = m.slotB := by simp [M.recordOnly]
@[simp] theorem M.recordOnly_time (m : M) (c : Nat) (l : List Nat) : (m.recordOnly c l).time = m.time := by simp [M.recordOnly]
@[simp] theorem M.recordOnly_power (m : M) (c : Nat) (l : List Nat) : (m.recordOnly c l).power = m.power := by simp [M.recordOnly]
@[simp] theorem M.recordOnly_ev (m : M) (c : Nat) (l : List Nat) : (m.recordOnly c l).ev = m.ev := by simp [M.recordOnly]
@[simp] theorem M.recordOnly_pts (m : M) (c : Nat) (l : List Nat) : (m.recordOnly c l).pts = m.pts := by simp [M.recordOnly]
@[simp] theorem M.recordOnly_fab (m : M) (c : Nat) (l : List Nat) : (m.recordOnly c l).fab = m.fab := by simp [M.recordOnly]
@[simp] theorem M.recordOnly_img (m : M) (c : Nat) (l : List Nat) : (m.recordOnly c l).img = m.img := by simp [M.recordOnly]
@[simp] theorem M.recordOnly_exe (m : M) (c : Nat) (l : List Nat) : (m.recordOnly c l).exe = m.exe := by simp [M.recordOnly]
@[simp] theorem M.recordOnly_loop (m : M) (c : Nat) (l : List Nat) : (m.recordOnly c l).loop = m.loop := by simp [M.recordOnly]
@[simp] theorem M.recordOnly_mtr (m : M) (c : Nat) (l : List Nat) : (m.recordOnly c l).mtr = m.mtr := by simp [M.recordOnly]
@[simp] theorem M.recordOnly_can (m : M) (c : Nat) (l : List Nat) : (m.recordOnly c l).can = m.can := by simp [M.recordOnly]
@[simp] theorem M.recordOnly_eth (m : M) (c : Nat) (l : List Nat) : (m.recordOnly c l).eth = m.eth := by simp [M.recordOnly]
@[simp] theorem M.recordOnly_krov (m : M) (c : Nat) (l : List Nat) : (m.recordOnly c l).krov = m.krov := by simp [M.recordOnly]
@[simp] theorem M.recordOnly_ibx (m : M) (c : Nat) (l : List Nat) : (m.recordOnly c l).ibx = m.ibx := by simp [M.recordOnly]
@[simp] theorem M.recordOnly_tth (m : M) (c : Nat) (l : List Nat) : (m.recordOnly c l).tth = m.tth := by simp [M.recordOnly]
@[simp] theorem M.recordOnly_lio (m : M) (c : Nat) (l : List Nat) : (m.recordOnly c l).lio = m.lio := by simp [M.recordOnly]
@[simp] theorem M.recordOnly_boot (m : M) (c : Nat) (l : List Nat) : (m.recordOnly c l).boot = m.boot := by simp [M.recordOnly]
@[simp] theorem M.recordOnly_nvp (m : M) (c : Nat) (l : List Nat) : (m.recordOnly c l).nvp = m.nvp := by simp [M.recordOnly]
@[simp] theorem M.recordOnly_hst (m : M) (c : Nat) (l : List Nat) : (m.recordOnly c l).hst = m.hst := by simp [M.recordOnly]
@[simp] theorem M.recordOnly_kv (m : M) (c : Nat) (l : List Nat) : (m.recordOnly c l).kv = m.kv := by simp [M.recordOnly]
@[simp] theorem M.recordOnly_upd (m : M) (c : Nat) (l : List Nat) : (m.recordOnly c l).upd = m.upd := by simp [M.recordOnly]
@[simp] theorem M.recordOnly_rnd (m : M) (c : Nat) (l : List Nat) : (m.recordOnly c l).rnd = m.rnd := by simp [M.recordOnly]
@[simp] theorem M.recordOnly_free (m : M) (c : Nat) (l : List Nat) : (m.recordOnly c l).free = m.free := by simp [M.recordOnly]
@[simp] theorem M.recordOnly_out (m : M) (c : Nat) (l : List Nat) : (m.recordOnly c l).out = m.out := by simp [M.recordOnly]

end Sys2Proof.Machine
end

