-- ==== Sys2Proof/Laws/Regs.lean ====
section
/-! SUPPORT. What the register store answers after a write: the word at an address, a field, a bit; and which registers a raise
and a record touch. -/

namespace Sys2Proof.Machine

/-! ### Words -/

theorem M.wr_regs (m : M) (r : Reg) (v : Word) (i j k : Nat) : (m.wr r v i j k).regs = aput (r.addr i j k) v m.regs := rfl

theorem M.put_eq_wr (m : M) (x : FRef) (v i j k : Nat) :
    m.put x v i j k = m.wr x.reg (wset (m.rd x.reg i j k) x.lo x.width v) i j k := rfl

/-- The word at an address after a register is stored. -/
theorem M.aget_wr (m : M) (r : Reg) (v : Word) (i j k a : Nat) :
    aget a (m.wr r v i j k).regs = if a = r.addr i j k then some v else aget a m.regs := by
  rw [M.wr_regs, aget_aput]

theorem M.rd_congr {a b : M} {r : Reg} {i j k : Nat} (h : aget (r.addr i j k) a.regs = aget (r.addr i j k) b.regs) :
    a.rd r i j k = b.rd r i j k := by unfold M.rd; rw [h]

@[simp] theorem M.rd_wr_same (m : M) (r : Reg) (v : Word) (i j k : Nat) : (m.wr r v i j k).rd r i j k = v := by
  simp [M.rd, M.wr_regs]

theorem M.rd_wr_ne (m : M) {r q : Reg} (v : Word) {i j k a b c : Nat} (h : q.addr a b c ≠ r.addr i j k) :
    (m.wr r v i j k).rd q a b c = m.rd q a b c := M.rd_congr (by rw [M.aget_wr, if_neg h])

/-! ### Fields -/

theorem M.get_put_same (m : M) (x : FRef) (v i j k : Nat) (h : x.lo + x.width ≤ 32) :
    (m.put x v i j k).get x i j k = v % 2 ^ x.width := by
  simp [M.get, M.put_eq_wr, wfield_wset _ _ h]

/-- Another field of the same register instance. -/
theorem M.get_put_beside (m : M) (x y : FRef) (v i j k : Nat) (h : x.lo + x.width ≤ 32) (hr : y.reg = x.reg)
    (hd : y.lo + y.width ≤ x.lo ∨ x.lo + x.width ≤ y.lo) : (m.put x v i j k).get y i j k = m.get y i j k := by
  simp [M.get, M.put_eq_wr, hr, wfield_wset_ne _ _ h hd]

/-- A field of another register instance. -/
theorem M.get_put_ne (m : M) (x y : FRef) (v : Nat) {i j k a b c : Nat} (h : y.reg.addr a b c ≠ x.reg.addr i j k) :
    (m.put x v i j k).get y a b c = m.get y a b c := by
  simp only [M.get, M.put_eq_wr]; rw [M.rd_wr_ne _ _ h]

theorem M.rd_put_ne (m : M) (x : FRef) (v : Nat) {q : Reg} {i j k a b c : Nat} (h : q.addr a b c ≠ x.reg.addr i j k) :
    (m.put x v i j k).rd q a b c = m.rd q a b c := M.rd_wr_ne _ _ h

theorem M.bit_putB_same (m : M) (x : FRef) (b : Bool) (i j k : Nat) (h : x.lo + x.width ≤ 32) (hw : x.width = 1) :
    (m.putB x b i j k).bit x i j k = b := by
  unfold M.bit M.putB; rw [M.get_put_same _ _ _ _ _ _ h, hw]; cases b <;> rfl

theorem M.get_lt (m : M) (x : FRef) (i j k : Nat) : m.get x i j k < 2 ^ x.width := wfield_lt ..

theorem M.bitOf_putBit_same (m : M) (x : FRef) (n : Nat) (b : Bool) (i j k : Nat) (h : x.lo + x.width ≤ 32) (hn : n < x.width) :
    (m.putBit x n b i j k).bitOf x n i j k = b := by
  unfold M.bitOf M.putBit
  rw [M.get_put_same _ _ _ _ _ _ h, Nat.mod_eq_of_lt (putBitN_lt b (M.get_lt ..) hn)]
  simp

theorem M.bitOf_putBit_other (m : M) (x : FRef) {n l : Nat} (b : Bool) (i j k : Nat) (h : x.lo + x.width ≤ 32) (hn : n < x.width)
    (hl : l ≠ n) : (m.putBit x n b i j k).bitOf x l i j k = m.bitOf x l i j k := by
  unfold M.bitOf M.putBit
  rw [M.get_put_same _ _ _ _ _ _ h, Nat.mod_eq_of_lt (putBitN_lt b (M.get_lt ..) hn)]
  exact tbit_putBitN_ne b hl

/-! ### What a raise and a record touch -/

theorem M.aget_put_event (m : M) (x : FRef) (v i j k a : Nat) (h : eventAddr a = false) (hx : eventAddr (x.reg.addr i j k) = true) :
    aget a (m.put x v i j k).regs = aget a m.regs := by
  rw [M.put_eq_wr, M.aget_wr, if_neg]
  intro e; subst e; rw [hx] at h; cases h

theorem pend_event (s : Nat) (h : s < 256) : eventAddr (Reg.EVC_PEND.addr (s / 32) 0 0) = true := by
  have : (0x40028400 + 4 * (s / 32)) / 65536 = 0x4002 := by omega
  simp [eventAddr, Reg.addr, Reg.spec, this]

theorem ovr_event (s : Nat) (h : s < 256) : eventAddr (Reg.EVC_OVR.addr (s / 32) 0 0) = true := by
  have : (0x40028420 + 4 * (s / 32)) / 65536 = 0x4002 := by omega
  simp [eventAddr, Reg.addr, Reg.spec, this]

theorem M.aget_pend (m : M) (s a : Nat) (hs : s < 256) (h : eventAddr a = false) : aget a (m.pend s).regs = aget a m.regs := by
  have hp := pend_event s hs
  have ho := ovr_event s hs
  unfold M.pend
  simp only []
  split <;> split <;>
    simp only [M.putBit, M.count] <;>
    repeat (first | rw [M.aget_put_event _ _ _ _ _ _ _ h (by first | exact hp | exact ho | decide)] | rfl)

theorem M.aget_loseRaise (m : M) (a : Nat) (h : eventAddr a = false) : aget a m.loseRaise.regs = aget a m.regs := by
  unfold M.loseRaise
  simp only []
  split <;>
    simp only [M.count] <;>
    repeat (first | rw [M.aget_pend _ _ _ (by decide) h] | rw [M.aget_put_event _ _ _ _ _ _ _ h (by decide)] | rfl)

/-- A raise leaves every register outside the event controller and the recorder. -/
theorem M.aget_raise (m : M) (s a : Nat) (hs : s < 256) (h : eventAddr a = false) : aget a (m.raise s).regs = aget a m.regs := by
  unfold M.raise
  simp only []
  split
  · exact M.aget_pend _ _ _ hs h
  · split
    · exact M.aget_pend _ _ _ hs h
    · rw [M.aget_loseRaise _ _ h, M.aget_pend _ _ _ hs h]

theorem M.rd_raise (m : M) (s : Nat) {r : Reg} {i j k : Nat} (hs : s < 256) (h : eventAddr (r.addr i j k) = false) :
    (m.raise s).rd r i j k = m.rd r i j k := M.rd_congr (M.aget_raise m s _ hs h)

theorem M.aget_dropEntry (m : M) (t a : Nat) (h : eventAddr a = false) : aget a (m.dropEntry t).regs = aget a m.regs := by
  unfold M.dropEntry M.flag M.count
  show aget a ((((m.put _ _ _ _ _).put _ _ _ _ _).raise 0x24).regs) = _
  rw [M.aget_raise _ _ _ (by decide) h, M.aget_put_event _ _ _ _ _ _ _ h (by decide), M.aget_put_event _ _ _ _ _ _ _ h (by decide)]

theorem M.aget_logEntry (m : M) (c v t q a : Nat) (b : Bytes) (k : Nat) (h : eventAddr a = false) :
    aget a (m.logEntry c v t q b k).regs = aget a m.regs := by
  unfold M.logEntry
  split
  · rfl
  · split
    · exact M.aget_dropEntry m t a h
    · rfl

theorem M.aget_storeRecord (m : M) (l : List Word) (a : Nat) (h : eventAddr a = false) :
    aget a (m.storeRecord l).regs = aget a m.regs := by
  unfold M.storeRecord
  simp only []
  rw [M.aget_put_event _ _ _ _ _ _ _ h (by decide), M.aget_put_event _ _ _ _ _ _ _ h (by decide)]

theorem M.aget_storeItems (m : M) (x y z a : Nat) (l : List (List RecItem)) (h : eventAddr a = false) :
    aget a (m.storeItems x y z l).regs = aget a m.regs := by
  induction l generalizing m with
  | nil => exact M.aget_storeRecord _ _ _ h
  | cons p t ih =>
    cases t with
    | nil => exact M.aget_storeRecord _ _ _ h
    | cons q u =>
      simp only [M.storeItems]
      rw [ih, M.aget_storeRecord _ _ _ h]

theorem M.aget_recordItems (m : M) (c a : Nat) (l : List RecItem) (h : eventAddr a = false) :
    aget a (m.recordItems c l).regs = aget a m.regs := by
  unfold M.recordItems
  simp only []
  split
  · exact M.aget_storeItems _ _ _ _ _ _ h
  · split
    · rfl
    · exact M.aget_loseRaise _ _ h

theorem M.aget_note (m : M) (c v t a : Nat) (l : List Nat) (h : eventAddr a = false) : aget a (m.note c v t l).regs = aget a m.regs := by
  unfold M.note
  simp only []
  rw [M.aget_logEntry _ _ _ _ _ _ _ _ h, M.aget_recordItems _ _ _ _ h]

theorem M.aget_noteItems (m : M) (c v t a : Nat) (l : List RecItem) (h : eventAddr a = false) :
    aget a (m.noteItems c v t l).regs = aget a m.regs := by
  unfold M.noteItems
  simp only []
  rw [M.aget_logEntry _ _ _ _ _ _ _ _ h, M.aget_recordItems _ _ _ _ h]

theorem M.aget_recordOnly (m : M) (c a : Nat) (l : List Nat) (h : eventAddr a = false) :
    aget a (m.recordOnly c l).regs = aget a m.regs := M.aget_recordItems _ _ _ _ h

theorem M.aget_flag (m : M) (x : FRef) (s i j k a : Nat) (hs : s < 256) (h : eventAddr a = false) (hx : a ≠ x.reg.addr i j k) :
    aget a (m.flag x s i j k).regs = aget a m.regs := by
  unfold M.flag
  rw [M.aget_raise _ _ _ hs h, M.put_eq_wr, M.aget_wr, if_neg hx]

/-- The flag set by `flag` reads 1, unless it lies in the event controller or the recorder. -/
theorem M.get_flag (m : M) (x : FRef) (s i j k : Nat) (hs : s < 256) (h : eventAddr (x.reg.addr i j k) = false)
    (hx : x.lo + x.width ≤ 32) : (m.flag x s i j k).get x i j k = 1 % 2 ^ x.width := by
  unfold M.flag
  have : ((m.put x 1 i j k).raise s).get x i j k = (m.put x 1 i j k).get x i j k := by
    unfold M.get; rw [M.rd_raise _ _ hs h]
  rw [this, M.get_put_same _ _ _ _ _ _ hx]

end Sys2Proof.Machine
end

