-- ==== Sys2Proof/Laws/Access.lean ====
section
/-! SUPPORT. What counting the events of an access leaves: everything but the event controller, the recorder and the sampling
state; so an access is accepted or refused as if nothing were counted. -/

namespace Sys2Proof.Machine

theorem M.EventsOnly.refl (m : M) : M.EventsOnly m m := ⟨rfl, fun _ _ => rfl⟩

theorem M.EventsOnly.trans {a b c : M} (h : M.EventsOnly a b) (g : M.EventsOnly b c) : M.EventsOnly a c :=
  ⟨by have e := g.eq; rw [h.eq] at e; exact e, fun x hx => (g.regs x hx).trans (h.regs x hx)⟩

theorem M.EventsOnly.rd {a b : M} (h : M.EventsOnly a b) {r : Reg} {i j k : Nat} (hx : eventAddr (r.addr i j k) = false) :
    b.rd r i j k = a.rd r i j k := M.rd_congr (h.regs _ hx)

theorem M.EventsOnly.get {a b : M} (h : M.EventsOnly a b) {x : FRef} {i j k : Nat} (hx : eventAddr (x.reg.addr i j k) = false) :
    b.get x i j k = a.get x i j k := by unfold M.get; rw [h.rd hx]

theorem M.eventsOnly_wr (m : M) (r : Reg) (v : Word) (i j k : Nat) (h : eventAddr (r.addr i j k) = true) :
    M.EventsOnly m (m.wr r v i j k) :=
  ⟨rfl, fun x hx => by rw [M.aget_wr, if_neg]; intro e; subst e; rw [h] at hx; cases hx⟩

theorem M.eventsOnly_raise (m : M) (s : Nat) (hs : s < 256) : M.EventsOnly m (m.raise s) := by
  refine ⟨?_, fun x hx => M.aget_raise m s x hs hx⟩
  have h := M.raise_eq m s
  have e : (m.raise s).ev = m.ev := M.raise_ev m s
  rw [e]; exact h

theorem cnt_event (g n : Nat) (h : n < 32) : eventAddr ((cntReg g).addr n 0 0) = true := by
  unfold cntReg
  split <;> simp [eventAddr, Reg.addr, Reg.spec] <;> omega

theorem groupSize_le (g : Nat) : groupSize g ≤ 32 := by unfold groupSize; split <;> omega

theorem M.eventsOnly_countUp (g fuel n k : Nat) (m : M) (hn : n < groupSize g) (hg : g < 3) : M.EventsOnly m (M.countUp g fuel n k m) := by
  induction fuel generalizing n k m with
  | zero => exact M.EventsOnly.refl m
  | succ f ih =>
    have h32 : n < 32 := Nat.lt_of_lt_of_le hn (groupSize_le g)
    have hw := M.eventsOnly_wr m (cntReg g) (BitVec.ofNat 32 ((m.rd (cntReg g) n).toNat + k)) n 0 0 (cnt_event g n h32)
    simp only [M.countUp]
    split
    · exact hw
    · split
      · next h =>
        split
        · exact hw.trans (ih (n + 1) 1 _ (by simp at h; exact h.1))
        · exact hw
      · refine hw.trans ?_
        split
        · have h2 := M.eventsOnly_wr (m.wr (cntReg 0) (BitVec.ofNat 32 ((m.rd (cntReg 0) n).toNat + k)) n) .EVC_COVF0
            (wset ((m.wr (cntReg 0) (BitVec.ofNat 32 ((m.rd (cntReg 0) n).toNat + k)) n).rd .EVC_COVF0 0 0 0) F.EVC_COVF0_h0.lo F.EVC_COVF0_h0.width
              (putBitN ((m.wr (cntReg 0) (BitVec.ofNat 32 ((m.rd (cntReg 0) n).toNat + k)) n).get F.EVC_COVF0_h0 0 0 0) n true)) 0 0 0 (by decide)
          split
          · exact h2.trans (M.eventsOnly_raise _ _ (by omega))
          · exact h2
        · have h2 := M.eventsOnly_wr (m.wr (cntReg 1) (BitVec.ofNat 32 ((m.rd (cntReg 1) n).toNat + k)) n) .EVC_COVF0
            (wset ((m.wr (cntReg 1) (BitVec.ofNat 32 ((m.rd (cntReg 1) n).toNat + k)) n).rd .EVC_COVF0 0 0 0) F.EVC_COVF0_h1.lo F.EVC_COVF0_h1.width
              (putBitN ((m.wr (cntReg 1) (BitVec.ofNat 32 ((m.rd (cntReg 1) n).toNat + k)) n).get F.EVC_COVF0_h1 0 0 0) n true)) 0 0 0 (by decide)
          split
          · exact h2.trans (M.eventsOnly_raise _ _ (by omega))
          · exact h2
        · have h2 := M.eventsOnly_wr (m.wr (cntReg g) (BitVec.ofNat 32 ((m.rd (cntReg g) n).toNat + k)) n) .EVC_COVF1
            (wset ((m.wr (cntReg g) (BitVec.ofNat 32 ((m.rd (cntReg g) n).toNat + k)) n).rd .EVC_COVF1 0 0 0) F.EVC_COVF1_fab.lo F.EVC_COVF1_fab.width
              (putBitN ((m.wr (cntReg g) (BitVec.ofNat 32 ((m.rd (cntReg g) n).toNat + k)) n).get F.EVC_COVF1_fab 0 0 0) n true)) 0 0 0 (by decide)
          split
          · exact h2.trans (M.eventsOnly_raise _ _ (by omega))
          · exact h2

theorem M.eventsOnly_fold {α : Type} (l : List α) (f : M → α → M) (m : M) (h : ∀ a x, x ∈ l → M.EventsOnly a (f a x)) :
    M.EventsOnly m (l.foldl f m) := by
  induction l generalizing m with
  | nil => exact M.EventsOnly.refl m
  | cons x t ih =>
    exact (h m x List.mem_cons_self).trans (ih (f m x) (fun a y hy => h a y (List.mem_cons_of_mem _ hy)))

theorem M.eventsOnly_countEvent (m : M) (g k : Nat) (sel : Word → Bool) (hg : g < 3) : M.EventsOnly m (m.countEvent g k sel) := by
  unfold M.countEvent
  split
  · exact M.EventsOnly.refl m
  · apply M.eventsOnly_fold
    intro a n hn
    simp only []
    split
    · exact M.eventsOnly_countUp g 33 n k a (List.mem_range.mp hn) hg
    · exact M.EventsOnly.refl a

theorem M.eventsOnly_ev (m : M) (e : EventState) : M.EventsOnly m { m with ev := e } := ⟨rfl, fun _ _ => rfl⟩

theorem M.eventsOnly_ite {m a b : M} (c : Prop) [Decidable c] (ha : M.EventsOnly m a) (hb : M.EventsOnly m b) :
    M.EventsOnly m (if c then a else b) := by split <;> assumption

theorem M.eventsOnly_sample (m : M) (c e : Nat) : M.EventsOnly m (m.sampleOccurs c e) :=
  M.eventsOnly_ite _ (M.EventsOnly.refl m)
    (M.eventsOnly_ite _ (M.eventsOnly_ev m _) (M.eventsOnly_ite _ (M.eventsOnly_ev m _) (M.eventsOnly_ev m _)))

theorem M.eventsOnly_coreEvent (m : M) (c e : Nat) (u : Bool) (hc : c < 3) : M.EventsOnly m (m.coreEvent c e u) :=
  (M.eventsOnly_countEvent m c 1 _ hc).trans (M.eventsOnly_sample _ _ _)

/-- Counting an access changes the event controller and the recorder only. -/
theorem M.eventsOnly_access (m : M) (ini : Nat) (a b c : Bool) : M.EventsOnly m (m.accessEvents ini a b c) := by
  unfold M.accessEvents
  split
  · exact M.EventsOnly.refl m
  · apply M.eventsOnly_fold
    intro x n _
    exact M.eventsOnly_coreEvent x _ _ _ (by omega)

theorem M.eventsOnly_period (m : M) : M.EventsOnly m m.periodEvents := by
  unfold M.periodEvents
  exact ((M.eventsOnly_countEvent m 0 1 _ (by omega)).trans (M.eventsOnly_countEvent _ 1 1 _ (by omega))).trans
    (M.eventsOnly_countEvent _ 2 1 _ (by omega))

/-- Counting leaves each block's state. -/
theorem M.EventsOnly.fields {a b : M} (h : M.EventsOnly a b) :
    b.effs = a.effs ∧ b.slotB = a.slotB ∧ b.time = a.time ∧ b.power = a.power ∧ b.pts = a.pts ∧ b.fab = a.fab ∧ b.img = a.img ∧
    b.exe = a.exe ∧ b.loop = a.loop ∧ b.mtr = a.mtr ∧ b.can = a.can ∧ b.eth = a.eth ∧ b.krov = a.krov ∧ b.ibx = a.ibx ∧
    b.tth = a.tth ∧ b.lio = a.lio ∧ b.boot = a.boot ∧ b.nvp = a.nvp ∧ b.hst = a.hst ∧ b.kv = a.kv ∧ b.upd = a.upd ∧
    b.rnd = a.rnd ∧ b.free = a.free ∧ b.out = a.out := by
  have e := h.eq
  refine ⟨?_, ?_, ?_, ?_, ?_, ?_, ?_, ?_, ?_, ?_, ?_, ?_, ?_, ?_, ?_, ?_, ?_, ?_, ?_, ?_, ?_, ?_, ?_, ?_⟩ <;> rw [e]

/-- An access is refused for the same reason after its events are counted. -/
theorem M.EventsOnly.refusal {a b : M} (h : M.EventsOnly a b) (w : Who) (x n : Nat) (wr : Bool) :
    b.refusal w x n wr = a.refusal w x n wr := by
  have hk : b.krov = a.krov := by rw [h.eq]
  have hv : b.kv = a.kv := by rw [h.eq]
  have hg : ∀ n, b.gateReach w n = a.gateReach w n := by
    intro n; unfold M.gateReach M.gates M.openSession; rw [hk, hv]
  have hr : ∀ r, b.reaches w r = a.reaches w r := by
    intro r; cases r <;> simp [M.reaches, hg]
  have hu : b.userReach x wr = a.userReach x wr := by
    unfold M.userReach
    rw [h.get (x := F.SYS_H1_PART_ubase) (by decide), h.get (x := F.SYS_H1_PART_usize) (by decide)]
  have hd : ∀ d, b.domainOn d = a.domainOn d := by
    intro d; unfold M.domainOn; rw [h.get (x := F.PMC_PD_STAT_state) (by decide)]
  unfold M.refusal
  simp only [hr, hu, hd]

end Sys2Proof.Machine
end

