-- ==== Sys2Proof/Laws/Chain.lean ====
section
/-! SUPPORT. A chain of register stores: what a field or a word reads after stores of others, by conditions that evaluate. -/

namespace Sys2Proof.Machine

/-- Two registers that share no address at a common index: one stride and other bases, or ranges that lie apart. -/
def Reg.strideApart (r q : Reg) : Bool :=
  (r.spec.s1 == q.spec.s1 && !(r.spec.base == q.spec.base)) ||
    decide (q.spec.base + q.spec.s1 * (q.spec.n1 - 1) < r.spec.base ∨ r.spec.base + r.spec.s1 * (r.spec.n1 - 1) < q.spec.base)

/-- Two fields of one index, in different registers or beside each other. -/
def FRef.apart (x y : FRef) : Bool :=
  x.reg.strideApart y.reg ||
    (x.reg == y.reg && decide (x.lo + x.width ≤ 32) && decide (y.lo + y.width ≤ x.lo ∨ x.lo + x.width ≤ y.lo))

/-- A register lies outside the instances of another. -/
def Reg.outOf (r q : Reg) : Bool := decide (q.spec.base < r.spec.base ∨ r.spec.base + r.spec.s1 * (r.spec.n1 - 1) < q.spec.base)

theorem Reg.strideApart_ne {r q : Reg} (h : r.strideApart q = true) {n : Nat} (hr : n < r.spec.n1) (hq : n < q.spec.n1) :
    q.addr n 0 0 ≠ r.addr n 0 0 := by
  simp only [Reg.strideApart, Bool.or_eq_true, Bool.and_eq_true, beq_iff_eq, Bool.not_eq_true', beq_eq_false_iff_ne,
    decide_eq_true_eq] at h
  have h1 : r.spec.s1 * n ≤ r.spec.s1 * (r.spec.n1 - 1) := Nat.mul_le_mul_left _ (by omega)
  have h2 : q.spec.s1 * n ≤ q.spec.s1 * (q.spec.n1 - 1) := Nat.mul_le_mul_left _ (by omega)
  unfold Reg.addr
  simp only [Nat.mul_zero, Nat.add_zero]
  rcases h with ⟨h, h'⟩ | h
  · rw [h]; omega
  · omega

theorem Reg.outOf_ne {r q : Reg} (h : r.outOf q = true) {n : Nat} (hn : n < r.spec.n1) : q.addr 0 0 0 ≠ r.addr n 0 0 := by
  simp only [Reg.outOf, decide_eq_true_eq] at h
  have : r.spec.s1 * n ≤ r.spec.s1 * (r.spec.n1 - 1) := Nat.mul_le_mul_left _ (by omega)
  unfold Reg.addr
  simp only [Nat.mul_zero, Nat.add_zero]
  omega

namespace Chain

variable (m : M) (n v : Nat) (u : Word)

theorem get_put_apart {x y : FRef} (hx : n < x.reg.spec.n1) (hy : n < y.reg.spec.n1) (h : x.apart y = true) :
    (m.put x v n).get y n = m.get y n := by
  simp only [FRef.apart, Bool.or_eq_true, Bool.and_eq_true, decide_eq_true_eq, beq_iff_eq] at h
  rcases h with h | ⟨⟨h1, h2⟩, h3⟩
  · exact M.get_put_ne m x y v (Reg.strideApart_ne h hx hy)
  · exact M.get_put_beside m x y v n 0 0 h2 h1.symm h3

theorem rd_put_apart {x : FRef} {r : Reg} (hx : n < x.reg.spec.n1) (hr : n < r.spec.n1) (h : x.reg.strideApart r = true) :
    (m.put x v n).rd r n = m.rd r n := M.rd_put_ne m x v (Reg.strideApart_ne h hx hr)

theorem get_wr_apart {r : Reg} {y : FRef} (hr : n < r.spec.n1) (hy : n < y.reg.spec.n1) (h : r.strideApart y.reg = true) :
    (m.wr r u n).get y n = m.get y n := by
  unfold M.get; rw [M.rd_wr_ne m u (Reg.strideApart_ne h hr hy)]

theorem rd_wr_apart {r q : Reg} (hr : n < r.spec.n1) (hq : n < q.spec.n1) (h : r.strideApart q = true) :
    (m.wr r u n).rd q n = m.rd q n := M.rd_wr_ne m u (Reg.strideApart_ne h hr hq)

theorem get_put_out {x y : FRef} (hn : n < x.reg.spec.n1) (h : x.reg.outOf y.reg = true) : (m.put x v n).get y = m.get y :=
  M.get_put_ne m x y v (Reg.outOf_ne h hn)

theorem get_wr_out {r : Reg} {y : FRef} (hn : n < r.spec.n1) (h : r.outOf y.reg = true) : (m.wr r u n).get y = m.get y := by
  unfold M.get; rw [M.rd_wr_ne m u (Reg.outOf_ne h hn)]

theorem get_put_in {x y : FRef} (hn : n < y.reg.spec.n1) (h : y.reg.outOf x.reg = true) : (m.put x v).get y n = m.get y n :=
  M.get_put_ne m x y v (Reg.outOf_ne h hn).symm

theorem rd_put_in {x : FRef} {r : Reg} (hn : n < r.spec.n1) (h : r.outOf x.reg = true) : (m.put x v).rd r n = m.rd r n :=
  M.rd_put_ne m x v (Reg.outOf_ne h hn).symm

theorem putB_eq {x : FRef} (b : Bool) : m.putB x b n = m.put x (b2n b) n := rfl

theorem get_put_bit {x : FRef} (b : Bool) (h : x.lo + x.width ≤ 32) (hw : x.width = 1) : (m.put x (b2n b) n).get x n = b2n b := by
  rw [M.get_put_same m x _ n 0 0 h, hw]; cases b <;> rfl

theorem one_of_bit (b : Bool) : (b2n b == 1) = b := by cases b <;> rfl

/-- A counter that holds at its top value. -/
theorem get_count {x : FRef} (h : x.lo + x.width ≤ 32) : (m.count x n).get x n = min (m.get x n + 1) (2 ^ x.width - 1) := by
  unfold M.count
  rw [M.get_put_same m x _ n 0 0 h]
  have : 0 < 2 ^ x.width := Nat.two_pow_pos _
  unfold satAdd
  apply Nat.mod_eq_of_lt
  omega

end Chain

end Sys2Proof.Machine
end

