-- ==== Sys2Proof/Laws/Write.lean ====
section
/-! SUPPORT. What an accepted write of a register does: its effect, the marks of R157 and R399, and the answer. -/

namespace Sys2Proof.Machine

theorem M.AccessOnly.refl (m : M) : M.AccessOnly m m := ⟨rfl, fun _ _ _ => rfl⟩

theorem M.AccessOnly.trans {a b c : M} (h : M.AccessOnly a b) (g : M.AccessOnly b c) : M.AccessOnly a c :=
  ⟨by have e := g.eq; rw [h.eq] at e; exact e, fun x hx hn => (g.regs x hx hn).trans (h.regs x hx hn)⟩

theorem M.AccessOnly.of_events {a b : M} (h : M.EventsOnly a b) : M.AccessOnly a b :=
  ⟨by have e : b.tth = a.tth := by rw [h.eq]
      have o : b.out = a.out := by rw [h.eq]
      have k : b.krov = a.krov := by rw [h.eq]
      rw [e, o, k]; exact h.eq, fun x hx _ => h.regs x hx⟩

theorem M.accessOnly_emit (m : M) (e : Emission) : M.AccessOnly m (m.emit e) := ⟨rfl, fun _ _ _ => rfl⟩

theorem M.accessOnly_hold (m : M) (h : HeldAnswer) : M.AccessOnly m (m.hold h) := ⟨rfl, fun _ _ _ => rfl⟩

/-- The answer of a write leaves at once or waits (R399). -/
theorem M.accessOnly_answerWrite (m was : M) (i a : Nat) : M.AccessOnly m (m.answerWrite was i a) := by
  unfold M.answerWrite
  split
  · exact M.accessOnly_emit ..
  · exact M.accessOnly_hold ..

theorem M.accessOnly_sendTether (m : M) (b : TetherBody) : M.AccessOnly m (m.sendTether b) := by
  unfold M.sendTether
  split
  · exact M.AccessOnly.refl m
  · exact ⟨rfl, fun _ _ _ => rfl⟩

theorem M.accessOnly_tellPeer (m : M) (c : ChangeRec) : M.AccessOnly m (m.tellPeer c) := by
  unfold M.tellPeer M.sendChange
  split
  · refine (M.accessOnly_sendTether m (.change c)).trans ⟨rfl, fun _ _ _ => rfl⟩
  · exact M.AccessOnly.refl m

/-- The marks of a running change (R157, R399). -/
theorem M.accessOnly_runningChange (m : M) (r : Reg) (a v : Nat) : M.AccessOnly m (m.runningChange r a v) := by
  unfold M.runningChange
  simp only []
  have h1 : M.AccessOnly m (if (m.get F.UPD_IMG_STAT_state == 1 && (m.img.configure ++ m.img.arm).any (fun c => c.addr == a)) = true
      then m.put F.UPD_IMG_STAT_dirty 1 else m) := by
    split
    · exact ⟨rfl, fun x _ hn => by rw [M.put_eq_wr, M.aget_wr, if_neg hn]⟩
    · exact M.AccessOnly.refl m
  split
  · exact h1.trans ((M.accessOnly_tellPeer _ _).trans (M.accessOnly_tellPeer _ _))
  · split
    · exact h1.trans (M.accessOnly_tellPeer _ _)
    · exact h1

theorem M.vlanFollows_of_ne (m : M) (p : Place) (old : Word) (h : p.reg ≠ .ETH_VLAN) : m.vlanFollows p old = m := by
  unfold M.vlanFollows; simp [h]

/-- A write of a register instance that is no commit register and no VLAN entry: its fields that can be written are stored, its
write-only fields act, and the marks follow. -/
theorem M.writeReg_effect {m : M} {w : Who} {p : Place} {v : Nat} {g f : M} (hc : commitOf p.reg p.i = none)
    (h1 : p.reg.w1cMask = 0) (hv : p.reg ≠ .ETH_VLAN)
    (hs : (if p.reg.rwMask == 0 then (false, m) else m.storeRw w p.reg p.i p.j p.k v) = (false, g))
    (hf : g.woEffect w p.reg p.i p.j p.k v = f) :
    m.writeReg w p v = some (f.runningChange p.reg p.addr v) := by
  unfold M.writeReg
  simp only [hc, hs]
  simp [h1, hf, M.vlanFollows_of_ne _ _ _ hv]

/-- An accepted 32-bit write of such a register, by whom and to where it goes. -/
theorem writeBy_effect {s : State} {by_ : Master} {w : Who} {p : Place} {v n : Nat} {d : Option Nat} {g f : M → M}
    (ha : s.m.accepts by_ w p.addr true) (hp : placeAt p.addr = some p) (hr : regionOf p.addr = some (.window n d))
    (hc : commitOf p.reg p.i = none) (h1 : p.reg.w1cMask = 0) (hv : p.reg ≠ .ETH_VLAN) (hl : v < 2 ^ 32)
    (hs : ∀ e, M.EventsOnly s.m e →
      (if p.reg.rwMask == 0 then (false, e) else e.storeRw w p.reg p.i p.j p.k v) = (false, g e))
    (hf : ∀ e, M.EventsOnly s.m e → (g e).woEffect w p.reg p.i p.j p.k v = f e)
    (hw : ∀ e, M.EventsOnly s.m e → (f e).boot.wipes = s.m.boot.wipes) :
    s.accessTo (s.after (writeBy (s.m, s.sram) by_ p.addr 4 v)) f := by
  obtain ⟨hwho, hbar, hview, href⟩ := ha
  let e := s.m.accessEvents w.ini true (inPoints p.addr) (!s.m.sees w (pointAt p.addr))
  have he : M.EventsOnly s.m e := M.eventsOnly_access ..
  have href' : e.refusal w p.addr 4 true = none := (he.refusal ..).trans href
  have hwr : e.writeReg w p v = some ((f e).runningChange p.reg p.addr v) := M.writeReg_effect hc h1 hv (hs e he) (hf e he)
  have hbus : busWrite (e, s.sram) w p.addr 4 v = (none, ((f e).runningChange p.reg p.addr v, s.sram)) := by
    unfold busWrite
    simp [href', hr, M.writeWord, hp, (show v % 4294967296 = v from Nat.mod_eq_of_lt hl), hwr]
  have hby : writeBy (s.m, s.sram) by_ p.addr 4 v = (((f e).runningChange p.reg p.addr v).answerWrite s.m w.ini p.addr, s.sram) := by
    unfold writeBy
    simp only [hwho, hbar, hview rfl]
    show (match busWrite (e, s.sram) w p.addr 4 v with
      | (none, (m, t)) => (m.answerWrite s.m w.ini p.addr, t)
      | (some _, c) => c) = _
    rw [hbus]
  have hao : M.AccessOnly (f e) (((f e).runningChange p.reg p.addr v).answerWrite s.m w.ini p.addr) :=
    (M.accessOnly_runningChange ..).trans (M.accessOnly_answerWrite ..)
  have hwipe : (((f e).runningChange p.reg p.addr v).answerWrite s.m w.ini p.addr).boot.wipes = s.m.boot.wipes := by
    have := hao.eq
    rw [this]; exact hw e he
  rw [hby]
  refine ⟨rfl, ?_, e, he, hao⟩
  show (if _ == _ then s.sram else []) = s.sram
  rw [hwipe]; simp

end Sys2Proof.Machine
end

