-- ==== Sys2Proof/Laws/Merge.lean ====
section
/-! SUPPORT. Which bits of a register a write stores: the layouts of the bit tables do not overlap, so each field that can be
written takes its bits of the value and every other bit stays. -/

namespace Sys2Proof.Machine

theorem fieldN_testBit (n lo w i : Nat) : (fieldN n lo w).testBit i = (decide (i < w) && n.testBit (lo + i)) := by
  unfold fieldN; rw [Nat.testBit_mod_two_pow, Nat.testBit_div_two_pow, Nat.add_comm i lo]

theorem fieldN_eq_of_testBit {a b lo w : Nat} (h : ∀ i, lo ≤ i → i < lo + w → a.testBit i = b.testBit i) :
    fieldN a lo w = fieldN b lo w := by
  apply Nat.eq_of_testBit_eq
  intro i
  rw [fieldN_testBit, fieldN_testBit]
  by_cases hi : i < w
  · simp [hi, h (lo + i) (by omega) (by omega)]
  · simp [hi]

theorem ones_testBit (w lo i : Nat) : ((2 ^ w - 1) * 2 ^ lo).testBit i = (decide (lo ≤ i) && decide (i < lo + w)) := by
  rw [Nat.testBit_mul_two_pow, Nat.testBit_two_pow_sub_one]
  by_cases h : lo ≤ i
  · simp [h]; omega
  · simp [h]

/-- The bits of a mask: those of the fields it covers. -/
theorem maskFold_testBit (l : List FieldSpec) (a i : Nat) :
    (l.foldl (fun (a : Nat) f => Nat.lor a ((2 ^ f.width - 1) * 2 ^ f.lo)) a).testBit i =
      (a.testBit i || l.any (fun f => decide (f.lo ≤ i) && decide (i < f.lo + f.width))) := by
  induction l generalizing a with
  | nil => simp
  | cons f t ih =>
    simp only [List.foldl_cons, ih, List.any_cons]
    have : (Nat.lor a ((2 ^ f.width - 1) * 2 ^ f.lo)).testBit i = (a.testBit i || ((2 ^ f.width - 1) * 2 ^ f.lo).testBit i) :=
      Nat.testBit_or ..
    rw [this, ones_testBit, Bool.or_assoc]

theorem Reg.maskOf_testBit (r : Reg) (p : FieldSpec → Bool) (i : Nat) :
    (r.maskOf p).testBit i = r.spec.fields.any (fun f => p f && (decide (f.lo ≤ i) && decide (i < f.lo + f.width))) := by
  unfold Reg.maskOf
  rw [maskFold_testBit, List.any_filter]; simp

/-- Numbers without a common bit add like a bitwise or. -/
theorem add_of_apart {a b : Nat} (h : a &&& b = 0) : a + b = a ||| b := by
  have ha : a < 2 ^ (a + b + 1) := Nat.lt_of_lt_of_le Nat.lt_two_pow_self (Nat.pow_le_pow_right (by omega) (by omega))
  have hb : b < 2 ^ (a + b + 1) := Nat.lt_of_lt_of_le Nat.lt_two_pow_self (Nat.pow_le_pow_right (by omega) (by omega))
  have hs : a + b < 2 ^ (a + b + 1) := Nat.lt_of_lt_of_le Nat.lt_two_pow_self (Nat.pow_le_pow_right (by omega) (by omega))
  have ho : a ||| b < 2 ^ (a + b + 1) := Nat.or_lt_two_pow ha hb
  have hz : BitVec.ofNat (a + b + 1) a &&& BitVec.ofNat (a + b + 1) b = 0#(a + b + 1) := by
    apply BitVec.eq_of_toNat_eq
    simp [Nat.mod_eq_of_lt ha, Nat.mod_eq_of_lt hb, h]
  have := congrArg BitVec.toNat (BitVec.add_eq_or_of_and_eq_zero _ _ hz)
  simpa [Nat.mod_eq_of_lt ha, Nat.mod_eq_of_lt hb, Nat.mod_eq_of_lt hs] using this

theorem sub_land (a b : Nat) : a - Nat.land a b = a ^^^ (a &&& b) := by
  have h : (a &&& b) + (a ^^^ (a &&& b)) = a := by
    rw [add_of_apart]
    · apply Nat.eq_of_testBit_eq; intro n; simp only [Nat.testBit_or, Nat.testBit_and, Nat.testBit_xor]
      cases a.testBit n <;> cases b.testBit n <;> rfl
    · apply Nat.eq_of_testBit_eq; intro n; simp only [Nat.testBit_and, Nat.testBit_xor, Nat.zero_testBit]
      cases a.testBit n <;> cases b.testBit n <;> rfl
  have e : Nat.land a b = a &&& b := rfl
  omega

/-- A word with the bits of a mask replaced. -/
theorem merge_testBit (old v mask i : Nat) :
    (old - Nat.land old mask + Nat.land v mask).testBit i = if mask.testBit i then v.testBit i else old.testBit i := by
  have e : Nat.land v mask = v &&& mask := rfl
  rw [sub_land, e, add_of_apart]
  · simp only [Nat.testBit_or, Nat.testBit_and, Nat.testBit_xor]
    cases old.testBit i <;> cases mask.testBit i <;> cases v.testBit i <;> rfl
  · apply Nat.eq_of_testBit_eq; intro n; simp only [Nat.testBit_and, Nat.testBit_xor, Nat.zero_testBit]
    cases old.testBit n <;> cases mask.testBit n <;> cases v.testBit n <;> rfl

/-- Fields of a register neither overlap nor leave the word. -/
def fieldsApart : List FieldSpec → Bool
  | [] => true
  | f :: t => decide (f.lo + f.width ≤ 32) && t.all (fun g => decide (f.lo + f.width ≤ g.lo) || decide (g.lo + g.width ≤ f.lo)) && fieldsApart t

theorem Reg.fieldsApart (r : Reg) : fieldsApart r.spec.fields = true := by cases r <;> rfl

theorem apart_of_mem {l : List FieldSpec} (h : fieldsApart l = true) {f g : FieldSpec} (hf : f ∈ l) (hg : g ∈ l) :
    f = g ∨ f.lo + f.width ≤ g.lo ∨ g.lo + g.width ≤ f.lo := by
  induction l with
  | nil => cases hf
  | cons a t ih =>
    simp only [Machine.fieldsApart, Bool.and_eq_true, List.all_eq_true, decide_eq_true_eq, Bool.or_eq_true] at h
    rcases List.mem_cons.mp hf with rfl | hf <;> rcases List.mem_cons.mp hg with rfl | hg
    · exact .inl rfl
    · exact .inr (h.1.2 g hg)
    · exact .inr ((h.1.2 f (by assumption)).symm)
    · exact ih h.2 hf hg

theorem width_of_mem {l : List FieldSpec} (h : fieldsApart l = true) {f : FieldSpec} (hf : f ∈ l) : f.lo + f.width ≤ 32 := by
  induction l with
  | nil => cases hf
  | cons a t ih =>
    simp only [Machine.fieldsApart, Bool.and_eq_true, decide_eq_true_eq] at h
    rcases List.mem_cons.mp hf with rfl | hf
    · exact h.1.1
    · exact ih h.2 hf

/-- A mask covers all bits of a field it names, and none of another field. -/
theorem Reg.maskOf_field (r : Reg) (p : FieldSpec → Bool) {f : FieldSpec} (hf : f ∈ r.spec.fields) {i : Nat} (h1 : f.lo ≤ i)
    (h2 : i < f.lo + f.width) : (r.maskOf p).testBit i = p f := by
  rw [Reg.maskOf_testBit, Bool.eq_iff_iff, List.any_eq_true]
  constructor
  · rintro ⟨g, hg, h⟩
    simp only [Bool.and_eq_true, decide_eq_true_eq] at h
    rcases apart_of_mem r.fieldsApart hf hg with rfl | h3 | h3
    · exact h.1
    · omega
    · omega
  · intro h
    exact ⟨f, hf, by simp [h, h1, h2]⟩

theorem M.merge_lt (m : M) (r : Reg) (i j k : Nat) {v : Nat} (h : v < 2 ^ 32) : m.merge r i j k v < 2 ^ 32 := by
  unfold M.merge
  apply Nat.lt_pow_two_of_testBit
  intro n hn
  rw [merge_testBit]
  have h1 : v.testBit n = false := Nat.testBit_lt_two_pow (Nat.lt_of_lt_of_le h (Nat.pow_le_pow_right (by omega) hn))
  have h2 : (m.rd r i j k).toNat.testBit n = false :=
    Nat.testBit_lt_two_pow (Nat.lt_of_lt_of_le (m.rd r i j k).isLt (Nat.pow_le_pow_right (by omega) hn))
  simp [h1, h2]

/-- A write stores the fields that can be written and leaves the others (R13). -/
theorem M.merge_field (m : M) (r : Reg) (i j k v : Nat) {f : FieldSpec} (hf : f ∈ r.spec.fields) :
    fieldN (m.merge r i j k v) f.lo f.width = if f.acc == .rw then fieldN v f.lo f.width else wfield (m.rd r i j k) f.lo f.width := by
  split
  · next h =>
    apply fieldN_eq_of_testBit
    intro n h1 h2
    unfold M.merge Reg.rwMask
    rw [merge_testBit, Reg.maskOf_field r _ hf h1 h2, h]; rfl
  · next h =>
    unfold wfield
    apply fieldN_eq_of_testBit
    intro n h1 h2
    unfold M.merge Reg.rwMask
    rw [merge_testBit, Reg.maskOf_field r _ hf h1 h2]; simp [h]

end Sys2Proof.Machine
end

