-- ==== Sys2Proof/Laws/Run.lean ====
section
/-! SUPPORT. What running an operation on the machine answers: a next state, which is the old one for a
command out of range; the queue stays, and the host memories stay while no reset clears them. -/

namespace Sys2Proof.Machine

theorem State.after_same {s : State} {b : M × Sram} (h : b.1.boot.wipes = s.m.boot.wipes) :
    s.after b = { s with m := b.1, sram := b.2 } := by
  unfold State.after; simp [h]

@[simp] theorem State.after_m (s : State) (b : M × Sram) : (s.after b).m = b.1 := rfl
@[simp] theorem State.after_pending (s : State) (b : M × Sram) : (s.after b).pending = s.pending := rfl

@[simp] theorem State.onM_true (s : State) (f : M → M) : s.onM true f = .next (s.after (f s.m, s.sram)) := rfl
@[simp] theorem State.onM_false (s : State) (f : M → M) : s.onM false f = .next s := rfl
@[simp] theorem State.onBus_true (s : State) (f : M × Sram → M × Sram) : s.onBus true f = .next (s.after (f (s.m, s.sram))) := rfl
@[simp] theorem State.onBus_false (s : State) (f : M × Sram → M × Sram) : s.onBus false f = .next s := rfl

/-- An operation on the block that clears no host memory. -/
theorem State.onM_next {s : State} {ok : Bool} {f : M → M} {t : M} (h : ok = true) (hf : f s.m = t)
    (hw : t.boot.wipes = s.m.boot.wipes) : s.onM ok f = .next { s with m := t } := by
  subst h
  rw [State.onM_true, hf, State.after_same hw]

/-- A command in range answers a next state with what holds of the machine its operation leaves. -/
theorem State.onM_exists {s : State} {ok : Bool} {f : M → M} {P : State → Prop} (h : ok = true) (hp : P (s.after (f s.m, s.sram))) :
    ∃ t, s.onM ok f = .next t ∧ P t := by subst h; exact ⟨_, rfl, hp⟩

theorem State.onBus_exists {s : State} {ok : Bool} {f : M × Sram → M × Sram} {P : State → Prop} (h : ok = true)
    (hp : P (s.after (f (s.m, s.sram)))) : ∃ t, s.onBus ok f = .next t ∧ P t := by subst h; exact ⟨_, rfl, hp⟩

end Sys2Proof.Machine
end

