-- ==== Sys2Proof/Laws/Place.lean ====
section
/-! SUPPORT. Where registers lie: the instance at an address has its indices in range, all instances lie in the register windows,
and an accepted access to one goes to a window. -/

namespace Sys2Proof.Machine


theorem findPlace_index {a : Nat} {l : List Reg} {p : Place} (h : findPlace a l = some p) :
    p.reg.indexAt a = some (p.i, (p.j, p.k)) := by
  induction l with
  | nil => cases h
  | cons r t ih =>
    simp only [findPlace] at h
    split at h
    · next hx => cases h; exact hx
    · exact ih h

theorem splitIndex_lt {o s n i r : Nat} (h : splitIndex o s n = some (i, r)) : (s = 0 ∧ i = 0) ∨ i < n := by
  unfold splitIndex at h
  split at h
  · next hs => cases h; exact .inl ⟨by simpa using hs, rfl⟩
  · simp only [] at h; split at h
    · cases h; exact .inr (by assumption)
    · cases h

theorem placeAt_bounds {a : Nat} {p : Place} (h : placeAt a = some p) :
    ((p.reg.spec.s1 = 0 ∧ p.i = 0) ∨ p.i < p.reg.spec.n1) ∧ ((p.reg.spec.s2 = 0 ∧ p.j = 0) ∨ p.j < p.reg.spec.n2) ∧
    ((p.reg.spec.s3 = 0 ∧ p.k = 0) ∨ p.k < p.reg.spec.n3) := by
  have h := findPlace_index h
  unfold Reg.indexAt at h
  simp only [] at h
  split at h
  · cases h
  · split at h
    · cases h
    · next h1 =>
      split at h
      · cases h
      · next h2 =>
        split at h
        · cases h
        · next h3 =>
          split at h
          · cases h
            exact ⟨splitIndex_lt h1, splitIndex_lt h2, splitIndex_lt h3⟩
          · cases h

theorem span_le : ∀ r : Reg, 0x40000000 ≤ r.spec.base ∧
    r.spec.base + r.spec.s1 * (r.spec.n1 - 1) + r.spec.s2 * (r.spec.n2 - 1) + r.spec.s3 * (r.spec.n3 - 1) < 0x40000000 + 0x400000 := by
  intro r; cases r <;> decide

theorem mul_idx {s i n : Nat} (h : (s = 0 ∧ i = 0) ∨ i < n) : s * i ≤ s * (n - 1) := by
  rcases h with ⟨h, _⟩ | h
  · simp [h]
  · exact Nat.mul_le_mul_left _ (by omega)

theorem placeAt_range {p : Place} (h : placeAt p.addr = some p) : 0x40000000 ≤ p.addr ∧ p.addr < 0x40400000 := by
  obtain ⟨h1, h2, h3⟩ := placeAt_bounds h
  have := span_le p.reg
  have a := mul_idx h1; have b := mul_idx h2; have c := mul_idx h3
  unfold Place.addr Reg.addr
  omega

theorem region_window {a : Nat} (h1 : 0x40000000 ≤ a) (h2 : a < 0x40400000) {r : Region} (h : regionOf a = some r) :
    ∃ n d, r = .window n d := by
  unfold regionOf at h
  rw [if_neg (by omega), if_neg (by simp; omega), if_neg (by simp; omega), if_neg (by simp; omega), if_pos (by omega)] at h
  cases hd : windowDomain (a / 65536) with
  | none => rw [hd] at h; cases h
  | some d => rw [hd] at h; cases h; exact ⟨_, _, rfl⟩

theorem refusal_region {m : M} {w : Who} {a n : Nat} {wr : Bool} (h : m.refusal w a n wr = none) : ∃ r, regionOf a = some r := by
  unfold M.refusal at h
  cases hr : regionOf a with
  | none => rw [hr] at h; cases h
  | some r => exact ⟨r, rfl⟩

theorem accepted_window {m : M} {by_ : Master} {w : Who} {p : Place} {wr : Bool} (ha : m.accepts by_ w p.addr wr)
    (hp : placeAt p.addr = some p) : ∃ n d, regionOf p.addr = some (.window n d) := by
  obtain ⟨r, hr⟩ := refusal_region ha.2.2.2
  obtain ⟨h1, h2⟩ := placeAt_range hp
  obtain ⟨n, d, e⟩ := region_window h1 h2 hr
  exact ⟨n, d, by rw [hr, e]⟩

/-- An accepted 32-bit write of a register instance (see `writeBy_effect`). -/
theorem writeBy_place {s : State} {by_ : Master} {w : Who} {p : Place} {v : Nat} {g f : M → M}
    (ha : s.m.accepts by_ w p.addr true) (hp : placeAt p.addr = some p) (hc : commitOf p.reg p.i = none)
    (h1 : p.reg.w1cMask = 0) (hv : p.reg ≠ .ETH_VLAN) (hl : v < 2 ^ 32)
    (hs : ∀ e, M.EventsOnly s.m e →
      (if p.reg.rwMask == 0 then (false, e) else e.storeRw w p.reg p.i p.j p.k v) = (false, g e))
    (hf : ∀ e, M.EventsOnly s.m e → (g e).woEffect w p.reg p.i p.j p.k v = f e)
    (hw : ∀ e, M.EventsOnly s.m e → (f e).boot.wipes = s.m.boot.wipes) :
    s.accessTo (s.after (writeBy (s.m, s.sram) by_ p.addr 4 v)) f := by
  obtain ⟨n, d, hr⟩ := accepted_window ha hp
  exact writeBy_effect ha hp hr hc h1 hv hl hs hf hw

/-- Registers without RW and W1C fields and without a commit: only their write-only fields act. -/
theorem wordBy_command {s : State} {by_ : Master} {w : Who} {r : Reg} {v i j k : Nat} {f : M → M}
    (ha : s.m.accepts by_ w (r.addr i j k) true) (hp : placeAt (r.addr i j k) = some ⟨r, i, j, k⟩) (hc : commitOf r i = none)
    (h0 : r.rwMask = 0) (h1 : r.w1cMask = 0) (hv : r ≠ .ETH_VLAN) (hl : v < 2 ^ 32)
    (hf : ∀ e, M.EventsOnly s.m e → e.woEffect w r i j k v = f e)
    (hw : ∀ e, M.EventsOnly s.m e → (f e).boot.wipes = s.m.boot.wipes) :
    s.accessTo (s.after (wordBy (s.m, s.sram) by_ r v i j k)) f :=
  writeBy_place (p := ⟨r, i, j, k⟩) (g := fun e => e) ha hp hc h1 hv hl (fun e _ => by simp [h0]) hf hw

theorem M.EventsOnly.wipes {a b : M} (h : M.EventsOnly a b) : b.boot.wipes = a.boot.wipes := by rw [h.eq]

theorem State.accessTo.mono {s t : State} {f g : M → M} (h : s.accessTo t f) (hfg : ∀ e, M.EventsOnly s.m e → f e = g e) :
    s.accessTo t g := by
  obtain ⟨h1, h2, e, he, ha⟩ := h
  exact ⟨h1, h2, e, he, by rw [← hfg e he]; exact ha⟩

end Sys2Proof.Machine
end

