-- ==== Sys2Proof/Laws/Field.lean ====
section
/-! SUPPORT. A command that writes one field of a register writes the register's other fields as they stand: a field that can be
read and written takes the value alone, a write-only field leaves the register's word. -/

namespace Sys2Proof.Machine

theorem setFieldN_testBit (n lo w v i : Nat) :
    (setFieldN n lo w v).testBit i = if lo ≤ i ∧ i < lo + w then v.testBit (i - lo) else n.testBit i := by
  have key : ∀ x : Nat, x.testBit i = (fieldN x i 1).testBit 0 := by intro x; rw [fieldN_testBit]; simp
  split
  · next h =>
    have := congrArg (fun x => Nat.testBit x (i - lo)) (fieldN_setFieldN n lo w v)
    simp only [fieldN_testBit, Nat.testBit_mod_two_pow] at this
    have e : lo + (i - lo) = i := by omega
    have d : i - lo < w := by omega
    simpa [e, d] using this
  · next h =>
    rw [key, key n]
    by_cases h1 : i < lo
    · rw [fieldN_setFieldN_below _ _ _ _ _ _ (by omega)]
    · rw [fieldN_setFieldN_above _ _ _ _ _ _ (by omega)]

/-- The word a field command writes: the field, the register's other fields that can be written, zero in the rest. -/
theorem fieldWrite_testBit (old mask lo w v i : Nat) :
    (setFieldN (Nat.land old mask) lo w v).testBit i =
      if lo ≤ i ∧ i < lo + w then v.testBit (i - lo) else (old.testBit i && mask.testBit i) := by
  rw [setFieldN_testBit]
  have : (Nat.land old mask).testBit i = (old.testBit i && mask.testBit i) := Nat.testBit_and ..
  rw [this]

theorem setFieldN_lt32 {n lo w v : Nat} (h : n < 2 ^ 32) (hw : lo + w ≤ 32) : setFieldN n lo w v < 2 ^ 32 := by
  apply Nat.lt_pow_two_of_testBit
  intro i hi
  rw [setFieldN_testBit, if_neg (by omega)]
  exact Nat.testBit_lt_two_pow (Nat.lt_of_lt_of_le h (Nat.pow_le_pow_right (by omega) hi))

theorem fieldWrite_lt {old mask lo w v : Nat} (h : old < 2 ^ 32) (hw : lo + w ≤ 32) :
    setFieldN (Nat.land old mask) lo w v < 2 ^ 32 :=
  setFieldN_lt32 (Nat.lt_of_le_of_lt Nat.and_le_left h) hw

/-- A field that can be read and written. -/
theorem M.merge_rwField (m : M) (r : Reg) (i j k v : Nat) {f : FieldSpec} (hf : f ∈ r.spec.fields) (ha : f.acc = .rw) :
    m.merge r i j k (setFieldN (Nat.land (m.rd r i j k).toNat r.rwMask) f.lo f.width v) =
      setFieldN (m.rd r i j k).toNat f.lo f.width v := by
  unfold M.merge
  apply Nat.eq_of_testBit_eq
  intro n
  rw [merge_testBit, fieldWrite_testBit, setFieldN_testBit]
  by_cases h : f.lo ≤ n ∧ n < f.lo + f.width
  · have : r.rwMask.testBit n = true := by unfold Reg.rwMask; rw [Reg.maskOf_field r _ hf h.1 h.2, ha]; rfl
    simp [h, this]
  · rw [if_neg h, if_neg h]
    cases r.rwMask.testBit n <;> simp

/-- A write-only field: the stored word stays. -/
theorem M.merge_woField (m : M) (r : Reg) (i j k v : Nat) {f : FieldSpec} (hf : f ∈ r.spec.fields) (ha : f.acc ≠ .rw) :
    m.merge r i j k (setFieldN (Nat.land (m.rd r i j k).toNat r.rwMask) f.lo f.width v) = (m.rd r i j k).toNat := by
  unfold M.merge
  apply Nat.eq_of_testBit_eq
  intro n
  rw [merge_testBit, fieldWrite_testBit]
  by_cases h : f.lo ≤ n ∧ n < f.lo + f.width
  · have : r.rwMask.testBit n = false := by unfold Reg.rwMask; rw [Reg.maskOf_field r _ hf h.1 h.2]; simp [ha]
    simp [this]
  · rw [if_neg h]
    cases r.rwMask.testBit n <;> simp

/-- Addresses outside the windows that hold members of commit groups. -/
def outsideGroups (a : Nat) : Bool :=
  !(decide (0x40138000 ≤ a) && decide (a < 0x4013C000)) && !(decide (0x40148000 ≤ a) && decide (a < 0x4014A800)) &&
  !(decide (0x4030 ≤ a / 0x10000) && decide (a / 0x10000 ≤ 0x4032))

theorem memberAt_none {a : Nat} (h : outsideGroups a = true) : memberAt a = none := by
  simp [outsideGroups] at h
  unfold memberAt
  rw [if_neg (by simp; omega), if_neg (by simp; omega), if_neg (by simp; omega), if_neg (by simp; omega), if_neg (by simp; omega)]

theorem setFieldN_self (n lo w : Nat) : setFieldN n lo w (fieldN n lo w) = n := by
  have h := fieldN_mul_le n lo w
  unfold setFieldN
  rw [Nat.mod_eq_of_lt (fieldN_lt n lo w)]; omega

/-- An ignored value written where it already stands. -/
theorem M.keepIf_self (m : M) (x : FRef) (i j k : Nat) (bad : Nat → Bool) :
    m.keepIf x i j k bad (m.rd x.reg i j k).toNat = (m.rd x.reg i j k).toNat := by
  unfold M.keepIf
  split
  · exact setFieldN_self _ _ _
  · rfl

/-- An accepted write of one field (see `writeBy_place`). -/
theorem fieldBy_place {s : State} {by_ : Master} {w : Who} {x : FRef} {v i j k : Nat} {g f : M → M}
    (ha : s.m.accepts by_ w (x.reg.addr i j k) true) (hp : placeAt (x.reg.addr i j k) = some ⟨x.reg, i, j, k⟩)
    (hc : commitOf x.reg i = none) (h1 : x.reg.w1cMask = 0) (hv : x.reg ≠ .ETH_VLAN) (hx : x.lo + x.width ≤ 32)
    (hs : ∀ e, M.EventsOnly s.m e →
      (if x.reg.rwMask == 0 then (false, e)
       else e.storeRw w x.reg i j k (setFieldN (Nat.land (s.m.rd x.reg i j k).toNat x.reg.rwMask) x.lo x.width v)) = (false, g e))
    (hf : ∀ e, M.EventsOnly s.m e →
      (g e).woEffect w x.reg i j k (setFieldN (Nat.land (s.m.rd x.reg i j k).toNat x.reg.rwMask) x.lo x.width v) = f e)
    (hw : ∀ e, M.EventsOnly s.m e → (f e).boot.wipes = s.m.boot.wipes) :
    s.accessTo (s.after (fieldBy (s.m, s.sram) by_ x v i j k)) f :=
  writeBy_place (p := ⟨x.reg, i, j, k⟩) ha hp hc h1 hv (fieldWrite_lt (s.m.rd x.reg i j k).isLt hx) hs hf hw

/-- A bit of a field that was written whole. -/
theorem tbit_setFieldN (old : Nat) {w v n : Nat} (hv : v < 2 ^ w) (hn : n < w) : tbit (setFieldN old 0 w v) n = tbit v n := by
  have h1 : fieldN (setFieldN old 0 w v) 0 w = v := by rw [fieldN_setFieldN, Nat.mod_eq_of_lt hv]
  have h2 : ∀ y, fieldN (fieldN y 0 w) n 1 = fieldN y n 1 := by
    intro y; apply fieldN_eq_of_testBit
    intro i _ _; rw [fieldN_testBit]; simp; omega
  have e := h2 (setFieldN old 0 w v)
  rw [h1] at e
  have e' : bitN (setFieldN old 0 w v) n = bitN v n := e.symm
  unfold tbit; rw [e']

theorem M.changesStopped_none (m : M) {r : Reg} (i j k v : Nat) (h : r.sMask = 0) : m.changesStopped r i j k v = false := by
  unfold M.changesStopped
  have z : ∀ n, Nat.land n 0 = 0 := Nat.and_zero
  rw [h, z, z]; rfl

theorem M.changesStopped_same (m : M) (r : Reg) (i j k : Nat) : m.changesStopped r i j k (m.rd r i j k).toNat = false := by
  unfold M.changesStopped; simp

/-- A store that nothing refuses puts the word in place. -/
theorem M.storeRw_place (m : M) (w : Who) (r : Reg) (i j k v x : Nat) (hx : m.takes w r i j k (m.merge r i j k v) = x)
    (hs : m.changesStopped r i j k x = false) (hm : memberAt (r.addr i j k) = none) (hr : (r == .EXE_TCFG) = false) :
    m.storeRw w r i j k v = (false, m.place w r i j k x) := by
  unfold M.storeRw
  simp only [hx, hs, M.memberArmed, hm, M.taskEnableRefused, hr, Option.any_none, Bool.or_self, Bool.false_and, Bool.false_eq_true, if_false]

end Sys2Proof.Machine
end

