-- ==== Sys2Proof/Laws/Update.lean ====
section
/-! SUPPORT. What telling others of a change leaves: notification checks, output frames, change records and events touch neither
the point entries nor a register outside their own windows. -/

namespace Sys2Proof.Machine

theorem side_of_event {x : Nat} (h : sideAddr x = false) : eventAddr x = false := by
  unfold sideAddr at h; simp only [Bool.or_eq_false_iff] at h; exact h.1.1

theorem M.UpdateOnly.refl (m : M) : M.UpdateOnly m m := ⟨rfl, fun _ _ => rfl, fun _ _ => rfl⟩

theorem M.UpdateOnly.trans {a b c : M} (h : M.UpdateOnly a b) (g : M.UpdateOnly b c) : M.UpdateOnly a c :=
  ⟨by have e := g.eq; rw [h.eq] at e; exact e, fun x hx => (g.regs x hx).trans (h.regs x hx),
   fun x hx => (g.effs x hx).trans (h.effs x hx)⟩

theorem M.UpdateOnly.of_access {a b : M} (h : M.AccessOnly a b) : M.UpdateOnly a b := by
  have f : b.effs = a.effs := by rw [h.eq]
  refine ⟨?_, fun x hx => h.regs x (side_of_event hx) ?_, fun x _ => by rw [f]⟩
  · have c : b.can = a.can := by rw [h.eq]
    have p : b.pts = a.pts := by rw [h.eq]
    have l : b.lio = a.lio := by rw [h.eq]
    rw [c, p, l, f]; exact h.eq
  · intro e; subst e; exact absurd hx (by decide)

theorem M.UpdateOnly.of_events {a b : M} (h : M.EventsOnly a b) : M.UpdateOnly a b := .of_access (.of_events h)

theorem M.UpdateOnly.rd {a b : M} (h : M.UpdateOnly a b) {r : Reg} {i j k : Nat} (hx : sideAddr (r.addr i j k) = false) :
    b.rd r i j k = a.rd r i j k := M.rd_congr (h.regs _ hx)

theorem M.UpdateOnly.get {a b : M} (h : M.UpdateOnly a b) {x : FRef} {i j k : Nat} (hx : sideAddr (x.reg.addr i j k) = false) :
    b.get x i j k = a.get x i j k := by unfold M.get; rw [h.rd hx]

theorem M.UpdateOnly.bit {a b : M} (h : M.UpdateOnly a b) {x : FRef} {i j k : Nat} (hx : sideAddr (x.reg.addr i j k) = false) :
    b.bit x i j k = a.bit x i j k := by unfold M.bit; rw [h.get hx]

theorem M.UpdateOnly.points {a b : M} (h : M.UpdateOnly a b) : b.pts.points = a.pts.points := by rw [h.eq]
theorem M.UpdateOnly.point {a b : M} (h : M.UpdateOnly a b) (id : Nat) : b.point id = a.point id := by
  unfold M.point; rw [h.points]
theorem M.UpdateOnly.forces {a b : M} (h : M.UpdateOnly a b) : b.pts.forces = a.pts.forces := by rw [h.eq]
theorem M.UpdateOnly.wipes {a b : M} (h : M.UpdateOnly a b) : b.boot.wipes = a.boot.wipes := by rw [h.eq]

/-- The same store of a register after what tells others. -/
theorem M.UpdateOnly.wr {a b : M} (h : M.UpdateOnly a b) (r : Reg) (v : Word) (i j k : Nat) :
    M.UpdateOnly (a.wr r v i j k) (b.wr r v i j k) := by
  refine ⟨?_, fun x hx => ?_, h.effs⟩
  · have := h.eq
    generalize b.regs = r1, b.ev = r2, b.frec = r3, b.tth = r4, b.out = r5, b.can = r6, b.pts.subs = r7, b.pts.notes = r8, b.krov.held = r9, b.effs = r10, b.lio.pwm = r11 at this
    subst this; rfl
  · rw [M.aget_wr, M.aget_wr, h.regs x hx]

theorem M.UpdateOnly.put {a b : M} (h : M.UpdateOnly a b) (x : FRef) (v i j k : Nat) (hx : sideAddr (x.reg.addr i j k) = false) :
    M.UpdateOnly (a.put x v i j k) (b.put x v i j k) := by
  rw [M.put_eq_wr, M.put_eq_wr, h.rd hx]; exact h.wr ..

theorem M.updateOnly_regs (m : M) (r : Reg) (v : Word) (i j k : Nat) (h : sideAddr (r.addr i j k) = true) :
    M.UpdateOnly m (m.wr r v i j k) :=
  ⟨rfl, fun x hx => (by rw [M.aget_wr, if_neg]; intro e; subst e; rw [h] at hx; cases hx), fun _ _ => rfl⟩

theorem M.updateOnly_ite {m a b : M} (c : Prop) [Decidable c] (ha : M.UpdateOnly m a) (hb : M.UpdateOnly m b) :
    M.UpdateOnly m (if c then a else b) := by split <;> assumption

theorem M.updateOnly_fold {α : Type} (l : List α) (f : M → α → M) (m : M) (h : ∀ a x, x ∈ l → M.UpdateOnly a (f a x)) :
    M.UpdateOnly m (l.foldl f m) := by
  induction l generalizing m with
  | nil => exact M.UpdateOnly.refl m
  | cons x t ih => exact (h m x List.mem_cons_self).trans (ih _ (fun a y hy => h a y (List.mem_cons_of_mem _ hy)))

theorem M.UpdateOnly.putB {a b : M} (h : M.UpdateOnly a b) (x : FRef) (v : Bool) (i j k : Nat)
    (hx : sideAddr (x.reg.addr i j k) = false) : M.UpdateOnly (a.putB x v i j k) (b.putB x v i j k) := h.put _ _ _ _ _ hx

/-- The same change of point space's other tables. -/
theorem M.UpdateOnly.withPts {a b : M} (h : M.UpdateOnly a b) (f : PointState → PointState)
    (hf : ∀ p su no, f { p with subs := su, notes := no } = { f p with subs := su, notes := no } := by intros; rfl) :
    M.UpdateOnly { a with pts := f a.pts } { b with pts := f b.pts } := by
  obtain ⟨h1, h2, h3⟩ := h
  refine ⟨?_, h2, h3⟩
  generalize b.regs = r1, b.ev = r2, b.frec = r3, b.tth = r4, b.out = r5, b.can = r6, b.pts.subs = r7, b.pts.notes = r8, b.krov.held = r9, b.effs = r10, b.lio.pwm = r11 at h1
  subst h1
  have e := hf a.pts r7 r8
  simp only [] at e ⊢
  rw [e]

/-! ### What counting events leaves of the directory's checks -/

theorem M.EventsOnly.bit {a b : M} (h : M.EventsOnly a b) {x : FRef} {i j k : Nat} (hx : eventAddr (x.reg.addr i j k) = false) :
    b.bit x i j k = a.bit x i j k := by unfold M.bit; rw [h.get hx]
theorem M.EventsOnly.bitOf {a b : M} (h : M.EventsOnly a b) {x : FRef} {n i j k : Nat}
    (hx : eventAddr (x.reg.addr i j k) = false) : b.bitOf x n i j k = a.bitOf x n i j k := by unfold M.bitOf; rw [h.get hx]
theorem M.EventsOnly.eff {a b : M} (h : M.EventsOnly a b) {x : FRef} {i j k : Nat} (hx : eventAddr (x.reg.addr i j k) = false) :
    b.eff x i j k = a.eff x i j k := by unfold M.eff M.effWord; rw [h.rd hx, h.fields.1]
theorem M.EventsOnly.point {a b : M} (h : M.EventsOnly a b) (id : Nat) : b.point id = a.point id := by rw [h.eq]; rfl
theorem M.EventsOnly.forceOf {a b : M} (h : M.EventsOnly a b) (id : Nat) : b.forceOf id = a.forceOf id := by rw [h.eq]; rfl
theorem M.EventsOnly.localCount {a b : M} (h : M.EventsOnly a b) : b.localCount = a.localCount := by rw [h.eq]; rfl
theorem M.EventsOnly.retainCount {a b : M} (h : M.EventsOnly a b) : b.retainCount = a.retainCount := by rw [h.eq]; rfl
theorem M.EventsOnly.shareList {a b : M} (h : M.EventsOnly a b) (n : Nat) : b.shareList n = a.shareList n := by rw [h.eq]; rfl
theorem M.EventsOnly.gate {a b : M} (h : M.EventsOnly a b) (w : Who) (k : PointAsk) (id : Nat) : b.gate w k id = a.gate w k id := by
  rw [h.eq]; rfl
theorem M.EventsOnly.executing {a b : M} (h : M.EventsOnly a b) : b.executing = a.executing := by
  unfold M.executing; rw [h.get (x := F.EXE_STAT_state) (by decide)]
theorem M.EventsOnly.meterOwner {a b : M} (h : M.EventsOnly a b) (p : PointRec) : b.meterOwner p = a.meterOwner p := by
  have h1 : ∀ n, b.eff F.MTR_C_TEN_tenant n = a.eff F.MTR_C_TEN_tenant n := by
    intro n; apply h.eff; simp [eventAddr, Reg.addr, Reg.spec]; omega
  have h2 : ∀ n, b.get F.MTR_MI_CFG_tenant n = a.get F.MTR_MI_CFG_tenant n := by
    intro n; apply h.get; simp [eventAddr, Reg.addr, Reg.spec]; omega
  unfold M.meterOwner; simp only [h1, h2]
theorem M.EventsOnly.entryValid {a b : M} (h : M.EventsOnly a b) (id : Nat) (p : PointRec) : b.entryValid id p = a.entryValid id p := by
  have e : b.outputTaken id p = a.outputTaken id p := by rw [h.eq]; rfl
  unfold M.entryValid; rw [h.meterOwner, e]; simp only [h.shareList]

theorem firstError_zero {l : List (Bool × Nat)} (h : ∀ p ∈ l, p.1 = false) : firstError l = 0 := by
  induction l with
  | nil => rfl
  | cons a t ih =>
    obtain ⟨b, c⟩ := a
    have h0 := h (b, c) List.mem_cons_self
    simp only [] at h0
    subst h0
    simp only [firstError]
    exact ih (fun p hp => h p (List.mem_cons_of_mem _ hp))

/-! ### Notifications -/

theorem M.updateOnly_queueNote (m : M) (s : Subscription) (it : NoteItem) (ab : Bool) : M.UpdateOnly m (m.queueNote s it ab) :=
  ⟨rfl, fun _ _ => rfl, fun _ _ => rfl⟩

theorem M.updateOnly_noteOne (m : M) (s : Subscription) : M.UpdateOnly m (m.noteOne s) := by
  unfold M.noteOne
  split
  · exact .refl m
  · split
    · split
      · exact .refl m
      · exact m.updateOnly_queueNote ..
    · split
      · exact .refl m
      · simp only []
        split
        · exact m.updateOnly_queueNote ..
        · split
          · exact m.updateOnly_queueNote ..
          · exact .refl m

theorem M.updateOnly_noteChecks (m : M) (id : Nat) : M.UpdateOnly m (m.noteChecks id) :=
  m.updateOnly_fold _ _ (fun a x _ => a.updateOnly_noteOne x)

/-! ### Output frames -/

/-- What a controller has to send changes the controllers alone. -/
theorem M.updateOnly_can (m : M) (c : List CanState) : M.UpdateOnly m { m with can := c } := ⟨rfl, fun _ _ => rfl, fun _ _ => rfl⟩

theorem M.updateOnly_canStart (m : M) (n : Nat) : M.UpdateOnly m (m.canStart n) := by
  unfold M.canStart
  dsimp only
  split
  · exact .refl m
  · split
    · exact .refl m
    · exact m.updateOnly_can _
    · exact m.updateOnly_can _
    · exact m.updateOnly_can _

theorem M.updateOnly_canSend (m : M) (b id : Nat) (d : Bytes) : M.UpdateOnly m (m.canSend b id d) := by
  unfold M.canSend
  split
  · exact .refl m
  · exact (m.updateOnly_can _).trans (M.updateOnly_canStart _ _)

theorem M.updateOnly_setStation (m : M) (b s : Nat) (st : Station) : M.UpdateOnly m (m.setStation b s st) := m.updateOnly_can _

theorem M.updateOnly_sendOut (m : M) (b s fl : Nat) (o : List (Nat × Word)) : M.UpdateOnly m (m.sendOut b s fl o) :=
  (m.updateOnly_setStation ..).trans (M.updateOnly_canSend _ _ _ _)

theorem M.updateOnly_outOnChange (m : M) (id : Nat) (p : PointRec) : M.UpdateOnly m (m.outOnChange id p) := by
  unfold M.outOnChange
  split
  · simp only []
    split
    · exact .refl m
    · exact m.updateOnly_sendOut _ _ _ _
  · exact .refl m

/-! ### Output lines -/

theorem aget_filter_ne {α : Type} (p : Nat × α → Bool) (x : Nat) (l : List (Nat × α)) (h : ∀ a ∈ l, a.1 = x → p a = true) :
    aget x (l.filter p) = aget x l := by
  induction l with
  | nil => rfl
  | cons a t ih =>
    have ih := ih (fun b hb => h b (List.mem_cons_of_mem _ hb))
    by_cases ha : p a = true
    · rw [List.filter_cons_of_pos ha]
      obtain ⟨i, v⟩ := a
      simp only [aget, ih]
    · rw [List.filter_cons_of_neg ha, ih]
      obtain ⟨i, v⟩ := a
      have hx : i ≠ x := fun e => ha (h (i, v) List.mem_cons_self e)
      simp [aget, hx]

/-- A period that begins takes the period register's effective word. -/
theorem M.updateOnly_pwmLoad (m : M) (n : Nat) (h : n < 16) : M.UpdateOnly m (m.pwmLoad n) := by
  refine ⟨rfl, fun _ _ => rfl, fun x hx => ?_⟩
  show aget x (m.effs.filter _) = _
  refine aget_filter_ne _ x m.effs (fun a _ e => ?_)
  have hn : ¬ Reg.LIO_PWM.addr n 0 0 = x := by
    intro e2
    have : pwmAddr x = true := by
      unfold pwmAddr; rw [List.any_eq_true]; exact ⟨n, List.mem_range.mpr h, by rw [e2]; simp⟩
    rw [this] at hx; cases hx
  simp [e]
  exact fun e3 => hn e3.symm

theorem M.updateOnly_pwmStill (m : M) (n : Nat) : M.UpdateOnly m (m.pwmStill n) := by
  unfold M.pwmStill
  split
  · next h =>
    simp only [Bool.and_eq_true, decide_eq_true_eq] at h
    exact m.updateOnly_pwmLoad n h.1.1.1
  · exact .refl m

theorem M.updateOnly_outputTakes (m : M) (id : Nat) (p : PointRec) : M.UpdateOnly m (m.outputTakes id p) := by
  unfold M.outputTakes
  split
  · exact m.updateOnly_pwmStill _
  · exact m.updateOnly_outOnChange _ _

theorem M.updateOnly_sendChange (m : M) (c : ChangeRec) : M.UpdateOnly m (m.sendChange c).2 := .of_access (m.accessOnly_tellPeer c)

/-- An entry that exists is replaced, and others are told. -/
theorem M.updateOnly_putEntry (m : M) (id : Nat) (p : PointRec) :
    M.UpdateOnly { m with pts := { m.pts with points := amod id (fun _ => p) m.pts.points } } (m.putEntry id p) :=
  (M.updateOnly_outputTakes _ id p).trans (M.updateOnly_noteChecks _ id)

/-! ### Events and records -/

theorem M.updateOnly_raise (m : M) (s : Nat) (h : s < 256) : M.UpdateOnly m (m.raise s) := .of_events (m.eventsOnly_raise s h)

theorem M.eventsOnly_recordItems (m : M) (c : Nat) (l : List RecItem) : M.EventsOnly m (m.recordItems c l) :=
  ⟨by have h := M.recordItems_eq m c l
      have e : (m.recordItems c l).ev = m.ev := by simp
      rw [e]; exact h, fun x hx => M.aget_recordItems m c x l hx⟩

theorem M.eventsOnly_logEntry (m : M) (c v t q : Nat) (b : Bytes) (k : Nat) : M.EventsOnly m (m.logEntry c v t q b k) :=
  ⟨by have h := M.logEntry_eq m c v t q b k
      have e : (m.logEntry c v t q b k).ev = m.ev := by simp
      rw [e]; exact h, fun x hx => M.aget_logEntry m c v t q x b k hx⟩

theorem M.eventsOnly_noteItems (m : M) (c v t : Nat) (l : List RecItem) : M.EventsOnly m (m.noteItems c v t l) :=
  (m.eventsOnly_recordItems c l).trans (M.eventsOnly_logEntry ..)

theorem M.eventsOnly_note (m : M) (c v t : Nat) (l : List Nat) : M.EventsOnly m (m.note c v t l) :=
  (m.eventsOnly_recordItems c _).trans (M.eventsOnly_logEntry ..)

theorem M.eventsOnly_recordOnly (m : M) (c : Nat) (l : List Nat) : M.EventsOnly m (m.recordOnly c l) := m.eventsOnly_recordItems c _

theorem M.updateOnly_note (m : M) (c v t : Nat) (l : List Nat) : M.UpdateOnly m (m.note c v t l) := .of_events (m.eventsOnly_note c v t l)
theorem M.updateOnly_noteItems (m : M) (c v t : Nat) (l : List RecItem) : M.UpdateOnly m (m.noteItems c v t l) :=
  .of_events (m.eventsOnly_noteItems c v t l)

/-- An access whose effect tells others. -/
theorem State.accessTo.update {s t : State} {f g : M → M} (h : s.accessTo t f)
    (hfg : ∀ e, M.EventsOnly s.m e → M.UpdateOnly (g e) (f e)) : s.updateTo t g := by
  obtain ⟨h1, h2, e, he, ha⟩ := h
  exact ⟨h1, h2, e, he, (hfg e he).trans (.of_access ha)⟩

/-- An accepted write of a command register whose effect tells others; what the claim names may depend on the events counted. -/
theorem wordBy_raw {s : State} {by_ : Master} {w : Who} {r : Reg} {v i j k : Nat}
    (ha : s.m.accepts by_ w (r.addr i j k) true) (hp : placeAt (r.addr i j k) = some ⟨r, i, j, k⟩) (hc : commitOf r i = none)
    (h0 : r.rwMask = 0) (h1 : r.w1cMask = 0) (hv : r ≠ .ETH_VLAN) (hl : v < 2 ^ 32)
    (hw : ∀ e, M.EventsOnly s.m e → (e.woEffect w r i j k v).boot.wipes = s.m.boot.wipes) :
    ∃ e, M.EventsOnly s.m e ∧ M.UpdateOnly (e.woEffect w r i j k v) (s.after (wordBy (s.m, s.sram) by_ r v i j k)).m ∧
      (s.after (wordBy (s.m, s.sram) by_ r v i j k)).sram = s.sram := by
  obtain ⟨_, h2, e, he, h⟩ := wordBy_command (f := fun e => e.woEffect w r i j k v) ha hp hc h0 h1 hv hl (fun _ _ => rfl) hw
  exact ⟨e, he, .of_access h, h2⟩

/-- A command without an access. -/
theorem State.updateTo_onM {s : State} {f g : M → M} (h : M.UpdateOnly (g s.m) (f s.m)) (hw : (g s.m).boot.wipes = s.m.boot.wipes) :
    s.updateTo (s.after (f s.m, s.sram)) g := by
  refine ⟨rfl, ?_, s.m, .refl _, h⟩
  show (if _ == _ then s.sram else []) = s.sram
  rw [show (f s.m, s.sram).1.boot.wipes = s.m.boot.wipes from h.wipes.trans hw]; simp

/-- The same change of state that tells no one. -/
theorem M.UpdateOnly.map {a b : M} (h : M.UpdateOnly a b) (f : M → M)
    (hf : ∀ (m : M) r e c t o n s k h x y,
      f { m with regs := r, ev := e, frec := c, tth := t, out := o, can := n, pts := { m.pts with subs := s, notes := k }, krov := { m.krov with held := h }, effs := x, lio := { m.lio with pwm := y } } =
      { f m with regs := r, ev := e, frec := c, tth := t, out := o, can := n, pts := { (f m).pts with subs := s, notes := k }, krov := { (f m).krov with held := h }, effs := x, lio := { (f m).lio with pwm := y } } := by intros; rfl)
    (hr : ∀ m, (f m).regs = m.regs ∧ (f m).effs = m.effs := by intros; exact ⟨rfl, rfl⟩) : M.UpdateOnly (f a) (f b) := by
  obtain ⟨h1, h2, h3⟩ := h
  refine ⟨?_, fun x hx => by rw [(hr _).1, (hr _).1]; exact h2 x hx, fun x hx => by rw [(hr _).2, (hr _).2]; exact h3 x hx⟩
  generalize b.regs = r, b.ev = e, b.frec = c, b.tth = t, b.out = o, b.can = n, b.pts.subs = s, b.pts.notes = k, b.krov.held = h,
    b.effs = x, b.lio.pwm = y at h1
  subst h1
  rw [hf]

end Sys2Proof.Machine
end

