-- ==== Sys2Proof/Laws/Exec.lean ====
section
/-! SUPPORT. From a command to what its operation leaves: `exec` of a command in range, on the block alone. -/

namespace Sys2Proof.Machine

/-- A command in range whose operation leaves the block at `t` and clears no host memory. -/
theorem exec_next {c : Instr} {s : State} {f : M → M} {t : M} (h : exec c s = s.onM c.wellFormed f) (hw : c.wellFormed = true)
    (hf : f s.m = t) (hb : t.boot.wipes = s.m.boot.wipes := by rfl) : exec c s = .next { s with m := t } :=
  h.trans (State.onM_next hw hf hb)

/-- A command in range, with what holds after it. -/
theorem exec_exists {c : Instr} {s : State} {f : M → M} {P : State → Prop} (h : exec c s = s.onM c.wellFormed f)
    (hw : c.wellFormed = true) (hp : P (s.after (f s.m, s.sram))) : ∃ t, exec c s = .next t ∧ P t := by
  rw [h]; exact State.onM_exists hw hp

/-- A command in range whose effect tells others. -/
theorem exec_update {c : Instr} {s : State} {f g : M → M} (h : exec c s = s.onM c.wellFormed f) (hw : c.wellFormed = true)
    (hu : M.UpdateOnly (g s.m) (f s.m)) (hb : (g s.m).boot.wipes = s.m.boot.wipes := by rfl) :
    ∃ t, exec c s = .next t ∧ s.updateTo t g := exec_exists h hw (State.updateTo_onM hu hb)

/-- A command in range, and what its operation leaves. -/
theorem exec_after {c : Instr} {s : State} {f : M → M} (h : exec c s = s.onM c.wellFormed f) (hw : c.wellFormed = true) :
    exec c s = .next (s.after (f s.m, s.sram)) := by rw [h, hw]; rfl

/-- A command in range that goes over the bus. -/
theorem exec_bus {c : Instr} {s : State} {f : M × Sram → M × Sram} (h : exec c s = s.onBus c.wellFormed f) (hw : c.wellFormed = true) :
    exec c s = .next (s.after (f (s.m, s.sram))) := by rw [h, hw]; rfl

end Sys2Proof.Machine
end

