-- ==== Sys2Proof/Laws/Read.lean ====
section
/-! SUPPORT. What an accepted read of a register does: the word it answers and what the reading changes. -/

namespace Sys2Proof.Machine

/-- An accepted 32-bit read of a register instance. -/
theorem readBy_effect {s : State} {by_ : Master} {w : Who} {p : Place} {v : Word} {f : M → M}
    (ha : s.m.accepts by_ w p.addr false) (hp : placeAt p.addr = some p)
    (hv : ∀ e, M.EventsOnly s.m e → e.view w p.reg p.i p.j p.k = v)
    (hf : ∀ e, M.EventsOnly s.m e → e.readEffect w p.reg p.i p.j p.k = f e)
    (hw : ∀ e, M.EventsOnly s.m e → (f e).boot.wipes = s.m.boot.wipes) :
    ∃ e, M.EventsOnly s.m e ∧ s.after (readBy (s.m, s.sram) by_ p.addr 4) =
      { s with m := (f e).emit (.readData w.ini p.addr v) } := by
  obtain ⟨n, d, hr⟩ := accepted_window ha hp
  obtain ⟨hwho, hbar, hview, href⟩ := ha
  let e := s.m.accessEvents w.ini false (inPoints p.addr) (!s.m.sees w (pointAt p.addr))
  have he : M.EventsOnly s.m e := M.eventsOnly_access ..
  have href' : e.refusal w p.addr 4 false = none := (he.refusal ..).trans href
  have hbus : busRead (e, s.sram) w p.addr 4 = (.ok v.toNat, (f e, s.sram)) := by
    unfold busRead
    simp [href', hr, hp, M.readReg, hv e he, hf e he]
  have hby : readBy (s.m, s.sram) by_ p.addr 4 = ((f e).emit (.readData w.ini p.addr v), s.sram) := by
    unfold readBy
    simp only [hwho, hbar]
    show (match busRead (e, s.sram) w p.addr 4 with
      | (.ok x, (m, s)) =>
        let m1 := m.emit (.readData w.ini p.addr (BitVec.ofNat 32 x))
        (if (4 : Nat) == 8 then m1.emit (.readData w.ini (p.addr + 4) (BitVec.ofNat 32 (x / 2 ^ 32))) else m1, s)
      | (.error _, c) => c) = _
    rw [hbus]
    simp
  refine ⟨e, he, ?_⟩
  rw [hby]
  exact State.after_same (hw e he)

/-- The same, as claims state it. -/
theorem readBy_access {s : State} {by_ : Master} {w : Who} {p : Place} {v : Word} {f : M → M}
    (ha : s.m.accepts by_ w p.addr false) (hp : placeAt p.addr = some p)
    (hv : ∀ e, M.EventsOnly s.m e → e.view w p.reg p.i p.j p.k = v)
    (hf : ∀ e, M.EventsOnly s.m e → e.readEffect w p.reg p.i p.j p.k = f e)
    (hw : ∀ e, M.EventsOnly s.m e → (f e).boot.wipes = s.m.boot.wipes)
    (ho : ∀ e, M.EventsOnly s.m e → (f e).out = s.m.out) :
    s.accessTo (s.after (readBy (s.m, s.sram) by_ p.addr 4)) f ∧
      (s.after (readBy (s.m, s.sram) by_ p.addr 4)).m.out = s.m.out ++ [.readData w.ini p.addr v] := by
  obtain ⟨e, he, h⟩ := readBy_effect ha hp hv hf hw
  rw [h]
  exact ⟨⟨rfl, rfl, e, he, M.accessOnly_emit _ _⟩, by show _ ++ _ = _; rw [ho e he]⟩

end Sys2Proof.Machine
end

