-- ==== Sys2Proof/Laws/Does.lean ====
section
/-! SUPPORT. Commands that write or read a register, as claims state them: what the access does, and that the command answers a
next state. -/

namespace Sys2Proof.Machine

/-- An accepted 32-bit write of a register instance leaves what `writeReg` leaves, and its answer. -/
theorem writeBy_any {s : State} {by_ : Master} {w : Who} {p : Place} {v : Nat} {x : M → M} (ha : s.m.accepts by_ w p.addr true)
    (hp : placeAt p.addr = some p) (hl : v < 2 ^ 32) (h : ∀ e, M.EventsOnly s.m e → e.writeReg w p v = some (x e)) :
    ∃ e, M.EventsOnly s.m e ∧ writeBy (s.m, s.sram) by_ p.addr 4 v = ((x e).answerWrite s.m w.ini p.addr, s.sram) := by
  obtain ⟨n, d, hr⟩ := accepted_window ha hp
  obtain ⟨hwho, hbar, hview, href⟩ := ha
  let e := s.m.accessEvents w.ini true (inPoints p.addr) (!s.m.sees w (pointAt p.addr))
  have he : M.EventsOnly s.m e := M.eventsOnly_access ..
  have href' : e.refusal w p.addr 4 true = none := (he.refusal ..).trans href
  have hbus : busWrite (e, s.sram) w p.addr 4 v = (none, (x e, s.sram)) := by
    unfold busWrite
    simp [href', hr, M.writeWord, hp, (show v % 4294967296 = v from Nat.mod_eq_of_lt hl), h e he]
  refine ⟨e, he, ?_⟩
  unfold writeBy
  simp only [hwho, hbar, hview rfl]
  show (match busWrite (e, s.sram) w p.addr 4 v with
    | (none, (m, t)) => (m.answerWrite s.m w.ini p.addr, t)
    | (some _, c) => c) = _
  rw [hbus]

/-- A command that writes a register instance. -/
theorem does_any {s : State} {c : Instr} {by_ : Master} {w : Who} {r : Reg} {v i j k : Nat} {x f : M → M}
    (hc : exec c s = s.onBus c.wellFormed (fun b => writeBy b by_ (r.addr i j k) 4 v)) (hwf : c.wellFormed = true)
    (ha : s.m.accepts by_ w (r.addr i j k) true) (hp : placeAt (r.addr i j k) = some ⟨r, i, j, k⟩) (hl : v < 2 ^ 32)
    (h : ∀ e, M.EventsOnly s.m e → e.writeReg w ⟨r, i, j, k⟩ v = some (x e) ∧ M.AccessOnly (f e) (x e)) : s.does c f := by
  obtain ⟨e, he, hb⟩ := writeBy_any (p := ⟨r, i, j, k⟩) ha hp hl (fun e he => (h e he).1)
  refine ⟨e, _, he, (h e he).2.trans (M.accessOnly_answerWrite _ s.m w.ini (r.addr i j k)), ?_⟩
  refine (exec_bus hc hwf).trans ?_
  show Host.Outcome.next (s.after (writeBy _ _ (Place.addr ⟨r, i, j, k⟩) _ _)) = _
  rw [hb]
  rfl

/-- A command that writes a register whose write-only fields act (no RW and W1C fields, no commit). -/
theorem does_command {s : State} {c : Instr} {by_ : Master} {w : Who} {r : Reg} {v i j k : Nat} {f : M → M}
    (hc : exec c s = s.onBus c.wellFormed (fun b => wordBy b by_ r v i j k)) (hwf : c.wellFormed = true)
    (ha : s.m.accepts by_ w (r.addr i j k) true) (hp : placeAt (r.addr i j k) = some ⟨r, i, j, k⟩) (hcm : commitOf r i = none)
    (h0 : r.rwMask = 0) (h1 : r.w1cMask = 0) (hv : r ≠ .ETH_VLAN) (hl : v < 2 ^ 32)
    (hf : ∀ e, M.EventsOnly s.m e → e.woEffect w r i j k v = f e) : s.does c f :=
  does_any hc hwf ha hp hl (fun e he => ⟨M.writeReg_effect (g := e) hcm h1 hv (by simp [h0]) (hf e he), M.accessOnly_runningChange ..⟩)

/-- A command that writes one field of a register, the others as they stand. -/
theorem does_field {s : State} {c : Instr} {by_ : Master} {w : Who} {x : FRef} {v i j k : Nat} {g f : M → M}
    (hc : exec c s = s.onBus c.wellFormed (fun b => fieldBy b by_ x v i j k)) (hwf : c.wellFormed = true)
    (ha : s.m.accepts by_ w (x.reg.addr i j k) true) (hp : placeAt (x.reg.addr i j k) = some ⟨x.reg, i, j, k⟩)
    (hcm : commitOf x.reg i = none) (h1 : x.reg.w1cMask = 0) (hv : x.reg ≠ .ETH_VLAN) (hx : x.lo + x.width ≤ 32)
    (hs : ∀ e, M.EventsOnly s.m e →
      (if x.reg.rwMask == 0 then (false, e)
       else e.storeRw w x.reg i j k (setFieldN (Nat.land (s.m.rd x.reg i j k).toNat x.reg.rwMask) x.lo x.width v)) = (false, g e))
    (hf : ∀ e, M.EventsOnly s.m e →
      (g e).woEffect w x.reg i j k (setFieldN (Nat.land (s.m.rd x.reg i j k).toNat x.reg.rwMask) x.lo x.width v) = f e) :
    s.does c f := by
  have hc' : exec c s = s.onBus c.wellFormed (fun b => writeBy b by_ (x.reg.addr i j k) 4
      (setFieldN (Nat.land (s.m.rd x.reg i j k).toNat x.reg.rwMask) x.lo x.width v)) := by
    rw [hc]; unfold State.onBus fieldBy; simp only []
  exact does_any hc' hwf ha hp (fieldWrite_lt (s.m.rd x.reg i j k).isLt hx)
    (fun e he => ⟨M.writeReg_effect hcm h1 hv (hs e he) (hf e he), M.accessOnly_runningChange ..⟩)

/-- A command that writes a commit register. -/
theorem does_commit {s : State} {c : Instr} {by_ : Master} {w : Who} {r : Reg} {v i j k : Nat} {b : CommitBlock}
    (hc : exec c s = s.onBus c.wellFormed (fun b => wordBy b by_ r v i j k)) (hwf : c.wellFormed = true)
    (ha : s.m.accepts by_ w (r.addr i j k) true) (hp : placeAt (r.addr i j k) = some ⟨r, i, j, k⟩) (hcm : commitOf r i = some b)
    (hl : v < 2 ^ 32) : s.does c (fun e => e.commitWrite b v) :=
  does_any hc hwf ha hp hl (fun e _ => ⟨by unfold M.writeReg; simp only [hcm], M.AccessOnly.refl _⟩)

/-- A command that reads a register instance. -/
theorem does_read {s : State} {c : Instr} {by_ : Master} {w : Who} {r : Reg} {i j k : Nat} {v : Word} {f : M → M}
    (hc : exec c s = s.onBus c.wellFormed (fun b => readBy b by_ (r.addr i j k) 4)) (hwf : c.wellFormed = true)
    (ha : s.m.accepts by_ w (r.addr i j k) false) (hp : placeAt (r.addr i j k) = some ⟨r, i, j, k⟩)
    (hv : ∀ e, M.EventsOnly s.m e → e.view w r i j k = v)
    (hf : ∀ e, M.EventsOnly s.m e → e.readEffect w r i j k = f e)
    (hw : ∀ e, M.EventsOnly s.m e → (f e).boot.wipes = s.m.boot.wipes) :
    ∃ t, exec c s = .next t ∧ s.accessTo t f ∧ ∃ e, M.EventsOnly s.m e ∧
      t = { s with m := (f e).emit (.readData w.ini (r.addr i j k) v) } := by
  obtain ⟨e, he, h⟩ := readBy_effect (p := ⟨r, i, j, k⟩) ha hp hv hf hw
  exact ⟨_, (exec_bus hc hwf).trans (congrArg Host.Outcome.next h), ⟨rfl, rfl, e, he, M.accessOnly_emit _ _⟩, e, he, rfl⟩

/-- A field outside the stop-class bits leaves them. -/
theorem M.changesStopped_field (m : M) {r : Reg} (i j k v : Nat) {lo w : Nat} (h : ∀ n, lo ≤ n → n < lo + w → r.sMask.testBit n = false) :
    m.changesStopped r i j k (setFieldN (m.rd r i j k).toNat lo w v) = false := by
  unfold M.changesStopped
  have : Nat.land (m.rd r i j k).toNat r.sMask = Nat.land (setFieldN (m.rd r i j k).toNat lo w v) r.sMask := by
    apply Nat.eq_of_testBit_eq
    intro n
    show ((m.rd r i j k).toNat &&& r.sMask).testBit n = (setFieldN (m.rd r i j k).toNat lo w v &&& r.sMask).testBit n
    rw [Nat.testBit_and, Nat.testBit_and, setFieldN_testBit]
    by_cases hn : lo ≤ n ∧ n < lo + w
    · rw [if_pos hn, h n hn.1 hn.2]; simp
    · rw [if_neg hn]
  rw [this]; simp

/-- A command that writes one RW field of a register; what the write does with the register's word is `M.place`. -/
theorem does_place {s : State} {c : Instr} {by_ : Master} {w : Who} {x : FRef} {v i j k : Nat} {f : M → M} (r : Reg)
    (hc : exec c s = s.onBus c.wellFormed (fun b => fieldBy b by_ x v i j k)) (hwf : c.wellFormed = true) (hxr : x.reg = r)
    (ha : s.m.accepts by_ w (r.addr i j k) true) (hp : placeAt (r.addr i j k) = some ⟨r, i, j, k⟩) (hm : memberAt (r.addr i j k) = none)
    (hcm : commitOf r i = none) (h0 : (r.rwMask == 0) = false) (h1 : r.w1cMask = 0) (hv : r ≠ .ETH_VLAN) (hr : (r == .EXE_TCFG) = false) (hx : x.lo + x.width ≤ 32)
    (hfld : (r.spec.fields.any (fun g => g.acc == .rw && g.lo == x.lo && g.width == x.width)) = true)
    (hst : ∀ n, x.lo ≤ n → n < x.lo + x.width → r.sMask.testBit n = false)
    (hb : eventAddr (r.addr i j k) = false) (ht : ∀ (e : M) y, e.takes w r i j k y = y) (hwo : ∀ (e : M) y, e.woEffect w r i j k y = e)
    (hf : ∀ e, M.EventsOnly s.m e → e.place w r i j k (setFieldN (e.rd r i j k).toNat x.lo x.width v) = f e) : s.does c f := by
  subst hxr
  refine does_field (g := f) hc hwf ha hp hcm h1 hv hx (fun e he => ?_) (fun e he => hwo _ _)
  have hrd : s.m.rd x.reg i j k = e.rd x.reg i j k := (he.rd hb).symm
  rw [hrd, if_neg (by rw [h0]; exact Bool.false_ne_true)]
  rw [List.any_eq_true] at hfld
  obtain ⟨g, hg, hq⟩ := hfld
  simp only [Bool.and_eq_true, beq_iff_eq] at hq
  have hmg := M.merge_rwField e x.reg i j k v hg hq.1.1
  rw [hq.1.2, hq.2] at hmg
  rw [← hf e he]
  exact e.storeRw_place w x.reg i j k _ _ (by rw [hmg, ht]) (M.changesStopped_field e i j k v hst) hm hr

/-- A command that writes a whole register of RW fields none of which waits for a stop. -/
theorem does_place_word {s : State} {c : Instr} {by_ : Master} {w : Who} {r : Reg} {v i j k : Nat} {f : M → M}
    (hc : exec c s = s.onBus c.wellFormed (fun b => wordBy b by_ r v i j k)) (hwf : c.wellFormed = true)
    (ha : s.m.accepts by_ w (r.addr i j k) true) (hp : placeAt (r.addr i j k) = some ⟨r, i, j, k⟩) (hm : memberAt (r.addr i j k) = none)
    (hcm : commitOf r i = none) (h0 : (r.rwMask == 0) = false) (h1 : r.w1cMask = 0) (hv : r ≠ .ETH_VLAN) (hr : (r == .EXE_TCFG) = false)
    (hs : r.sMask = 0) (hl : v < 2 ^ 32) (ht : ∀ (e : M) y, e.takes w r i j k y = y) (hwo : ∀ (e : M) y, e.woEffect w r i j k y = e)
    (hf : ∀ e, M.EventsOnly s.m e → e.place w r i j k (e.merge r i j k v) = f e) : s.does c f := by
  refine does_any (x := fun e => (f e).runningChange r (r.addr i j k) v) hc hwf ha hp hl
    (fun e he => ⟨M.writeReg_effect (p := ⟨r, i, j, k⟩) (g := f e) hcm h1 hv ?_ (hwo _ _), M.accessOnly_runningChange ..⟩)
  refine (if_neg (by show ¬ ((r.rwMask == 0) = true); rw [h0]; exact Bool.false_ne_true)).trans ?_
  refine (e.storeRw_place w r i j k v _ rfl (M.changesStopped_none _ _ _ _ _ hs) hm hr).trans ?_
  rw [ht]
  exact congrArg (Prod.mk false) (hf e he)

end Sys2Proof.Machine
end

