-- ==== Sys2Proof/Laws/Fabric.lean ====
section
/-! SUPPORT. The fabric's operations: what each leaves of a quadrant, and what else it may change (chapter 3). -/

namespace Sys2Proof.Machine

/-! ### Lists and quadrants -/

theorem FabricState.inQuad_inQuad (f : FabricState) (q : Nat) (g h : Quadrant → Quadrant) :
    (f.inQuad q g).inQuad q h = f.inQuad q (fun x => h (g x)) := by
  unfold FabricState.inQuad listMod
  simp only [List.modify_modify_eq]
  rfl

theorem FabricState.inQuad_congr {f : FabricState} {q : Nat} {g h : Quadrant → Quadrant}
    (e : ∀ x, f.quads[q]? = some x → g x = h x) : f.inQuad q g = f.inQuad q h := by
  unfold FabricState.inQuad listMod
  congr 1
  apply List.ext_getElem?
  intro i
  simp only [List.getElem?_modify]
  split
  · subst i; cases hq : f.quads[q]? with
    | none => rfl
    | some x => simp [e x hq]
  · rfl

theorem FabricState.inQuad_get (f : FabricState) (q : Nat) (g : Quadrant → Quadrant) :
    (f.inQuad q g).quads[q]? = (f.quads[q]?).map g := by
  unfold FabricState.inQuad listMod; simp

theorem FabricState.inQuad_self {f : FabricState} {q : Nat} {g : Quadrant → Quadrant}
    (e : ∀ x, f.quads[q]? = some x → g x = x) : f.inQuad q g = f := by
  rw [FabricState.inQuad_congr (h := fun x => x) e]
  unfold FabricState.inQuad listMod
  have : f.quads.modify q (fun x => x) = f.quads := by
    apply List.ext_getElem?; intro i; simp only [List.getElem?_modify]; split <;> simp
  rw [this]

theorem amod_amod_const {α : Type} (c : Nat) (a b : α) (l : List (Nat × α)) :
    amod c (fun _ => a) (amod c (fun _ => b) l) = amod c (fun _ => a) l := by
  unfold amod; rw [List.map_map]; apply List.map_congr_left
  intro p _; simp only [Function.comp]; split <;> simp_all

/-! ### What a firing may change besides the fabric -/

theorem fabricAddr_side {x : Nat} (h : fabricAddr x = false) : sideAddr x = false := by
  unfold fabricAddr at h; simp only [Bool.or_eq_false_iff] at h; exact h.1

theorem M.FabricOnly.refl (m : M) : M.FabricOnly m m := ⟨rfl, fun _ _ => rfl, fun _ _ => rfl, fun _ _ => rfl⟩

theorem M.FabricOnly.trans {a b c : M} (h : M.FabricOnly a b) (g : M.FabricOnly b c) : M.FabricOnly a c :=
  ⟨by have e := g.eq; rw [h.eq] at e; exact e, fun x hx => (g.regs x hx).trans (h.regs x hx),
   fun x hx => (g.effs x hx).trans (h.effs x hx), fun id hid => by
    have e := h.points id hid
    refine (g.points id (fun x hx hk => ?_)).trans e
    have : x ∈ b.pts.points.filter (fun x => x.1 == id) := by simp [List.mem_filter, hx, hk]
    rw [e] at this
    exact hid x (List.mem_filter.mp this).1 hk⟩

theorem M.FabricOnly.of_update {a b : M} (h : M.UpdateOnly a b) : M.FabricOnly a b := by
  refine ⟨?_, fun x hx => h.regs x (fabricAddr_side hx), h.effs, fun id _ => by rw [h.points]⟩
  have e1 : b.fab = a.fab := by rw [h.eq]
  have e2 : b.pts.points = a.pts.points := h.points
  have e3 : b.pts.forces = a.pts.forces := h.forces
  rw [e1, e2, e3]; exact h.eq

theorem M.FabricOnly.of_events {a b : M} (h : M.EventsOnly a b) : M.FabricOnly a b := .of_update (.of_events h)

theorem M.fabricOnly_fab (m : M) (f : FabricState) : M.FabricOnly m { m with fab := f } := ⟨rfl, fun _ _ => rfl, fun _ _ => rfl, fun _ _ => rfl⟩

theorem M.FabricOnly.time {a b : M} (h : M.FabricOnly a b) : b.time = a.time := by rw [h.eq]
theorem M.FabricOnly.exe {a b : M} (h : M.FabricOnly a b) : b.exe = a.exe := by rw [h.eq]
theorem M.FabricOnly.wipes {a b : M} (h : M.FabricOnly a b) : b.boot.wipes = a.boot.wipes := by rw [h.eq]
theorem M.FabricOnly.unitWave {a b : M} (h : M.FabricOnly a b) (u : Nat) : b.unitWave u = a.unitWave u := by
  unfold M.unitWave; rw [h.exe]

theorem M.UpdateOnly.fab {a b : M} (h : M.UpdateOnly a b) : b.fab = a.fab := by rw [h.eq]
theorem M.EventsOnly.fab {a b : M} (h : M.EventsOnly a b) : b.fab = a.fab := by rw [h.eq]

theorem M.fabricOnly_wr (m : M) (r : Reg) (v : Word) (i j k : Nat) (h : fabricAddr (r.addr i j k) = true) :
    M.FabricOnly m (m.wr r v i j k) :=
  ⟨rfl, fun x hx => (by rw [M.aget_wr, if_neg]; intro e; subst e; rw [h] at hx; cases hx), fun _ _ => rfl, fun _ _ => rfl⟩

theorem M.fabricOnly_put (m : M) (x : FRef) (v i j k : Nat) (h : fabricAddr (x.reg.addr i j k) = true) :
    M.FabricOnly m (m.put x v i j k) := by rw [M.put_eq_wr]; exact m.fabricOnly_wr _ _ _ _ _ h

/-! ### Points behind cell registers -/

/-- `b` differs from `a` at most in the entries of points in a set, in the forces and in what tells others. -/
structure M.PointsTold (p : Nat → Prop) (a b : M) : Prop where
  eq : b = { a with regs := b.regs, effs := b.effs, ev := b.ev, frec := b.frec, tth := b.tth, out := b.out, can := b.can,
                    lio := { a.lio with pwm := b.lio.pwm }, krov := { a.krov with held := b.krov.held }
                    pts := { a.pts with points := b.pts.points, forces := b.pts.forces, subs := b.pts.subs, notes := b.pts.notes } }
  regs : ∀ x, sideAddr x = false → aget x b.regs = aget x a.regs
  effs : ∀ x, pwmAddr x = false → aget x b.effs = aget x a.effs
  points : ∀ id, ¬ p id → b.pts.points.filter (fun x => x.1 == id) = a.pts.points.filter (fun x => x.1 == id)

theorem M.PointsTold.refl (p : Nat → Prop) (m : M) : M.PointsTold p m m := ⟨rfl, fun _ _ => rfl, fun _ _ => rfl, fun _ _ => rfl⟩

theorem M.PointsTold.trans {p : Nat → Prop} {a b c : M} (h : M.PointsTold p a b) (g : M.PointsTold p b c) : M.PointsTold p a c :=
  ⟨by have e := g.eq; rw [h.eq] at e; exact e, fun x hx => (g.regs x hx).trans (h.regs x hx),
   fun x hx => (g.effs x hx).trans (h.effs x hx), fun id hid => (g.points id hid).trans (h.points id hid)⟩

theorem M.PointsTold.fab {p : Nat → Prop} {a b : M} (h : M.PointsTold p a b) : b.fab = a.fab := by rw [h.eq]

theorem M.PointsTold.of_update {p : Nat → Prop} {a b : M} (h : M.UpdateOnly a b) : M.PointsTold p a b := by
  refine ⟨?_, h.regs, h.effs, fun id _ => by rw [h.points]⟩
  have e2 : b.pts.points = a.pts.points := h.points
  have e3 : b.pts.forces = a.pts.forces := h.forces
  rw [e2, e3]; exact h.eq

theorem filter_amod_ne {α : Type} {j id : Nat} (h : j ≠ id) (v : α) (l : List (Nat × α)) :
    (amod id (fun _ => v) l).filter (fun x => x.1 == j) = l.filter (fun x => x.1 == j) := by
  unfold amod
  induction l with
  | nil => rfl
  | cons a t ih =>
    simp only [List.map_cons, List.filter_cons, ih]
    by_cases ha : a.1 = id
    · subst ha; simp [h.symm]
    · simp [ha]

theorem M.pointsTold_putEntry {s : Nat → Prop} (m : M) (id : Nat) (p : PointRec) (hk : s id) : M.PointsTold s m (m.putEntry id p) := by
  refine M.PointsTold.trans (b := { m with pts := { m.pts with points := amod id (fun _ => p) m.pts.points } }) ?_
    (.of_update (m.updateOnly_putEntry id p))
  refine ⟨rfl, fun _ _ => rfl, fun _ _ => rfl, fun j hj => ?_⟩
  exact filter_amod_ne (fun e => hj (by rw [e]; exact hk)) _ _

theorem M.pointsTold_backingUpdate {s : Nat → Prop} (m : M) (id : Nat) (v : Word) (st : Nat) (hk : s id) :
    M.PointsTold s m (m.backingUpdate id v st) := by
  unfold M.backingUpdate
  split
  · exact .refl s m
  · rename_i p _
    dsimp only
    split
    · rename_i i f _
      refine M.PointsTold.trans (b := if p.dir == 0 then
        ({ m with pts := { m.pts with forces := aput i { f with requested := keepKind p.kind v, reqAge := 0 } m.pts.forces } } : M)
        else m) ?_ (M.pointsTold_putEntry _ id _ hk)
      split
      · exact ⟨rfl, fun _ _ => rfl, fun _ _ => rfl, fun _ _ => rfl⟩
      · exact .refl s m
    · exact m.pointsTold_putEntry id _ hk

theorem M.pointsTold_fold {s : Nat → Prop} {α : Type} (l : List α) (f : M → α → M) (m : M)
    (h : ∀ a x, x ∈ l → M.PointsTold s a (f a x)) : M.PointsTold s m (l.foldl f m) := by
  induction l generalizing m with
  | nil => exact .refl s m
  | cons x t ih => exact (h m x (by simp)).trans (ih _ (fun a y hy => h a y (by simp [hy])))

/-- Points of a backing are updated; no other point is. -/
theorem M.pointsTold_backedUpdate (m : M) (backing ref : Nat) (v : Word) (st : Nat) :
    M.PointsTold (fun id => ∃ x ∈ m.pts.points, x.1 = id ∧ x.2.backing = backing) m (m.backedUpdate backing ref v st) := by
  refine M.pointsTold_fold _ _ m (fun a x hx => a.pointsTold_backingUpdate _ _ _ ?_)
  unfold M.backed at hx
  simp only [List.mem_filter, Bool.and_eq_true, beq_iff_eq] at hx
  exact ⟨x, hx.1, rfl, hx.2.1⟩

theorem M.PointsTold.fabricOnly {a b : M} (h : M.PointsTold (fun id => ∃ x ∈ a.pts.points, x.1 = id ∧ x.2.backing = 1) a b) :
    M.FabricOnly a b := by
  refine ⟨?_, fun x hx => h.regs x (fabricAddr_side hx), h.effs, fun id hid => h.points id (fun ⟨x, h1, h2, h3⟩ => hid x h1 h2 h3)⟩
  rw [h.fab]; exact h.eq

theorem M.fabricOnly_backedUpdate (m : M) (ref : Nat) (v : Word) (st : Nat) : M.FabricOnly m (m.backedUpdate 1 ref v st) :=
  (m.pointsTold_backedUpdate 1 ref v st).fabricOnly
theorem M.fab_backedUpdate (m : M) (b ref : Nat) (v : Word) (st : Nat) : (m.backedUpdate b ref v st).fab = m.fab :=
  (m.pointsTold_backedUpdate b ref v st).fab

/-! ### A quadrant changed -/

/-- From `a` to `b` a quadrant changed, and nothing but what follows from that. -/
def M.QuadTo (a b : M) (q : Nat) (g : Quadrant → Quadrant) : Prop := b.fab = a.fab.inQuad q g ∧ M.FabricOnly a b

theorem M.QuadTo.refl (m : M) (q : Nat) : M.QuadTo m m q (fun x => x) := ⟨(FabricState.inQuad_self (fun _ _ => rfl)).symm, .refl m⟩

theorem M.QuadTo.trans {a b c : M} {q : Nat} {g h : Quadrant → Quadrant} (x : M.QuadTo a b q g) (y : M.QuadTo b c q h) :
    M.QuadTo a c q (fun z => h (g z)) := ⟨by rw [y.1, x.1, FabricState.inQuad_inQuad], x.2.trans y.2⟩

theorem M.QuadTo.told {a b c : M} {q : Nat} {g : Quadrant → Quadrant} (x : M.QuadTo a b q g) (y : M.FabricOnly b c) (e : c.fab = b.fab) :
    M.QuadTo a c q g := ⟨by rw [e, x.1], x.2.trans y⟩

theorem M.QuadTo.events {a b c : M} {q : Nat} {g : Quadrant → Quadrant} (x : M.QuadTo a b q g) (y : M.EventsOnly b c) :
    M.QuadTo a c q g := x.told (.of_events y) y.fab

theorem M.QuadTo.eventsIf {a b c : M} {q : Nat} {g : Quadrant → Quadrant} (x : M.QuadTo a b q g) (p : Prop) [Decidable p]
    (y : M.EventsOnly b c) : M.QuadTo a (if p then c else b) q g := by
  split
  · exact x.events y
  · exact x

theorem M.QuadTo.congr {a b : M} {q : Nat} {g h : Quadrant → Quadrant} (x : M.QuadTo a b q g)
    (e : ∀ z, a.fab.quads[q]? = some z → g z = h z) : M.QuadTo a b q h := ⟨x.1.trans (FabricState.inQuad_congr e), x.2⟩

theorem M.QuadTo.get {a b : M} {q : Nat} {g : Quadrant → Quadrant} (x : M.QuadTo a b q g) :
    b.fab.quads[q]? = (a.fab.quads[q]?).map g := by rw [x.1, FabricState.inQuad_get]

theorem M.QuadTo.fabricTo {s : State} {b : M} {q : Nat} {g : Quadrant → Quadrant} (x : M.QuadTo s.m b q g) :
    s.fabricTo { s with m := b } q g := ⟨rfl, rfl, x⟩

theorem M.quadTo_modQuad (m : M) (q : Nat) (g : Quadrant → Quadrant) : M.QuadTo m (m.modQuad q g) q g :=
  ⟨rfl, m.fabricOnly_fab _⟩

theorem M.quadTo_setCell (m : M) (q c : Nat) (cl : Cell) :
    M.QuadTo m (m.setCell q c cl) q (fun x => { x with cells := amod c (fun _ => cl) x.cells }) := ⟨rfl, m.fabricOnly_fab _⟩

theorem M.eventsOnly_fabricEvent (m : M) (code q : Nat) (u : Option Nat) : M.EventsOnly m (m.fabricEvent code q u) := by
  unfold M.fabricEvent
  exact M.eventsOnly_countEvent m 2 1 _ (by decide)

theorem hwm_fabric (q : Nat) (hq : q < 4) : fabricAddr (Reg.FAB_QSTAT.addr q 0 0) = true :=
  match q, hq with
  | 0, _ | 1, _ | 2, _ | 3, _ => by decide

theorem M.fabricOnly_markHigh (m : M) (q : Nat) (hq : q < 4) : M.FabricOnly m (m.markHigh q) :=
  m.fabricOnly_put _ _ _ _ _ (hwm_fabric q hq)
theorem M.fab_markHigh (m : M) (q : Nat) : (m.markHigh q).fab = m.fab := rfl

theorem M.quadTo_sendKind (m : M) (q cell out link kind : Nat) (v : Word) (u w : Nat) (hq : q < 4) :
    M.QuadTo m (m.send q cell out link kind v u w) q (fun x => { x with
      flight := x.flight ++ kindToken cell out link kind v u w
      lastFire := if tbit link 15 && x.held == 0 then m.time.tb else x.lastFire }) := by
  by_cases h : tbit link 15 = true
  · have e : m.send q cell out link kind v u w = M.markHigh (m.modQuad q (fun x => { x with
        flight := x.flight ++ kindToken cell out link kind v u w
        lastFire := if tbit link 15 && x.held == 0 then m.time.tb else x.lastFire })) q := by
      unfold M.send kindToken; simp only [h, Bool.not_true, Bool.false_eq_true, if_false, if_true, Bool.true_and]
    rw [e]
    exact (m.quadTo_modQuad q _).told (M.fabricOnly_markHigh _ q hq) (M.fab_markHigh _ q)
  · have e : m.send q cell out link kind v u w = m := by
      unfold M.send; simp [h]
    rw [e]
    exact (M.QuadTo.refl m q).congr (fun z _ => by unfold kindToken; simp [h])

theorem M.quadTo_send (m : M) (q cell out link : Nat) (v : Word) (u w : Nat) (hq : q < 4) :
    M.QuadTo m (m.send q cell out link (sentKind link) v u w) q (fun x => { x with
      flight := x.flight ++ linkToken cell out link v u w
      lastFire := if tbit link 15 && x.held == 0 then m.time.tb else x.lastFire }) := m.quadTo_sendKind q cell out link _ v u w hq

/-! ### Cells -/

theorem M.cell_quad {m : M} {q c : Nat} {cl : Cell} (h : m.cell q c = some cl) :
    ∃ x, m.fab.quads[q]? = some x ∧ aget c x.cells = some cl ∧ m.quad q = x := by
  unfold M.cell at h
  cases hq : m.fab.quads[q]? with
  | none => simp [hq] at h
  | some x => simp only [hq, Option.bind] at h; exact ⟨x, rfl, h, by unfold M.quad; rw [hq]; rfl⟩

theorem M.cell_congr {a b : M} (h : b.fab = a.fab) (q c : Nat) : b.cell q c = a.cell q c := by unfold M.cell; rw [h]

/-- The cell of a quadrant that changed. -/
theorem M.QuadTo.cell {a b : M} {q : Nat} {g : Quadrant → Quadrant} (x : M.QuadTo a b q g) {c : Nat} {z : Quadrant} {cl : Cell}
    (hz : a.fab.quads[q]? = some z) (h : aget c (g z).cells = some cl) : b.cell q c = some cl := by
  unfold M.cell; rw [x.get, hz]; exact h

theorem aget_amod_same {α : Type} {c : Nat} {l : List (Nat × α)} {v : α} (h : aget c l = some v) (n : α) :
    aget c (amod c (fun _ => n) l) = some n := by rw [aget_amod]; simp [h]

theorem amod_const_self {α : Type} {c : Nat} {l : List (Nat × α)} {v : α} (h : ∀ p ∈ l, p.1 = c → p.2 = v) :
    amod c (fun _ => v) l = l := by
  unfold amod
  conv => rhs; rw [← List.map_id l]
  apply List.map_congr_left
  intro p hp
  simp only [id]
  split
  · rename_i hk; rw [← h p hp (by simpa using hk)]
  · rfl

theorem M.quadTo_consume (m : M) (q c : Nat) (cl : Cell) (ps : List Nat) (w : Nat) :
    M.QuadTo m (m.consume q c cl ps w) q (fun x => { x with
      cells := amod c (fun _ => { cl.take ps with fired := cl.fired || w == m.unitWave cl.unit }) x.cells
      lastFire := m.time.tb }) :=
  (m.quadTo_setCell q c _).trans (M.quadTo_modQuad _ q _)

theorem M.quadTo_storeReg {m : M} {q c r : Nat} {cl : Cell} {a : ACell} (v : Word) (h : m.cell q c = some cl) (hb : cl.body = .a a) :
    M.QuadTo m (m.storeReg q c r v) q (fun x => { x with
      cells := amod c (fun _ => { cl with body := .a { a with g := listSet a.g r v } }) x.cells }) := by
  unfold M.storeReg
  simp only [h, hb]
  exact (m.quadTo_setCell q c _).told (M.fabricOnly_backedUpdate _ _ _ _) (M.fab_backedUpdate ..)

theorem M.QuadTo.shown {a b : M} {q : Nat} {g : Quadrant → Quadrant} (x : M.QuadTo a b q g) (c : Bool) (r : Nat) (v : Word) :
    M.QuadTo a (if c then b else b.backedUpdate 1 r v 0) q g := by
  split
  · exact x
  · exact x.told (M.fabricOnly_backedUpdate _ _ _ _) (M.fab_backedUpdate ..)

theorem M.quadTo_putT {m : M} {q c : Nat} {cl : Cell} {t : TCell} (t' : TCell) (h : m.cell q c = some cl) (hb : cl.body = .t t) :
    M.QuadTo m (m.putT q c t') q (fun x => { x with cells := amod c (fun _ => { cl with body := .t t' }) x.cells }) := by
  unfold M.putT
  simp only [h, hb]
  exact ((((m.quadTo_setCell q c { cl with body := .t t' }).shown _ _ _).shown _ _ _).shown _ _ _).shown _ _ _

theorem M.quadTo_putMCell (m : M) (q c : Nat) (cl : Cell) (old new : MCell) :
    M.QuadTo m (m.putMCell q c cl old new) q (fun x => { x with cells := amod c (fun _ => { cl with body := .m new }) x.cells }) := by
  unfold M.putMCell
  exact (m.quadTo_setCell q c { cl with body := .m new }).shown _ _ _

theorem M.tcell_some {m : M} {q c : Nat} {cl : Cell} {t : TCell} (h : m.cell q c = some cl) (hb : cl.body = .t t) :
    m.tcell q c = some (cl, t) := by unfold M.tcell; simp only [h, hb]

/-! ### Drops, flags and EDGE cells -/

theorem M.fabricOnly_fabFlag (m : M) (x : FRef) (q : Nat) (hq : q < 4) (hx : fabricAddr (x.reg.addr 0 0 0) = true) : M.FabricOnly m (m.fabFlag x q) := by
  unfold M.fabFlag M.putBit
  exact (m.fabricOnly_put x _ _ _ _ hx).trans (.of_events (M.eventsOnly_raise _ _ (by omega)))
theorem M.fab_fabFlag (m : M) (x : FRef) (q : Nat) : (m.fabFlag x q).fab = m.fab := by unfold M.fabFlag; simp

theorem M.fabricOnly_dropToken (m : M) (q : Nat) (u : Option Nat) (hq : q < 4) : M.FabricOnly m (m.dropToken q u) := by
  unfold M.dropToken M.count
  have h1 : fabricAddr (F.FAB_DROP_count.reg.addr q 0 0) = true := match q, hq with
    | 0, _ | 1, _ | 2, _ | 3, _ => by decide
  exact ((m.fabricOnly_put _ _ _ _ _ h1).trans (M.fabricOnly_fabFlag _ _ q hq (by decide))).trans (.of_events (M.eventsOnly_fabricEvent _ _ _ _))
theorem M.fab_dropToken (m : M) (q : Nat) (u : Option Nat) : (m.dropToken q u).fab = m.fab := by
  unfold M.dropToken M.count
  rw [(M.eventsOnly_fabricEvent _ _ _ _).fab, M.fab_fabFlag]; rfl

theorem M.bitOf_fabFlag (m : M) (x : FRef) (q : Nat) (hq : q < 4) (h : eventAddr (x.reg.addr 0 0 0) = false) (hw : x.lo + x.width ≤ 32) (hn : q < x.width) :
    (m.fabFlag x q).bitOf x q = true := by
  unfold M.fabFlag
  have : ∀ a : M, (a.raise (0x18 + q)).bitOf x q = a.bitOf x q := by
    intro a; exact (a.eventsOnly_raise _ (by omega)).bitOf h
  rw [this]; exact M.bitOf_putBit_same m x q true 0 0 0 hw hn

theorem M.get_fabFlag (m : M) (x y : FRef) (q i : Nat) (hq : q < 4) (h : eventAddr (y.reg.addr i 0 0) = false) (hne : y.reg.addr i 0 0 ≠ x.reg.addr 0 0 0) :
    (m.fabFlag x q).get y i = m.get y i := by
  unfold M.fabFlag M.putBit
  rw [(M.eventsOnly_raise _ _ (by omega)).get h, M.get_put_ne _ _ _ _ hne]

theorem drop_ev (q : Nat) (hq : q < 4) : eventAddr (Reg.FAB_DROP.addr q 0 0) = false := match q, hq with
    | 0, _ | 1, _ | 2, _ | 3, _ => by decide
theorem drop_ne (q : Nat) (hq : q < 4) : Reg.FAB_DROP.addr q 0 0 ≠ Reg.FAB_EVT.addr 0 0 0 := match q, hq with
    | 0, _ | 1, _ | 2, _ | 3, _ => by decide

theorem M.dropToken_spec (m : M) (q : Nat) (u : Option Nat) (hq : q < 4) :
    (m.dropToken q u).get F.FAB_DROP_count q = min (m.get F.FAB_DROP_count q + 1) (2 ^ 32 - 1) ∧ (m.dropToken q u).bitOf F.FAB_EVT_drop q = true := by
  unfold M.dropToken
  constructor
  · refine ((M.eventsOnly_fabricEvent _ _ _ _).get (x := F.FAB_DROP_count) (drop_ev q hq)).trans ?_
    refine (M.get_fabFlag _ F.FAB_EVT_drop F.FAB_DROP_count _ _ hq (drop_ev q hq) (drop_ne q hq)).trans ?_
    unfold M.count
    refine (M.get_put_same m F.FAB_DROP_count _ q 0 0 (by decide)).trans ?_
    have : (m.get F.FAB_DROP_count q) < 2 ^ 32 := M.get_lt ..
    show satAdd _ 1 (2 ^ 32 - 1) % 2 ^ 32 = _
    unfold satAdd; omega
  · rw [(M.eventsOnly_fabricEvent _ _ _ _).bitOf (by decide)]
    exact M.bitOf_fabFlag _ _ _ hq (by decide) (by decide) hq

theorem M.fabricOnly_putT (m : M) (q c : Nat) (t' : TCell) : M.FabricOnly m (m.putT q c t') := by
  cases h : m.cell q c with
  | none => unfold M.putT; simp only [h]; exact .refl m
  | some cl =>
    cases hb : cl.body with
    | t a => exact (M.quadTo_putT t' h hb).2
    | a _ => unfold M.putT; simp only [h, hb]; exact .refl m
    | m _ => unfold M.putT; simp only [h, hb]; exact .refl m

theorem M.fabricOnly_edgeSend (m : M) (q c : Nat) (cl : Cell) (t : TCell) (l : Bool) (f : Nat) (hq : q < 4) :
    M.FabricOnly m (m.edgeSend q c cl t l f) := by
  unfold M.edgeSend
  refine M.FabricOnly.trans (M.FabricOnly.trans ?_ (M.fabricOnly_putT _ q c _)) (M.quadTo_sendKind _ q c 0 _ _ _ _ _ hq).2
  refine M.FabricOnly.trans (M.FabricOnly.of_events (M.eventsOnly_fabricEvent m 2 q (some cl.unit))) ?_
  exact (M.fabricOnly_fab _ _).trans (M.fabricOnly_fab _ _)

theorem M.fabricOnly_edgeReport (m : M) (q c : Nat) (l : Bool) (f : Nat) (hq : q < 4) : M.FabricOnly m (m.edgeReport q c l f) := by
  unfold M.edgeReport
  split
  · exact .refl m
  · split
    · exact .refl m
    · split
      · exact m.fabricOnly_putT q c _
      · split
        · exact (m.fabricOnly_putT q c _).trans (.of_events (M.eventsOnly_fabricEvent _ 7 q _))
        · exact m.fabricOnly_edgeSend q c _ _ _ _ hq

theorem M.fabricOnly_ite {m a b : M} (c : Prop) [Decidable c] (ha : M.FabricOnly m a) (hb : M.FabricOnly m b) :
    M.FabricOnly m (if c then a else b) := by split <;> assumption

theorem M.fabricOnly_edgeCompare (m : M) (q c : Nat) (hq : q < 4) : M.FabricOnly m (m.edgeCompare q c) := by
  unfold M.edgeCompare
  split
  · exact .refl m
  · exact M.fabricOnly_ite _ (M.fabricOnly_ite _ (m.fabricOnly_edgeReport q c _ _ hq)
      ((m.fabricOnly_putT q c _).trans (M.fabricOnly_edgeReport _ q c _ _ hq))) (.refl m)

/-! ### Commands -/

theorem exec_quad {c : Instr} {s : State} {f : M → M} {q : Nat} {g : Quadrant → Quadrant} (h : exec c s = s.onM c.wellFormed f)
    (hw : c.wellFormed = true) (hf : M.QuadTo s.m (f s.m) q g) : ∃ t, exec c s = .next t ∧ s.fabricTo t q g :=
  ⟨_, exec_next h hw rfl hf.2.wipes, hf.fabricTo⟩

theorem M.waits_false {m : M} {q c : Nat} (h : ∀ x ∈ (m.quad q).waiting, x.cell ≠ c) :
    (m.quad q).waiting.any (fun x => x.cell == c) = false := by
  rw [List.any_eq_false]; intro x hx; simpa using h x hx

theorem M.quadTo_stickFlags {m : M} {q c : Nat} {cl : Cell} {a : ACell} (o i : Bool) (h : m.cell q c = some cl) (hb : cl.body = .a a) :
    M.QuadTo m (m.stickFlags q c o i) q (fun x => { x with
      cells := amod c (fun _ => { cl with body := .a { a with overflow := a.overflow || o, invalid := a.invalid || i } }) x.cells }) := by
  unfold M.stickFlags; simp only [h, hb]; exact m.quadTo_setCell q c _

theorem M.quadTo_writeDest {m : M} {q c : Nat} {cl : Cell} {a : ACell} (o : ASlot) (v : Word) (h : m.cell q c = some cl)
    (hb : cl.body = .a a) : M.QuadTo m (m.writeDest q c o v) q (fun x => { x with
      cells := if o.dest < 16 then amod c (fun _ => { cl with body := .a { a with g := listSet a.g o.dest v } }) x.cells else x.cells }) := by
  unfold M.writeDest
  split
  · exact M.quadTo_storeReg v h hb
  · exact M.QuadTo.refl m q

theorem M.quadTo_sendResult (m : M) (q c slot : Nat) (o : ASlot) (v0 v1 : Word) (u w : Nat) (hq : q < 4) :
    M.QuadTo m (m.sendResult q c slot o v0 v1 u w) q (fun x => { x with
      flight := x.flight ++ linkToken c (2 * slot) o.link0 v0 u w ++ linkToken c (2 * slot + 1) o.link1 v1 u w
      lastFire := if (tbit o.link0 15 || tbit o.link1 15) && x.held == 0 then m.time.tb else x.lastFire }) := by
  unfold M.sendResult
  have h1 := m.quadTo_send q c (2 * slot) o.link0 v0 u w hq
  refine (h1.trans (M.quadTo_send _ q c (2 * slot + 1) o.link1 v1 u w hq)).congr (fun z _ => ?_)
  rw [h1.2.time]
  congr 1
  show (if _ then _ else if _ then _ else _) = _
  have e : ∀ (y : Quadrant), (y.held = y.flight.length + y.cells.foldl (fun a p => a + p.2.tokens.length) 0) := fun _ => rfl
  simp only [e]
  cases h0 : tbit o.link0 15 <;> simp [linkToken, kindToken, h0]


end Sys2Proof.Machine
end

