-- ==== Sys2Proof/Laws/Points.lean ====
section
/-! SUPPORT. Point space: what the operations on entries, forces and writes leave (chapter 2). -/

namespace Sys2Proof.Machine

theorem point_eq (m : M) (id : Nat) {p : PointRec} (h : m.point id = some p) : (id == 0xFFFF) = false ∧ aget id m.pts.points = some p := by
  unfold M.point at h; split at h
  · cases h
  · next hx => exact ⟨by simpa using hx, h⟩

theorem putEntry_point {m : M} {id : Nat} {p q : PointRec} (h : m.point id = some q) : (m.putEntry id p).point id = some p := by
  rw [(M.updateOnly_putEntry m id p).point]
  obtain ⟨h1, h2⟩ := point_eq _ _ h
  show (if id == 0xFFFF then none else aget id (amod id (fun _ => p) m.pts.points)) = _
  rw [h1, aget_amod]; simp [h2]

theorem deliver_pts {m : M} {p : PointRec} (v : Word) (h : p.backing ≠ 1) : (m.deliver p v).pts = m.pts := by
  unfold M.deliver
  split
  · rfl
  · split
    · contradiction
    · simp only []
      split <;> (try split) <;> rfl
    · rfl

theorem forceNote_pts (m : M) (id a t r : Nat) (o n : Word) (p : Bool) : (m.forceNote id a o n t r p).pts = m.pts := by
  unfold M.forceNote; split
  · rfl
  · simp

theorem sendChange_pts (m : M) (c : ChangeRec) : (m.sendChange c).2.pts = m.pts := by
  have := (m.accessOnly_tellPeer c).eq
  show (m.tellPeer c).pts = _; rw [this]

/-- Writing and removing stored copies of forces touches nothing else. -/
theorem storeForce_eq (m : M) (f : ForceRec) : ∃ a b, m.storeForce f = { m with pts := { m.pts with forceStore := a, forceDrops := b } } := by
  unfold M.storeForce; split
  · exact ⟨_, _, rfl⟩
  · exact ⟨_, _, rfl⟩

@[simp] theorem storeForce_points (m : M) (f : ForceRec) : (m.storeForce f).pts.points = m.pts.points := by
  obtain ⟨a, b, h⟩ := storeForce_eq m f; rw [h]
@[simp] theorem storeForce_forces (m : M) (f : ForceRec) : (m.storeForce f).pts.forces = m.pts.forces := by
  obtain ⟨a, b, h⟩ := storeForce_eq m f; rw [h]
@[simp] theorem storeForce_boot (m : M) (f : ForceRec) : (m.storeForce f).boot = m.boot := by
  obtain ⟨a, b, h⟩ := storeForce_eq m f; rw [h]

theorem applyForce_new {m : M} {id i t r : Nat} {value : Word} {persist : Bool} {port : Option Nat} {p : PointRec} (hp : m.point id = some p)
    (hn : m.forceOf id = none) (hi : freeKey 1024 m.pts.forces = some i) :
    (m.applyForce id value persist t r port).1 = some i ∧ (p.backing ≠ 1 →
      (m.applyForce id value persist t r port).2.point id = some { p with value := keepKind p.kind value, age := 0 } ∧
      (m.applyForce id value persist t r port).2.pts.forces =
        aput i ⟨id, keepKind p.kind value, m.timerValue id p, t, r, port, m.time.tai, persist, m.shownAge id p⟩ m.pts.forces) := by
  unfold M.applyForce
  simp only [hp, hn, hi]
  refine ⟨trivial, fun hb => ?_⟩
  constructor
  · show (M.point _ id) = _
    unfold M.point; rw [forceNote_pts, deliver_pts _ hb]
    exact putEntry_point (q := p) (by
      unfold M.point; rw [storeForce_points]
      show (if id == 0xFFFF then none else aget id m.pts.points) = _
      obtain ⟨h1, h2⟩ := point_eq _ _ hp; simp [h2]; simpa using h1)
  · rw [forceNote_pts, deliver_pts _ hb, (M.updateOnly_putEntry _ _ _).forces]
    show (M.storeForce _ _).pts.forces = _
    rw [storeForce_forces]

theorem freeKey_lt {α : Type} {n i : Nat} {l : List (Nat × α)} (h : freeKey n l = some i) : i < n := by
  unfold freeKey at h; exact List.mem_range.mp (List.mem_of_find?_eq_some h)

theorem backingUpdate_wipes (m : M) (id r : Nat) (v : Word) : (m.backingUpdate id v r).boot.wipes = m.boot.wipes := by
  rw [(m.pointsTold_backingUpdate (s := fun _ => True) id v r trivial).eq]

theorem foldl_wipes {α : Type} (l : List α) (f : M → α → M) (h : ∀ a x, (f a x).boot.wipes = a.boot.wipes) (m : M) :
    (l.foldl f m).boot.wipes = m.boot.wipes := by
  induction l generalizing m with
  | nil => rfl
  | cons x t ih => exact (ih (f m x)).trans (h m x)

theorem storeReg_wipes (m : M) (q c r : Nat) (v : Word) : (m.storeReg q c r v).boot.wipes = m.boot.wipes := by
  unfold M.storeReg
  split
  · split
    · exact foldl_wipes _ _ (fun a x => backingUpdate_wipes ..) _
    · rfl
  · rfl

theorem deliver_wipes (m : M) (p : PointRec) (v : Word) : (m.deliver p v).boot.wipes = m.boot.wipes := by
  unfold M.deliver
  split
  · rfl
  · split
    · exact storeReg_wipes ..
    · simp only []
      split <;> (try split) <;> rfl
    · rfl

theorem forceNote_wipes (m : M) (id a t r : Nat) (o n : Word) (p : Bool) : (m.forceNote id a o n t r p).boot.wipes = m.boot.wipes := by
  unfold M.forceNote; split
  · rfl
  · simp

theorem applyForce_wipes (m : M) (id t r : Nat) (v : Word) (pe : Bool) (po : Option Nat) : (m.applyForce id v pe t r po).2.boot.wipes = m.boot.wipes := by
  unfold M.applyForce
  split
  · rfl
  · simp only []
    split
    · show (M.forceNote _ _ _ _ _ _ _ _).boot.wipes = _
      rw [forceNote_wipes, deliver_wipes, (M.updateOnly_putEntry _ _ _).wipes]
      show (M.storeForce _ _).boot.wipes = _
      rw [storeForce_boot]
    · split
      · rfl
      · show (M.forceNote _ _ _ _ _ _ _ _).boot.wipes = _
        rw [forceNote_wipes, deliver_wipes, (M.updateOnly_putEntry _ _ _).wipes]
        show (M.storeForce _ _).boot.wipes = _
        rw [storeForce_boot]

theorem system_session {m : M} {b : Master} {w : Who} (h : m.who b = some w) (ht : w.tag = .system) : w.session = none := by
  unfold M.who at h
  split at h
  · cases h
  · unfold M.initiator at h
    split at h
    all_goals first | (cases h; rfl) | skip
    · cases hq : m.openSession _ with
      | none => rw [hq] at h; cases h
      | some q => rw [hq] at h; cases h; cases ht
    · cases hq : List.find? _ m.exe.units with
      | none => rw [hq] at h; cases h
      | some q => rw [hq] at h; cases h; rfl
    · split at h
      · cases h; rfl
      · cases h

theorem endForce_spec {m : M} {id i t r : Nat} {p : PointRec} {f : ForceRec} (hp : m.point id = some p) (hf : m.forceOf id = some (i, f)) :
    (m.endForce id t r).boot.wipes = m.boot.wipes ∧ (p.backing ≠ 1 →
      (m.endForce id t r).point id =
        some { p with value := keepKind p.kind (m.requestedNow f), age := if p.dir = 0 then m.requestedAge f else 0 } ∧
      (m.endForce id t r).pts.forces = adel i m.pts.forces) := by
  have hid : f.point = id := by
    unfold M.forceOf at hf
    simpa using List.find?_some hf
  unfold M.endForce M.freeForce
  simp only [hp, hf, hid]
  refine ⟨?_, fun hb => ⟨?_, ?_⟩⟩
  · rw [forceNote_wipes, deliver_wipes, (M.updateOnly_putEntry _ _ _).wipes]; rfl
  · show (M.point _ id) = _
    unfold M.point; rw [forceNote_pts, deliver_pts _ hb]
    obtain ⟨h1, h2⟩ := point_eq _ _ hp
    have := putEntry_point (m := ({ m with pts := { m.pts with forces := adel i m.pts.forces } } : M).dropForce id)
      (id := id) (q := p) (p := { p with value := keepKind p.kind (m.requestedNow f), age := if p.dir == 0 then m.requestedAge f else 0 })
      (by show (if id == 0xFFFF then none else aget id m.pts.points) = _; rw [h1]; simpa using h2)
    simpa [M.point] using this
  · rw [forceNote_pts, deliver_pts _ hb, (M.updateOnly_putEntry _ _ _).forces]; rfl

theorem fitCheck_pts (m : M) (id : Nat) : (m.fitCheck id).pts = m.pts := by
  unfold M.fitCheck
  split
  · split
    · simp
    · rfl
  · rfl

theorem fitCheck_out (m : M) (id : Nat) : (m.fitCheck id).out = m.out := by
  unfold M.fitCheck
  split
  · split
    · simp
    · rfl
  · rfl

theorem fitCheck_wipes (m : M) (id : Nat) : (m.fitCheck id).boot.wipes = m.boot.wipes := by
  unfold M.fitCheck
  split
  · split
    · simp
    · rfl
  · rfl

/-- A granted read meets the function check; it leaves the point space, the outputs and the memories. -/
theorem fitRead_pts (m : M) (w : Who) (id : Nat) : (m.fitRead w id).pts = m.pts := by
  unfold M.fitRead; split
  · exact fitCheck_pts ..
  · rfl
theorem fitRead_out (m : M) (w : Who) (id : Nat) : (m.fitRead w id).out = m.out := by
  unfold M.fitRead; split
  · exact fitCheck_out ..
  · rfl
theorem fitRead_wipes (m : M) (w : Who) (id : Nat) : (m.fitRead w id).boot.wipes = m.boot.wipes := by
  unfold M.fitRead; split
  · exact fitCheck_wipes ..
  · rfl

theorem gate_read (m : M) (w : Who) (id : Nat) : (m.gate w .read id == .granted) = m.sees w id := by
  unfold M.sees
  have : m.gate w .read id ≠ .readOnly := by
    unfold M.gate
    split
    · simp
    · split
      · simp
      · simp only []; split <;> simp
  cases h : m.gate w .read id <;> simp_all

theorem gate_write_absent {m : M} {w : Who} {id : Nat} (h : m.sees w id = false) : m.gate w .write id = .absent := by
  unfold M.sees M.gate at h
  unfold M.gate
  split at h
  · simp_all
  · split at h
    · simp at h
    · simp only [] at h ⊢
      split at h
      · simp_all
      · simp at h

theorem storePoint_wipes (m : M) (id : Nat) (p : PointRec) (v : Word) : (m.storePoint id p v).boot.wipes = m.boot.wipes := by
  unfold M.storePoint
  dsimp only
  split
  · rfl
  · rw [deliver_wipes, (M.updateOnly_putEntry _ _ _).wipes]

theorem writePoint_wipes (m : M) (w : Who) (id : Nat) (v : Word) : (m.writePoint w id v).2.boot.wipes = m.boot.wipes := by
  unfold M.writePoint
  split
  · rw [fitCheck_wipes, storePoint_wipes]
  · rfl

theorem M.FabricOnly.who_unit {a b : M} (h : M.FabricOnly a b) (u : Nat) : b.who (.unit u) = a.who (.unit u) := by
  rw [h.eq]; rfl

end Sys2Proof.Machine
end

