-- ==== Sys2Proof/Laws/Kept.lean ====
section
/-! SUPPORT. Registers that the fabric and the execution of tasks leave alone: all but their own windows and those that tell others of a
change; a task's status register is found at a task's number, so only addresses it cannot meet are named. -/

namespace Sys2Proof.Machine

/-- A register outside the fabric, execution and telling windows that no task's status register meets. -/
def calmAddr (x : Nat) : Bool := !fabricAddr x && x / 65536 != 0x4010 && x / 65536 != 0x4012 && x % 16 != 0

/-- `b` has the calm registers of `a`, and its reset marks. -/
structure M.Calm (a b : M) : Prop where
  wipes : b.boot.wipes = a.boot.wipes
  regs : ∀ x, calmAddr x = true → aget x b.regs = aget x a.regs

theorem calm_fabric {x : Nat} (h : calmAddr x = true) : fabricAddr x = false := by
  simp only [calmAddr, Bool.and_eq_true, Bool.not_eq_true'] at h; exact h.1.1.1

theorem M.Calm.refl (a : M) : M.Calm a a := ⟨rfl, fun _ _ => rfl⟩
theorem M.Calm.trans {a b c : M} (h : M.Calm a b) (g : M.Calm b c) : M.Calm a c :=
  ⟨g.wipes.trans h.wipes, fun x hx => (g.regs x hx).trans (h.regs x hx)⟩
theorem M.Calm.fold {α : Type} (l : List α) (f : M → α → M) (m : M) (h : ∀ a x, x ∈ l → M.Calm a (f a x)) : M.Calm m (l.foldl f m) := by
  induction l generalizing m with
  | nil => exact .refl m
  | cons x t ih => exact (h m x (by simp)).trans (ih _ (fun a y hy => h a y (by simp [hy])))
theorem M.Calm.ite {m a b : M} (c : Prop) [Decidable c] (ha : M.Calm m a) (hb : M.Calm m b) : M.Calm m (if c then a else b) := by
  split <;> assumption
theorem M.Calm.of_fabric {a b : M} (h : M.FabricOnly a b) : M.Calm a b := ⟨h.wipes, fun x hx => h.regs x (calm_fabric hx)⟩
theorem M.Calm.of_update {a b : M} (h : M.UpdateOnly a b) : M.Calm a b := .of_fabric (.of_update h)
theorem M.Calm.of_events {a b : M} (h : M.EventsOnly a b) : M.Calm a b := .of_fabric (.of_events h)
theorem M.Calm.of_told {p : Nat → Prop} {a b : M} (h : M.PointsTold p a b) : M.Calm a b :=
  ⟨by rw [h.eq], fun x hx => h.regs x (by
    have := calm_fabric hx
    simp only [fabricAddr, Bool.or_eq_false_iff] at this; exact this.1)⟩
theorem M.calm_wr (m : M) (r : Reg) (v : Word) (i j k : Nat) (h : calmAddr (r.addr i j k) = false) : M.Calm m (m.wr r v i j k) :=
  ⟨rfl, fun x hx => by rw [M.aget_wr, if_neg]; intro e; subst e; rw [hx] at h; cases h⟩
theorem M.calm_put (m : M) (x : FRef) (v i j k : Nat) (h : calmAddr (x.reg.addr i j k) = false) : M.Calm m (m.put x v i j k) := by
  rw [M.put_eq_wr]; exact m.calm_wr _ _ _ _ _ h
theorem M.Calm.get {a b : M} (h : M.Calm a b) (x : FRef) {i j k : Nat} (hx : calmAddr (x.reg.addr i j k) = true) : b.get x i j k = a.get x i j k := by
  unfold M.get; rw [M.rd_congr (h.regs _ hx)]

theorem M.calm_quad (m : M) (q : Nat) (g : Quadrant → Quadrant) : M.Calm m (m.modQuad q g) := ⟨rfl, fun _ _ => rfl⟩
theorem M.calm_setQ (m : M) (q v : Nat) : M.Calm m (m.setQstate q v) := m.calm_put _ _ _ _ _ (by decide)
theorem M.calm_exeFlag (m : M) (x : FRef) (h : x.reg = .EXE_EVT) : M.Calm m (m.exeFlag x) := by
  unfold M.exeFlag M.flag
  exact (m.calm_put _ _ _ _ _ (by rw [h]; decide)).trans (.of_update (M.updateOnly_raise _ _ (by decide)))

theorem M.calm_releaseHeld (m : M) (q : Nat) : M.Calm m (m.releaseHeld q) := by
  unfold M.releaseHeld
  apply M.Calm.fold
  intro a t _
  split
  · exact .refl a
  · dsimp only
    have h1 : calmAddr (F.EXE_TSTAT_skip.reg.addr t.1 0 0) = false := by
      have : (F.EXE_TSTAT_skip.reg.addr t.1 0 0) % 16 = 0 := by simp [Reg.addr, Reg.spec]
      simp [calmAddr, this]
    exact ((a.calm_put _ _ _ _ _ h1).trans (M.calm_exeFlag _ _ rfl)).trans ⟨rfl, fun _ _ => rfl⟩

theorem M.calm_backed (m : M) (b r : Nat) (v : Word) (st : Nat) : M.Calm m (m.backedUpdate b r v st) := .of_told (m.pointsTold_backedUpdate b r v st)

theorem M.calm_showCell (m : M) (q c : Nat) : M.Calm m (m.showCell q c) := by
  unfold M.showCell
  split
  · exact .refl m
  · apply M.Calm.fold
    intro a r _
    split
    · exact a.calm_backed _ _ _ _
    · exact .refl a

theorem M.calm_emptyPatches (m : M) (e : Nat) : M.Calm m (m.emptyPatches e) := by
  unfold M.emptyPatches M.olcResult
  refine .trans (.trans (.trans (b := ({ m with exe := { m.exe with patchTask := none, patches := [] } } : M)) ⟨rfl, fun _ _ => rfl⟩
    (M.calm_put _ _ _ _ _ _ (by decide))) (M.calm_put _ _ _ _ _ _ (by decide))) (M.calm_put _ _ _ _ _ _ (by decide))

theorem M.calm_showPaths (m : M) (g : Nat → Bool) : M.Calm m (m.showPaths g) := by
  unfold M.showPaths
  dsimp only
  refine (m.calm_put F.FAB_SBK_STAT_defined _ 0 0 0 (by decide)).trans (M.Calm.fold _ _ _ (fun a n _ => ?_))
  exact M.Calm.ite _ (a.calm_put _ _ 0 0 0 (by decide)) (.refl a)

theorem M.FabricOnly.fold {α : Type} (l : List α) (f : M → α → M) (m : M) (h : ∀ a x, x ∈ l → M.FabricOnly a (f a x)) :
    M.FabricOnly m (l.foldl f m) := by
  induction l generalizing m with
  | nil => exact .refl m
  | cons x t ih => exact (h m x (by simp)).trans (ih _ (fun a y hy => h a y (by simp [hy])))

theorem M.fabricOnly_quad (m : M) (q : Nat) (g : Quadrant → Quadrant) : M.FabricOnly m (m.modQuad q g) := m.fabricOnly_fab _

theorem M.fabricOnly_dropStale (m : M) (u : Nat) (b : Bool) : M.FabricOnly m (m.dropStale u b) := by
  unfold M.dropStale
  dsimp only
  refine M.FabricOnly.fold _ _ _ (fun a q hq => ?_)
  refine (a.fabricOnly_quad q _).trans (M.FabricOnly.fold _ _ _ (fun c _ _ => c.fabricOnly_dropToken q _ (by simpa using hq)))

theorem M.fabricOnly_resume (m : M) (q : Nat) (hq : q < 4) : M.FabricOnly m (m.resumeQuad q) := by
  refine M.fabricOnly_ite _ (.refl m) (M.FabricOnly.fold _ _ _ (fun a c _ => ?_))
  split
  · exact .refl a
  · exact M.fabricOnly_ite _ (.refl a) (M.fabricOnly_ite _ ((a.fabricOnly_putT q c _).trans (M.fabricOnly_edgeReport _ q c _ _ hq))
      (a.fabricOnly_putT q c _))

theorem M.calm_resume (m : M) (q : Nat) (hq : q < 4) : M.Calm m (m.resumeQuad q) := .of_fabric (m.fabricOnly_resume q hq)

theorem M.calm_return (m : M) (q : Nat) (hq : q < 4) : M.Calm m (m.returnToRun q) :=
  ((((m.calm_put _ _ 0 0 0 (by decide)).trans (M.calm_setQ _ q 2)).trans (M.calm_quad _ q _)).trans (M.calm_releaseHeld _ q)).trans
    (M.calm_resume _ q hq)

theorem M.fabricOnly_freezeAll (m : M) : M.FabricOnly m m.freezeAll :=
  M.FabricOnly.fold _ _ _ (fun a q _ => a.fabricOnly_quad q _)

theorem M.updateOnly_safeChanged (m : M) : M.UpdateOnly m m.safeChanged := by
  exact (m.updateOnly_fold _ _ (fun a x _ => a.updateOnly_outOnChange x.1 x.2)).trans
    (M.updateOnly_fold _ _ _ (fun a n _ => a.updateOnly_pwmStill n))

theorem M.eventsOnly_exeRecord (m : M) (a b c : Nat) : M.EventsOnly m (m.exeRecord a b c) := m.eventsOnly_note ..

/-- Waves advance: the tokens of past waves drop, tasks stay. -/
theorem M.advanceAll_keeps (m : M) (b : Bool) : (m.advanceAll b).exe.tasks = m.exe.tasks ∧ (m.advanceAll b).exe.units = m.exe.units ∧
    (m.advanceAll b).boot = m.boot ∧ ∀ x, fabricAddr x = false → aget x (m.advanceAll b).regs = aget x m.regs := by
  have one : ∀ (m : M) (u : Nat), (m.advanceWave u b).exe.tasks = m.exe.tasks ∧ (m.advanceWave u b).exe.units = m.exe.units ∧
      (m.advanceWave u b).boot = m.boot ∧ ∀ x, fabricAddr x = false → aget x (m.advanceWave u b).regs = aget x m.regs := by
    intro m u
    unfold M.advanceWave
    dsimp only
    generalize hm1 : ({ m with exe := { m.exe with
      waves := aput u ((m.unitWave u + 1) % 8) m.exe.waves, active := m.exe.active.filter (fun x => !(x == u)) } } : M) = m1
    have h := m1.fabricOnly_dropStale u b
    have hb : (m1.dropStale u b).boot = m1.boot := by rw [h.eq]
    rw [h.exe, hb, ← hm1]
    refine ⟨rfl, rfl, rfl, fun x hx => ?_⟩
    rw [hm1, h.regs x hx, ← hm1]
  have all : ∀ (l : List UnitRec) (m : M), (l.foldl (fun (a : M) u => a.advanceWave u.unit b) m).exe.tasks = m.exe.tasks ∧
      (l.foldl (fun (a : M) u => a.advanceWave u.unit b) m).exe.units = m.exe.units ∧
      (l.foldl (fun (a : M) u => a.advanceWave u.unit b) m).boot = m.boot ∧
      ∀ x, fabricAddr x = false → aget x (l.foldl (fun (a : M) u => a.advanceWave u.unit b) m).regs = aget x m.regs := by
   intro l
   induction l with
   | nil => exact fun m => ⟨rfl, rfl, rfl, fun _ _ => rfl⟩
   | cons x t ih =>
    intro m
    obtain ⟨a1, a2, a3, a4⟩ := ih (m.advanceWave x.unit b)
    obtain ⟨b1, b2, b3, b4⟩ := one m x.unit
    exact ⟨a1.trans b1, a2.trans b2, a3.trans b3, fun y hy => (a4 y hy).trans (b4 y hy)⟩
  exact all m.exe.units m

/-- The pending word is apart from the other registers a raise writes. -/
theorem M.pending_put_ne (a : M) (x : FRef) (v i s : Nat) (h : s < 256) (hx : x.reg.addr i 0 0 < 0x40028400 ∨ 0x40028420 ≤ x.reg.addr i 0 0) :
    (a.put x v i).bitOf F.EVC_PEND_pend (s % 32) (s / 32) = a.bitOf F.EVC_PEND_pend (s % 32) (s / 32) := by
  have a1 : Reg.EVC_PEND.addr (s / 32) 0 0 < 0x40028420 := by simp [Reg.addr, Reg.spec]; omega
  have a2 : 0x40028400 ≤ Reg.EVC_PEND.addr (s / 32) 0 0 := by simp [Reg.addr, Reg.spec]
  unfold M.bitOf
  rw [M.get_put_ne a x F.EVC_PEND_pend v (i := i) (by show Reg.EVC_PEND.addr (s / 32) 0 0 ≠ _; omega)]

/-- What a pending source's raise adds beside its pending or overrun bit keeps what is pending. -/
theorem M.pending_nm (a : M) (t s : Nat) (h : s < 256) :
    (if t < 4 then (a.count F.EVC_NMCNT_count).putBit F.EVC_STAT_nm t true else a).bitOf F.EVC_PEND_pend (s % 32) (s / 32) =
      a.bitOf F.EVC_PEND_pend (s % 32) (s / 32) := by
  split
  · exact (M.pending_put_ne _ F.EVC_STAT_nm _ _ s h (by decide)).trans (M.pending_put_ne _ F.EVC_NMCNT_count _ _ s h (by decide))
  · rfl

theorem M.pend_sets (m : M) (s : Nat) (h : s < 256) : (m.pend s).bitOf F.EVC_PEND_pend (s % 32) (s / 32) = true := by
  unfold M.pend
  dsimp only
  rw [M.pending_nm _ _ _ h]
  split
  · next hb => exact (M.pending_put_ne m F.EVC_OVR_ovr _ _ s h (by right; simp [Reg.addr, Reg.spec])).trans hb
  · exact M.bitOf_putBit_same m F.EVC_PEND_pend (s % 32) true _ _ _ (by decide) (Nat.mod_lt _ (by decide))

theorem M.pend_keeps (m : M) (t s : Nat) (ht : t < 256) (h : s < 256) (hp : m.bitOf F.EVC_PEND_pend (s % 32) (s / 32) = true) :
    (m.pend t).bitOf F.EVC_PEND_pend (s % 32) (s / 32) = true := by
  by_cases e : s = t
  · subst e; exact m.pend_sets s h
  · unfold M.pend
    dsimp only
    rw [M.pending_nm _ _ _ h]
    split
    · exact (M.pending_put_ne m F.EVC_OVR_ovr _ _ s h (by right; simp [Reg.addr, Reg.spec])).trans hp
    · by_cases hw : s / 32 = t / 32
      · rw [hw] at hp ⊢
        by_cases hm : s % 32 = t % 32
        · rw [hm]; exact M.bitOf_putBit_same m F.EVC_PEND_pend (t % 32) true _ _ _ (by decide) (Nat.mod_lt _ (by decide))
        · exact (M.bitOf_putBit_other m F.EVC_PEND_pend true _ _ _ (by decide) (Nat.mod_lt _ (by decide)) hm).trans hp
      · unfold M.bitOf at hp ⊢
        unfold M.putBit
        rw [M.get_put_ne m F.EVC_PEND_pend F.EVC_PEND_pend _ (i := t / 32) (by
          show Reg.EVC_PEND.addr (s / 32) 0 0 ≠ Reg.EVC_PEND.addr (t / 32) 0 0
          simp [Reg.addr, Reg.spec]; omega)]
        exact hp

/-- A source that was raised is pending (R587). -/
theorem M.raise_pends (m : M) (s : Nat) (h : s < 256) : (m.raise s).bitOf F.EVC_PEND_pend (s % 32) (s / 32) = true := by
  have h2 := m.pend_sets s h
  unfold M.raise
  dsimp only
  generalize m.pend s = a at h2 ⊢
  split
  · exact h2
  · split
    · exact h2
    · unfold M.loseRaise
      dsimp only
      have h3 : (((a.count F.REC_LOST_count).put F.REC_EVT_lost 1).pend 0x24).bitOf F.EVC_PEND_pend (s % 32) (s / 32) = true :=
        M.pend_keeps _ _ _ (by decide) h ((M.pending_put_ne _ F.REC_EVT_lost _ _ s h (by decide)).trans
          ((M.pending_put_ne _ F.REC_LOST_count _ _ s h (by decide)).trans h2))
      generalize ((a.count F.REC_LOST_count).put F.REC_EVT_lost 1).pend 0x24 = b at h3 ⊢
      show (if _ then b else b.count F.REC_LOST_count).bitOf F.EVC_PEND_pend (s % 32) (s / 32) = true
      split
      · exact h3
      · exact (M.pending_put_ne _ F.REC_LOST_count _ _ s h (by decide)).trans h3

end Sys2Proof.Machine
end

