-- ==== Sys2Proof/Laws/Parts.lean ====
section
/-! SUPPORT. What an update of one part of the state leaves of every other field: a CAN controller, a port, a hosted pair, a trend log,
a held answer, the loader's job. -/

namespace Sys2Proof.Machine

/-! ### setCan -/

@[simp] theorem M.setCan_regs (m : M) (n : Nat) (c : CanState) : (m.setCan n c).regs = m.regs := rfl
@[simp] theorem M.setCan_effs (m : M) (n : Nat) (c : CanState) : (m.setCan n c).effs = m.effs := rfl
@[simp] theorem M.setCan_slotB (m : M) (n : Nat) (c : CanState) : (m.setCan n c).slotB = m.slotB := rfl
@[simp] theorem M.setCan_time (m : M) (n : Nat) (c : CanState) : (m.setCan n c).time = m.time := rfl
@[simp] theorem M.setCan_power (m : M) (n : Nat) (c : CanState) : (m.setCan n c).power = m.power := rfl
@[simp] theorem M.setCan_ev (m : M) (n : Nat) (c : CanState) : (m.setCan n c).ev = m.ev := rfl
@[simp] theorem M.setCan_frec (m : M) (n : Nat) (c : CanState) : (m.setCan n c).frec = m.frec := rfl
@[simp] theorem M.setCan_pts (m : M) (n : Nat) (c : CanState) : (m.setCan n c).pts = m.pts := rfl
@[simp] theorem M.setCan_fab (m : M) (n : Nat) (c : CanState) : (m.setCan n c).fab = m.fab := rfl
@[simp] theorem M.setCan_img (m : M) (n : Nat) (c : CanState) : (m.setCan n c).img = m.img := rfl
@[simp] theorem M.setCan_exe (m : M) (n : Nat) (c : CanState) : (m.setCan n c).exe = m.exe := rfl
@[simp] theorem M.setCan_loop (m : M) (n : Nat) (c : CanState) : (m.setCan n c).loop = m.loop := rfl
@[simp] theorem M.setCan_mtr (m : M) (n : Nat) (c : CanState) : (m.setCan n c).mtr = m.mtr := rfl
@[simp] theorem M.setCan_eth (m : M) (n : Nat) (c : CanState) : (m.setCan n c).eth = m.eth := rfl
@[simp] theorem M.setCan_krov (m : M) (n : Nat) (c : CanState) : (m.setCan n c).krov = m.krov := rfl
@[simp] theorem M.setCan_ibx (m : M) (n : Nat) (c : CanState) : (m.setCan n c).ibx = m.ibx := rfl
@[simp] theorem M.setCan_tth (m : M) (n : Nat) (c : CanState) : (m.setCan n c).tth = m.tth := rfl
@[simp] theorem M.setCan_lio (m : M) (n : Nat) (c : CanState) : (m.setCan n c).lio = m.lio := rfl
@[simp] theorem M.setCan_boot (m : M) (n : Nat) (c : CanState) : (m.setCan n c).boot = m.boot := rfl
@[simp] theorem M.setCan_nvp (m : M) (n : Nat) (c : CanState) : (m.setCan n c).nvp = m.nvp := rfl
@[simp] theorem M.setCan_hst (m : M) (n : Nat) (c : CanState) : (m.setCan n c).hst = m.hst := rfl
@[simp] theorem M.setCan_kv (m : M) (n : Nat) (c : CanState) : (m.setCan n c).kv = m.kv := rfl
@[simp] theorem M.setCan_upd (m : M) (n : Nat) (c : CanState) : (m.setCan n c).upd = m.upd := rfl
@[simp] theorem M.setCan_rnd (m : M) (n : Nat) (c : CanState) : (m.setCan n c).rnd = m.rnd := rfl
@[simp] theorem M.setCan_free (m : M) (n : Nat) (c : CanState) : (m.setCan n c).free = m.free := rfl
@[simp] theorem M.setCan_out (m : M) (n : Nat) (c : CanState) : (m.setCan n c).out = m.out := rfl

/-! ### setEth -/

@[simp] theorem M.setEth_regs (m : M) (x : Nat) (p : EthPort) : (m.setEth x p).regs = m.regs := rfl
@[simp] theorem M.setEth_effs (m : M) (x : Nat) (p : EthPort) : (m.setEth x p).effs = m.effs := rfl
@[simp] theorem M.setEth_slotB (m : M) (x : Nat) (p : EthPort) : (m.setEth x p).slotB = m.slotB := rfl
@[simp] theorem M.setEth_time (m : M) (x : Nat) (p : EthPort) : (m.setEth x p).time = m.time := rfl
@[simp] theorem M.setEth_power (m : M) (x : Nat) (p : EthPort) : (m.setEth x p).power = m.power := rfl
@[simp] theorem M.setEth_ev (m : M) (x : Nat) (p : EthPort) : (m.setEth x p).ev = m.ev := rfl
@[simp] theorem M.setEth_frec (m : M) (x : Nat) (p : EthPort) : (m.setEth x p).frec = m.frec := rfl
@[simp] theorem M.setEth_pts (m : M) (x : Nat) (p : EthPort) : (m.setEth x p).pts = m.pts := rfl
@[simp] theorem M.setEth_fab (m : M) (x : Nat) (p : EthPort) : (m.setEth x p).fab = m.fab := rfl
@[simp] theorem M.setEth_img (m : M) (x : Nat) (p : EthPort) : (m.setEth x p).img = m.img := rfl
@[simp] theorem M.setEth_exe (m : M) (x : Nat) (p : EthPort) : (m.setEth x p).exe = m.exe := rfl
@[simp] theorem M.setEth_loop (m : M) (x : Nat) (p : EthPort) : (m.setEth x p).loop = m.loop := rfl
@[simp] theorem M.setEth_mtr (m : M) (x : Nat) (p : EthPort) : (m.setEth x p).mtr = m.mtr := rfl
@[simp] theorem M.setEth_can (m : M) (x : Nat) (p : EthPort) : (m.setEth x p).can = m.can := rfl
@[simp] theorem M.setEth_krov (m : M) (x : Nat) (p : EthPort) : (m.setEth x p).krov = m.krov := rfl
@[simp] theorem M.setEth_ibx (m : M) (x : Nat) (p : EthPort) : (m.setEth x p).ibx = m.ibx := rfl
@[simp] theorem M.setEth_tth (m : M) (x : Nat) (p : EthPort) : (m.setEth x p).tth = m.tth := rfl
@[simp] theorem M.setEth_lio (m : M) (x : Nat) (p : EthPort) : (m.setEth x p).lio = m.lio := rfl
@[simp] theorem M.setEth_boot (m : M) (x : Nat) (p : EthPort) : (m.setEth x p).boot = m.boot := rfl
@[simp] theorem M.setEth_nvp (m : M) (x : Nat) (p : EthPort) : (m.setEth x p).nvp = m.nvp := rfl
@[simp] theorem M.setEth_hst (m : M) (x : Nat) (p : EthPort) : (m.setEth x p).hst = m.hst := rfl
@[simp] theorem M.setEth_kv (m : M) (x : Nat) (p : EthPort) : (m.setEth x p).kv = m.kv := rfl
@[simp] theorem M.setEth_upd (m : M) (x : Nat) (p : EthPort) : (m.setEth x p).upd = m.upd := rfl
@[simp] theorem M.setEth_rnd (m : M) (x : Nat) (p : EthPort) : (m.setEth x p).rnd = m.rnd := rfl
@[simp] theorem M.setEth_free (m : M) (x : Nat) (p : EthPort) : (m.setEth x p).free = m.free := rfl
@[simp] theorem M.setEth_out (m : M) (x : Nat) (p : EthPort) : (m.setEth x p).out = m.out := rfl

/-! ### setHosted -/

@[simp] theorem M.setHosted_regs (m : M) (i : Nat) (p : HostedPair) : (m.setHosted i p).regs = m.regs := rfl
@[simp] theorem M.setHosted_effs (m : M) (i : Nat) (p : HostedPair) : (m.setHosted i p).effs = m.effs := rfl
@[simp] theorem M.setHosted_slotB (m : M) (i : Nat) (p : HostedPair) : (m.setHosted i p).slotB = m.slotB := rfl
@[simp] theorem M.setHosted_time (m : M) (i : Nat) (p : HostedPair) : (m.setHosted i p).time = m.time := rfl
@[simp] theorem M.setHosted_power (m : M) (i : Nat) (p : HostedPair) : (m.setHosted i p).power = m.power := rfl
@[simp] theorem M.setHosted_ev (m : M) (i : Nat) (p : HostedPair) : (m.setHosted i p).ev = m.ev := rfl
@[simp] theorem M.setHosted_frec (m : M) (i : Nat) (p : HostedPair) : (m.setHosted i p).frec = m.frec := rfl
@[simp] theorem M.setHosted_pts (m : M) (i : Nat) (p : HostedPair) : (m.setHosted i p).pts = m.pts := rfl
@[simp] theorem M.setHosted_fab (m : M) (i : Nat) (p : HostedPair) : (m.setHosted i p).fab = m.fab := rfl
@[simp] theorem M.setHosted_img (m : M) (i : Nat) (p : HostedPair) : (m.setHosted i p).img = m.img := rfl
@[simp] theorem M.setHosted_exe (m : M) (i : Nat) (p : HostedPair) : (m.setHosted i p).exe = m.exe := rfl
@[simp] theorem M.setHosted_loop (m : M) (i : Nat) (p : HostedPair) : (m.setHosted i p).loop = m.loop := rfl
@[simp] theorem M.setHosted_mtr (m : M) (i : Nat) (p : HostedPair) : (m.setHosted i p).mtr = m.mtr := rfl
@[simp] theorem M.setHosted_can (m : M) (i : Nat) (p : HostedPair) : (m.setHosted i p).can = m.can := rfl
@[simp] theorem M.setHosted_eth (m : M) (i : Nat) (p : HostedPair) : (m.setHosted i p).eth = m.eth := rfl
@[simp] theorem M.setHosted_krov (m : M) (i : Nat) (p : HostedPair) : (m.setHosted i p).krov = m.krov := rfl
@[simp] theorem M.setHosted_tth (m : M) (i : Nat) (p : HostedPair) : (m.setHosted i p).tth = m.tth := rfl
@[simp] theorem M.setHosted_lio (m : M) (i : Nat) (p : HostedPair) : (m.setHosted i p).lio = m.lio := rfl
@[simp] theorem M.setHosted_boot (m : M) (i : Nat) (p : HostedPair) : (m.setHosted i p).boot = m.boot := rfl
@[simp] theorem M.setHosted_nvp (m : M) (i : Nat) (p : HostedPair) : (m.setHosted i p).nvp = m.nvp := rfl
@[simp] theorem M.setHosted_hst (m : M) (i : Nat) (p : HostedPair) : (m.setHosted i p).hst = m.hst := rfl
@[simp] theorem M.setHosted_kv (m : M) (i : Nat) (p : HostedPair) : (m.setHosted i p).kv = m.kv := rfl
@[simp] theorem M.setHosted_upd (m : M) (i : Nat) (p : HostedPair) : (m.setHosted i p).upd = m.upd := rfl
@[simp] theorem M.setHosted_rnd (m : M) (i : Nat) (p : HostedPair) : (m.setHosted i p).rnd = m.rnd := rfl
@[simp] theorem M.setHosted_free (m : M) (i : Nat) (p : HostedPair) : (m.setHosted i p).free = m.free := rfl
@[simp] theorem M.setHosted_out (m : M) (i : Nat) (p : HostedPair) : (m.setHosted i p).out = m.out := rfl

/-! ### setTrend -/

@[simp] theorem M.setTrend_regs (m : M) (n : Nat) (t : TrendLog) : (m.setTrend n t).regs = m.regs := rfl
@[simp] theorem M.setTrend_effs (m : M) (n : Nat) (t : TrendLog) : (m.setTrend n t).effs = m.effs := rfl
@[simp] theorem M.setTrend_slotB (m : M) (n : Nat) (t : TrendLog) : (m.setTrend n t).slotB = m.slotB := rfl
@[simp] theorem M.setTrend_time (m : M) (n : Nat) (t : TrendLog) : (m.setTrend n t).time = m.time := rfl
@[simp] theorem M.setTrend_power (m : M) (n : Nat) (t : TrendLog) : (m.setTrend n t).power = m.power := rfl
@[simp] theorem M.setTrend_ev (m : M) (n : Nat) (t : TrendLog) : (m.setTrend n t).ev = m.ev := rfl
@[simp] theorem M.setTrend_frec (m : M) (n : Nat) (t : TrendLog) : (m.setTrend n t).frec = m.frec := rfl
@[simp] theorem M.setTrend_pts (m : M) (n : Nat) (t : TrendLog) : (m.setTrend n t).pts = m.pts := rfl
@[simp] theorem M.setTrend_fab (m : M) (n : Nat) (t : TrendLog) : (m.setTrend n t).fab = m.fab := rfl
@[simp] theorem M.setTrend_img (m : M) (n : Nat) (t : TrendLog) : (m.setTrend n t).img = m.img := rfl
@[simp] theorem M.setTrend_exe (m : M) (n : Nat) (t : TrendLog) : (m.setTrend n t).exe = m.exe := rfl
@[simp] theorem M.setTrend_loop (m : M) (n : Nat) (t : TrendLog) : (m.setTrend n t).loop = m.loop := rfl
@[simp] theorem M.setTrend_mtr (m : M) (n : Nat) (t : TrendLog) : (m.setTrend n t).mtr = m.mtr := rfl
@[simp] theorem M.setTrend_can (m : M) (n : Nat) (t : TrendLog) : (m.setTrend n t).can = m.can := rfl
@[simp] theorem M.setTrend_eth (m : M) (n : Nat) (t : TrendLog) : (m.setTrend n t).eth = m.eth := rfl
@[simp] theorem M.setTrend_krov (m : M) (n : Nat) (t : TrendLog) : (m.setTrend n t).krov = m.krov := rfl
@[simp] theorem M.setTrend_ibx (m : M) (n : Nat) (t : TrendLog) : (m.setTrend n t).ibx = m.ibx := rfl
@[simp] theorem M.setTrend_tth (m : M) (n : Nat) (t : TrendLog) : (m.setTrend n t).tth = m.tth := rfl
@[simp] theorem M.setTrend_lio (m : M) (n : Nat) (t : TrendLog) : (m.setTrend n t).lio = m.lio := rfl
@[simp] theorem M.setTrend_boot (m : M) (n : Nat) (t : TrendLog) : (m.setTrend n t).boot = m.boot := rfl
@[simp] theorem M.setTrend_nvp (m : M) (n : Nat) (t : TrendLog) : (m.setTrend n t).nvp = m.nvp := rfl
@[simp] theorem M.setTrend_kv (m : M) (n : Nat) (t : TrendLog) : (m.setTrend n t).kv = m.kv := rfl
@[simp] theorem M.setTrend_upd (m : M) (n : Nat) (t : TrendLog) : (m.setTrend n t).upd = m.upd := rfl
@[simp] theorem M.setTrend_rnd (m : M) (n : Nat) (t : TrendLog) : (m.setTrend n t).rnd = m.rnd := rfl
@[simp] theorem M.setTrend_free (m : M) (n : Nat) (t : TrendLog) : (m.setTrend n t).free = m.free := rfl
@[simp] theorem M.setTrend_out (m : M) (n : Nat) (t : TrendLog) : (m.setTrend n t).out = m.out := rfl

/-! ### hold -/

@[simp] theorem M.hold_regs (m : M) (h : HeldAnswer) : (m.hold h).regs = m.regs := rfl
@[simp] theorem M.hold_effs (m : M) (h : HeldAnswer) : (m.hold h).effs = m.effs := rfl
@[simp] theorem M.hold_slotB (m : M) (h : HeldAnswer) : (m.hold h).slotB = m.slotB := rfl
@[simp] theorem M.hold_time (m : M) (h : HeldAnswer) : (m.hold h).time = m.time := rfl
@[simp] theorem M.hold_power (m : M) (h : HeldAnswer) : (m.hold h).power = m.power := rfl
@[simp] theorem M.hold_ev (m : M) (h : HeldAnswer) : (m.hold h).ev = m.ev := rfl
@[simp] theorem M.hold_frec (m : M) (h : HeldAnswer) : (m.hold h).frec = m.frec := rfl
@[simp] theorem M.hold_pts (m : M) (h : HeldAnswer) : (m.hold h).pts = m.pts := rfl
@[simp] theorem M.hold_fab (m : M) (h : HeldAnswer) : (m.hold h).fab = m.fab := rfl
@[simp] theorem M.hold_img (m : M) (h : HeldAnswer) : (m.hold h).img = m.img := rfl
@[simp] theorem M.hold_exe (m : M) (h : HeldAnswer) : (m.hold h).exe = m.exe := rfl
@[simp] theorem M.hold_loop (m : M) (h : HeldAnswer) : (m.hold h).loop = m.loop := rfl
@[simp] theorem M.hold_mtr (m : M) (h : HeldAnswer) : (m.hold h).mtr = m.mtr := rfl
@[simp] theorem M.hold_can (m : M) (h : HeldAnswer) : (m.hold h).can = m.can := rfl
@[simp] theorem M.hold_eth (m : M) (h : HeldAnswer) : (m.hold h).eth = m.eth := rfl
@[simp] theorem M.hold_ibx (m : M) (h : HeldAnswer) : (m.hold h).ibx = m.ibx := rfl
@[simp] theorem M.hold_tth (m : M) (h : HeldAnswer) : (m.hold h).tth = m.tth := rfl
@[simp] theorem M.hold_lio (m : M) (h : HeldAnswer) : (m.hold h).lio = m.lio := rfl
@[simp] theorem M.hold_boot (m : M) (h : HeldAnswer) : (m.hold h).boot = m.boot := rfl
@[simp] theorem M.hold_nvp (m : M) (h : HeldAnswer) : (m.hold h).nvp = m.nvp := rfl
@[simp] theorem M.hold_hst (m : M) (h : HeldAnswer) : (m.hold h).hst = m.hst := rfl
@[simp] theorem M.hold_kv (m : M) (h : HeldAnswer) : (m.hold h).kv = m.kv := rfl
@[simp] theorem M.hold_upd (m : M) (h : HeldAnswer) : (m.hold h).upd = m.upd := rfl
@[simp] theorem M.hold_rnd (m : M) (h : HeldAnswer) : (m.hold h).rnd = m.rnd := rfl
@[simp] theorem M.hold_free (m : M) (h : HeldAnswer) : (m.hold h).free = m.free := rfl
@[simp] theorem M.hold_out (m : M) (h : HeldAnswer) : (m.hold h).out = m.out := rfl

/-! ### setJob -/

@[simp] theorem M.setJob_regs (m : M) (j : LoadJob) : (m.setJob j).regs = m.regs := rfl
@[simp] theorem M.setJob_effs (m : M) (j : LoadJob) : (m.setJob j).effs = m.effs := rfl
@[simp] theorem M.setJob_slotB (m : M) (j : LoadJob) : (m.setJob j).slotB = m.slotB := rfl
@[simp] theorem M.setJob_time (m : M) (j : LoadJob) : (m.setJob j).time = m.time := rfl
@[simp] theorem M.setJob_power (m : M) (j : LoadJob) : (m.setJob j).power = m.power := rfl
@[simp] theorem M.setJob_ev (m : M) (j : LoadJob) : (m.setJob j).ev = m.ev := rfl
@[simp] theorem M.setJob_frec (m : M) (j : LoadJob) : (m.setJob j).frec = m.frec := rfl
@[simp] theorem M.setJob_pts (m : M) (j : LoadJob) : (m.setJob j).pts = m.pts := rfl
@[simp] theorem M.setJob_fab (m : M) (j : LoadJob) : (m.setJob j).fab = m.fab := rfl
@[simp] theorem M.setJob_exe (m : M) (j : LoadJob) : (m.setJob j).exe = m.exe := rfl
@[simp] theorem M.setJob_loop (m : M) (j : LoadJob) : (m.setJob j).loop = m.loop := rfl
@[simp] theorem M.setJob_mtr (m : M) (j : LoadJob) : (m.setJob j).mtr = m.mtr := rfl
@[simp] theorem M.setJob_can (m : M) (j : LoadJob) : (m.setJob j).can = m.can := rfl
@[simp] theorem M.setJob_eth (m : M) (j : LoadJob) : (m.setJob j).eth = m.eth := rfl
@[simp] theorem M.setJob_krov (m : M) (j : LoadJob) : (m.setJob j).krov = m.krov := rfl
@[simp] theorem M.setJob_ibx (m : M) (j : LoadJob) : (m.setJob j).ibx = m.ibx := rfl
@[simp] theorem M.setJob_tth (m : M) (j : LoadJob) : (m.setJob j).tth = m.tth := rfl
@[simp] theorem M.setJob_lio (m : M) (j : LoadJob) : (m.setJob j).lio = m.lio := rfl
@[simp] theorem M.setJob_boot (m : M) (j : LoadJob) : (m.setJob j).boot = m.boot := rfl
@[simp] theorem M.setJob_nvp (m : M) (j : LoadJob) : (m.setJob j).nvp = m.nvp := rfl
@[simp] theorem M.setJob_hst (m : M) (j : LoadJob) : (m.setJob j).hst = m.hst := rfl
@[simp] theorem M.setJob_kv (m : M) (j : LoadJob) : (m.setJob j).kv = m.kv := rfl
@[simp] theorem M.setJob_upd (m : M) (j : LoadJob) : (m.setJob j).upd = m.upd := rfl
@[simp] theorem M.setJob_rnd (m : M) (j : LoadJob) : (m.setJob j).rnd = m.rnd := rfl
@[simp] theorem M.setJob_free (m : M) (j : LoadJob) : (m.setJob j).free = m.free := rfl
@[simp] theorem M.setJob_out (m : M) (j : LoadJob) : (m.setJob j).out = m.out := rfl

/-! ### What reading a part gives after its update -/

@[simp] theorem M.canBox_setCan {m : M} {n : Nat} (c : CanState) (h : n < m.can.length) : (m.setCan n c).canBox n = c := by
  simp [M.canBox, M.setCan, listSet, h]

@[simp] theorem M.canBox_setCan_ne (m : M) {n k : Nat} (c : CanState) (h : n ≠ k) : (m.setCan n c).canBox k = m.canBox k := by
  simp [M.canBox, M.setCan, listSet, List.getElem?_set, h]

@[simp] theorem M.ethPort_setEth {m : M} {x : Nat} (p : EthPort) (h : x < m.eth.ports.length) : (m.setEth x p).ethPort x = p := by
  simp [M.ethPort, M.setEth, listSet, h]

@[simp] theorem M.ethPort_setEth_ne (m : M) {x y : Nat} (p : EthPort) (h : x ≠ y) : (m.setEth x p).ethPort y = m.ethPort y := by
  simp [M.ethPort, M.setEth, listSet, List.getElem?_set, h]

@[simp] theorem M.hosted_setHosted (m : M) {i : Nat} (p : HostedPair) (h : i < 16) : (m.setHosted i p).hosted i = p := by
  simp only [M.hosted, M.setHosted]
  rw [List.getElem?_set_self (by simp; omega)]
  rfl

/-! ### What the shared operations of the networks can do -/

/-- Starting what waits changes nothing but the controller, which then has a frame on the bus and the same queues received. -/
theorem M.canStart_cases (m : M) (n : Nat) : m.canStart n = m ∨
    (m.canSends n = true ∧ (m.canBox n).onBus = none ∧ ∃ c : CanState, m.canStart n = m.setCan n c ∧ c.onBus = m.nextTx n ∧ c.onBus ≠ none ∧
      c.rxq0 = (m.canBox n).rxq0 ∧ c.rxq1 = (m.canBox n).rxq1 ∧ c.stations = (m.canBox n).stations) := by
  unfold M.canStart
  dsimp only
  split
  · exact .inl rfl
  · rename_i h
    have hs : m.canSends n = true ∧ (m.canBox n).onBus = none := by simpa using h
    split <;> rename_i hx
    · exact .inl rfl
    · exact .inr ⟨hs.1, hs.2, _, rfl, hx.symm, by simp, rfl, rfl, rfl⟩
    · exact .inr ⟨hs.1, hs.2, _, rfl, hx.symm, by simp, rfl, rfl, rfl⟩
    · exact .inr ⟨hs.1, hs.2, _, rfl, hx.symm, by simp, rfl, rfl, rfl⟩

/-- A frame offered to a port is too long, meets a full queue and is counted, or joins the queue's end. -/
theorem M.queueTx_cases (m : M) (x : Nat) (f : EthTx) :
    (frameLimit x < f.body.length ∧ m.queueTx x f = m) ∨
    (f.body.length ≤ frameLimit x ∧ 64 ≤ (m.ethPort x).txq.length ∧ m.queueTx x f = m.count F.ETH_TXDROP_count x) ∨
    (f.body.length ≤ frameLimit x ∧ (m.ethPort x).txq.length < 64 ∧ m.queueTx x f = m.enqueue x f) := by
  unfold M.queueTx
  by_cases h : frameLimit x < f.body.length
  · exact .inl ⟨h, if_pos h⟩
  · by_cases g : 64 ≤ (m.ethPort x).txq.length
    · exact .inr (.inl ⟨by omega, g, by rw [if_neg h, if_pos g]⟩)
    · exact .inr (.inr ⟨by omega, by omega, by rw [if_neg h, if_neg g]⟩)

end Sys2Proof.Machine
end

