-- ==== Sys2Proof/Laws/Quiesce.lean ====
section
/-! SUPPORT. How quadrants return to run, quiesce and are left alone (R124 to R126). -/

namespace Sys2Proof.Machine

/-- The registers that show and ask for a quadrant's state. -/
def fabReg (x : Nat) : Prop := x = Reg.FAB_STAT.addr 0 0 0 ∨ x = Reg.FAB_EVT.addr 0 0 0 ∨ x = Reg.FAB_QCTRL.addr 0 0 0

/-- `b` has the quadrant states, requests and deadlines of `a`. -/
structure M.QuadKept (a b : M) : Prop where
  wipes : b.boot.wipes = a.boot.wipes
  time : b.time = a.time
  regs : ∀ x, fabReg x → aget x b.regs = aget x a.regs
  qb : ∀ q, (b.quad q).quiesceBy = (a.quad q).quiesceBy

theorem M.QuadKept.refl (a : M) : M.QuadKept a a := ⟨rfl, rfl, fun _ _ => rfl, fun _ => rfl⟩
theorem M.QuadKept.trans {a b c : M} (h : M.QuadKept a b) (g : M.QuadKept b c) : M.QuadKept a c :=
  ⟨g.wipes.trans h.wipes, g.time.trans h.time, fun x hx => (g.regs x hx).trans (h.regs x hx), fun q => (g.qb q).trans (h.qb q)⟩
theorem M.QuadKept.fold {α : Type} (l : List α) (f : M → α → M) (m : M) (h : ∀ a x, M.QuadKept a (f a x)) : M.QuadKept m (l.foldl f m) := by
  induction l generalizing m with
  | nil => exact .refl m
  | cons x t ih => exact (h m x).trans (ih _)
theorem M.QuadKept.ite {m a b : M} (c : Prop) [Decidable c] (ha : M.QuadKept m a) (hb : M.QuadKept m b) : M.QuadKept m (if c then a else b) := by split <;> assumption
theorem fabReg_side {x : Nat} (h : fabReg x) : sideAddr x = false := by
  rcases h with h | h | h <;> subst h <;> decide
theorem M.QuadKept.of_told {p : Nat → Prop} {a b : M} (h : M.PointsTold p a b) : M.QuadKept a b :=
  ⟨by rw [h.eq], by rw [h.eq], fun x hx => h.regs x (fabReg_side hx), fun q => by unfold M.quad; rw [h.fab]⟩
theorem M.QuadKept.of_update {a b : M} (h : M.UpdateOnly a b) : M.QuadKept a b := .of_told (p := fun _ => True) (.of_update h)
theorem M.QuadKept.wr (m : M) (r : Reg) (v : Word) (i j k : Nat) (h : ¬ fabReg (r.addr i j k)) : M.QuadKept m (m.wr r v i j k) :=
  ⟨rfl, rfl, fun x hx => by rw [M.aget_wr, if_neg]; intro e; subst e; exact h hx, fun _ => rfl⟩
theorem M.QuadKept.put (m : M) (x : FRef) (v i j k : Nat) (h : ¬ fabReg (x.reg.addr i j k)) : M.QuadKept m (m.put x v i j k) := by
  rw [M.put_eq_wr]; exact .wr _ _ _ _ _ _ h
theorem M.QuadKept.modQuad (m : M) (q : Nat) (g : Quadrant → Quadrant) (h : ∀ x, (g x).quiesceBy = x.quiesceBy) : M.QuadKept m (m.modQuad q g) := by
  refine ⟨rfl, rfl, fun _ _ => rfl, fun q' => ?_⟩
  unfold M.quad M.modQuad listMod
  simp only [List.getElem?_modify]
  split
  · subst q'; cases m.fab.quads[q]? with
    | none => rfl
    | some z => exact h z
  · simp

theorem kept_setCell (m : M) (q c : Nat) (cl : Cell) : M.QuadKept m (m.setCell q c cl) := M.QuadKept.modQuad m q _ (fun _ => rfl)

theorem M.QuadKept.shown {a b : M} (x : M.QuadKept a b) (c : Bool) (r : Nat) (v : Word) : M.QuadKept a (if c then b else b.backedUpdate 1 r v 0) := by
  split
  · exact x
  · exact x.trans (.of_told (M.pointsTold_backedUpdate _ _ _ _ _))

theorem kept_putT (m : M) (q c : Nat) (t' : TCell) : M.QuadKept m (m.putT q c t') := by
  cases h : m.cell q c with
  | none => unfold M.putT; simp only [h]; exact .refl m
  | some cl =>
    cases hb : cl.body with
    | t a =>
      unfold M.putT
      simp only [h, hb]
      exact ((((kept_setCell m q c { cl with body := .t t' }).shown _ _ _).shown _ _ _).shown _ _ _).shown _ _ _
    | a _ => unfold M.putT; simp only [h, hb]; exact .refl m
    | m _ => unfold M.putT; simp only [h, hb]; exact .refl m

theorem hwm_ne (q : Nat) (hq : q < 4) : ¬ fabReg (Reg.FAB_QSTAT.addr q 0 0) := match q, hq with
  | 0, _ | 1, _ | 2, _ | 3, _ => by unfold fabReg; decide

theorem kept_mark (m : M) (q : Nat) (hq : q < 4) : M.QuadKept m (m.markHigh q) := M.QuadKept.put _ _ _ _ _ _ (hwm_ne q hq)

theorem kept_send (m : M) (q c o l k : Nat) (v : Word) (u w : Nat) (hq : q < 4) : M.QuadKept m (m.send q c o l k v u w) := by
  unfold M.send
  split
  · exact .refl m
  · dsimp only
    refine M.QuadKept.trans ?_ (kept_mark _ q hq)
    exact M.QuadKept.modQuad m q _ (fun _ => rfl)

theorem kept_event (m : M) (a b : Nat) (u : Option Nat) : M.QuadKept m (m.fabricEvent a b u) := .of_update (.of_events (M.eventsOnly_fabricEvent ..))

theorem kept_edgeSend (m : M) (q c : Nat) (cl : Cell) (t : TCell) (l : Bool) (f : Nat) (hq : q < 4) :
    M.QuadKept m (m.edgeSend q c cl t l f) := by
  unfold M.edgeSend
  refine M.QuadKept.trans (M.QuadKept.trans ?_ (kept_putT _ q c _)) (kept_send _ q c 0 _ _ _ _ _ hq)
  refine (kept_event m 2 q (some cl.unit)).trans (M.QuadKept.trans (b := _) ?_ (M.QuadKept.modQuad _ q _ (fun _ => rfl)))
  exact ⟨rfl, rfl, fun _ _ => rfl, fun _ => rfl⟩

theorem kept_report (m : M) (q c : Nat) (l : Bool) (f : Nat) (hq : q < 4) : M.QuadKept m (m.edgeReport q c l f) := by
  unfold M.edgeReport
  split
  · exact .refl m
  · split
    · exact .refl m
    · split
      · exact kept_putT m q c _
      · split
        · exact (kept_putT m q c _).trans (kept_event _ 7 q _)
        · exact kept_edgeSend m q c _ _ _ _ hq

theorem kept_resume (m : M) (q : Nat) (hq : q < 4) : M.QuadKept m (m.resumeQuad q) := by
  refine M.QuadKept.ite _ (.refl m) (M.QuadKept.fold _ _ _ (fun a c => ?_))
  split
  · exact .refl a
  · refine M.QuadKept.ite _ (.refl a) (M.QuadKept.ite _ ((kept_putT a q c _).trans (kept_report _ q c _ _ hq)) (kept_putT a q c _))

theorem kept_release (m : M) (q : Nat) : M.QuadKept m (m.releaseHeld q) := by
  unfold M.releaseHeld
  apply M.QuadKept.fold
  intro a t
  split
  · exact .refl a
  · dsimp only
    have h1 : ¬ fabReg (F.EXE_TSTAT_skip.reg.addr t.1 0 0) := by
      unfold fabReg; simp [Reg.addr, Reg.spec]; omega
    have h2 := M.QuadKept.put a F.EXE_TSTAT_skip (satAdd (a.get F.EXE_TSTAT_skip t.1) t.2.held 255) t.1 0 0 h1
    generalize a.put F.EXE_TSTAT_skip (satAdd (a.get F.EXE_TSTAT_skip t.1) t.2.held 255) t.1 = b at h2 ⊢
    have h3 : M.QuadKept b (b.exeFlag F.EXE_EVT_skip) := by
      unfold M.exeFlag M.flag
      exact (M.QuadKept.put _ _ _ _ _ _ (by unfold fabReg; decide)).trans (.of_update (M.updateOnly_raise _ _ (by decide)))
    exact (h2.trans h3).trans ⟨rfl, rfl, fun _ _ => rfl, fun _ => rfl⟩

theorem fabReg_get {a b : M} (h : M.QuadKept a b) (x : FRef) (hx : fabReg (x.reg.addr 0 0 0)) : b.get x = a.get x := by
  unfold M.get; rw [M.rd_congr (h.regs _ hx)]
theorem kept_qstate {a b : M} (h : M.QuadKept a b) (q : Nat) : b.qstate q = a.qstate q := by
  unfold M.qstate; rw [fabReg_get h _ (Or.inl rfl)]
theorem kept_evt {a b : M} (h : M.QuadKept a b) (x : FRef) (hx : x.reg = .FAB_EVT) (q : Nat) : b.bitOf x q = a.bitOf x q := by
  unfold M.bitOf; rw [fabReg_get h _ (by rw [hx]; exact Or.inr (Or.inl rfl))]
theorem kept_req {a b : M} (h : M.QuadKept a b) (q : Nat) : b.bitOf F.FAB_QCTRL_req q = a.bitOf F.FAB_QCTRL_req q := by
  unfold M.bitOf; rw [fabReg_get h _ (Or.inr (Or.inr rfl))]

theorem M.qstate_setQstate (m : M) (q v : Nat) (hq : q < 4) (hv : v < 8) : (m.setQstate q v).qstate q = v := by
  unfold M.setQstate M.qstate
  rw [M.get_put_same _ _ _ _ _ _ (by decide)]
  have : setFieldN (m.get F.FAB_STAT_qstate) (3 * q) 3 v < 2 ^ 12 := setFieldN_lt (M.get_lt ..) (by omega)
  rw [show F.FAB_STAT_qstate.width = 12 from rfl, Nat.mod_eq_of_lt this, fieldN_setFieldN]; omega
theorem M.qstate_put_ne (m : M) (x : FRef) (v i j k q : Nat) (h : Reg.FAB_STAT.addr 0 0 0 ≠ x.reg.addr i j k) : (m.put x v i j k).qstate q = m.qstate q := by
  unfold M.qstate; rw [M.get_put_ne _ _ _ _ h]
theorem M.request_setQstate (m : M) (q v n : Nat) : (m.setQstate q v).bitOf F.FAB_QCTRL_req n = m.bitOf F.FAB_QCTRL_req n := by
  unfold M.setQstate M.bitOf; rw [M.get_put_ne _ _ _ _ (by decide)]

theorem M.quad_modQuad (m : M) (q : Nat) (g : Quadrant → Quadrant) (h : q < m.fab.quads.length) : ((m.modQuad q g).quad q) = g (m.quad q) := by
  unfold M.quad M.modQuad listMod
  simp only [List.getElem?_modify_eq]
  have : m.fab.quads[q]? = some m.fab.quads[q] := List.getElem?_eq_getElem h
  simp [this]

theorem M.returnToRun_spec (m : M) (q : Nat) (hq : q < 4) : (m.returnToRun q).qstate q = 2 ∧ (m.returnToRun q).bitOf F.FAB_QCTRL_req q = false ∧
    ((m.returnToRun q).quad q).quiesceBy = none ∧ (m.returnToRun q).boot.wipes = m.boot.wipes ∧
    (∀ x : FRef, x.reg = .FAB_EVT → ∀ n, (m.returnToRun q).bitOf x n = m.bitOf x n) := by
  unfold M.returnToRun
  dsimp only
  have hk := fun a : M => (kept_release a q).trans (kept_resume _ q hq)
  generalize hm1 : (m.putBit F.FAB_QCTRL_req q false).setQstate q 2 = m1
  have k := hk (m1.modQuad q (fun x => { x with quiesceBy := none }))
  refine ⟨?_, ?_, ?_, ?_, ?_⟩
  · rw [kept_qstate k]
    show m1.qstate q = 2
    rw [← hm1]; exact M.qstate_setQstate _ q 2 hq (by decide)
  · rw [kept_req k]
    show m1.bitOf F.FAB_QCTRL_req q = false
    rw [← hm1, M.request_setQstate]; exact M.bitOf_putBit_same m _ q false 0 0 0 (by decide) hq
  · rw [k.qb]
    by_cases h : q < m1.fab.quads.length
    · rw [M.quad_modQuad _ _ _ h]
    · unfold M.quad M.modQuad listMod
      simp only [List.getElem?_modify_eq]
      rw [List.getElem?_eq_none (by omega)]; rfl
  · rw [k.wipes, ← hm1]; rfl
  · intro x hx n
    rw [kept_evt k x hx]
    show m1.bitOf x n = _
    rw [← hm1]
    unfold M.setQstate M.putBit M.bitOf
    rw [M.get_put_ne _ _ _ _ (by rw [hx]; decide), M.get_put_ne _ _ _ _ (by rw [hx]; decide)]

theorem M.abandonPartial_eq (m : M) (q : Nat) : ∃ j, m.abandonPartial q = { m with img := { m.img with job := j } } := by
  unfold M.abandonPartial
  split
  · split
    · exact ⟨_, rfl⟩
    · exact ⟨m.img.job, rfl⟩
  · exact ⟨m.img.job, rfl⟩

theorem M.quiesceCancel_spec (m : M) (q : Nat) (hq : q < 4) (h : m.qstate q = 3 ∨ m.qstate q = 4) : (m.quiesceCancel q).qstate q = 2 ∧
    (m.quiesceCancel q).bitOf F.FAB_QCTRL_req q = false ∧ ((m.quiesceCancel q).quad q).quiesceBy = none := by
  unfold M.quiesceCancel
  rcases h with h | h
  · simp only [h, beq_self_eq_true, if_true]
    obtain ⟨a, b, c, _⟩ := M.returnToRun_spec (m.abandonPartial q) q hq
    exact ⟨a, b, c⟩
  · simp only [h, beq_self_eq_true, if_true]
    obtain ⟨a, b, c, _⟩ := M.returnToRun_spec m q hq
    exact ⟨a, b, c⟩

theorem M.quiesceRequest_wipes (m : M) (q : Nat) : (m.quiesceRequest q).boot.wipes = m.boot.wipes := by
  unfold M.quiesceRequest; split <;> rfl
theorem M.quiesceCancel_wipes (m : M) (q : Nat) (hq : q < 4) : (m.quiesceCancel q).boot.wipes = m.boot.wipes := by
  unfold M.quiesceCancel
  split
  · obtain ⟨j, hj⟩ := M.abandonPartial_eq m q
    rw [(M.returnToRun_spec _ q hq).2.2.2.1, hj]
  · split
    · rw [(M.returnToRun_spec _ q hq).2.2.2.1]
    · rfl

end Sys2Proof.Machine
end

