-- ==== Sys2Proof/Laws/Sessions.lean ====
section
/-! SUPPORT. What closing sessions can change (R373): sessions, transfers, subscriptions, a package being received, and the log. -/

namespace Sys2Proof.Machine

/-- `b` differs from `a` at most in what closing sessions changes. -/
structure M.ClosesOnly (a b : M) : Prop where
  eq : b = { a with regs := b.regs, ev := b.ev, frec := b.frec,
                    krov := { a.krov with sessions := b.krov.sessions, transfers := b.krov.transfers },
                    pts := { a.pts with subs := b.pts.subs, notes := b.pts.notes },
                    upd := { a.upd with headerOk := b.upd.headerOk } }
  regs : ∀ x, eventAddr x = false → x ≠ Reg.UPD_STAT.addr 0 0 0 → aget x b.regs = aget x a.regs

theorem M.ClosesOnly.refl (a : M) : M.ClosesOnly a a := ⟨rfl, fun _ _ _ => rfl⟩

theorem M.ClosesOnly.trans {a b c : M} (h : M.ClosesOnly a b) (g : M.ClosesOnly b c) : M.ClosesOnly a c := by
  refine ⟨?_, fun x h1 h2 => (g.regs x h1 h2).trans (h.regs x h1 h2)⟩
  have hb := h.eq
  have hc := g.eq
  generalize c.regs = r, c.ev = v, c.frec = f, c.krov.sessions = ks, c.krov.transfers = kt, c.pts.subs = ps, c.pts.notes = pn,
    c.upd.headerOk = u at hc ⊢
  rw [hc, hb]

theorem M.ClosesOnly.of_events {a b : M} (h : M.EventsOnly a b) : M.ClosesOnly a b := by
  refine ⟨?_, fun x hx _ => h.regs x hx⟩
  have e := h.eq
  have h1 : b.krov = a.krov := by rw [e]
  have h2 : b.pts = a.pts := by rw [e]
  have h3 : b.upd = a.upd := by rw [e]
  rw [h1, h2, h3]; exact e

theorem M.closesOnly_dropTransfers (m : M) (p : Transfer → Bool) : M.ClosesOnly m (m.dropTransfers p) := by
  unfold M.dropTransfers
  extract_lets gone _ m1
  have h1 : M.ClosesOnly m m1 := ⟨rfl, fun _ _ _ => rfl⟩
  clear_value m1
  refine h1.trans ?_
  split
  · refine ⟨rfl, fun x _ hx => ?_⟩
    rw [M.put_eq_wr, M.aget_wr, if_neg hx]
  · exact .refl m1

theorem M.closesOnly_close (m : M) (place reason : Nat) : M.ClosesOnly m (m.closeAt place reason) := by
  unfold M.closeAt
  split
  · exact .refl m
  · next s _ =>
    extract_lets _ m1 body
    have h1 : M.ClosesOnly m m1 :=
      (show M.ClosesOnly m ({ m with krov := { m.krov with sessions := adel place m.krov.sessions } }) from ⟨rfl, fun _ _ _ => rfl⟩).trans
        (M.closesOnly_dropTransfers _ _)
    clear_value m1
    refine h1.trans ?_
    split
    · exact (show M.ClosesOnly m1 (m1.dropSubscriptions s.id) from ⟨rfl, fun _ _ _ => rfl⟩).trans (.of_events (M.eventsOnly_logEntry ..))
    · exact .refl m1

theorem M.closesOnly_where (m : M) (reason : Nat) (p : Session → Bool) : M.ClosesOnly m (m.closeWhere reason p) := by
  unfold M.closeWhere
  generalize m.krov.sessions.filter (fun x => p x.2) = l
  induction l generalizing m with
  | nil => exact .refl m
  | cons x t ih => exact (m.closesOnly_close x.1 reason).trans (ih _)

theorem M.closesOnly_sessions (m : M) (reason : Nat) : M.ClosesOnly m (m.closeSessions reason) := m.closesOnly_where reason _

theorem M.ClosesOnly.boot {a b : M} (h : M.ClosesOnly a b) : b.boot = a.boot := by rw [h.eq]

theorem M.ClosesOnly.get {a b : M} (h : M.ClosesOnly a b) {x : FRef} {i j k : Nat} (hx : eventAddr (x.reg.addr i j k) = false)
    (hu : x.reg.addr i j k ≠ Reg.UPD_STAT.addr 0 0 0) : b.get x i j k = a.get x i j k := by
  unfold M.get; rw [M.rd_congr (h.regs _ hx hu)]

/-! ### Encrypted payloads (R364) -/

theorem gcmCrypt_length (key nonce text : Bytes) : (gcmCrypt key nonce text).length = text.length := by simp [gcmCrypt]

theorem gcmCrypt_twice (key nonce text : Bytes) : gcmCrypt key nonce (gcmCrypt key nonce text) = text := by
  apply List.ext_getElem
  · simp [gcmCrypt_length]
  · intro i h1 h2
    simp [gcmCrypt, BitVec.xor_assoc]

/-- What was sealed opens to its plaintext. -/
theorem gcmOpen_gcmSeal (key nonce ad plain : Bytes) : gcmOpen key nonce ad (gcmSeal key nonce ad plain) = some plain := by
  have h : (gcmSeal key nonce ad plain).length - 16 = (gcmCrypt key nonce plain).length := by simp [gcmSeal, toBE]
  simp only [gcmOpen, h]
  simp [gcmSeal, gcmCrypt_twice]

end Sys2Proof.Machine
end

