-- ==== Sys2Proof/Laws/Told.lean ====
section
/-! SUPPORT. Registers that raising events and telling points leave as they are: conditions that evaluate. -/

namespace Sys2Proof.Machine

/-- All instances of a register lie in one window, in none that a change tells others by. -/
def Reg.quiet (r : Reg) : Bool :=
  let w := r.spec.base / 65536
  let e := (r.spec.base + r.spec.s1 * (r.spec.n1 - 1)) / 65536
  e == w && !(w == 0x4002 || w == 0x4008) && !(0x4020 ≤ w && w ≤ 0x4027) && !(w == Reg.UPD_IMG_STAT.addr 0 0 0 / 65536)

theorem Reg.quiet_side {r : Reg} (h : r.quiet = true) {n : Nat} (hn : n < r.spec.n1) : sideAddr (r.addr n 0 0) = false := by
  have h1 : r.spec.s1 * n ≤ r.spec.s1 * (r.spec.n1 - 1) := Nat.mul_le_mul_left _ (by omega)
  simp only [Reg.quiet, Bool.and_eq_true, beq_iff_eq, Bool.not_eq_true', Bool.or_eq_false_iff, beq_eq_false_iff_ne,
    Bool.and_eq_false_iff, decide_eq_false_iff_not] at h
  have e : r.addr n 0 0 = r.spec.base + r.spec.s1 * n := by unfold Reg.addr; simp
  have hw : r.addr n 0 0 / 65536 = r.spec.base / 65536 := by rw [e]; omega
  have hi : r.addr n 0 0 ≠ Reg.UPD_IMG_STAT.addr 0 0 0 := by
    intro he
    rw [he] at hw
    exact h.2 hw.symm
  simp only [sideAddr, eventAddr, Bool.or_eq_false_iff, Bool.and_eq_false_iff, beq_eq_false_iff_ne, decide_eq_false_iff_not, hw]
  exact ⟨⟨h.1.1.2, h.1.2⟩, hi⟩

theorem Reg.quiet_event {r : Reg} (h : r.quiet = true) {n : Nat} (hn : n < r.spec.n1) : eventAddr (r.addr n 0 0) = false :=
  side_of_event (r.quiet_side h hn)

namespace Chain

variable (m : M) (n : Nat)

theorem rd_raise {s : Nat} {r : Reg} (hs : s < 256) (hn : n < r.spec.n1) (h : r.quiet = true) : (m.raise s).rd r n = m.rd r n :=
  (m.eventsOnly_raise s hs).rd (r.quiet_event h hn)

theorem get_raise {s : Nat} {y : FRef} (hs : s < 256) (hn : n < y.reg.spec.n1) (h : y.reg.quiet = true) : (m.raise s).get y n = m.get y n :=
  (m.eventsOnly_raise s hs).get (y.reg.quiet_event h hn)

theorem rd_backed {b f st : Nat} {v : Word} {r : Reg} (hn : n < r.spec.n1) (h : r.quiet = true) : (m.backedUpdate b f v st).rd r n = m.rd r n :=
  M.rd_congr ((m.pointsTold_backedUpdate b f v st).regs _ (r.quiet_side h hn))

theorem get_backed {b f st : Nat} {v : Word} {y : FRef} (hn : n < y.reg.spec.n1) (h : y.reg.quiet = true) :
    (m.backedUpdate b f v st).get y n = m.get y n := by unfold M.get; rw [rd_backed m n hn h]

theorem rd_note {c v t : Nat} {l : List Nat} {r : Reg} (hn : n < r.spec.n1) (h : r.quiet = true) : (m.note c v t l).rd r n = m.rd r n :=
  (m.eventsOnly_note c v t l).rd (r.quiet_event h hn)

theorem get_note {c v t : Nat} {l : List Nat} {y : FRef} (hn : n < y.reg.spec.n1) (h : y.reg.quiet = true) :
    (m.note c v t l).get y n = m.get y n := (m.eventsOnly_note c v t l).get (y.reg.quiet_event h hn)

end Chain

end Sys2Proof.Machine
end

