-- ==== Sys2Proof/Laws/Span.lean ====
section
/-! SUPPORT. Fields of registers of several indices: those of one block at one first index leave each other as they are. -/

namespace Sys2Proof.Machine

/-- Two registers of one first-index stride whose instances at one first index lie apart. -/
def Reg.spanApart (r q : Reg) : Bool :=
  r.spec.s1 == q.spec.s1 &&
    decide (q.spec.base + q.spec.s2 * (q.spec.n2 - 1) + q.spec.s3 * (q.spec.n3 - 1) < r.spec.base ∨
      r.spec.base + r.spec.s2 * (r.spec.n2 - 1) + r.spec.s3 * (r.spec.n3 - 1) < q.spec.base)

theorem Reg.spanApart_ne {r q : Reg} (h : r.spanApart q = true) {n j k a b : Nat} (hj : j < r.spec.n2) (hk : k < r.spec.n3)
    (ha : a < q.spec.n2) (hb : b < q.spec.n3) : q.addr n a b ≠ r.addr n j k := by
  simp only [Reg.spanApart, Bool.and_eq_true, beq_iff_eq, decide_eq_true_eq] at h
  have h1 : r.spec.s2 * j ≤ r.spec.s2 * (r.spec.n2 - 1) := Nat.mul_le_mul_left _ (by omega)
  have h2 : r.spec.s3 * k ≤ r.spec.s3 * (r.spec.n3 - 1) := Nat.mul_le_mul_left _ (by omega)
  have h3 : q.spec.s2 * a ≤ q.spec.s2 * (q.spec.n2 - 1) := Nat.mul_le_mul_left _ (by omega)
  have h4 : q.spec.s3 * b ≤ q.spec.s3 * (q.spec.n3 - 1) := Nat.mul_le_mul_left _ (by omega)
  unfold Reg.addr
  rw [h.1]
  omega

/-- A register beyond the windows of the event controller and the recorder. -/
def Reg.beyond (r : Reg) : Bool := decide (0x40090000 ≤ r.spec.base)

theorem Reg.beyond_event {r : Reg} (h : r.beyond = true) (i j k : Nat) : eventAddr (r.addr i j k) = false := by
  have h' : 0x40090000 ≤ r.spec.base := of_decide_eq_true h
  unfold eventAddr Reg.addr
  simp only [Bool.or_eq_false_iff, beq_eq_false_iff_ne]
  omega

/-- Two registers whose instances stand at different offsets of their 64 KiB windows. -/
def Reg.offsetApart (r q : Reg) : Bool :=
  r.spec.s1 % 65536 == 0 && q.spec.s1 % 65536 == 0 && !(r.spec.base % 65536 == q.spec.base % 65536)

theorem Reg.offsetApart_ne {r q : Reg} (h : r.offsetApart q = true) (i j : Nat) : q.addr j 0 0 ≠ r.addr i 0 0 := by
  simp only [Reg.offsetApart, Bool.and_eq_true, beq_iff_eq, Bool.not_eq_true', beq_eq_false_iff_ne] at h
  obtain ⟨c, hc⟩ := Nat.dvd_of_mod_eq_zero h.1.1
  obtain ⟨d, hd⟩ := Nat.dvd_of_mod_eq_zero h.1.2
  unfold Reg.addr
  rw [hc, hd, Nat.mul_assoc, Nat.mul_assoc]
  have := h.2
  generalize c * i = u
  generalize d * j = v
  omega

namespace Span

variable (m : M) {n j k a b : Nat} {v : Nat}

theorem get_put {x y : FRef} (hj : j < x.reg.spec.n2) (hk : k < x.reg.spec.n3) (ha : a < y.reg.spec.n2) (hb : b < y.reg.spec.n3)
    (h : x.reg.spanApart y.reg = true) : (m.put x v n j k).get y n a b = m.get y n a b :=
  M.get_put_ne m x y v (Reg.spanApart_ne h hj hk ha hb)

theorem get_put_field {x y : FRef} (h : decide (y.reg = x.reg ∧ x.lo + x.width ≤ 32 ∧ (y.lo + y.width ≤ x.lo ∨ x.lo + x.width ≤ y.lo)) = true) :
    (m.put x v n j k).get y n j k = m.get y n j k := by
  have h := of_decide_eq_true h
  exact M.get_put_beside m x y v n j k h.2.1 h.1 h.2.2

theorem rd_put {x : FRef} {r : Reg} (hj : j < x.reg.spec.n2) (hk : k < x.reg.spec.n3) (ha : a < r.spec.n2) (hb : b < r.spec.n3)
    (h : x.reg.spanApart r = true) : (m.put x v n j k).rd r n a b = m.rd r n a b :=
  M.rd_put_ne m x v (Reg.spanApart_ne h hj hk ha hb)

theorem get_wr {r : Reg} {u : Word} {y : FRef} (hj : j < r.spec.n2) (hk : k < r.spec.n3) (ha : a < y.reg.spec.n2) (hb : b < y.reg.spec.n3)
    (h : r.spanApart y.reg = true) : (m.wr r u n j k).get y n a b = m.get y n a b := by
  unfold M.get; rw [M.rd_wr_ne m u (Reg.spanApart_ne h hj hk ha hb)]

theorem rd_wr {r q : Reg} {u : Word} (hj : j < r.spec.n2) (hk : k < r.spec.n3) (ha : a < q.spec.n2) (hb : b < q.spec.n3)
    (h : r.spanApart q = true) : (m.wr r u n j k).rd q n a b = m.rd q n a b := M.rd_wr_ne m u (Reg.spanApart_ne h hj hk ha hb)

/-- Fields of registers at different offsets, whatever their indices. -/
theorem get_put_offset {i l : Nat} {x y : FRef} (h : x.reg.offsetApart y.reg = true) : (m.put x v i).get y l = m.get y l :=
  M.get_put_ne m x y v (Reg.offsetApart_ne h i l)

theorem rd_put_offset {i l : Nat} {x : FRef} {r : Reg} (h : x.reg.offsetApart r = true) : (m.put x v i).rd r l = m.rd r l :=
  M.rd_put_ne m x v (Reg.offsetApart_ne h i l)

theorem get_wr_offset {i l : Nat} {r : Reg} {u : Word} {y : FRef} (h : r.offsetApart y.reg = true) : (m.wr r u i).get y l = m.get y l := by
  unfold M.get; rw [M.rd_wr_ne m u (Reg.offsetApart_ne h i l)]

/-- Within one register, other instances. -/
theorem get_put_other {x y : FRef} (hr : y.reg = x.reg) {i i' j j' k k' : Nat}
    (h : x.reg.addr i' j' k' ≠ x.reg.addr i j k) : (m.put x v i j k).get y i' j' k' = m.get y i' j' k' :=
  M.get_put_ne m x y v (by rw [hr]; exact h)

theorem get_raise {s : Nat} {y : FRef} (hs : s < 256) (h : y.reg.beyond = true) : (m.raise s).get y n a b = m.get y n a b :=
  (m.eventsOnly_raise s hs).get (y.reg.beyond_event h n a b)

theorem rd_raise {s : Nat} {r : Reg} (hs : s < 256) (h : r.beyond = true) : (m.raise s).rd r n a b = m.rd r n a b :=
  (m.eventsOnly_raise s hs).rd (r.beyond_event h n a b)

theorem get_note {c w t : Nat} {l : List Nat} {y : FRef} (h : y.reg.beyond = true) : (m.note c w t l).get y n a b = m.get y n a b :=
  (m.eventsOnly_note c w t l).get (y.reg.beyond_event h n a b)

theorem rd_note {c w t : Nat} {l : List Nat} {r : Reg} (h : r.beyond = true) : (m.note c w t l).rd r n a b = m.rd r n a b :=
  (m.eventsOnly_note c w t l).rd (r.beyond_event h n a b)

end Span

end Sys2Proof.Machine
end

