-- ==== Sys2Proof/Laws/Sram.lean ====
section
/-! SUPPORT. The host memories: every store keeps the canonical form, a read after a store gives the bytes stored, and every other
byte stays. -/

namespace Sys2Proof.Machine

/-! ### Rising keys -/

/-- Every key of a table is above a bound. -/
def keysAbove {α : Type} (k : Nat) (l : List (Nat × α)) : Bool := l.all (fun p => decide (k < p.1))

theorem arising_cons {α : Type} (p : Nat × α) (l : List (Nat × α)) : arising (p :: l) = (keysAbove p.1 l && arising l) := by
  induction l generalizing p with
  | nil => rfl
  | cons q t ih =>
    show (decide (p.1 < q.1) && arising (q :: t)) = (keysAbove p.1 (q :: t) && arising (q :: t))
    rw [ih q]
    simp only [keysAbove, List.all_cons]
    by_cases h : p.1 < q.1
    · simp only [h, decide_true, Bool.true_and]
      cases hk : t.all (fun r => decide (q.1 < r.1)) with
      | false => simp
      | true =>
        have : t.all (fun r => decide (p.1 < r.1)) = true := by
          simp only [List.all_eq_true, decide_eq_true_eq] at hk ⊢
          intro r hr; have := hk r hr; omega
        simp [this]
    · simp [h]

theorem keysAbove_aput {α : Type} {b k : Nat} (v : α) {l : List (Nat × α)} (h : keysAbove b l = true) (hk : b < k) :
    keysAbove b (aput k v l) = true := by
  induction l with
  | nil => simp [aput, keysAbove, hk]
  | cons q t ih =>
    obtain ⟨k', v'⟩ := q
    simp only [keysAbove, List.all_cons, Bool.and_eq_true, decide_eq_true_eq] at h ih
    simp only [aput]
    split
    · simp only [keysAbove, List.all_cons, Bool.and_eq_true, decide_eq_true_eq]; exact ⟨hk, h⟩
    · split
      · simp only [keysAbove, List.all_cons, Bool.and_eq_true, decide_eq_true_eq]; exact ⟨hk, h.2⟩
      · simp only [keysAbove, List.all_cons, Bool.and_eq_true, decide_eq_true_eq] at *; exact ⟨h.1, ih h.2⟩

theorem arising_aput {α : Type} (k : Nat) (v : α) {l : List (Nat × α)} (h : arising l = true) : arising (aput k v l) = true := by
  induction l with
  | nil => rfl
  | cons q t ih =>
    obtain ⟨k', v'⟩ := q
    have h' := h
    rw [arising_cons, Bool.and_eq_true] at h'
    simp only [aput]
    split
    · next hk =>
      rw [arising_cons, Bool.and_eq_true]
      refine ⟨?_, h⟩
      simp only [keysAbove, List.all_cons, Bool.and_eq_true, decide_eq_true_eq]
      refine ⟨hk, ?_⟩
      have hb := h'.1
      simp only [keysAbove, List.all_eq_true, decide_eq_true_eq] at hb ⊢
      intro r hr; have := hb r hr; omega
    · split
      · next hk =>
        have : k = k' := by simpa using hk
        subst this
        rw [arising_cons, Bool.and_eq_true]; exact h'
      · next h1 h2 =>
        rw [arising_cons, Bool.and_eq_true]
        have : k' < k := by
          have : ¬ k = k' := by simpa using h2
          omega
        exact ⟨keysAbove_aput v h'.1 this, ih h'.2⟩

theorem arising_adel {α : Type} (k : Nat) {l : List (Nat × α)} (h : arising l = true) : arising (adel k l) = true := by
  induction l with
  | nil => rfl
  | cons q t ih =>
    rw [arising_cons, Bool.and_eq_true] at h
    simp only [adel, List.filter_cons]
    split
    · rw [arising_cons, Bool.and_eq_true]
      refine ⟨?_, ih h.2⟩
      have := h.1
      simp only [keysAbove, List.all_eq_true, decide_eq_true_eq] at this ⊢
      intro r hr
      exact this r (List.mem_filter.mp hr).1
    · exact ih h.2

theorem all_aput {α : Type} (f : Nat × α → Bool) {k : Nat} {v : α} {l : List (Nat × α)} (h : l.all f = true) (hv : f (k, v) = true) :
    (aput k v l).all f = true := by
  induction l with
  | nil => simp [aput, hv]
  | cons q t ih =>
    obtain ⟨k', v'⟩ := q
    simp only [List.all_cons, Bool.and_eq_true] at h
    simp only [aput]
    split
    · simp only [List.all_cons, Bool.and_eq_true]; exact ⟨hv, h⟩
    · split
      · simp only [List.all_cons, Bool.and_eq_true]; exact ⟨hv, h.2⟩
      · simp only [List.all_cons, Bool.and_eq_true]; exact ⟨h.1, ih h.2⟩

/-! ### Stores keep the canonical form -/

theorem sramWf_put {s : Sram} (a : Nat) (b : Byte) (h : sramWf s = true) : sramWf (sramPut s a b) = true := by
  unfold sramWf at h ⊢
  rw [Bool.and_eq_true] at h ⊢
  unfold sramPut putd
  split
  · refine ⟨arising_adel a h.1, ?_⟩
    have := h.2
    simp only [List.all_eq_true] at this ⊢
    intro p hp
    exact this p (List.mem_filter.mp hp).1
  · next hb =>
    have hb' : b ≠ 0 := hb
    exact ⟨arising_aput a b h.1, all_aput _ h.2 (by simpa using hb')⟩

/-- A store of any width keeps the canonical form. -/
theorem sramWf_write {s : Sram} (a n v : Nat) (h : sramWf s = true) : sramWf (sramWrite s a n v) = true := by
  unfold sramWrite
  generalize List.range n = l
  induction l generalizing s with
  | nil => exact h
  | cons i t ih => exact ih (sramWf_put _ _ h)

@[simp] theorem sramWf_nil : sramWf [] = true := rfl

/-! ### Reads after stores -/

theorem sramByte_put (s : Sram) (a x : Nat) (b : Byte) : sramByte (sramPut s a b) x = if x = a then b else sramByte s x := by
  unfold sramByte sramPut putd getd
  split
  · next hb =>
    subst hb
    split
    · next hx => subst hx; simp
    · next hx => rw [aget_adel_ne hx]
  · rw [aget_aput]; split <;> rfl

/-- Every byte outside a store reads as before. -/
theorem sramByte_write_ne (s : Sram) (a n v x : Nat) (h : ∀ i < n, x ≠ a + i) : sramByte (sramWrite s a n v) x = sramByte s x := by
  unfold sramWrite
  have : ∀ (l : List Nat) (t : Sram), (∀ i ∈ l, i < n) →
      sramByte (l.foldl (fun (t : Sram) i => sramPut t (a + i) (BitVec.ofNat 8 (v / 256 ^ i))) t) x = sramByte t x := by
    intro l
    induction l with
    | nil => intro t _; rfl
    | cons i r ih =>
      intro t hl
      rw [List.foldl_cons, ih _ (fun j hj => hl j (List.mem_cons_of_mem _ hj)), sramByte_put,
        if_neg (h i (hl i List.mem_cons_self))]
  exact this _ _ (fun i hi => List.mem_range.mp hi)

/-- A byte of a store reads as stored. -/
theorem sramByte_write (s : Sram) (a n v i : Nat) (hi : i < n) :
    sramByte (sramWrite s a n v) (a + i) = BitVec.ofNat 8 (v / 256 ^ i) := by
  unfold sramWrite
  induction n with
  | zero => omega
  | succ k ih =>
    rw [List.range_succ, List.foldl_append]
    simp only [List.foldl_cons, List.foldl_nil]
    rw [sramByte_put]
    by_cases h : i = k
    · subst h; simp
    · rw [if_neg (by omega)]; exact ih (by omega)

/-! ### The spine -/

/-- The memories after an access are the memories before it, or those after a store of an accepted write to a host memory. -/
theorem busRead_sram (b : Bus) (w : Who) (a n : Nat) : (busRead b w a n).2.2 = b.2 := by
  obtain ⟨m, s⟩ := b
  unfold busRead
  simp only
  cases m.refusal w a n false with
  | some r => simp only
  | none =>
    simp only
    generalize (M.drawFree m) = x
    generalize (M.windowRead m w a n) = y
    generalize  (m.readPair w (placeAt a) (placeAt (a + 4))) = z
    generalize placeAt a = p
    generalize (n == 8) = c
    cases regionOf a with
    | none => cases c <;> simp only [if_true, if_false, Bool.false_eq_true] <;> cases p <;> simp only
    | some g => cases g <;> simp only <;> cases c <;> simp only [if_true, if_false, Bool.false_eq_true] <;> cases p <;> simp only

theorem busWrite_sram (b : Bus) (w : Who) (a n v : Nat) :
    (busWrite b w a n v).2.2 = b.2 ∨ (busWrite b w a n v).2.2 = sramWrite b.2 a n v := by
  obtain ⟨m, s⟩ := b
  unfold busWrite
  simp only
  cases m.refusal w a n true with
  | some r => simp
  | none =>
    cases regionOf a with
    | none => simp only; split <;> simp
    | some g => cases g <;> simp only <;> (try simp) <;> split <;> simp

theorem sramWf_busWrite {b : Bus} (w : Who) (a n v : Nat) (h : sramWf b.2 = true) : sramWf (busWrite b w a n v).2.2 = true := by
  rcases busWrite_sram b w a n v with e | e <;> rw [e]
  · exact h
  · exact sramWf_write _ _ _ h

theorem readBy_sram (b : Bus) (by_ : Master) (a n : Nat) : (readBy b by_ a n).2 = b.2 := by
  unfold readBy
  split
  · rfl
  · next w _ =>
    split
    · rfl
    · have := busRead_sram (b.1.accessEvents w.ini false (inPoints a) (!b.1.sees w (pointAt a)), b.2) w a n
      split <;> simp_all

theorem sramWf_writeBy {b : Bus} (by_ : Master) (a n v : Nat) (h : sramWf b.2 = true) : sramWf (writeBy b by_ a n v).2 = true := by
  unfold writeBy
  split
  · exact h
  · next w _ =>
    split
    · exact h
    · have := sramWf_busWrite (b := (b.1.accessEvents w.ini true (inPoints a) (!b.1.sees w (pointAt a)), b.2)) w a n v h
      split <;> simp_all

end Sys2Proof.Machine
end

