-- ==== Sys2Proof/Tests/Slice0.lean ====
section
/-! SUPPORT. Small tests of single commands, ill-formed commands, and states that meet the hypotheses of the statements. -/

namespace Sys2Proof.Tests
open Sys2Proof.Machine

/- One test after the other: each holds a thread of its own while the kernel evaluates it. -/
set_option Elab.async false

/-- The module in service, with every domain on. -/
def up : M := ({ M.reset with boot := { M.reset.boot with
  phase := .service
  mgmt := true } } : M).put F.PMC_PD_STAT_state 0x55555555

def upS : State := { State.reset with m := up }

/-- What a command leaves of the block. -/
def leaves {α : Type} (m : M) (c : Instr) (f : M → α) : Option α :=
  match exec c { State.reset with m := m } with
  | .next t => some (f t.m)
  | _ => none

/-! ### Commands out of range -/

/-- A command that names nothing the module has changes nothing (log 80). -/
def changesNothing (c : Instr) : Bool :=
  !c.wellFormed && (match exec c State.reset with
  | .next t => decide (t = State.reset)
  | _ => false)

def partner : EthPartner := ⟨true, true, true, true, true, true, true⟩
def ethRx (b : Bytes) : EthRx := ⟨true, 64, none, .other, b, 0, 0⟩
def canFrame : CanFrame := ⟨false, false, false, false, false, 0x123, 1, [7]⟩
def packet : KrovPacket :=
  ⟨2, none, true, [10, 0, 0, 9], 40000, [192, 168, 96, 40], 52113, 0xD74B, 2, 0, 0, 0, 0, 0, 0, 0, 0, [], List.replicate 16 0⟩
def ptp : PtpRx := ⟨none, 1, 0⟩

/-- Indexes of accesses, points, cells, units, blocks and groups out of range: no command of the module. -/
theorem test_ill_formed_access_and_fabric :
    [.registerWrite .h0 (2 ^ 32) 0 0, .registerWrite .h0 0 9 0, .registerWrite .h0 0 0 256, .registerWrite .h0 0 0 1,
     .rcRead .h0 (2 ^ 32) 0, .rcRead .h0 0 9, .pointAccess .h0 65536 .read, .paceWindowEnd [0, 0, 0, 0, 0],
     .paceWindowEnd [0, 0, 0, 0, 0, 65536], .notifySlot 32, .notifyInterval 0 65536, .aCellFiring 4 0 0,
     .aCellFiring 0 0x600 0, .aCellFiring 0 0 8, .tokenAccept 4 ⟨0, 0⟩ false, .tokenAccept 0 ⟨0x801, 0⟩ false,
     .cellPointAccessIssue 4 0, .cellPointAccessIssue 0 0x600, .cellPointResponse 4 0, .cellPointResponse 0 0x600,
     .tCellInput 4 0x600, .tCellInput 0 0x700, .tCellInput 0 0x5ff, .tCellPreset 4 0x600, .tCellPreset 0 0x700,
     .tCellPreset 0 0x5ff, .timerExpiry 4 0x600, .timerExpiry 0 0x700, .timerExpiry 0 0x5ff, .cycPeriod 4 0x600,
     .cycPeriod 0 0x700, .cycPeriod 0 0x5ff, .edgeAccept 4 0x600, .edgeAccept 0 0x700, .edgeAccept 0 0x5ff,
     .countToken 4 0x600, .countToken 0 0x700, .countToken 0 0x5ff, .carryToken 4 0x600, .carryToken 0 0x700,
     .carryToken 0 0x5ff, .snapshotFence 4 0x600, .snapshotFence 0 0x700, .snapshotFence 0 0x5ff,
     .mCellRequest 4 0x700 false, .mCellRequest 0 0x800 false, .mCellRequest 0 0x6ff false, .waveEnd 256, .stallTimeout 4,
     .springbokWrite 8, .springbokArm .h0 256, .quiesceRequest .h0 4, .quiesced 4, .quiesceTimeout 4, .quiesceCancel .h0 4,
     .selfTestFiring 4 0 .pass, .selfTestFiring 0 0x800 .pass, .mcellWordTest 4 0x700 0 false,
     .mcellWordTest 0 0x800 0 false, .mcellWordTest 0 0x6ff 0 false, .mcellWordTest 0 0x700 256 false,
     .boundaryTransfer (.loopChannel 64), .boundaryTransfer (.can 8), .boundaryTransfer (.ethernet 3),
     .boundaryTransfer (.pwm 64), .boundaryTransfer (.task 32), .groupCommit .h0 (.eth 3) 0, .groupCommit .h0 .lpe 3,
     .groupCommit .h0 (.eth 0) 8, .groupAbort .h0 (.eth 3) 0, .groupAbort .h0 .lpe 3, .groupAbort .h0 (.eth 0) 8].all changesNothing = true := by
  decide +kernel

/-- Tasks, channels, inputs and circuits out of range: no command of the module. -/
theorem test_ill_formed_execution_and_loops :
    [.taskDue 32, .imageLatch 32, .outputRelease 32, .errorTaskStart 32, .patchAdd .h0 32, .errorTaskDeadline 32,
     .loopSample 64 0 0, .loopEvaluation 64, .waltzClear .h0 64, .inputFault 56, .clearMaxd .h0 16, .clearEnergies .h0 16].all changesNothing = true := by
  decide +kernel

/-- Buses, stations, buffers and ports out of range: no command of the module. -/
theorem test_ill_formed_buses_and_ports :
    [.canEnable .h0 8, .canDisable .h0 8, .integrationDone 8, .canFrameReceived 8 canFrame 0, .frameSent 8 0 0,
     .txRequest .h0 8 0, .txRequest .h0 0 (2 ^ 32), .rxqPop .h0 8 0, .rxqPop .h0 0 4, .busoffRecovery 8, .refDue 8,
     .sleep .h0 8, .wake .h0 8, .busWake 8 .pattern, .stationEnable .h0 8 0, .stationEnable .h0 0 64, .idr 8 [],
     .cfgr 8 0 [], .cfgr 0 64 [], .idqRetry 8 0, .idqRetry 0 64, .cfgRetry 8 0, .cfgRetry 0 64, .inReport 8 0 [],
     .inReport 0 64 [], .rej 8 0 [], .rej 0 64 [], .stationDropout 8 0, .stationDropout 0 64, .rejoinRetry 8 0,
     .rejoinRetry 0 64, .outRefresh 8 0, .outRefresh 0 64, .canError 8 .receive, .portEnable .h0 3, .portDisable .h0 3,
     .linkUp 3 partner, .linkLoss 3, .frameReceived 3 (ethRx []), .frameTransmit 3, .pauseFrame 3 0, .pauseFrame 0 65536,
     .pauseHoldEnd 3, .lpiEntry 3, .lpiReceived 3, .loadWindow 3 0 0 0, .stepHoldEnd 3, .wakeListen .h0 3 false,
     .sync 2 ptp 0 0 0, .pdelayReq 2 ptp 0, .syncTimeout 2, .delayReqSend 2].all changesNothing = true := by
  decide +kernel

/-- Sessions, slots, links, clocks, domains, lines, stores, gates and cores out of range: no command of the module. -/
theorem test_ill_formed_network_power_and_stores :
    [.authAnswer 32, .proofTimeout 32, .accountUnlock 65536, .sessionIdleTimeout 32, .reservedOpcode 256 packet,
     .renewalMissed 16, .witnessLeaseEnd 16, .startWindowEnd 16, .reservedBoundCommitted 16, .mirror 0 false 0 4097 [],
     .mirror 0 false 0 0 [.waltz 262144 [0]], .change 0 false (.directoryDelete 65536), .change 0 false (.epochs 16 0 0),
     .bulk 0 false (2 ^ 24) [], .bulk 0 false 0 (List.replicate 4097 0), .tetherLinkDown 4, .clockMonitorFailure 7 1,
     .clockMonitorFailure 0 4, .clockMonitorFailure 0 0, .restore .h0 64, .restoreSwitch 6, .levelRequest .h0 4,
     .confirmationWindow [0, 0, 0, 0, 0], .domainOff .h0 16, .domainOn .h0 16, .powerGood 16, .pgoodTimeout 16,
     .supplyFailWarning 4096, .shutdownCheck 4096, .warningClear 4096, .vinLow 4096, .vinRecover 4096,
     .lioInputChange 64 false, .pwmPeriodEnd 64, .moduleReset .h0 65536, .coreRestart .h0 65536, .bufferWrite .h0 (2 ^ 32),
     .pageCommitDone 8 false, .openRd .h0 8, .openWr .h0 8, .closeRights .h0 8, .setRd .h0 8, .setWr .h0 8,
     .marginScan 1024 .good, .trendEnable .h0 64, .trendSample 64, .lifeCycleChange .h0 65536 0,
     .lifeCycleChange .h0 0 256, .slotUse 64 24, .slotUse 0 28, .slotUse 0 23, .openOwner .h0 8 0, .openOwner .h0 0 65536,
     .openVendor .h0 8 0, .openVendor .h0 0 65536, .closeGates .h0 8, .confirm .h0 65536 0, .confirm .h0 0 65536,
     .eventEntry 2, .evcClaim .h0 2, .evcDone .h0 2 0, .evcDone .h0 0 256, .softwareRaise .h0 256, .counterClear .h0 8,
     .sampleRead .h0 512].all changesNothing = true := by
  decide +kernel
/-! ### Accesses that the spine takes -/

/-- The sender exists and the spine takes its access. -/
def takes (m : M) (by_ : Master) (a : Nat) (write : Bool) : Bool :=
  match m.who by_ with
  | some w => !m.tenantBarred w a && !(write && viewBarred w a) && (m.refusal w a 4 write).isNone
  | none => false

/-- An access that `takes` finds is one that the statements speak of. -/
theorem takes_accepts {m : M} {by_ : Master} {a : Nat} {write : Bool} (h : takes m by_ a write = true) :
    ∃ w, m.accepts by_ w a write := by
  unfold takes at h
  cases hw : m.who by_ with
  | none => simp [hw] at h
  | some w =>
    simp only [hw, Bool.and_eq_true, Bool.not_eq_true', Option.isNone_iff_eq_none, Bool.and_eq_false_iff] at h
    exact ⟨w, hw, h.1.1, fun hx => h.1.2.resolve_left (by simp [hx]), h.2⟩

/-- The core takes part in the writes that the statements on points, forces and directory speak of, with the system tag. -/
theorem witness_system_sender : up.who .h0 = some ⟨0, .system, none, false⟩ := by decide +kernel

/-- Writes of the command and control registers of points, fabric, loader and execution are taken. -/
theorem witness_writes_points_fabric_execution :
    [Reg.SYS_PACE_CTRL.addr 0 0 0, Reg.PTD_DIR_CMD.addr 0 0 0, Reg.PTD_SHR_CMD.addr 0 0 0, Reg.PTD_FRC_CMD.addr 0 0 0,
     Reg.FAB_QCTRL.addr 0 0 0, Reg.FAB_CTRL.addr 0 0 0, Reg.FAB_SBK_ARM.addr 0 0 0, Reg.UPD_IMG_CMD.addr 0 0 0,
     Reg.EXE_CMD.addr 0 0 0, Reg.EXE_OLC_CMD.addr 0 0 0].all (fun a => takes up .h0 a true) = true := by decide +kernel

/-- Writes of the registers of loops, metering, buses and ports are taken, at the first and the last index. -/
theorem witness_writes_loops_meters_buses :
    [Reg.LPE_WZCLR.addr 0 0 0, Reg.MTR_CMD.addr 0 0 0, Reg.MTR_CTRL.addr 0 0 0, Reg.CAN_CTRL.addr 0 0 0, Reg.CAN_CTRL.addr 7 0 0,
     Reg.CAN_RXQ_POP.addr 7 0 0, Reg.CAN_TXREQ.addr 7 0 0, Reg.CAN_STA_CFG.addr 7 63 0, Reg.ETH_CTRL.addr 0 0 0,
     Reg.ETH_CTRL.addr 2 0 0, Reg.LPE_COMMIT.addr 0 0 0, Reg.MTR_COMMIT.addr 0 0 0, Reg.ETH_COMMIT.addr 2 0 0].all
      (fun a => takes up .h0 a true) = true := by decide +kernel

/-- Writes of the registers of power, time, pairs, lines, resets, events and the recorder are taken. -/
theorem witness_writes_power_time_events :
    [Reg.PMC_LVL_CMD.addr 0 0 0, Reg.PMC_PD_REQ.addr 0 0 0, Reg.TIM_CLK_CMD.addr 0 0 0, Reg.IBX_CMD.addr 0 0 0,
     Reg.LIO_CTRL.addr 0 0 0, Reg.SYS_MWD.addr 0 0 0, Reg.SYS_RST_CMD.addr 0 0 0, Reg.RTC_ALM.addr 0 0 0, Reg.RTC_SET_CMD.addr 0 0 0,
     Reg.EVC_CNTCTL.addr 0 0 0, Reg.EVC_DONE.addr 1 0 0, Reg.EVC_SMP_CMD.addr 0 0 0, Reg.EVC_SWSET.addr 0 0 0,
     Reg.REC_CLR_CMD.addr 0 0 0, Reg.REC_RD_CMD.addr 0 0 0].all (fun a => takes up .h0 a true) = true := by decide +kernel

/-- Writes of the registers of the historian, the vault and updates are taken. -/
theorem witness_writes_stores :
    [Reg.HST_TR_CFG.addr 0 0 0, Reg.HST_TR_CFG.addr 63 0 0, Reg.NVP_CMD.addr 0 0 0, Reg.NVP_DATA.addr 0 0 0, Reg.KV_ACC_CMD.addr 0 0 0,
     Reg.KV_ATT_CMD.addr 0 0 0, Reg.KV_CMD.addr 0 0 0, Reg.KV_DBG.addr 0 0 0, Reg.UPD_CMD.addr 0 0 0,
     Reg.UPD_CONFIRM.addr 0 0 0].all (fun a => takes up .h0 a true) = true := by decide +kernel

/-- The reads with an effect are taken. -/
theorem witness_reads :
    [Reg.SYS_BUSERR_INFO.addr 0 0 0, Reg.EXE_DENY.addr 0 0 0, Reg.LPE_SNKDENY.addr 0 0 0, Reg.FAB_ST_FAIL.addr 0 0 0,
     Reg.TIM_MON_INFO.addr 0 0 0, Reg.TIM_TAI_LO.addr 0 0 0, Reg.RTC_TIME.addr 0 0 0, Reg.EVC_CLAIM.addr 1 0 0,
     Reg.EVC_SMP_W.addr 511 0 0, Reg.NVP_DATA.addr 0 0 0].all (fun a => takes up .h0 a false) = true := by decide +kernel

/-- A refused access: user code on core 1, a register of the vault. -/
theorem witness_refused : (up.who .h1User).any (fun w => !up.tenantBarred w 0x40050000 && (up.refusal w 0x40050000 4 true).isSome) = true := by
  decide +kernel

/-- A write of a point-selection register stores its field (R80). -/
theorem test_register_write :
    leaves up (.registerWrite .h0 (Reg.PTD_DIR_SEL.addr 0 0 0) 4 5) (fun m => m.get F.PTD_DIR_SEL_id) = some 5 := by decide +kernel

/-! ### Points, shares and forces -/

/-- An output point of tenant 1, held by the directory alone (backing 0b110). -/
def outPoint (forceable : Nat) : PointRec := freshEntry (BitVec.ofNat 32 (2 ^ 30 + 2 ^ 28 + 6 * 2 ^ 25 + 2 ^ 16 + forceable)) 0

/-- An open session of a tenant on the service port. -/
def sessionOf (id tenant : Nat) (role : Role) : Session :=
  ⟨.open, id, 3, tenant, role, false, 1, 0, none, [192, 168, 96, 40], [10, 0, 0, 9], 40000, 2, [], [], [], [1], [2], 0, 0, 1, 0, 0,
   100, [], [], 0, 0, 0⟩

/-- Points 5 and 6, of which 6 is forced; sessions 77 of an engineer of tenant 1 and 78 of tenant 0's owner; a subscription of
77 to point 5 that has not notified its value 9, and a queued notification. -/
def upP : M :=
  let m : M := ((up.put F.PTD_DIR_SEL_id 7).wr .PTD_DIR_W0 (outPoint 1).w0).put F.PTD_SHR_SEL_list 1
  { m with
    pts := { m.pts with
      points := [(5, { outPoint 1 with value := 9 }), (6, { outPoint 1 with value := 1 })]
      forces := [(0, ⟨6, 1, 0, 1, 2, none, 0, false, 0⟩)]
      subs := [⟨77, 5, 0, 0, 0, 0, 0, false, false⟩]
      dirCmd := some ⟨0, 500⟩
      shrCmd := some ⟨2, 500⟩
      frcCmd := some ⟨0, 500⟩ }
    krov := { m.krov with sessions := [(0, sessionOf 77 1 .engineer), (1, sessionOf 78 0 .owner)] } }

def system : Who := ⟨0, .system, none, false⟩
def engineer : Who := ⟨3, .mk 1 .engineer, some 77, false⟩

/-- Point accesses: an absent point, a granted one without a force, a forced one. -/
theorem witness_point_accesses :
    upP.who .h0 = some system ∧ upP.who (.session 77) = some engineer ∧ upP.sees system 9 = false ∧
    upP.gate engineer .write 5 = .granted ∧ upP.forceOf 5 = none ∧ (upP.point 5).map PointRec.backing = some 6 ∧
    upP.gate system .write 6 = .granted ∧ (upP.forceOf 6).isSome = true := by decide +kernel

/-- Directory commands: an entry that may be written, one the sender has no rights to, one that may be deleted; a result that
waits. -/
theorem witness_directory_commands :
    let n := freshEntry (upP.rd .PTD_DIR_W0) (upP.rd .PTD_DIR_W1)
    upP.bit F.PTD_DIR_STAT_busy = false ∧ upP.get F.PTD_DIR_SEL_id = 7 ∧ dirRights .system (upP.point 7) n = true ∧
    upP.entryValid 7 n = true ∧ n.backing ≠ 0 ∧ n.share = 0 ∧ upP.forceOf 7 = none ∧ upP.dirHeld = false ∧
    upP.localCount < 16384 ∧ upP.retainCount < 4096 ∧ dirRights engineer.tag (upP.point 7) n = false ∧
    takes upP (.session 77) (Reg.PTD_DIR_CMD.addr 0 0 0) true = true ∧
    upP.pts.dirCmd = some ⟨0, 500⟩ := by decide +kernel

/-- Share and force commands: a list to write, a point to force, a forced point, and results that wait. -/
theorem witness_share_and_force_commands :
    let m := upP.put F.PTD_FRC_PT_point 5
    let f := upP.put F.PTD_FRC_PT_point 6
    upP.bit F.PTD_SHR_STAT_busy = false ∧ upP.get F.PTD_SHR_SEL_list = 1 ∧ (∀ p ∈ upP.pts.points, p.2.share ≠ 1) ∧
    upP.pts.shrCmd = some ⟨2, 500⟩ ∧ m.bit F.PTD_FRC_STAT_busy = false ∧
    (m.point (m.get F.PTD_FRC_PT_point)).map PointRec.forceable = some true ∧ m.forceOf (m.get F.PTD_FRC_PT_point) = none ∧
    freeKey 1024 m.pts.forces = some 1 ∧ (f.point (f.get F.PTD_FRC_PT_point)).map PointRec.forceable = some true ∧
    (f.forceOf (f.get F.PTD_FRC_PT_point)).isSome = true ∧ upP.pts.frcCmd = some ⟨0, 500⟩ := by decide +kernel

/-- A subscription that has moved, and a queued notification of a session without one. -/
theorem witness_notifications :
    upP.gate engineer .subscribe 5 = .granted ∧ (upP.point 5).map (upP.shown 5) = some (9, 0) ∧
    (∀ u ∈ upP.pts.subs, u.moved 1 9 0 = true ∧ u.lastAt + u.interval * 1000000 ≤ upP.time.tb) ∧ aget 77 upP.pts.notes = none ∧
    (∀ u ∈ upP.pts.subs, u.session ≠ 78) ∧ aget 1 upP.krov.sessions = some (sessionOf 78 0 .owner) ∧
    aget 2 upP.krov.sessions = none ∧ upP.inert = false := by decide +kernel

/-- A write of a granted point stores its value; the reader gets it with status 0 and age 0 (R47, R61). -/
theorem test_point_write :
    leaves upP (.pointAccess (.session 77) 5 (.write 1)) (fun m => (m.point 5).map PointRec.value) = some (some 1) := by
  decide +kernel

/-- A write of a forced point keeps the forced value and becomes the requested one (R75). -/
theorem test_point_write_forced :
    leaves upP (.pointAccess .h0 6 (.write 4)) (fun m => ((m.point 6).map PointRec.value, (m.forceOf 6).map (fun f => f.2.requested))) =
      some (some 1, some 4) := by decide +kernel

/-! ### The fabric -/

def tok (kind cell port wave : Nat) (v : Word) : Token := ⟨v, tokenTag kind cell port 0 wave v⟩

/-- Slots: add the constant to port 0 into register 3 and send it to port 0 of cell 0x700; read point 5; write port 0 to point 5. -/
def addSlot : ASlot := ⟨0x00, 1, 0x10, 0x20, 0xFF, 3, 0, 2 ^ 15 + 4 * 0x700, 0, 5⟩
def readSlot : ASlot := ⟨0x50, 1, 0x20, 0xFF, 0xFF, 2, 0, 0, 0, 5⟩
def writeSlot : ASlot := ⟨0x52, 1, 0x20, 0x10, 0xFF, 0xFF, 0, 0, 0, 5⟩
def aBody : ACell := ⟨List.replicate 16 0, [addSlot, readSlot, writeSlot], false, false⟩

def tBody (mode : TMode) : TCell :=
  { mode := mode, tick := 0, filter := 0, line := 0, preset := 10, live := 0xFFFFFFFF, capture := 0, outLink := 0, carryLink := 0,
    snapLink := 0, chained := false, running := false, expired := false, startTick := 0, least := 0, presetTick := 0, frozen := none,
    lastIn := some true, level := false, missed := false, missedCount := 0, wrap := false, broken := false, reset := false,
    lastPeriod := 0, tokenOnReturn := false }

def cellOf (b : CellBody) (ports : List (Option Token)) : Cell := ⟨0, true, true, b, b, ports, true⟩

def access : CellAccess := ⟨2, 1, 5, false, false, 0, 0, 0, false, 0x500000007, 0⟩

def quadrant0 : Quadrant := { Quadrant.reset with
  cells := [
    (0, cellOf (.a aBody) [some (tok 0 0 0 0 4), none, none, none]),
    (1, cellOf (.a aBody) [none, none, none, none]),
    (2, cellOf (.a aBody) [none, none, none, none]),
    (3, cellOf (.a aBody) [none, none, none, none]),
    (0x600, cellOf (.t (tBody .ton)) [some (tok 0 0x600 0 0 1), some (tok 0 0x600 1 0 8), none, none]),
    (0x601, cellOf (.t { tBody .tp with running := true }) [none, none, none, none]),
    (0x602, cellOf (.t (tBody .cyc)) [none, none, none, none]),
    (0x603, cellOf (.t (tBody .edge)) [none, none, none, none]),
    (0x604, cellOf (.t (tBody .cnt)) [some (tok 0 0x604 0 0 2), none, none, none]),
    (0x605, cellOf (.t (tBody .cntx)) [some (tok 1 0x605 0 0 1), none, none, none]),
    (0x606, cellOf (.t (tBody .cnt)) [none, none, none, some (tok 2 0x606 3 0 7)]),
    (0x700, cellOf (.m ⟨[(3, 8)], 0, 0, false⟩) [some (tok 0 0x700 0 0 3), none, none]),
    (0x701, cellOf (.m ⟨[(3, 8)], 2, 0, false⟩) [none, some (tok 0 0x701 1 0 3), some (tok 0 0x701 2 0 5)])]
  flight := [(⟨0x800, 0⟩, tok 3 1 0 0 0), (⟨9, 0⟩, tok 0 0 0 0 6), (⟨10, 0⟩, tok 0 3 0 0 6), (⟨11, 0⟩, tok 0 1 0 5 6)]
  waiting := [⟨1, 2, 5, true, false, 7, 0, 0, false, 0, 0⟩]
  outstanding := [access]
  failed := [3] }

/-- The fabric runs in all quadrants, one second after its start; cells of unit 0 hold the tokens each command asks for. -/
def upF : M :=
  let m : M := upP.put F.FAB_STAT_qstate 0x492
  { m with
    time := { m.time with tai := 1000000000, tb := 1000000000 }
    fab := { m.fab with quads := [quadrant0, Quadrant.reset, Quadrant.reset, Quadrant.reset] }
    exe := { m.exe with units := [⟨0, 0, 1, 2, 0, false⟩, ⟨1, 1, 1, 2, 0, false⟩], active := [0, 1] } }

/-- What a command leaves of a cell of quadrant 0. -/
def cellAfter (c : Instr) (n : Nat) : Option Cell := (leaves upF c (fun m => m.cell 0 n)).join

/-- A-cells: a ready slot of the ALU, one of the access group, no access waiting. -/
theorem witness_a_cells :
    upF.cell 0 0 = some (cellOf (.a aBody) [some (tok 0 0 0 0 4), none, none, none]) ∧ upF.cellLive 0 0 = true ∧
    slotReady (cellOf (.a aBody) [some (tok 0 0 0 0 4), none, none, none]) addSlot = true ∧
    slotReady (cellOf (.a aBody) [some (tok 0 0 0 0 4), none, none, none]) readSlot = true ∧ addSlot.isAccess = false ∧
    readSlot.isAccess = true ∧ (∀ x ∈ (upF.quad 0).waiting, x.cell ≠ 0) ∧ (upF.quad 0).held + 2 ≤ 4096 := by decide +kernel

/-- Point accesses of cells: one that waits, one that is outstanding. -/
theorem witness_cell_accesses :
    upF.finalPath 0 1 = none ∧ (takeAccess (fun x => x.cell == 1) (upF.quad 0).waiting).isSome = true ∧
    ((upF.quad 0).outstanding.filter (fun o => !o.fromImage)).length < 32 ∧ (upF.who (.unit 0)).isSome = true ∧
    takeAccess (fun x => x.cell == 2) (upF.quad 0).outstanding = some (access, []) ∧ access.write = false ∧
    (upF.cell 0 2).isSome = true := by decide +kernel

/-- M-cells: a request on port 0, and one with two operands. -/
theorem witness_m_cells :
    ((upF.cell 0 0x700).bind (fun c => c.port 0)).isSome = true ∧ upF.cellLive 0 0x700 = true ∧
    ((upF.cell 0 0x701).bind (fun c => c.port 1)).map Token.wave = ((upF.cell 0 0x701).bind (fun c => c.port 2)).map Token.wave ∧
    ((upF.cell 0 0x701).bind (fun c => c.port 1)).map (fun k => k.payload.toNat) = some 3 ∧ upF.cellLive 0 0x701 = true := by
  decide +kernel

/-- Tokens in flight: to an empty port, to an occupied one, to a failed cell, of a past wave, and of wrong parity when a bit flips. -/
theorem witness_tokens :
    (takeFlight ⟨0x800, 0⟩ (upF.quad 0).flight).map Prod.fst = some (tok 3 1 0 0 0) ∧ (tok 3 1 0 0 0).good = true ∧
    CellBody.takes (.a aBody) (tok 3 1 0 0 0) = true ∧ (tok 3 1 0 0 0).wave = upF.unitWave 0 ∧ (upF.cell 0 1).bind (fun c => c.port 0) = none ∧
    (takeFlight ⟨9, 0⟩ (upF.quad 0).flight).map Prod.fst = some (tok 0 0 0 0 6) ∧ (upF.cell 0 0).bind (fun c => c.port 0) ≠ none ∧
    (tok 0 3 0 0 6).cell ∈ (upF.quad 0).failed ∧ (tok 0 1 0 5 6).wave ≠ upF.unitWave 0 ∧
    ({ tok 3 1 0 0 0 with tag := (tok 3 1 0 0 0).tag ^^^ 1 } : Token).good = false := by decide +kernel

/-- Timers and input cells: tokens on ports 0 and 1, a timer past its preset, a period boundary passed, a line that differs. -/
theorem witness_timers :
    ((upF.cell 0 0x600).bind (fun c => c.port 0)).isSome = true ∧ ((upF.cell 0 0x600).bind (fun c => c.port 1)).isSome = true ∧
    upF.cellLive 0 0x600 = true ∧ ({ tBody .tp with running := true }).preset.toNat ≤ TCell.elapsedAt { tBody .tp with running := true } upF.time.tai ∧
    (tBody .tp).presetTick < upF.time.tai / (tBody .tp).unitNs ∧ (tBody .cyc).lastPeriod < upF.time.tai / 10000 * 10000 ∧
    upF.tokenHeld 0 0x602 = false ∧ (tBody .edge).lastIn ≠ some (upF.lineLevel 0) ∧ upF.tokenHeld 0 0x603 = false ∧
    upF.edgePath 0 0x603 = none := by decide +kernel

/-- Counters: a count token that overflows, a carry token, a fence with port 0 empty. -/
theorem witness_counters :
    ((upF.cell 0 0x604).bind (fun c => c.port 0)).map Token.kind = some 0 ∧ ((upF.cell 0 0x605).bind (fun c => c.port 0)).map Token.kind = some 1 ∧
    ((upF.cell 0 0x606).bind (fun c => c.port 3)).map Token.kind = some 2 ∧ (upF.cell 0 0x606).bind (fun c => c.port 0) = none ∧
    upF.cellLive 0 0x606 = true ∧ (upF.quad 0).held ≤ 4095 := by decide +kernel

/-- Waves and quadrants: a unit without tokens whose cells have fired, a quadrant that stalls, one that quiesces and one that may
return. -/
theorem witness_waves_and_quadrants :
    let q : M := upF.setQstate 2 3
    let d : M := q.modQuad 2 (fun x => { x with quiesceBy := some 5 })
    upF.exe.active.contains 1 = true ∧ upF.unitHolds 1 = false ∧ upF.unitFired 1 = true ∧ 0 < (upF.quad 0).held ∧
    (upF.quad 0).lastFire + max 1 (upF.get F.FAB_CTRL_stall_tmo) * 10000 ≤ upF.time.tb ∧ q.qstate 2 = 3 ∧
    (∀ u ∈ q.exe.units, u.quadrant ≠ 2) ∧ (q.quad 2).held = 0 ∧ (q.quad 2).waiting = [] ∧ (q.quad 2).outstanding = [] ∧
    (q.quad 2).quiesceBy = none ∧ (d.quad 2).quiesceBy = some 5 ∧ 5 ≤ d.time.tb := by decide +kernel

/-- ADD: 4 + 5 = 9 goes to register 3 and on the valid link; the port is empty (R92). -/
theorem test_a_cell_add :
    leaves upF (.aCellFiring 0 0 0) (fun m => (((m.cell 0 0).bind (fun c => c.port 0)), (m.quad 0).flight.getLast?)) =
      some (none, some (⟨0, 0⟩, tok 0 0x700 0 0 9)) := by decide +kernel

/-- ADD of 0x7FFFFFFF and 1 passes the range: the wrapped result sets the overflow flag, the saturated one is clamped (R94). -/
theorem test_add_range :
    alu 0x00 false false 0x7FFFFFFF 1 0 = ⟨0x80000000, true, false⟩ ∧ alu 0x00 true false 0x7FFFFFFF 1 0 = ⟨0x7FFFFFFF, true, false⟩ ∧
    alu 0x01 true true 3 5 0 = ⟨0, true, false⟩ ∧ alu 0x20 false true 0x10000 0x10000 0 = ⟨0, true, false⟩ := by decide +kernel

/-- A count token of 2 at 0xFFFFFFFF wraps to 1 (R114). -/
theorem test_count_wraps :
    (cellAfter (.countToken 0 0x604) 0x604).bind (fun c => match c.body with | .t a => some (a.live, a.wrap) | _ => none) =
      some (1, true) := by decide +kernel

/-- Add to word 3: 8 + 5 = 13 stands in the word (R622). -/
theorem test_m_cell_add :
    (cellAfter (.mCellRequest 0 0x701 true) 0x701).bind (fun c => match c.body with | .m b => aget 3 b.words | _ => none) = some 13 := by
  decide +kernel

/-- A start token reaches its empty port and leaves its link; one for an occupied port waits (R623). -/
theorem test_token_accept :
    (cellAfter (.tokenAccept 0 ⟨0x800, 0⟩ false) 1).bind (fun c => c.port 0) = some (tok 3 1 0 0 0) ∧
    leaves upF (.tokenAccept 0 ⟨9, 0⟩ false) (fun m => (m.quad 0).flight.length) = some 4 := by decide +kernel

/-! ### Witnesses of the fabric's other cases -/

/-- Every register that a write only stores takes one; a register whose fields are all read-only takes one without effect. -/
theorem witness_plain_registers :
    plainRegs.all (fun r => takes up .h0 (r.addr 0 0 0) true && (placeAt (r.addr 0 0 0)).isSome) = true ∧
    takes up .h0 (Reg.SYS_REV.addr 0 0 0) true = true ∧ (∀ f ∈ Reg.SYS_REV.spec.fields, f.acc = .ro) := by decide +kernel

/-- An answer that waits for its time on an empty queue. -/
theorem witness_idle :
    let s : State := { State.reset with m := { up with krov := { up.krov with held := [⟨500, none, .written 0 8⟩] } } }
    s.pending = [] ∧ s.m.krov.held = [⟨500, none, .written 0 8⟩] ∧ s.m.time.tb + 10 < 500 := by decide +kernel

/-- Probes: disabled; enabled in a clean window, in one that met a change, during a ramp. -/
theorem witness_pace_windows :
    let e : M := up.put F.SYS_PACE_CTRL_en 1
    let d : M := { e with power := { e.power with windowDirty := true } }
    let r : M := { e with power := { e.power with busy := .raising 0 0 none } }
    (up.put F.SYS_PACE_CTRL_en 0).bit F.SYS_PACE_CTRL_en = false ∧ e.bit F.SYS_PACE_CTRL_en = true ∧ e.power.windowDirty = false ∧ e.ramping = false ∧
    e.get F.SYS_PACE_CTRL_act = 0 ∧ d.power.windowDirty = true ∧ r.ramping = true := by decide +kernel

/-- A granted subscription to a point the session has none to; one whose interval is past. -/
theorem witness_subscriptions :
    upP.gate engineer .subscribe 6 = .granted ∧ (∀ u ∈ upP.pts.subs, u.session = 77 → u.point ≠ 6) ∧ upP.pts.subs.length < 8192 ∧
    upP.pts.subs.filter (fun u => u.session == 77 && u.point == 5) = [⟨77, 5, 0, 0, 0, 0, 0, false, false⟩] ∧
    getd [] 77 upP.pts.notes = [] := by decide +kernel

/-- Quadrant 0 without room: an access owes 5000 tokens; 32 accesses are outstanding; a fence holds a count back. -/
def upFull : M := upF.modQuad 0 (fun x => { x with
  outstanding := ⟨9, 0, 5, true, false, 0, 0, 0, false, 0, 0⟩ :: List.replicate 32 { access with cell := 8, owed := 200 } })

theorem witness_no_room :
    4096 + addSlot.ports.length + 1 < (upFull.quad 0).held + (upFull.quad 0).owed ∧
    32 ≤ ((upFull.quad 0).outstanding.filter (fun o => !o.fromImage)).length ∧
    (takeAccess (fun x => x.cell == 1) (upFull.quad 0).waiting).isSome = true ∧
    (takeAccess (fun x => x.cell == 9) (upFull.quad 0).outstanding).any (fun x => x.1.write) = true ∧ upFull.tokenHeld 0 0x602 = false := by
  decide +kernel

/-- Path 3: EDGE cell 0x603 on line 4 to A-cell 1, which waits with its write; armed or not, with a measurement under way. -/
def upSbk (arm : Nat) : M :=
  let m : M := (((upF.put F.FAB_SBK_ARM_arm arm).put F.LIO_CTRL_en 1).put F.LIO_CFG_func 1 0).put F.FAB_SBK_STAT_defined 0xFF
  { m with fab := { m.fab with
      paths := [⟨3, 0, 0x603, 1⟩]
      sbkStart := [(2, 1), (3, 7), (3, 9)] } }

theorem witness_springbok :
    (upSbk 8).finalPath 0 1 = some ⟨3, 0, 0x603, 1⟩ ∧ (upSbk 8).edgePath 0 0x603 = some ⟨3, 0, 0x603, 1⟩ ∧
    (upSbk 8).pathArmed ⟨3, 0, 0x603, 1⟩ = true ∧ (upSbk 0).pathArmed ⟨3, 0, 0x603, 1⟩ = false ∧ (upSbk 8).lineSampled 0 = true ∧
    (tBody .edge).filter = 0 ∧ (tBody .edge).frozen = none ∧
    (takeAccess (fun x => x.cell == 1) ((upSbk 8).quad 0).waiting).any (fun x => x.1.write) = true ∧
    (∀ o ∈ ((upSbk 8).quad 0).outstanding, o.cell ≠ 1) ∧ takeStart 3 (upSbk 8).fab.sbkStart = some (7, [(2, 1), (3, 9)]) := by
  decide +kernel

/-- A timer that ran out and a period boundary without room and with it; a preset of 0; a running timer that gets a token. -/
theorem witness_timer_cases :
    let r : TCell := { tBody .tp with running := true }
    (tBody .ton).preset ≠ 0 ∧ r.startTick ≤ upF.time.tai / r.unitNs ∧ r.presetTick < upF.time.tai / r.unitNs ∧ r.mode.isTimer = true ∧
    upF.cellLive 0 0x601 = true ∧ (upF.quad 0).held + (upF.quad 0).owed < 4096 ∧ 4096 ≤ (upFull.quad 0).held + (upFull.quad 0).owed ∧
    upF.cellLive 0 0x602 = true ∧ upFull.cellLive 0 0x602 = true ∧ upFull.cellLive 0 0x601 = true := by decide +kernel

/-- A counter whose count wraps, alone and with a next cell that is whole, gone or failed; one behind a fence. -/
theorem witness_chains :
    let wrap : Int := (tBody .cnt).live.toNat + (2 : Word).toInt
    let down : Int := (0 : Word).toNat + (0xFFFFFFFF : Word).toInt
    let inRange : Int := (5 : Word).toNat + (2 : Word).toInt
    2 ^ 32 ≤ wrap ∧ down < 0 ∧ 0 ≤ inRange ∧ inRange < 2 ^ 32 ∧ (tBody .cnt).chained = false ∧ upF.chainUp 0 0x604 0 = true ∧
    upF.chainUp 0 0x605 0 = false ∧ (upF.modQuad 0 (fun x => { x with failed := [0x605] })).chainUp 0 0x604 0 = false ∧
    (tBody .cnt).mode.isCounter = true ∧ (tBody .edge).mode.isCounter = false := by decide +kernel

/-- Self-tests are enabled; an idle cell that may be tested, one marked failed; a rotation that goes on, one that is complete; a word
test that may be made and one that comes too early. -/
theorem witness_self_tests :
    let i : M := { upF with exe := { upF.exe with active := [] } }
    let m : M := ((i.put F.FAB_ST_CTRL_en 1).put F.FAB_ST_CTRL_mused 1).put F.FAB_ST_CTRL_munused 1
    let d : M := (m.put F.FAB_STAT_qstate 2).modQuad 0 (fun x => { x with tested := 2 ^ 2048 - 1 })
    let w : M := m.modQuad 0 (fun x => { x with wordTests := [(0x700, 1000000000)] })
    m.testsOn F.FAB_ST_CTRL_en = true ∧ m.qstate 0 ≠ 0 ∧ m.cellIdle 0 0x701 = false ∧ m.cellIdle 0 0x602 = true ∧ m.loadHoldsTests 0 = false ∧
    0x602 ∉ m.armedCells 0 ∧ 0x602 ∉ (m.quad 0).failed ∧ 3 ∈ (m.quad 0).failed ∧ m.cellIdle 0 3 = true ∧ m.rotationDone = false ∧
    d.rotationDone = true ∧ m.cell 0 0x7FF = none ∧ m.testsOn F.FAB_ST_CTRL_munused = true ∧ (m.quad 0).wordTests = [] ∧
    (∃ p ∈ (w.quad 0).wordTests, p.1 = 0x700 ∧ w.time.tb < p.2 + 10000) ∧ (w.cell 0 0x700).isSome = true := by decide +kernel

/-- Loader: busy, with each kind of job; the reserved source; a full and a partial image, each of which fails a check. -/
theorem witness_loader :
    let job (j : LoadJob) : M := { up.put F.UPD_IMG_STAT_busy 1 with img := { up.img with job := j } }
    let part : M := { up with img := { up.img with bank0 := [0, 0, 0, 0, 0, 0, 0, 1] } }
    (job (.verify 0 0)).bit F.UPD_IMG_STAT_busy = true ∧ up.bit F.UPD_IMG_STAT_busy = false ∧ (up.put F.UPD_IMG_SEL_src 3).imageSource = none ∧
    up.imageSource = some [] ∧ (up.loadChecks []).isSome = true ∧ (readHeader []).partial_ = false ∧
    part.imageSource = some [0, 0, 0, 0, 0, 0, 0, 1] ∧ (part.loadChecks [0, 0, 0, 0, 0, 0, 0, 1]).isSome = true ∧
    (readHeader [0, 0, 0, 0, 0, 0, 0, 1]).partial_ = true ∧ (job (.partialQuiesce 1 [])).img.job = .partialQuiesce 1 [] := by decide +kernel

/-- Full loads: one whose quadrants have power and that needs no boundary, one that waits for it, one without power, one with metering
to stop; a partial load whose quadrant is quiesced. -/
theorem witness_loads :
    let full : M := { up with img := { up.img with job := .full 0 0 [] } }
    let off : M := (full.put F.PMC_PD_STAT_state 0)
    let x : Image := readImage ([].take (readHeader []).length)
    (∀ q < 4, tbit x.header.qmask q = true → full.domainOn q = true) ∧ full.meterHolds x = false ∧
    (full.loadSteps x x.header.level).boundaryPending x = false ∧ off.domainOn 0 = false ∧
    (full.setQstate 1 4).qstate 1 = 4 := by decide +kernel

/-! ### Execution, loops and metering -/

def taskAt (phase : TaskPhase) : TaskState := ⟨phase, 0, 0, [], [], [], 0, 0, [], 0, true, none, none⟩

/-- Execution runs tasks 0 (as given) and 1, an error task that has been called. -/
def upE (phase : TaskPhase) : M :=
  let m : M := (up.put F.EXE_STAT_state 1).put F.FAB_STAT_qstate 0x492
  { m with
    time := { m.time with tb := 1000000000 }
    exe := { m.exe with
      taskRecs := [⟨0, false, 1, 3, 1000, 500⟩, ⟨1, true, 0xFF, 4, 1000, 500⟩]
      units := [⟨0, 0, 1, 2, 0, false⟩, ⟨1, 1, 1, 2, 1, false⟩]
      tasks := [(0, taskAt phase), (1, { taskAt .idle with calls := [⟨0, 1, 0, 999999999⟩] })] } }

/-- Tasks: one idle, one due, one whose waves have ended; an error task with a call it may serve and with one past its deadline. -/
theorem witness_tasks :
    (upE .idle).taskState 0 = some (taskAt .idle) ∧ (upE .due).servedFirst 0 = true ∧
    (upE .running).wavesEnded 0 (taskAt .running) = true ∧ (upE .running).servedFirst 0 = true ∧ (upE .idle).taskRuns 1 = true ∧
    ((upE .idle).taskState 1).map TaskState.phase = some .idle ∧ ((upE .idle).taskState 1).map (fun t => t.calls.length) = some 1 ∧
    0 + 1000 * 1000 ≤ (upE .due).time.tb := by decide +kernel

/-- Execution may start when an image is in force and nothing runs; it stops when every task is idle; a trip may be acknowledged. -/
theorem witness_execution_commands :
    let r : M := up.put F.UPD_IMG_STAT_state 1
    let p : M := (upE .idle).put F.EXE_STAT_state 2
    r.runRefusal = 0 ∧ r.bit F.EXE_CMD_STAT_busy = false ∧ p.get F.EXE_STAT_state = 2 ∧ (∀ t ∈ p.exe.tasks, t.2.phase = .idle) ∧
    ((upE .idle).put F.EXE_STAT_state 3).get F.EXE_STAT_state = 3 := by decide +kernel

/-- Loop channels: a sample that waits and is the earliest; the engine enabled; a channel in CASCADE over one that does not run. -/
theorem witness_loops :
    let m : M := (up.modChan 2 (fun c => { c with queued := [(5, (7, 0))] })).put F.LPE_CTRL_en 1
    m.nextSample 2 = some (5, (7, 0)) ∧ m.nextSample 3 = none ∧ m.bit F.LPE_CTRL_en = true ∧
    (m.put F.LPE_CH_STAT_mode 2 2).get F.LPE_CH_STAT_mode 2 = 2 ∧ (m.put F.LPE_CH_STAT_mode 2 2).get F.LPE_CH_STAT_state 0 ≠ 1 := by
  decide +kernel

/-- Due times: of an enabled and of a disabled task at a multiple of its period, with its quadrant in run or not; one served before; a
call to serve, of an enabled and of a disabled error task. -/
theorem witness_due_times :
    let on : M := (((upE .idle).put F.EXE_TCFG_en 1 0).put F.EXE_TCFG_en 1 1).transferAt [Reg.EXE_TCFG.addr 0 0 0, Reg.EXE_TCFG.addr 1 0 0]
    let off : M := (((upE .idle).put F.EXE_TCFG_en 0 0).put F.EXE_TCFG_en 0 1).transferAt [Reg.EXE_TCFG.addr 0 0 0, Reg.EXE_TCFG.addr 1 0 0]
    on.taskOn 0 = true ∧ on.taskOn 1 = true ∧ off.taskOn 0 = false ∧ off.taskOn 1 = false ∧ on.taskRuns 0 = true ∧
    (on.setQstate 0 3).taskRuns 0 = false ∧ (on.setQstate 0 3).taskOn 0 = true ∧ on.time.tai % (1000 * 1000) = 0 ∧
    (on.taskState 0).map TaskState.lastDue = some none ∧ (on.taskRec 0).map TaskRec.etask = some false ∧
    (on.taskRec 1).map TaskRec.etask = some true ∧ on.get F.EXE_STAT_state = 1 ∧
    ({ on with time := { on.time with tai := 7 } } : M).time.tai % (1000 * 1000) ≠ 0 := by decide +kernel

/-- An instance that may latch and has room for its start tokens; units and tags of its entries. -/
theorem witness_latch :
    (upE .due).taskRuns 0 = true ∧ (upE .due).startRoom 0 = true ∧ (upE .due).servedFirst 0 = true ∧
    (upE .due).exe.units.find? (fun x => x.unit == 0) = some ⟨0, 0, 1, 2, 0, false⟩ ∧ ((upE .due).who (.unit 0)).isSome = true ∧
    (upE .idle).wavesEnded 0 (taskAt .idle) = false := by decide +kernel

/-- EXE_CMD: written while one runs; every state; a run that is refused and one that is not; the module's own run. -/
theorem witness_exe_commands :
    let r : M := up.put F.UPD_IMG_STAT_state 1
    let b : M := { ((r.put F.SYS_BOOT_STAT_step 9).put F.EXE_CTRL_auto_run 1).put F.IBX_STAT_state 0 with boot := { up.boot with phase := .rising } }
    (up.put F.EXE_CMD_STAT_busy 1).bit F.EXE_CMD_STAT_busy = true ∧ up.get F.EXE_STAT_state = 0 ∧ (upE .idle).get F.EXE_STAT_state = 1 ∧
    up.runRefusal = 2 ∧ r.runRefusal = 0 ∧ r.bit F.EXE_CMD_STAT_busy = false ∧ b.boot.phase = .rising ∧ b.unitState ≠ 1 ∧
    b.bit F.EXE_CTRL_auto_run = true ∧ b.get F.SYS_BOOT_STAT_step = 9 ∧ b.runRefusal = 0 ∧ (r.put F.EXE_CTRL_auto_run 0).bit F.EXE_CTRL_auto_run = false := by
  decide +kernel

/-- Patches: an item that may be added, one of a cell that no unit of the task owns; a set that is empty, held, armed. -/
theorem witness_patches :
    let m : M := { (upF.put F.EXE_OLC_SEL_kind 1).put F.EXE_OLC_SEL_index 3 with
      exe := { upF.exe with taskRecs := [⟨0, false, 1, 3, 1000, 500⟩] } }
    let one : M := { m with exe := { m.exe with patchTask := some 0, patches := [⟨1, 0, 0, 3, 5⟩] } }
    m.bit F.EXE_OLC_STAT_armed = false ∧ (m.taskRec 0).isSome = true ∧ m.exe.patchTask = none ∧ (⟨1, 0, 0, 3, 0⟩ : Patch).fits = true ∧
    (m.cell 0 0).map (fun c => m.taskOf c.unit) = some (some 0) ∧ m.onPath 0 0 = false ∧ m.patchForced ⟨1, 0, 0, 3, 0⟩ = false ∧
    m.cell 0 0x5FF = none ∧ one.exe.patches ≠ [] ∧ one.get F.EXE_STAT_state = 0 ∧ (one.put F.EXE_STAT_state 1).get F.EXE_STAT_state = 1 ∧
    (one.put F.EXE_OLC_STAT_armed 1).bit F.EXE_OLC_STAT_armed = true ∧ one.exe.patchTask = some 0 := by decide +kernel

/-- Loop channels: a sample instant and none; OFF, in RUN, in FOLLOW with and without the lease; a sink that none holds, one granted, one
denied; a new mode; a channel in CASCADE over one that runs. -/
theorem witness_loop_channels :
    let m : M := ((up.put F.LPE_CH_STAT_state 1 2).put F.LPE_CH_PER_period 1 2).put F.LPE_CH_SINK_id 0xFFFF 2
    let f : M := ((m.put F.LPE_CH_STAT_state 3 2).put F.IBX_STAT_lease 1).put F.IBX_STAT_state 4
    m.sampleNow 2 = true ∧ m.get F.LPE_CH_STAT_state 2 = 1 ∧ f.sampleNow 2 = true ∧ f.get F.LPE_CH_STAT_state 2 = 3 ∧ f.leased = true ∧
    f.unitState ≠ 2 ∧ m.leased = false ∧ up.get F.LPE_CH_STAT_state 3 = 0 ∧ m.get F.LPE_CH_SINK_id 2 = 0xFFFF ∧ (m.who (.loop 2)).isSome = true ∧
    ({ m with time := { m.time with tai := 7 } } : M).time.tai % (1000 * max 1 (m.get F.LPE_CH_PER_period 2)) ≠ 0 ∧
    m.eff F.LPE_CH_CTRL_mode 2 = m.get F.LPE_CH_STAT_mode 2 ∧ (m.put F.LPE_CH_STAT_mode 3 2).eff F.LPE_CH_CTRL_mode 2 ≠ 3 ∧
    (m.put F.LPE_CH_STAT_mode 2 3).get F.LPE_CH_STAT_mode 3 = 2 ∧ (m.put F.LPE_CH_SPSRC_cas 2 3).get F.LPE_CH_SPSRC_cas 3 = 2 := by
  decide +kernel

/-- A sink the channel may write and one it may not. -/
theorem witness_loop_sinks :
    ∃ w, upP.who (.loop 2) = some w ∧ upP.get F.LPE_CH_SINK_id 2 ≠ 9 ∧ (upP.writePoint w 9 0).1 ≠ .granted ∧
      ((upP.put F.LPE_CH_TEN_tenant 1 2).who (.loop 2)).any (fun v => (upP.writePoint v 5 0).1 == .granted) = true :=
  ⟨_, rfl, by decide +kernel, by decide +kernel, by decide +kernel⟩

/-- The commit slot and the learning memory: the engine enabled at a multiple of 10 µs and off it, stopped; the historian on and off. -/
theorem witness_commit_slot :
    let m : M := up.put F.LPE_CTRL_en 1
    m.bit F.LPE_CTRL_en = true ∧ m.time.tai % 10000 = 0 ∧ up.bit F.LPE_CTRL_en = false ∧ m.domainOn 13 = true ∧
    (m.put F.PMC_PD_STAT_state 0).domainOn 13 = false ∧ (m.put F.LPE_CH_CTRL_wz_keep 1 4).bit F.LPE_CH_CTRL_wz_keep 4 = true ∧
    0 < ((m.put F.LPE_CH_WZLEN_len 16 4).transferAt [Reg.LPE_CH_WZLEN.addr 4 0 0]).eff F.LPE_CH_WZLEN_len 4 := by decide +kernel

/-- Circuits: one that matches and has no faulted input, one with a faulted input; the engine stopped and running. -/
theorem witness_meters :
    let m : M := ((up.put F.MTR_C_CFG_mode 2 0).put F.MTR_STAT_run 1).put F.MTR_STAT_clk 1
    let n : M := [0, 1, 2, 3, 8, 9, 10].foldl (fun (a : M) i => (a.put F.MTR_MI_CFG_use 1 i).put F.MTR_MI_SCALE_fs 100 i) m
    n.circuitMatches 0 = true ∧ (∀ i ∈ n.circuitInputs 0, n.miFaulted i = false) ∧ (n.put F.MTR_MI_SCALE_fs 0 8).miFaulted 8 = true ∧
    up.bit F.MTR_STAT_run = false ∧ n.bit F.MTR_STAT_run = true := by decide +kernel

/-- Metering: a supply that is on and off, a clock that is driven and one received, running and stopped; clears of a tag that may and of one
that may not, one waiting. -/
theorem witness_metering_switches :
    let on : M := (up.put F.MTR_STAT_run 1).put F.MTR_STAT_clk 1
    let c : M := { up with mtr := { up.mtr with clear := some ⟨true, 3⟩ } }
    (up.put F.MTR_STAT_sup_ok 1).bit F.MTR_STAT_sup_ok = true ∧ (up.put F.MTR_STAT_sup_ok 0).bit F.MTR_STAT_sup_ok = false ∧
    on.bit F.MTR_STAT_clk = true ∧ (on.put F.MTR_STAT_clk 0).bit F.MTR_STAT_clk = false ∧ on.clockDriven = true ∧
    (on.put F.MTR_CLK_src 1).clockDriven = false ∧ up.mtr.clear = none ∧ c.mtr.clear = some ⟨true, 3⟩ ∧ engineer.tag.isSystem = false ∧
    engineer.tag.owner0 = false ∧ system.tag.isSystem = true := by decide +kernel

/-- Frames and intervals: the first frame of a run and a later one; an aligned minute that has come and one that has not; a block with
and without power. -/
theorem witness_frames_and_intervals :
    let m : M := up.put F.MTR_STAT_run 1
    let n : M := { m with mtr := { m.mtr with frames := 7 } }
    let t : M := { n with time := { n.time with calDay := 1, calSec := 900 } }
    m.mtr.frames = 0 ∧ n.mtr.frames ≠ 0 ∧ n.calMinute - n.calMinute % 60 % max 1 (n.eff F.MTR_DMD_CFG_len) ≤ n.mtr.demandAt ∧
    t.mtr.demandAt < t.calMinute - t.calMinute % 60 % max 1 (t.eff F.MTR_DMD_CFG_len) ∧ up.domainOn 11 = true ∧
    (up.put F.PMC_PD_STAT_state 0).domainOn 11 = false ∧ t.mtr.circuits.length = 12 ∧ (t.mtr.circuits.map (fun c => c.energies.length)).all (· == 7) = true := by
  decide +kernel

/-- RUN_WARM with an image in force starts execution (R191). -/
theorem test_run_warm :
    leaves (up.put F.UPD_IMG_STAT_state 1) (.runWarm .h0) (fun m => (m.get F.EXE_STAT_state, m.get F.EXE_CMD_STAT_err)) = some (1, 0) := by
  decide +kernel

/-- RUN_WARM without an image ends with error 2 and leaves execution stopped (R192). -/
theorem test_run_without_image :
    leaves up (.runWarm .h0) (fun m => (m.get F.EXE_STAT_state, m.get F.EXE_CMD_STAT_err)) = some (0, 2) := by decide +kernel

/-! ### Buses and ports -/

/-- Bus 1 is active, with station 4 online and its supervision time passed, and a requested buffer; port 0 is up and carries. -/
def upB : M :=
  let m : M := ((((((up.put F.CAN_STAT_state 2 1).put F.CAN_STA_STAT_state 2 1 4).put F.CAN_TXREQ_req 8 1).put F.ETH_STAT_state 2 0).put
    F.ETH_STAT_link 1 0).put F.ETH_BB_STAT_carry 1).put F.ETH_STAT_state 4 2
  (m.setStation 1 4 ⟨none, none, none, 0, [], some 5⟩).setEth 0 { m.ethPort 0 with
    pauseEnd := some 0
    txq := [⟨some 0, .announce [1]⟩] }
  |> fun x => { x with time := { x.time with tb := 1000000000 } }

/-- Controllers: active with a buffer to send; recovering; asleep; a frame that wakes; a station whose time has passed. -/
theorem witness_buses :
    upB.canState 1 = 2 ∧ (upB.nextBuffer 1).isSome = true ∧ (upB.put F.CAN_STAT_state 5 1).canState 1 = 5 ∧
    upB.get F.CAN_STA_STAT_state 1 4 = 2 ∧ upB.due (upB.stationOf 1 4).superviseBy = true ∧ upB.canState 0 = 0 ∧
    (upB.canBox 1).asleep = none ∧ upB.get F.CAN_STA_STAT_state 1 5 ≠ 2 := by decide +kernel

/-- Ports: one up that carries with a frame queued, one that negotiates with a partner that fits, a pause that ends. -/
theorem witness_ports :
    upB.ethState 0 = 2 ∧ upB.carrying = some 0 ∧ (upB.ethPort 0).txq ≠ [] ∧ upB.bit F.ETH_STAT_paused 0 = false ∧
    upB.due (upB.ethPort 0).pauseEnd = true ∧ upB.ethState 2 = 4 ∧ (upB.agreed 2 partner).isSome = true ∧
    upB.bit F.ETH_STAT_link 0 = true ∧ upB.eth.step = none := by decide +kernel

/-- Controller 3: settings by which its timing is good (the reset values) or bad; up, asleep, with a frame on the bus; frames that wait. -/
theorem witness_can_controllers :
    let on : M := (up.put F.CAN_STAT_state 2 3).put F.CAN_CTRL_en 1 3
    let bus (x : CanTx) : M := on.setCan 3 { on.canBox 3 with onBus := some x }
    let sleepy : M := (on.put F.CAN_STAT_state 4 3).setCan 3 { on.canBox 3 with asleep := some ⟨1, false, 0, 0, 0, 0⟩ }
    let waits : M := on.setCan 3 { on.canBox 3 with dialogue := [canFrame], refWaiting := true }
    let full : M := on.setCan 3 { on.canBox 3 with rxq1 := List.replicate 64 ⟨canFrame, 0⟩ }
    up.canState 3 = 0 ∧ (up.put F.CAN_NBT_ntseg1 0 3).canTiming 3 ≠ 0 ∧ (∀ x < 64, on.bit F.CAN_STA_CFG_en 3 x = false) ∧
    on.get F.CAN_TXREQ_req 3 = 0 ∧ on.canState 3 = 2 ∧ 3 < on.can.length ∧ (sleepy.canBox 3).asleep = some ⟨1, false, 0, 0, 0, 0⟩ ∧
    (⟨1, false, 0, 0, 0, 0⟩ : WakeSettings).wakes .pattern = true ∧ (⟨1, false, 0, 0, 0, 0⟩ : WakeSettings).wakes .frameErrors = false ∧
    (up.put F.CAN_STAT_state 1 3).canState 3 = 1 ∧ up.bitOf F.TIM_CLK_STAT_fo 3 = false ∧ on.canSends 3 = true ∧
    ((bus .ref).canBox 3).onBus = some .ref ∧ ((bus (.buffer 5)).canBox 3).onBus = some (.buffer 5) ∧ (waits.canBox 3).refWaiting = true ∧
    (waits.canBox 3).dialogue ≠ [] ∧ (waits.canBox 3).onBus = none ∧ ((full.canBox 3).rxq1).length = 64 ∧ up.canSends 3 = false := by
  decide +kernel

/-- Errors, filters and buffers: a counter that passes 255 and one that does not; a frame of the dialogue, one with a filter, one without;
a buffer that may be requested. -/
theorem witness_can_frames :
    let on : M := (up.put F.CAN_STAT_state 2 3).put F.CAN_CTRL_en 1 3
    let flt : M := ((on.put F.CAN_FLT_ID_id 0x523 3 6).put F.CAN_FLT_MASK_mask 0x7FF 3 6).put F.CAN_FLT_ID_en 1 3 6
    255 < (on.put F.CAN_ERR_tec 250 3).get F.CAN_ERR_tec 3 + 8 ∧ on.get F.CAN_ERR_tec 3 + 8 ≤ 255 ∧ canFrame.isDialogue = true ∧
    ({ canFrame with id := 0x523 } : CanFrame).isDialogue = false ∧ on.filterOf 3 { canFrame with id := 0x523 } = none ∧
    flt.filterOf 3 { canFrame with id := 0x523 } = some 6 ∧ on.time.tai % 1000000 = 0 ∧
    (on.put F.CAN_ERR_rec 200 3).get F.CAN_ERR_rec 3 = 200 := by decide +kernel

/-- Stations: times that pass their check and times that fail; states; an IDR that fits, that differs in its serial, that answers too late;
a report and a REJ long enough; no station. -/
theorem witness_stations :
    let on : M := (((up.put F.CAN_STAT_state 2 3).put F.CAN_STA_CFG_sup 100 3 9).put F.CAN_STA_CFG_refresh 50 3 9).put F.CAN_STA_CFG_en 1 3 9
    let idr : Bytes := [0, 0, 0, 0, 0, 5, 9, 1] ++ List.replicate 8 0
    let k : Station := ⟨some 0, some 5, none, 0, [], some 0⟩
    let ident : M := (on.put F.CAN_STA_STAT_state 1 3 9).setStation 3 9 k
    2 ≤ on.get F.CAN_STA_CFG_sup 3 9 ∧ 2 * on.get F.CAN_STA_CFG_refresh 3 9 ≤ on.get F.CAN_STA_CFG_sup 3 9 ∧
    ¬ 2 ≤ (on.put F.CAN_STA_CFG_sup 1 3 9).get F.CAN_STA_CFG_sup 3 9 ∧ on.get F.CAN_STA_STAT_state 3 9 = 0 ∧ on.canSends 3 = true ∧
    be idr 6 1 = 9 ∧ be idr 0 6 = 5 ∧ 16 ≤ idr.length ∧ ident.bit F.CAN_STA_CFG_en 3 9 = true ∧ ident.get F.CAN_STA_STAT_state 3 9 = 1 ∧
    (ident.stationOf 3 9) = k ∧ (ident.put F.CAN_STA_SERL_ser_lo 5 3 9).get F.CAN_STA_SERL_ser_lo 3 9 = 5 ∧
    (ident.put F.CAN_STA_STAT_state 2 3 9).due (ident.stationOf 3 9).superviseBy = true ∧ 8 + 7 * be [0, 0, 0, 1] 1 1 ≤ 8 := by
  decide +kernel

/-- Ports: a queue of 64 frames; a step with and without carrying moved; the old port's change, due and not; carrying that may return; a
partner with which nothing is agreed; frames too long, with a bad FCS, without a VLAN, and one that is taken. -/
theorem witness_port_cases :
    let u : M := (upB.put F.ETH_STAT_state 2 1).put F.ETH_BB_CTRL_ret 1
    let full : M := upB.setEth 0 { upB.ethPort 0 with txq := List.replicate 64 ⟨some 0, .announce [1]⟩ }
    let step (moved : Bool) : M := { u with eth := { u.eth with step := some ⟨0, 1, moved⟩ } }
    let change : M := { u with eth := { u.eth with change := some (1, 2000000000) } }
    let ret : M := ((u.put F.ETH_BB_CTRL_pref 1).put F.ETH_BB_CTRL_hold 0).setEth 1 { u.ethPort 1 with upSince := some 0 }
    64 ≤ (full.ethPort 0).txq.length ∧ (step false).carrying = some 0 ∧ (step true).eth.step = some ⟨0, 1, true⟩ ∧ u.ethState 1 = 2 ∧
    change.time.tb < 2000000000 ∧ (upB.agreed 2 ⟨false, false, false, false, false, false, false⟩) = none ∧
    ret.bit F.ETH_BB_CTRL_ret = true ∧ ret.ethState (ret.get F.ETH_BB_CTRL_pref) = 2 ∧ ret.carrying ≠ some (ret.get F.ETH_BB_CTRL_pref) ∧
    ret.eth.step = none ∧ (ret.ethPort 1).upSince = some 0 ∧ upB.vlanOf 0 none .other = none ∧ upB.vlanOf 0 none .ptpOther = some 0 ∧
    upB.vlanOf 0 (some 7) .other = none ∧ ((upB.put F.ETH_VLAN_valid 1 0 4).put F.ETH_VLAN_vid 7 0 4).vlanOf 0 (some 7) .other = some 4 ∧
    upB.frameTag 0 none = some none ∧ upB.frameTag 0 (some 9) = none := by decide +kernel

/-- Pause, idle, load and PTP: pause resolved on and off; a port idle long enough; a window below the threshold; a message that is taken, of
another domain, on another network; an offset that steers and one that steps; a request that may leave; holdover that begins. -/
theorem witness_port_timing :
    let p : M := upB.put F.ETH_STAT_pause_en 1
    let e : M := (upB.put F.ETH_STAT_eee_act 1).setEth 0 { upB.ethPort 0 with txq := [], idleSince := 0 }
    let ptp0 : M := ((upB.put F.ETH_PTP_CFG_en 1).put F.RTC_CFG_src 1).put F.ETH_STAT_speed 1
    let big : M := { ptp0 with time := { ptp0.time with syncBig := List.replicate 7 2000000 } }
    let req : M := ptp0.setEth 0 { ptp0.ethPort 0 with reqSent := some 5, syncDiff := some 3 }
    p.bit F.ETH_STAT_pause_en = true ∧ upB.bit F.ETH_STAT_pause_en = false ∧ e.bit F.ETH_STAT_eee_act = true ∧ (e.ethPort 0).txq = [] ∧
    (e.ethPort 0).lpi = false ∧ (e.ethPort 0).idleSince + max 1 (e.get F.ETH_EEE_lpi_idle) * 1000 ≤ e.time.tb ∧
    (upB.ethPort 0).sdHoldEnd = none ∧ upB.carrying = some 0 ∧ 1 ≤ max 1 (upB.eff F.ETH_SDCFG_dtime) ∧ ptp0.ptpHere 0 none 0 = true ∧
    (ptp0.put F.ETH_PTP_CFG_vlan 1).ptpHere 0 none 0 = false ∧ ptp0.get F.ETH_PTP_CFG_domain = 0 ∧ ptp0.get F.ETH_STAT_speed = 1 ∧
    7 ≤ big.time.syncBig.length ∧ (req.ethPort 0).reqSent = some 5 ∧ (req.ethPort 0).syncDiff = some 3 ∧ ptp0.bit F.ETH_PTP_CFG_dm = false ∧
    (ptp0.put F.RTC_STAT_lock 1).bit F.RTC_STAT_lock = true ∧ ptp0.time.holdEnd = none ∧ ptp0.get F.RTC_CFG_src = 1 := by decide +kernel

/-- A receive error adds 1 to the receive counter, a transmit error 8 to the transmit counter (R315). -/
theorem test_can_errors :
    leaves upB (.canError 1 .receive) (fun m => (m.get F.CAN_ERR_rec 1, m.get F.CAN_ERR_tec 1)) = some (1, 0) ∧
    leaves upB (.canError 1 .transmit) (fun m => (m.get F.CAN_ERR_rec 1, m.get F.CAN_ERR_tec 1)) = some (0, 8) := by decide +kernel

/-! ### Power, time, lines and resets -/

/-- Levels and domains: a level in transition, one that may be asked for, a domain that rises, one in fault. -/
theorem witness_power :
    let r : M := { up with power := { up.power with busy := .raising 0 0 none } }
    up.power.busy = .idle ∧ up.power.queue = [] ∧ up.power.heldRaise = false ∧ up.bitOf F.TIM_CLK_STAT_fo 0 = false ∧
    (r.put F.PMC_LVL_STAT_step 4).get F.PMC_LVL_STAT_step = 4 ∧ (up.setPd 5 0).pdState 5 = 0 ∧ (up.setPd 5 3).pdState 5 = 3 ∧
    (up.put F.PMC_PD_REQ_on 0xFFFF).bitOf F.PMC_PD_REQ_on 5 = true := by decide +kernel

/-- Transitions: a request while one runs; the refusals of a level; each phase of a ramp; domains switched by H0 and by another; a domain off
that is refused and one that is not. -/
theorem witness_transitions :
    let low : M := up.put F.PMC_LVL_STAT_level 0
    let r (a : Nat) (b : Option Nat) : M := { up with power := { up.power with busy := .raising 0 a b } }
    let q : M := { up with power := { up.power with queue := [.level 2] } }
    (r 0 none).power.busy ≠ .idle ∧ low.get F.PMC_LVL_STAT_level < 2 ∧ low.loopsExceed 2 = false ∧ up.exeState = 0 ∧
    (up.put F.TIM_CLK_STAT_fo 1).bitOf F.TIM_CLK_STAT_fo 0 = true ∧ (up.put F.PMC_SUP_STAT_warn 1).bit F.PMC_SUP_STAT_warn = true ∧
    (r 0 (some 4)).power.busy = .raising 0 0 (some 4) ∧ ((r 0 none).put F.PMC_LVL_STAT_step 2).get F.PMC_LVL_STAT_step = 2 ∧
    (∀ c ∈ [400, 400, 401, 400, 500, 400], paceFloor 3 ≤ c) ∧ ¬ (∀ c ∈ [399, 400, 400, 400, 400, 400], paceFloor 3 ≤ c) ∧
    q.power.queue = [.level 2] ∧ q.power.busy = .idle ∧ q.power.heldRaise = false ∧ up.offRefused 5 = 0 ∧
    (up.put F.LPE_CTRL_en 1).offRefused 5 ≠ 0 ∧ (up.put F.PMC_PD_REQ_on 0).bitOf F.PMC_PD_REQ_on 5 = false ∧ (up.setPd 5 1).pdState 5 = 1 ∧
    engineer.ini ≠ 0 ∧ system.ini = 0 ∧ windowDomain (Reg.ETH_BB_STAT.addr 0 0 0 / 65536) = some (some 7) := by decide +kernel

/-- Clocks: no arbitration; an island that failed over and may return. -/
theorem witness_clocks :
    let m : M := ((up.put F.TIM_CLK_STAT_fo 4).put F.TIM_CLK_STAT_pend 4)
    let n : M := { m with time := { m.time with goodSince := [(2, 0)], tb := 100000000 } }
    up.time.arbitration = none ∧ tbit up.time.monBad 2 = false ∧ n.bitOf F.TIM_CLK_STAT_pend 2 = true ∧
    aget 2 n.time.goodSince = some 0 ∧ 0 + 100000000 ≤ n.time.tb := by decide +kernel

/-- Supply warning, lever, ENA and PWM lines: both sides of each. -/
theorem witness_lines :
    up.bit F.PMC_SUP_STAT_warn = false ∧ (up.put F.PMC_SUP_STAT_warn 1).bit F.PMC_SUP_STAT_warn = true ∧ up.bit F.LIO_STAT_lever = true ∧
    up.bit F.LIO_STAT_ena = true ∧ up.lioRun = false ∧ (up.put F.LIO_CTRL_en 1).lioRun = true ∧
    (up.put F.LIO_CFG_func 3 7).get F.LIO_CFG_func 7 = 3 := by decide +kernel

/-- Resets: a release that is held, a watchdog that ends, steps of the bring-up. -/
theorem witness_resets :
    let h : M := { up with boot := { up.boot with phase := .held } }
    let w : M := { up with time := { up.time with tb := 1000000000 } }
    h.boot.phase = .held ∧ w.boot.mgmt = true ∧ w.domainOn 4 = true ∧ w.boot.mwdBy ≤ w.time.tb ∧ M.reset.boot.phase = .rising ∧
    M.reset.get F.SYS_BOOT_STAT_step = 1 ∧ M.reset.bit F.PMC_SUP_STAT_warn = false := by decide +kernel

/-- Calendar commands: a date that is valid, one that is not, a holdover that ends. -/
theorem witness_calendar :
    let m : M := ((up.put F.RTC_SET_DATE_year 2024).put F.RTC_SET_DATE_month 2).put F.RTC_SET_DATE_day 29
    monthDays 2024 2 = 29 ∧ m.get F.RTC_SET_DATE_day ≤ monthDays (m.get F.RTC_SET_DATE_year) (m.get F.RTC_SET_DATE_month) ∧
    monthDays 2023 2 = 28 ∧ up.get F.RTC_CFG_src ≠ 1 ∧
    ({ up with time := { up.time with holdEnd := some 0 } } : M).time.holdEnd = some 0 := by decide +kernel

/-- The date 2023-02-29 is refused as not valid; 2000-01-02 is day 1 of the calendar (R497, R500). -/
theorem test_calendar_set :
    leaves (((up.put F.RTC_SET_DATE_year 2023).put F.RTC_SET_DATE_month 2).put F.RTC_SET_DATE_day 29) (.calendarSet .h0)
      (fun m => m.get F.RTC_STAT_set_err) = some 1 ∧
    leaves (((up.put F.RTC_SET_DATE_year 2000).put F.RTC_SET_DATE_month 1).put F.RTC_SET_DATE_day 2) (.calendarSet .h0)
      (fun m => (m.get F.RTC_STAT_set_err, m.time.calDay)) = some (0, 1) := by decide +kernel

/-! ### The Krovtan protocol -/

/-- The service port is up; session 78 is open for tenant 0's owner. -/
def upK : M := upP.put F.ETH_STAT_state 2 2

def upKS : State := { State.reset with m := upK }

/-- A request of session 78 with its header check and its MAC. -/
def request (op : Nat) (payload : Bytes) : KrovPacket :=
  let p : KrovPacket := { packet with session := 78, sequence := 1, tag := 9, length := payload.length, payload := payload }
  let c : KrovPacket := { p with hcheck := crc32 (p.head op) }
  { c with mac := (digestBytes (Config.hmac [1] (c.header op ++ c.payload))).take 16 }

/-- The session a request finds. -/
def kept : Session := sessionOf 78 0 .owner

/-- The session a request leaves. -/
def served : Session := { (kept.mark 1).heardFrom packet with lastAt := 0 }

/-- The module with the frame of a packet on SP received. -/
def receivedK : M := (upK.takeFrame 2 none .other).2

/-- SP's default address is one the module listens at (R540). -/
theorem listens_request (op : Nat) (payload : Bytes) : upK.listens (request op payload) = (some 0, receivedK) := by
  have ht : upK.takeFrame 2 none .other = (some 0, receivedK) := by decide +kernel
  have h : (receivedK.addressesOf 2 0).contains packet.dst = true :=
    List.contains_iff_mem.mpr (show packet.dst ∈ [Config.spLinkLocal, [192, 168, 96, 40]] from .tail _ (.head _))
  have g : upK.inert = false := by decide +kernel
  have u : receivedK.udpPort = 52113 := by decide +kernel
  unfold M.listens
  simp only [g, request, packet, ht, u, Bool.false_or]
  simpa [packet] using h

theorem served_rights (op : Nat) : served.opcodeRights op := by
  refine ⟨fun _ => ?_, fun _ => ?_, fun _ => ?_, fun _ => rfl, fun _ => .inl rfl, fun _ => .inl rfl⟩ <;> decide

/-- Requests that are formed are served: the hypotheses of the statements on requests meet. -/
theorem witness_served {op : Nat} {payload : Bytes} (hf : (request op payload).formed op = true) (h2 : op ≠ 2) :
    upKS.serves op (request op payload) 1 served ⟨3, .mk 0 .owner, some 78, false⟩ payload (receivedK.setSession 1 served, []) where
  asked := {
    passes := ⟨0, kept, {
      listens := by rw [show upKS.m = upK from rfl, listens_request]
      formed := hf
      session := (show (78 : Nat) ≠ 0 by decide)
      found := by
        rw [show upKS.m = upK from rfl, listens_request]
        exact (show receivedK.placeOf 78 = some (1, kept) by decide +kernel)
      isOpen := rfl
      port := rfl
      network := .inl rfl
      enc := .inr (show tbit 0 1 = false by decide) }, h2, (show kept.accepts 1 = true by decide), if_pos rfl, by
        rw [show upKS.m = upK from rfl, listens_request]; rfl⟩
    tag := (show (9 : Nat) ≠ 0 by decide)
    unused := by
      rw [show upKS.m = upK from rfl, listens_request]
      exact (show ∀ h ∈ receivedK.krov.held, h.session ≠ some (78, 9) by decide +kernel)
    fresh := .inl (show tbit 0 2 = false by decide)
    room := by decide +kernel
    sender := by decide +kernel
    bus := by rw [show upKS.m = upK from rfl, listens_request]; rfl }
  phase := by decide +kernel
  rights := served_rights op
  status := rfl

/-- One request of each opcode with a row is formed, with the payload length the row asks for where it is fixed. -/
theorem witness_formed_requests :
    [(3, 0), (4, 0), (5, 0), (0x10, 6), (0x11, 12), (0x20, 12), (0x21, 4), (0x30, 8), (0x31, 4), (0x32, 4), (0x40, 4), (0x41, 12),
     (0x42, 4), (0x43, 4), (0x44, 12), (0x50, 8), (0x51, 12), (0x60, 12), (0x61, 8), (0x62, 4), (0x63, 4), (0x70, 0), (0x71, 8),
     (0x80, 4), (0x81, 48)].all (fun x => (request x.1 (List.replicate x.2 0)).formed x.1) = true := by decide +kernel

/-! Openings, encrypted requests, transfers. -/

/-- A packet of an opening with its header check. -/
def opening (op session : Nat) (payload : Bytes) : KrovPacket :=
  let p : KrovPacket := { packet with session := session, tag := 9, length := payload.length, payload := payload }
  { p with hcheck := crc32 (p.head op) }

theorem listens_opening (op session : Nat) (payload : Bytes) : upK.listens (opening op session payload) = (some 0, receivedK) := by
  rw [← listens_request op []]
  rfl

/-- OPEN and PROOF are formed; sessions are left for tenant 0, and none where 32 are held. -/
theorem witness_openings :
    (opening 1 0 (List.replicate 24 0)).formed 1 = true ∧ (opening 2 40 (List.replicate 32 0)).formed 2 = true ∧
    (opening 1 0 (List.replicate 24 0)).mac = zeroMac ∧ receivedK.sessionsFull 0 = false ∧ ({ receivedK with krov := { receivedK.krov with sessions := List.replicate 32 (0, kept) } } : M).sessionsFull 0 = true ∧
   
    receivedK.mayOpen 1 0 0 = true ∧ receivedK.mayOpen 0 0 3 = false := by decide +kernel

theorem xorBytes_twice {a b : Bytes} (h : a.length ≤ b.length) : xorBytes (xorBytes a b) b = a := by
  apply List.ext_getElem
  · simp [xorBytes]; omega
  · intro i h1 h2
    simp [xorBytes, BitVec.xor_assoc]

/-- A proof that fits its account's stored key: the client key of zeros. -/
theorem witness_proof : ∃ (a : Account) (payload client : Bytes), payload.length = 32 ∧
    client = xorBytes payload (digestBytes (Config.hmac a.verifier.storedKey kept.auth)) ∧
    digestBytes (Config.sha256 client) = a.verifier.storedKey ∧ tbit a.flags 0 = true ∧ receivedK.mayOpen kept.port kept.net a.tenant = true := by
  let k : Bytes := List.replicate 32 0
  let stored := digestBytes (Config.sha256 k)
  have hk : k.length ≤ (digestBytes (Config.hmac stored kept.auth)).length := by simp [k, digestBytes, toBE]
  refine ⟨⟨0, 0, 0, 1, ⟨0, [], stored, []⟩⟩, xorBytes k (digestBytes (Config.hmac stored kept.auth)), k, ?_, (xorBytes_twice hk).symm, rfl,
    by decide, by decide +kernel⟩
  simp [xorBytes, k, digestBytes, toBE]

/-- The session of 78 when it encrypts, in the module and after a request. -/
def keptE : Session := { kept with enc := true }
def servedE : Session := { (keptE.mark 1).heardFrom packet with lastAt := 0 }
def upKE : M := { upK with krov := { upK.krov with sessions := [(1, keptE)] } }
def receivedKE : M := (upKE.takeFrame 2 none .other).2

/-- An account record that is well formed: account 7 of tenant 1, ENGINEER, by key. -/
def accountRecord : Bytes := [0, 7, 1, 2, 0, 1, 0, 0] ++ List.replicate 84 0

/-- An encrypted request of session 78. -/
def sealed (op : Nat) (payload : Bytes) : KrovPacket :=
  let p : KrovPacket := { packet with session := 78, sequence := 1, tag := 9, flags := 2, length := payload.length + 16 }
  let c : KrovPacket := { p with hcheck := crc32 (p.head op) }
  let d : KrovPacket := { c with payload := gcmSeal (keptE.keyEnc.take 16) (keptE.nonce 0 1) (c.header op) payload }
  { d with mac := (digestBytes (Config.hmac [1] (d.header op ++ d.payload))).take 16 }

theorem listens_sealed (op : Nat) (payload : Bytes) : upKE.listens (sealed op payload) = (some 0, receivedKE) := by
  have ht : upKE.takeFrame 2 none .other = (some 0, receivedKE) := by decide +kernel
  have h : (receivedKE.addressesOf 2 0).contains packet.dst = true :=
    List.contains_iff_mem.mpr (show packet.dst ∈ [Config.spLinkLocal, [192, 168, 96, 40]] from .tail _ (.head _))
  have g : upKE.inert = false := by decide +kernel
  have u : receivedKE.udpPort = 52113 := by decide +kernel
  unfold M.listens
  simp only [g, sealed, packet, ht, u, Bool.false_or]
  simpa [packet] using h

theorem sealed_plain (op : Nat) (payload : Bytes) : keptE.plainOf op (sealed op payload) = some payload :=
  (if_pos rfl).trans ((if_pos rfl).trans (gcmOpen_gcmSeal _ _ _ _))

theorem sealed_formed : (sealed 0x81 accountRecord).formed 0x81 = true := by decide +kernel

/-- ACCOUNT_WRITE on an encrypted session is served. -/
theorem witness_sealed : accountOk accountRecord = true ∧ ({ State.reset with m := upKE } : State).serves 0x81 (sealed 0x81 accountRecord) 1 servedE
    ⟨3, .mk 0 .owner, some 78, false⟩ accountRecord (receivedKE.setSession 1 servedE, []) := by
  refine ⟨by decide +kernel, ⟨?_, by decide +kernel, served_rights _, rfl⟩⟩
  exact {
    passes := ⟨0, keptE, {
      listens := by rw [show ({ State.reset with m := upKE } : State).m = upKE from rfl, listens_sealed]
      formed := sealed_formed
      session := (show (78 : Nat) ≠ 0 by decide)
      found := by
        rw [show ({ State.reset with m := upKE } : State).m = upKE from rfl, listens_sealed]
        exact (show receivedKE.placeOf 78 = some (1, keptE) by decide +kernel)
      isOpen := rfl
      port := rfl
      network := .inl rfl
      enc := .inr (show tbit 2 1 = true by decide) }, by decide, (show keptE.accepts 1 = true by decide),
      sealed_plain _ _, by
        rw [show ({ State.reset with m := upKE } : State).m = upKE from rfl, listens_sealed]; rfl⟩
    tag := (show (9 : Nat) ≠ 0 by decide)
    unused := by
      rw [show ({ State.reset with m := upKE } : State).m = upKE from rfl, listens_sealed]
      exact (show ∀ h ∈ receivedKE.krov.held, h.session ≠ some (78, 9) by decide +kernel)
    fresh := .inl (show tbit 2 2 = false by decide)
    room := by decide +kernel
    sender := by decide +kernel
    bus := by rw [show ({ State.reset with m := upKE } : State).m = upKE from rfl, listens_sealed]; rfl }

/-- Sessions and places: one opening, one failing, one idle too long; an account locked and one past its lock; an answer that waits for a change
frame, and a transaction limit that is reached. -/
theorem witness_session_times :
    let m : M := { upK with
      krov := { upK.krov with
        sessions := [(4, { kept with place := .opening 0 }), (5, { kept with place := .failing 0 9 }), (6, { kept with idle := 0 })]
        lockUntil := [(3, 0), (4, 99)]
        held := List.replicate 32 ⟨0, some 7, .response 1 78 4 9 0 [] .nothing⟩ }
      tth := { upK.tth with changes := [(7, 100)] } }
    (aget 4 m.krov.sessions).map Session.place = some (.opening 0) ∧ (aget 5 m.krov.sessions).map Session.place = some (.failing 0 9) ∧
    (aget 6 m.krov.sessions).any (fun x => x.lastAt + x.idle * 1000000000 ≤ m.time.tb) = true ∧ aget 3 m.krov.lockUntil = some 0 ∧
    0 ≤ m.time.tb ∧ m.time.tb < 99 ∧ m.transactionsFull 78 = true ∧ m.tagInFlight 78 9 = true ∧
    m.mayLeave ⟨0, some 7, .written 0 8⟩ = false ∧ m.mayLeave ⟨0, some 6, .written 0 8⟩ = true := by decide +kernel

/-- Transfers: a kind the session may begin, one it may not; an object's length; a read and a write transfer of the session, the latter whole;
network records that are good and that fit. -/
theorem witness_transfers :
    let x (kind : Nat) (write : Bool) : Transfer := ⟨12, 78, kind, write, 0, 1024, [(0, List.replicate 1024 0)], 0, 0⟩
    let m (kind : Nat) (write : Bool) : M := { upK with krov := { upK.krov with transfers := [(12, x kind write)] } }
    served.mayTransfer 2 = true ∧ (sessionOf 9 3 .owner).mayTransfer 2 = false ∧ upK.objectLength system 2 0 = some 0 ∧
    upK.objectLength system 2 7 = none ∧ (m 2 false).transferOf served [0, 12, 0, 0, 0, 0, 0, 0] = some (x 2 false) ∧
    (m 1 true).transferOf served [0, 12, 0, 0] = some (x 1 true) ∧ (x 1 true).chunks.length = ((x 1 true).length + 1023) / 1024 ∧
    upK.krov.transfers.length < 8 ∧ upK.domainOn 13 = true ∧ upK.get F.UPD_STAT_state < 3 ∧
    readNet 8 [4, 0, 0, 4, 4, 0, 0, 0] = some [⟨4, 0, 0, [4, 0, 0, 0]⟩] ∧ (⟨4, 0, 0, [4, 0, 0, 0]⟩ : NetRecord).ok = true ∧
    netFits ([⟨4, 0, 0, [4, 0, 0, 0]⟩].foldl netApply upK.krov.net) = true ∧ (⟨1, 2, 0, [1, 0, 0, 0]⟩ : NetRecord).ofSp = true := by
  decide +kernel

/-- Points as a session of tenant 1 sees them: granted, read-only, absent; one it may force. -/
theorem witness_request_rights :
    upP.gate engineer .read 5 = .granted ∧ upP.gate engineer .read 9 = .absent ∧ upP.sees engineer 9 = false ∧ upP.mayForce engineer 5 = true ∧
    upP.gate ⟨3, .mk 1 .view, some 77, false⟩ .write 5 ≠ .granted ∧ upP.mayForce ⟨3, .mk 1 .view, some 77, false⟩ 5 = false ∧
    (upP.point 5).map PointRec.kind = some 1 ∧ kept.rank = 3 ∧ (sessionOf 9 3 .view).rank = 0 ∧ kept.txSeq + 1 < 0xFFFFFFF0 := by decide +kernel

/-! ### The pair and the stores -/

/-- A message of the witness: kind, pair 5, sender 255, sequence 1, with its MAC under the key of slot 3. -/
def message (kind : Nat) (body : Bytes) : Bytes :=
  let c := chHeader kind 5 255 1 2 0 body.length ++ body
  c ++ (digestBytes (Config.hmac [9] c)).take 16

/-- The unit takes part in pair 5; the key of its messages is in slot 3; the tether link is up; the unit is ACTIVE with a lease. -/
def upA : M :=
  let m : M := (((((((up.put F.IBX_CTRL_en 1).put F.IBX_PAIR_pair 5).put F.IBX_PAIR_key 3).put F.TTH_CTRL_en 1).put F.TTH_STAT_link 2).put
    F.IBX_STAT_state 4).put F.IBX_STAT_lease 1).put F.IBX_PHEALTH_health 0x000FE000 |>.put F.ETH_STAT_state 2 0
  { m with
    kv := { m.kv with slots := [(3, ⟨[9], 15, false, false, 0⟩)] }
    ibx := { m.ibx with
      peerAt := some 0
      leaseEnd := some 0
      handover := .requested .switch
      hostStart := some 0
      pairs := [⟨true, 3, 6, 1, 8, some 0, some 0, 0, 2, false, none, 0, none, none, none, 0, 0, false, none⟩] } }

/-- A STATE message of the witness on port 0. -/
def stateMessage : ChRx := ⟨0, none, [10, 0, 0, 7], [10, 0, 0, 8], message 3 [0, 0, 0, 0]⟩

/-- A STATE message of the witness is heard: the hypotheses of the statements on the witness's messages meet. -/
theorem witness_heard : ∃ c m, upA.hears 3 stateMessage c m ∧ c.epoch = 2 := by
  refine ⟨⟨3, 5, 255, 1, 2, 0, [0, 0, 0, 0], (message 3 [0, 0, 0, 0]).take 28, (message 3 [0, 0, 0, 0]).drop 28⟩, _,
    ⟨rfl, rfl, (upA.takeFrame 0 none .chamois).2, [9], (upA.takeFrame 0 none .chamois).2, ?_, by decide +kernel, by decide +kernel,
      by decide +kernel, rfl, by decide +kernel, rfl⟩, rfl⟩
  have ht : upA.takeFrame 0 none .chamois = (some 0, (upA.takeFrame 0 none .chamois).2) := by decide +kernel
  unfold M.takeChamois
  rw [if_neg (by decide), show upA.takeFrame stateMessage.port stateMessage.vid .chamois = _ from ht]
  refine congrArg (Prod.mk · _) ?_
  unfold parseChamois
  rw [if_pos (by decide +kernel)]
  rfl

/-- The pair: ACTIVE with a lease that ends, a requested hand-over, an eligible peer, the tether up, a hosted pair whose renewal is
missed. -/
theorem witness_pair :
    upA.unitState = 4 ∧ upA.leased = true ∧ upA.ibx.leaseEnd = some 0 ∧ 0 ≤ upA.time.tb ∧ upA.peerEligible = true ∧ upA.tetherUp = true ∧
    upA.ibx.handover = .requested .switch ∧ (upA.hosted 0).valid = true ∧ (upA.hosted 0).holder ≠ none ∧ (upA.hosted 0).missAt ≤ upA.time.tb ∧
    (upA.hosted 0).epoch + 1 ≤ (upA.hosted 0).bound ∧ upA.peerActive = false := by decide +kernel

/-- A frame in order and good is taken while the link is up; the next number is expected (R392). -/
theorem test_tether_takes :
    (upA.tetherTake 1 true id).tth.rxSeq = 2 ∧ (upA.tetherTake 2 true id).tth.rxSeq = 1 := by decide +kernel

/-- The recorder's queue and the log's, with a source offered and a claim on the stack. -/
theorem witness_events :
    let m : M := { up.raise 0x01 with ev := { up.ev with stack0 := [(16, 7)] } }
    let r : M := { up with frec := { up.frec with
      ready := true
      queue := [⟨1, 0, .triggers []⟩]
      logQueue := [⟨0, 1, 2, 0, 0, [], 0⟩] } }
    (m.put F.EVC_STAT_h0_lvl 16).nextSource 0 = some 1 ∧ m.ev.stack 0 = [(16, 7)] ∧ r.frec.queue ≠ [] ∧ r.frec.ready = true ∧
    r.frec.logQueue ≠ [] ∧ r.domainOn 13 = true := by decide +kernel

/-- The parameter store: an open right to a page's region, a commit in progress, a bad page, a region that is locked. -/
theorem witness_store :
    let m : M := { up with nvp := { up.nvp with
      commits := [⟨9, [], true⟩]
      bad := [4]
      rdPw := [(2, (1, 2))]
      lockUntil := [(3, 5)] } }
    up.bit F.NVP_STAT_busy = false ∧ (∀ c ∈ up.nvp.commits, c.page % 8 ≠ 1) ∧ (∃ c ∈ m.nvp.commits, c.page % 8 = 1) ∧ 4 ∈ m.nvp.bad ∧
    aget 2 m.nvp.rdPw = some (1, 2) ∧ aget 3 m.nvp.lockUntil = some 5 ∧ m.time.tb < 5 ∧ 4 ∉ m.nvp.scanned := by decide +kernel

/-- Trends: a log that samples, and one with a segment. -/
theorem witness_trends :
    let m : M := (up.put F.HST_TR_CFG_en 1 63).setTrend 63 ⟨[⟨1, 0, [5], []⟩], false⟩
    m.bit F.HST_TR_CFG_en 63 = true ∧ m.domainOn 13 = true ∧ m.bit F.HST_STAT_ro = false ∧ (m.trendLog 63).fresh = false ∧
    (m.trendLog 63).segments = [⟨1, 0, [5], []⟩] ∧ m.bit F.HST_TR_CFG_en 0 = false := by decide +kernel

/-- The vault: an empty slot, a counted one, gates that are open and past their time. -/
theorem witness_vault :
    let m : M := { up with kv := { up.kv with
      slots := [(7, ⟨[1], 3, false, true, 2⟩)]
      opened := some (3, (1, 0)) } }
    m.kvSlot 6 = none ∧ (m.kvSlot 7).map KvSlot.counted = some true ∧ (m.kvSlot 7).map KvSlot.count = some 2 ∧
    (m.kvSlot 7).map (fun k => tbit k.users 0) = some true ∧ m.domainOn 6 = true ∧ m.kv.opened = some (3, (1, 0)) ∧ 0 ≤ m.time.tb ∧
    m.kv.lockUntil = none ∧ m.leased = false := by decide +kernel

/-- Writes to the page buffer move the word number on, 63 to 0, and a buffer of another tag loses its other words (R531). -/
theorem test_buffer_write :
    let m : M := up.put F.NVP_ADDR_word 63
    let n : M := { m with nvp := { m.nvp with
      buffer := [(5, 7)]
      owner := some (.mk 1 .engineer) } }
    leaves n (.bufferWrite .h0 9) (fun m => (m.get F.NVP_ADDR_word, m.nvp.buffer, m.nvp.owner)) = some (0, [(63, 9)], some .system) := by
  decide +kernel

/-- A counted slot loses one use; its last use empties it (R554). -/
theorem test_slot_use :
    let m (n : Nat) : M := { up with kv := { up.kv with slots := [(7, ⟨[1], 3, false, true, n⟩)] } }
    leaves (m 2) (.slotUse 7 24) (fun m => (m.kvSlot 7).map KvSlot.count) = some (some 1) ∧
    leaves (m 1) (.slotUse 7 24) (fun m => (m.kvSlot 7).map KvSlot.count) = some none := by decide +kernel

/-- Updates: a trial whose confirmation window has ended, a package that may be installed, a component that restarts. -/
theorem witness_updates :
    let m : M := up.put F.UPD_STAT_state 4
    let t : M := { m with upd := { m.upd with windowEnd := some 0 } }
    let r : M := { up with upd := { up.upd with restarting := some 1 } }
    t.get F.UPD_STAT_state = 4 ∧ t.upd.windowEnd = some 0 ∧ 0 ≤ t.time.tb ∧ up.upd.boot.active < 2 ∧ up.bit F.UPD_CMD_STAT_busy = false ∧
    mayUpdate .system = true ∧ (up.put F.UPD_STAT_state 2).get F.UPD_STAT_state = 2 ∧ r.upd.restarting = some 1 := by decide +kernel

/-- A LEASE message of the witness that echoes a BEAT of the unit. -/
def leaseMessage : ChRx := ⟨0, none, [10, 0, 0, 7], [10, 0, 0, 8], message 2 (toBE 2 20 ++ [1, 0])⟩

def upL : M := { upA with ibx := { upA.ibx with beats := [(0, 0)] } }

/-- A LEASE message is heard, by a unit that sent the BEAT it echoes and by one that sent none. -/
theorem witness_lease : ∃ c m n, upL.hears 2 leaseMessage c m ∧ upA.hears 2 leaseMessage c n ∧ c.epoch = 2 ∧ c.echo = 0 ∧ be c.body 0 2 = 20 ∧
    (upL.ibx.beats.find? (fun p => p.1 == c.echo)).map Prod.snd = some 0 ∧ (upA.ibx.beats.find? (fun p => p.1 == c.echo)).map Prod.snd = none ∧
    m.time.tb ≤ 0 + 12000000 ∧ m.get F.IBX_EPOCH_epoch ≤ c.epoch ∧ m.unitState ∈ [0, 2, 3, 4, 5] := by
  have hp : parseChamois leaseMessage.bytes = some ⟨2, 5, 255, 1, 2, 0, toBE 2 20 ++ [1, 0], leaseMessage.bytes.take 28, leaseMessage.bytes.drop 28⟩ := by
    unfold parseChamois
    rw [if_pos (by decide +kernel)]
    rfl
  have hs : ∀ x : M, x.takeFrame 0 none .chamois = (some 0, (x.takeFrame 0 none .chamois).2) →
      x.takeChamois leaseMessage = (some ⟨2, 5, 255, 1, 2, 0, toBE 2 20 ++ [1, 0], leaseMessage.bytes.take 28, leaseMessage.bytes.drop 28⟩,
        (x.takeFrame 0 none .chamois).2) := by
    intro x hx
    unfold M.takeChamois
    rw [if_neg (by decide), show x.takeFrame leaseMessage.port leaseMessage.vid .chamois = _ from hx, hp]
    rfl
  refine ⟨⟨2, 5, 255, 1, 2, 0, toBE 2 20 ++ [1, 0], leaseMessage.bytes.take 28, leaseMessage.bytes.drop 28⟩, _, _,
    ⟨rfl, rfl, (upL.takeFrame 0 none .chamois).2, [9], (upL.takeFrame 0 none .chamois).2, hs _ (by decide +kernel), by decide +kernel, by decide +kernel,
      by decide +kernel, rfl, by decide +kernel, rfl⟩,
    ⟨rfl, rfl, (upA.takeFrame 0 none .chamois).2, [9], (upA.takeFrame 0 none .chamois).2, hs _ (by decide +kernel), by decide +kernel, by decide +kernel,
      by decide +kernel, rfl, by decide +kernel, rfl⟩, rfl, rfl, by decide, by decide +kernel, by decide +kernel, by decide +kernel, by decide +kernel,
      by decide +kernel⟩

/-- BEAT slots, leases and PACT: both sides of each, at their bounds. -/
theorem witness_leases :
    let t (n : Nat) : M := { upA with time := { upA.time with tai := n } }
    let p (by_ : Nat) : M := { upA.putB F.IBX_STAT_pact true with ibx := { upA.ibx with pactBy := some by_ } }
    (upA.time.tai + (if upA.slotB then 2500000 else 0)) % 5000000 = 0 ∧ ((t 1).time.tai + (if (t 1).slotB then 2500000 else 0)) % 5000000 ≠ 0 ∧
    upA.chamoisOn = true ∧ up.chamoisOn = false ∧ upA.unitState ≠ 7 ∧ upA.ibx.leaseEnd = some 0 ∧ 0 ≤ upA.time.tb ∧ up.leased = false ∧
    upA.bit F.IBX_STAT_pact = false ∧ (p 0).leased = true ∧ (p 0).bit F.IBX_STAT_pact = true ∧ (p 0).ibx.pactBy = some 0 ∧
    (p 9).time.tb < 9 ∧ (upA.takeChamois ⟨2, none, [], [], []⟩).1 = none ∧ upA.slotByte = 0 ∧
    (upA.put F.IBX_STAT_state 5).unitState = 5 ∧ ((upA.put F.IBX_STAT_lease 0).leased = false) := by decide +kernel

/-- A hosted pair with recorded holder 0 and epoch 1. -/
def pair5 : HostedPair := ⟨true, 3, 5, 1, 8, some 0, some 0, 0, 2, false, none, 0, none, none, none, 0, 0, false, none⟩

/-- A BEAT of a unit: healthy, in a state. -/
def beatOf (state epoch flags at_ : Nat) : BeatSeen := ⟨1, at_, epoch, BitVec.ofNat 32 (state * 2 ^ 28 + 127 * 2 ^ 13), flags, [1], [2]⟩

/-- The decisions of Table 11-9: each is taken on some BEAT. -/
theorem witness_decisions :
    pair5.decide 0 0 (beatOf 4 1 3 0) = .renewal ∧ pair5.decide 1 0 (beatOf 2 0 3 0) = .refuse 1 ∧ pair5.decide 1 0 (beatOf 2 1 0 0) = .refuse 2 ∧
    pair5.decide 1 0 (beatOf 1 1 1 0) = .refuse 2 ∧ pair5.decide 1 1000000 (beatOf 2 1 1 0) = .refuse 3 ∧
    ({ pair5 with holder := none, windowEnd := 9 } : HostedPair).decide 1 8 (beatOf 2 1 1 0) = .refuse 4 ∧
    ({ pair5 with holder := none, epoch := 0xFFFFFFFF } : HostedPair).decide 1 8 (beatOf 2 0xFFFFFFFF 1 0) = .refuse 5 ∧
    ({ pair5 with missed := 3 } : HostedPair).decide 1 1000001 (beatOf 2 1 1 0) = .grant ∧
    ({ pair5 with released := true } : HostedPair).decide 1 0 (beatOf 2 1 1 0) = .grant := by decide +kernel

/-- The witness hosts pair 5. -/
def upW (p : HostedPair) (quiet : Option Nat) : M := { upA with ibx := { upA.ibx with
  pairs := [p]
  quietEnd := quiet } }

/-- A BEAT or RELEASE of slot A of pair 5. -/
def unitMessage (kind seq epoch : Nat) (body : Bytes) : ChRx :=
  let c := chHeader kind 5 0 seq epoch 0 body.length ++ body
  ⟨0, none, [10, 0, 0, 7], [10, 0, 0, 8], c ++ (digestBytes (Config.hmac [9] c)).take 16⟩

/-- BEAT and RELEASE of a hosted pair are taken: the hypotheses of the statements on the witness meet; the pair's holder and epoch are those the
RELEASE gives up; an old sequence number is not new. -/
theorem witness_hosting (kind : Nat) (body : Bytes) (c : ChMsg)
    (hc : c = ⟨kind, 5, 0, 1, 1, 0, body, (unitMessage kind 1 1 body).bytes.take (24 + body.length),
      (unitMessage kind 1 1 body).bytes.drop (24 + body.length)⟩)
    (hb : (kind = 1 ∧ body = [0x40, 0x0F, 0xE0, 0, 3, 0, 0, 0]) ∨ (kind = 4 ∧ body = [1, 0, 0, 0])) :
    ∃ m, (upW pair5 none).hostAccept kind (unitMessage kind 1 1 body) = (some (0, c), m) ∧ (m.hosted 0).holder = some 0 ∧
      (m.hosted 0).epoch = 1 ∧ m.ibx.quietEnd = none := by
  have ht : (upW pair5 none).takeFrame 0 none .chamois = (some 0, ((upW pair5 none).takeFrame 0 none .chamois).2) := by decide +kernel
  have hp : parseChamois (unitMessage kind 1 1 body).bytes = some c := by
    subst hc
    unfold parseChamois
    rcases hb with ⟨rfl, rfl⟩ | ⟨rfl, rfl⟩
    · rw [if_pos (by decide +kernel)]; rfl
    · rw [if_pos (by decide +kernel)]; rfl
  have h : (upW pair5 none).takeChamois (unitMessage kind 1 1 body) = (some c, ((upW pair5 none).takeFrame 0 none .chamois).2) := by
    unfold M.takeChamois
    rw [if_neg (by rcases hb with ⟨rfl, rfl⟩ | ⟨rfl, rfl⟩ <;> decide), show (upW pair5 none).takeFrame (unitMessage kind 1 1 body).port
      (unitMessage kind 1 1 body).vid .chamois = _ from ht, hp]
    rfl
  have hk : ((upW pair5 none).takeFrame 0 none .chamois).2.useSlot 3 24 = (some [9], ((upW pair5 none).takeFrame 0 none .chamois).2) := by
    decide +kernel
  have hm : ((upW pair5 none).takeFrame 0 none .chamois).2.macGood 3 c = (true, ((upW pair5 none).takeFrame 0 none .chamois).2) := by
    unfold M.macGood
    rw [hk]
    subst hc
    rcases hb with ⟨rfl, rfl⟩ | ⟨rfl, rfl⟩ <;> exact congrArg (Prod.mk · _) (decide_eq_true rfl)
  have hs : ((upW pair5 none).takeFrame 0 none .chamois).2.hostedSlot c.pair = some 0 := by
    rw [show c.pair = 5 by rw [hc]]
    decide +kernel
  have hq : (((upW pair5 none).takeFrame 0 none .chamois).2.hosted 0).key = 3 := by decide +kernel
  refine ⟨((upW pair5 none).takeFrame 0 none .chamois).2.setHosted 0 { ((upW pair5 none).takeFrame 0 none .chamois).2.hosted 0 with seqA := 1 },
    ?_, by decide +kernel, by decide +kernel, by decide +kernel⟩
  unfold M.hostAccept
  rw [h]
  dsimp only
  rw [hs]
  dsimp only
  rw [hq, hm]
  subst hc
  dsimp only
  rw [if_neg (by simp; decide +kernel), if_neg (by decide +kernel)]
  rfl

/-- Grants, lease ends and the start window: each condition, and its opposite. -/
theorem witness_grants :
    let w (p : HostedPair) : M := upW p none
    let b0 : BeatSeen := beatOf 2 1 5 0
    let b1 : BeatSeen := beatOf 2 1 1 1
    let p : HostedPair := { pair5 with holder := none, beatA := some b0, beatB := some b1, firstClaim := some 0 }
    p.decide 0 0 b0 = .grant ∧ p.decide 1 0 b1 = .grant ∧ (w p).time.tb ≤ b0.at_ + 6000000 ∧ b0.at_ < b1.at_ ∧ (w p).ibx.hostStart ≠ none ∧
    (w p).ibx.quietEnd = none ∧ ({ p with successor := some 1 } : HostedPair).successor = some 1 ∧ up.ibx.hostStart = none ∧
    p.epoch + 1 ≤ p.bound ∧ ({ p with epoch := 8 } : HostedPair).bound < 8 + 1 ∧ pair5.holder ≠ none ∧ pair5.missAt ≤ (w pair5).time.tb ∧
    (pair5.leaseEnd = some 0 ∧ 0 + 1000000 < ({ (w pair5) with time := { (w pair5).time with tb := 1000001 } } : M).time.tb) ∧
    ({ p with committing := true, waiting := some 0 } : HostedPair).beatOf 0 = some b0 ∧ p.windowEnd ≤ (w p).time.tb ∧
    b0.eligible = true ∧ tbit b0.flags 0 = true ∧ tbit b0.flags 1 = false ∧ tbit b0.flags 2 = true ∧ tbit b1.flags 2 = false ∧
    (upW p (some 0)).ibx.quietEnd = some 0 ∧ (upW p (some 9)).time.tb < 9 := by decide +kernel

/-- The tether: up and down, frames in and out of order, owed and late acknowledgments, changes that wait, a link that fell, a mirror cycle. -/
theorem witness_tether :
    let a : M := { upA with tth := { upA.tth with
      unacked := [⟨3, 0, .handover 1⟩]
      changes := [(3, 0), (4, 9)]
      rxOwed := 63
      rxAckBy := some 0
      downSince := some 0 } }
    let late : M := { a with time := { a.time with tb := 1000000 } }
    a.tetherUp = true ∧ up.tetherUp = false ∧ upA.tth.rxSeq = 1 ∧ a.tth.unacked ≠ [] ∧ late.tth.ackAt + 1000000 ≤ late.time.tb ∧
    a.time.tb < a.tth.ackAt + 1000000 ∧ (∃ p ∈ a.tth.changes, p.2 ≤ a.time.tb) ∧ (∃ p ∈ a.tth.changes, a.time.tb < p.2) ∧ 63 ≤ a.tth.rxOwed ∧
    upA.tth.rxOwed < 63 ∧ a.tth.rxAckBy = some 0 ∧ upA.tth.rxAckBy = none ∧ (late.put F.IBX_STAT_state 2).unitState = 2 ∧
    late.tth.downSince = some 0 ∧ 0 + 1000000 ≤ late.time.tb ∧ upA.bit F.TTH_CTRL_en = true ∧ upA.domainOn 12 = true ∧
    (upA.put F.TTH_STAT_link 1).tetherUp = false ∧ (upA.put F.TTH_STAT_lanes 3).get F.TTH_STAT_lanes = 3 ∧
    upA.time.tai % (max 1 (upA.eff F.TTH_CTRL_period) * 1000000) = 0 ∧
    ({ upA with time := { upA.time with tai := 1 } } : M).time.tai % (max 1 (upA.eff F.TTH_CTRL_period) * 1000000) ≠ 0 ∧
    ((ChangeRec.release 5).inRange = true) ∧ (MirrorItem.point 5 0).inRange = true ∧ upA.unitState = 4 ∧
    ((upA.put F.IBX_PHEALTH_health 0x400FE000).peerActive = true) ∧ ((upA.put F.IBX_STAT_state 5).put F.IBX_STAT_lease 0).peerActive = false := by
  decide +kernel

/-- Hand-overs and health: each phase, an eligible peer and none, a peer that is silent, the commands' refusals, times that have passed. -/
theorem witness_handover :
    let h (p : HandoverPhase) : M := { upA with ibx := { upA.ibx with handover := p } }
    let late : M := { h (.released .switch 0) with time := { upA.time with tb := 600000000000 } }
    let f : M := { (h .none).put F.IBX_STAT_state 6 with ibx := { (h .none).ibx with okSince := some 0 } }
    upA.peerEligible = true ∧ up.peerEligible = false ∧ (h .none).ibx.handover = .none ∧ (h (.released .switch 0)).ibx.handover = .released .switch 0 ∧
    (h (.released .switch 0)).boot.resetWaits = false ∧ ((upA.put F.IBX_PHEALTH_health 0x200FE000).peerReadyFor = true) ∧
    upA.peerReadyFor = false ∧ upA.bit F.IBX_CMD_STAT_busy = false ∧ upA.ibx.healthSafe = false ∧
    ({ upA with ibx := { upA.ibx with healthSafe := true, handover := .none } } : M).ibx.healthSafe = true ∧
    ((upA.put F.EXE_STAT_state 3).put F.IBX_CTRL_trip_act 1).bit F.IBX_CTRL_trip_act = true ∧ late.ibx.peerAt = some 0 ∧ 0 + 10000000 < late.time.tb ∧
    upA.time.tb ≤ 0 + 10000000 ∧ ({ up with ibx := { up.ibx with selfTest := true } } : M).leased = false ∧ up.ibx.selfTest = false ∧
    (fieldN upA.healthBits 13 7 = 127 ∨ fieldN upA.healthBits 13 7 ≠ 127) ∧ f.unitState = 6 ∧ f.ibx.okSince = some 0 ∧
    ({ f with time := late.time } : M).time.tb ≥ 0 + 10000000000 ∧ f.time.tb < 0 + 10000000000 ∧ up.get F.UPD_STAT_pair = 0 ∧
    (up.put F.UPD_STAT_pair 2).get F.UPD_STAT_pair = 2 ∧ up.unitState = 0 ∧ (up.put F.IBX_STAT_state 7).unitState = 7 := by decide +kernel

/-- Lines: the switch's bounds, lines with and without a function, PWM values on each side, the lever and ENA with and without a warning. -/
theorem witness_line_cases :
    let l : M := ((up.put F.LIO_CTRL_en 1).put F.LIO_CFG_func 1 0).put F.LIO_CFG_func 3 7
    let w (v : Nat × Nat × Nat) : M := { l with lio := { l.lio with pwm := [(7, v)] } }
    up.bit F.LIO_CTRL_en = false ∧ up.domainOn 14 = true ∧ l.lioRun = true ∧ l.get F.LIO_CFG_func 0 ≠ 0 ∧ l.get F.LIO_CFG_func 9 = 0 ∧
    (upP.point 5).isSome = true ∧ upP.forceOf 5 = none ∧ (upP.forceOf 6).isSome = true ∧ (w (19, 5, 0)).pwmLevel 7 = false ∧
    (w (20, 20, 0)).pwmLevel 7 = true ∧ (w (20, 5, 0)).pwmLevel 7 = true ∧
    ({ (w (20, 5, 0)) with time := { l.time with tb := 25 } } : M).pwmLevel 7 = false ∧ (w (20, 5, 0)).pwmPulses 7 = false ∧
    (up.put F.LIO_STAT_ena 0).bit F.LIO_STAT_ena = false ∧ (up.put F.LIO_STAT_lever 0).bit F.LIO_STAT_lever = false ∧
    (up.put F.LIO_STAT_warn 1).bit F.LIO_STAT_warn = true ∧ up.leased = false ∧ upA.leased = true ∧ up.bit F.SYS_SLOT_peer_present = false ∧
    (up.put F.SYS_SLOT_peer_present 1).bit F.SYS_SLOT_peer_present = true ∧
    ({ up with lio := { up.lio with extraction := .warned 5 } } : M).withdrawAt = 20000005 ∧
    ({ up with lio := { up.lio with extraction := .disabled 0 } } : M).withdrawing = true := by decide +kernel

/-- Bring-up and resets: each step's number can stand, failures, a restarted core, the watchdog halted and not; the timeouts on both sides. -/
theorem witness_bring_up :
    let r (k : Nat) : M := { up.put F.SYS_BOOT_STAT_step k with boot := { up.boot with phase := .rising } }
    let late : M := { r 10 with time := { up.time with tb := 4000000000 }, boot := { (r 10).boot with step6At := some 0, claimAt := some 0, step12At := some 0 } }
    (∀ k ∈ List.range 14, (r k).get F.SYS_BOOT_STAT_step = k) ∧ (r 4).bit F.PMC_SUP_STAT_warn = false ∧
    ({ up with boot := { up.boot with mgmt := false } } : M).boot.mgmt = false ∧ up.domainOn 4 = true ∧ up.boot.mwdLeft = none ∧
    ({ up with boot := { up.boot with mwdLeft := some 5 } } : M).boot.mwdLeft ≠ none ∧ (up.pdState 5 = 1) ∧ ((up.setPd 5 0).pdState 5 ≠ 1) ∧
    up.ibx.peerAt = none ∧ upA.ibx.peerAt ≠ none ∧ up.unitState ≠ 1 ∧ up.power.busy = .idle ∧ up.img.level ≤ up.get F.PMC_LVL_STAT_level ∧
    (up.imageChecks (up.bank 0)).isSome = true ∧ late.boot.step6At = some 0 ∧ 0 + 3000000000 ≤ late.time.tb ∧ (r 10).boot.step6At = none ∧
    up.ibx.witAt = none ∧ up.boot.linkAt = none ∧ up.boot.since + 400000000 ≤ late.time.tb ∧ up.time.tb < up.boot.since + 400000000 ∧
    up.kv.lc ≠ 5 ∧ up.regionBad 0 = false ∧ ({ up with nvp := { up.nvp with bad := [(regionPages 0).1] } } : M).regionBad 0 = true ∧
    (engineer.tag.owner0 = false ∧ engineer.ini = 3 ∧ system.ini = 0) := by decide +kernel

/-- The calendar: alone and by module time, at its end, leap seconds pending at the day's end, the alarm, trims within and past their bounds. -/
theorem witness_calendar_cases :
    let v : M := { up with time := { up.time with vinPresent := true } }
    let s (k : Nat) : M := v.put F.SYS_BOOT_STAT_step k
    let a : M := ((((up.put F.RTC_ALM_en 1).put F.RTC_ALM_day 0).put F.RTC_ALM_hour 31).put F.RTC_ALM_min 5)
    let x : M := (up.put F.RTC_CFG_src 2)
    (s 5).calendarAlone = false ∧ (s 1).calendarAlone = true ∧ ({ up with time := { up.time with vinPresent := false } } : M).calendarAlone = true ∧
    up.bit F.RTC_STAT_end = false ∧ (up.put F.RTC_STAT_end 1).bit F.RTC_STAT_end = true ∧ up.time.calLeap = false ∧
    a.alarmMatch 3 7 5 = true ∧ a.alarmMatch 3 7 6 = false ∧ up.alarmMatch 3 7 5 = false ∧ a.alarmBetween 240 360 = true ∧
    (up.putMt 17181).bit F.RTC_STAT_trim_lim = true ∧ (up.putMt (-17180)).bit F.RTC_STAT_trim_lim = false ∧ up.get F.RTC_CFG_src ∉ [1, 2] ∧
    x.get F.RTC_CFG_src = 2 ∧ x.mtr.cyclesBad = false ∧ ((x.put F.MTR_STAT_run 1).bit F.MTR_STAT_run = true) ∧
    v.time.vinPresent = true ∧ v.bit F.RTC_STAT_vbak_low = false ∧ 146096 < 146097 * 86400 / 86400 ∧ ((up.put F.RTC_CFG_src 1).put F.RTC_STAT_lock 1).bit F.RTC_STAT_lock = true ∧
    ({ up with time := { up.time with holdEnd := some 9 } } : M).time.tb < 9 := by decide +kernel

/-- Events and records: offered and not, entered and halted, a stack to end, counters that wrap and that chain, records written and not. -/
theorem witness_event_cases :
    let e : M := { (up.raise 0x01).put F.EVC_STAT_h0_lvl 16 with ev := { up.ev with stack0 := [(16, 7)] } }
    let c : M := (up.wr (cntReg 0) 0xFFFFFFFF 3).wr (selReg 0) 0xC0000000 4
    let k : M := (up.put F.EVC_SMP_CFG_en 1).put F.EVC_SMP_CFG_event 4
    let t (u : Option Nat) : M := { up with frec := { up.frec with lockUntil := u } }
    e.nextSource 0 = some 1 ∧ up.nextSource 0 = none ∧ (up.put F.KV_DBG_h0_halt 1).bit F.KV_DBG_h0_halt = true ∧ up.bit F.KV_DBG_h0_halt = false ∧
    e.ev.stack 0 = [(16, 7)] ∧ up.ev.stack 0 = [] ∧ 2 ^ 32 ≤ (c.rd (cntReg 0) 3).toNat + 1 ∧ tbit (c.rd (selReg 0) 4).toNat 30 = true ∧
    tbit (up.rd (selReg 0) 4).toNat 30 = false ∧ k.bit F.EVC_SMP_CFG_en = true ∧ k.get F.EVC_SMP_CFG_event ∈ [1, 2, 3, 4, 5, 7] ∧
    ((k.put F.EVC_SMP_CFG_stop 1).put F.EVC_SMP_STAT_count 512).get F.EVC_SMP_STAT_count = 512 ∧ (t (some 0)).frec.lockUntil = some 0 ∧
    (t (some 9)).time.tb < 9 ∧ up.frec.queue = [] ∧ up.hstWear ≤ 80 ∧ up.hstReadOnly = false ∧
    ({ up with hst := { up.hst with written := hstLife } } : M).hstReadOnly = true ∧
    80 < ({ up with hst := { up.hst with written := hstLife } } : M).hstWear ∧ written 3 5 = true ∧ written 5 5 = false := by decide +kernel

/-- The store: pages within and without the shown regions, rights that hold and that do not, passwords that fit and do not, a scan. -/
theorem witness_store_cases :
    let n (f : NvpState → NvpState) : M := { up with nvp := f up.nvp }
    let p : M := n (fun x => { x with rdPw := [(2, (1, 2))], rdOpen := [(2, (.mk 1 .engineer, 0))], owner := some .system, authRun := [(2, 4)] })
    up.mayRead .system 2 = true ∧ p.mayRead .system 2 = false ∧ p.mayRead (.mk 1 .engineer) 2 = true ∧ up.mayWrite (.mk 1 .engineer) 2 = false ∧
    up.maySetPw .system 2 = true ∧ up.maySetPw (.mk 1 .engineer) 2 = false ∧ p.nvp.owner = some .system ∧ getd 0 2 p.nvp.authRun + 1 = 5 ∧
    up.get F.NVP_WEAR_spare ≠ 0 ∧ (up.put F.NVP_WEAR_spare 0).get F.NVP_WEAR_spare = 0 ∧ (regionPages 2).1 ≤ (regionPages 2).2 ∧
    (0 < (regionPages 2).1) ∧ ((n (fun x => { x with scanned := [7] })).nvp.scanned = [7]) ∧ 7 ∉ up.nvp.scanned ∧
    ((p.wr .NVP_PW 1 0).wr .NVP_PW 2 1).rd .NVP_PW 0 = 1 ∧ up.trendValid 0 = false ∧
    ((((up.put F.HST_TR_CFG_npts 1 0).put F.HST_TR_CFG_interval 1 0).put F.HST_TR_SIZE_mib 1 0).trendValid 0 = true) ∧
    ((up.put F.NVP_STAT_busy 1).bit F.NVP_STAT_busy = true) := by decide +kernel

/-- The vault: tags that may and may not, rows of the life cycle, keys of each state, gates open and closed, a halt allowed. -/
theorem witness_vault_cases :
    let k (f : KvState → KvState) : M := { up with kv := f up.kv }
    let g : M := (k (fun x => { x with opened := some (3, (1, 9)) })).put F.IBX_STAT_state 7
    tagStores .system = true ∧ tagStores (.mk 1 .engineer) = false ∧ tagReads (.mk 0 .engineer) = true ∧ tagReads (.mk 1 .view) = false ∧
    (k (fun x => { x with lc := 1 })).kv.lc = 1 ∧ lifeCycleRow 2 3 .system = some (false, false, true) ∧ lifeCycleRow 0 2 .system = none ∧
    lifeCycleRow 2 4 (.mk 0 .owner) = some (true, true, false) ∧ up.leased = false ∧ up.kv.opw = none ∧ tbit g.gates 0 = true ∧ tbit (k (fun x => { x with lc := 3 })).gates 0 = false ∧
    g.unitState = 7 ∧ g.time.tb < 9 ∧ (k (fun x => { x with lockUntil := some 0 })).kv.lockUntil = some 0 ∧
    ((up.put F.KV_ATTR_counted 1).bit F.KV_ATTR_counted = true) ∧ up.bit F.KV_ATTR_counted = false ∧ up.get F.IBX_PAIR_pair = 0 ∧
    upA.get F.IBX_PAIR_pair ≠ 0 ∧ ((upA.useSlot 3 24).1 = some [9]) ∧ ((upA.useSlot 9 26).1 = none) := by decide +kernel

/-- Updates: a package with steps of components 1, 3 and 5 or none, confirmations by each, an island that meters when its component restarts. -/
theorem witness_update_cases :
    let u (f : UpdState → UpdState) : M := { up with upd := f up.upd }
    let t : M := up.put F.UPD_STAT_state 4
    up.bit F.UPD_CMD_STAT_busy = false ∧ (up.put F.UPD_CMD_STAT_busy 1).bit F.UPD_CMD_STAT_busy = true ∧ mayUpdate (.mk 1 .engineer) = false ∧
    up.get F.UPD_STAT_state ≠ 2 ∧ t.get F.UPD_STAT_state = 4 ∧ pkgPair ([] : Bytes) = false ∧ pkgStep [] 1 = none ∧ up.mtrRuns = false ∧
    (u (fun x => { x with windowEnd := some 9 })).time.tb < 9 ∧ (u (fun x => { x with restarting := some 1 })).upd.restarting = some 1 ∧
    up.upd.restarting = none ∧ up.exeStopped = true ∧ upA.unitState = 4 ∧ (upA.put F.IBX_PHEALTH_health 0x200FE000).peerReadyFor = true := by
  decide +kernel

end Sys2Proof.Tests
end

/-! SUPPORT. The scope statements: what a command and a step do at all, and what plain accesses of registers leave. -/

namespace Sys2Proof.Machine

/-! ### Every command answers a next state (log 80) -/

/-- A command leaves what its operation makes of the block and the memories, or, out of range, the state as it is: every arm of `exec`
is an `onM` or an `onBus` guarded by the command's own range. -/
theorem exec_eq_after (c : Instr) (s : State) : ∃ b, exec c s = .next (if c.wellFormed then s.after b else s) := by
  cases c <;> exact ⟨_, rfl⟩

/-- Settles O2: each command is its operation's outcome, put in the state's place when it is in range. -/
theorem noCommandStopsTheModule : Obligations.NoCommandStopsTheModule := by
  intro c s
  obtain ⟨b, hb⟩ := exec_eq_after c s
  refine ⟨⟨_, hb, ?_⟩, fun hc => by rw [hb, hc]; rfl⟩
  split
  · exact State.after_pending s b
  · rfl

/-! ### The passing of time (R29, R435) -/

/-- `b` is `a` after `dt` nanoseconds in which no command came: time has run, events were counted, a port may negotiate anew, and an
acknowledgment owed may have left. -/
structure M.TimeOnly (dt : Nat) (a b : M) : Prop where
  eq : b = { a with regs := b.regs, time := b.time, ev := b.ev, frec := b.frec, eth := b.eth, tth := b.tth, out := b.out }
  tb : b.time.tb = a.time.tb + dt

theorem M.tbPeriod_eq (m : M) :
    m.tbPeriod = if m.get F.PMC_LVL_STAT_level = 0 then 40 else if m.get F.PMC_LVL_STAT_level = 1 then 10 else 5 := by
  unfold M.tbPeriod
  split
  · next h => rw [h, if_pos rfl]
  · next h => rw [h, if_neg (by decide), if_pos rfl]
  · next h0 h1 => rw [if_neg h0, if_neg h1]

theorem M.TimeOnly.trans {d e : Nat} {a b c : M} (h : M.TimeOnly d a b) (g : M.TimeOnly e b c) : M.TimeOnly (d + e) a c :=
  ⟨by have x := g.eq; rw [h.eq] at x; exact x, by rw [g.tb, h.tb, Nat.add_assoc]⟩

theorem M.TimeOnly.of_events {a b : M} (h : M.EventsOnly a b) : M.TimeOnly 0 a b := by
  have hf := h.eq
  exact ⟨by rw [hf], by rw [hf]; rfl⟩

theorem M.timeOnly_put (m : M) (x : FRef) (v i j k : Nat) : M.TimeOnly 0 m (m.put x v i j k) := ⟨rfl, rfl⟩

theorem M.timeOnly_linkDown (m : M) (x state : Nat) : M.TimeOnly 0 m (m.linkDown x state) := by
  unfold M.linkDown
  have hw : ∀ p, M.TimeOnly 0 m ((m.setEth x p).wr .ETH_STAT 6 x) := fun _ => ⟨rfl, rfl⟩
  exact (((hw _).trans (M.timeOnly_put _ _ _ _ _ _)).trans (M.timeOnly_put _ _ _ _ _ _)).trans (M.timeOnly_put _ _ _ _ _ _)

/-- A port's late negotiation changes registers and the ports' state. -/
theorem M.timeOnly_oldPortChanges (m : M) : M.TimeOnly 0 m m.oldPortChanges := by
  have hr : ∀ (n : M) (x : Nat), M.TimeOnly 0 n (n.renegotiate x).showStandby := fun n x =>
    (n.timeOnly_linkDown x _).trans (M.timeOnly_put _ _ _ _ _ _)
  have hc : M.TimeOnly 0 m { m with eth := { m.eth with change := none } } := ⟨rfl, rfl⟩
  unfold M.oldPortChanges
  split
  · split
    · exact ⟨rfl, rfl⟩
    · dsimp only
      split
      · exact hc.trans (hr _ _)
      · exact hc
  · exact ⟨rfl, rfl⟩

theorem M.timeOnly_tick (m : M) : M.TimeOnly m.tbPeriod m m.tick := by
  have key : ∀ n : M, M.TimeOnly m.tbPeriod m n → M.TimeOnly m.tbPeriod m n.periodEvents.oldPortChanges := fun n h =>
    (h.trans (.of_events n.eventsOnly_period)).trans (M.timeOnly_oldPortChanges _)
  exact key _ ⟨rfl, rfl⟩

theorem M.timeOnly_ackOwed (m : M) : M.TimeOnly 0 m m.ackOwed := by
  unfold M.ackOwed
  split <;> exact ⟨rfl, rfl⟩

/-! ### Answers that are held (R85, R399) -/

theorem M.releaseAnswers_none {m : M} (h : m.krov.held = []) : m.releaseAnswers = m := by
  unfold M.releaseAnswers
  simp only [h, List.filter_nil, List.foldl_nil]
  rw [← h]

theorem M.releaseAnswers_waits {m : M} {h : HeldAnswer} (hh : m.krov.held = [h]) (hl : m.mayLeave h = false) :
    m.releaseAnswers = m := by
  unfold M.releaseAnswers
  simp only [hh, List.filter_cons, List.filter_nil, hl, Bool.not_false, Bool.false_eq_true, if_true, if_false, List.foldl_nil]
  rw [← hh]

theorem M.releaseAnswers_leaves {m : M} {h : HeldAnswer} (hh : m.krov.held = [h]) (hl : m.mayLeave h = true) :
    m.releaseAnswers = ({ m with krov := { m.krov with held := [] } } : M).giveAnswer h.what := by
  unfold M.releaseAnswers
  simp only [hh, List.filter_cons, List.filter_nil, hl, Bool.not_true, Bool.false_eq_true, if_true, if_false, List.foldl_cons,
    List.foldl_nil]

/-- Settles O1: the queue's front is `step`'s own case; on an empty queue time runs, which leaves the answers held, and then those
leave whose time has come. -/
theorem stepRunsTheFrontCommand : Obligations.StepRunsTheFrontCommand := by
  refine ⟨fun c rest s h => by unfold step; rw [h], fun s dt hq hdt => ?_⟩
  have ht : M.TimeOnly dt s.m s.m.tick.ackOwed := by
    rw [hdt, ← M.tbPeriod_eq]
    exact s.m.timeOnly_tick.trans (M.timeOnly_ackOwed _)
  have hk : s.m.tick.ackOwed.krov.held = s.m.krov.held := by rw [ht.eq]
  have hs : step s = .next s.idle := by unfold step; rw [hq]
  refine ⟨s.idle, hs, hq, fun hh => ?_, fun r i a hh => ⟨fun hr => ?_, fun hr => ?_⟩⟩
  · have e : s.idle = s.after (s.m.tick.ackOwed, s.sram) := by
      unfold State.idle
      rw [M.releaseAnswers_none (hk.trans hh)]
    rw [e, State.after_same (by rw [ht.eq])]
    exact ⟨rfl, ht.tb, by rw [ht.eq], by rw [ht.eq], by rw [ht.eq], by rw [ht.eq]⟩
  · have e := M.releaseAnswers_leaves (hk.trans hh) (by simp [M.mayLeave, ht.tb, hr])
    show s.m.tick.ackOwed.releaseAnswers.krov.held = [] ∧ s.m.tick.ackOwed.releaseAnswers.out.getLast? = _
    rw [e]
    exact ⟨rfl, List.getLast?_concat⟩
  · have e := M.releaseAnswers_waits (hk.trans hh) (by simp [M.mayLeave, ht.tb, hr])
    show s.m.tick.ackOwed.releaseAnswers.krov = s.m.krov
    rw [e, ht.eq]

/-! ### Fields that an access clears (R13) -/

/-- A word with the bits of a mask cleared, field by field. -/
theorem Reg.field_cleared (r : Reg) (p : FieldSpec → Bool) (x : Word) {f : FieldSpec} (hf : f ∈ r.spec.fields) :
    wfield (BitVec.ofNat 32 (x.toNat - Nat.land x.toNat (r.maskOf p))) f.lo f.width =
      if p f = true then 0 else wfield x f.lo f.width := by
  have hbit : ∀ n, (x.toNat - Nat.land x.toNat (r.maskOf p)).testBit n =
      if (r.maskOf p).testBit n then false else x.toNat.testBit n := by
    intro n
    have h := merge_testBit x.toNat 0 (r.maskOf p) n
    have hz : Nat.land 0 (r.maskOf p) = 0 := Nat.zero_and _
    rwa [hz, Nat.add_zero, Nat.zero_testBit] at h
  rw [wfield_ofNat_lt, Nat.mod_eq_of_lt (Nat.lt_of_le_of_lt (Nat.sub_le _ _) x.isLt)]
  split
  · next h =>
    have hz : fieldN 0 f.lo f.width = 0 := by simp [fieldN]
    rw [← hz]
    apply fieldN_eq_of_testBit
    intro n h1 h2
    rw [hbit, Reg.maskOf_field r _ hf h1 h2, h, if_pos rfl, Nat.zero_testBit]
  · next h =>
    apply fieldN_eq_of_testBit
    intro n h1 h2
    rw [hbit, Reg.maskOf_field r _ hf h1 h2, if_neg h]

/-- A register at one address, without write-only fields, whose reads go by the access codes alone: it shows its word, and reading
it clears its read-clear fields (R13). -/
structure Reg.ClearsByReading (r : Reg) : Prop where
  view : ∀ (m : M) (w : Who),
    m.view w r 0 0 0 = BitVec.ofNat 32 ((m.rd r).toNat - Nat.land (m.rd r).toNat r.woMask)
  effect : ∀ (m : M) (w : Who), m.readEffect w r 0 0 0 =
    if r.rcMask == 0 then m else m.wr r (BitVec.ofNat 32 ((m.rd r).toNat - Nat.land (m.rd r).toNat r.rcMask))
  shows : r.woMask = 0
  clears : (r.rcMask == 0) = false
  place : placeAt (r.addr 0 0 0) = some ⟨r, 0, 0, 0⟩
  calm : eventAddr (r.addr 0 0 0) = false

theorem Reg.clearsByReading_of_mem {r : Reg}
    (hr : r ∈ [Reg.SYS_BUSERR_INFO, .EXE_DENY, .LPE_SNKDENY, .FAB_ST_FAIL, .TIM_MON_INFO]) : r.ClearsByReading := by
  simp only [List.mem_cons, List.not_mem_nil, or_false] at hr
  rcases hr with rfl | rfl | rfl | rfl | rfl <;>
    exact { view := fun _ _ => rfl, effect := fun _ _ => rfl, shows := rfl, clears := rfl, place := by decide, calm := rfl }

/-- RC_READ of such a register. -/
theorem rcRead_clears {s : State} {by_ : Master} {w : Who} {r : Reg} (hr : r.ClearsByReading)
    (ha : s.m.accepts by_ w (r.addr 0 0 0) false) :
    ∃ t x, exec (.rcRead by_ (r.addr 0 0 0) 4) s = .next t ∧ s.accessTo t (fun e => e.wr r x) ∧
      t.m.out = s.m.out ++ [.readData w.ini (r.addr 0 0 0) (s.m.rd r)] ∧
      ∀ f ∈ r.spec.fields, wfield x f.lo f.width = if f.acc = .rc then 0 else wfield (s.m.rd r) f.lo f.width := by
  have hrd : ∀ e, M.EventsOnly s.m e → e.rd r = s.m.rd r := fun e he => he.rd hr.calm
  have hwf : (Instr.rcRead by_ (r.addr 0 0 0) 4).wellFormed = true := by
    have h := (placeAt_range (p := ⟨r, 0, 0, 0⟩) hr.place).2
    simp only [Place.addr] at h
    simp only [Instr.wellFormed, Bool.and_eq_true, decide_eq_true_eq]
    omega
  obtain ⟨t, ht, hacc, e, he, rfl⟩ := does_read (v := s.m.rd r)
    (f := fun e => e.wr r (BitVec.ofNat 32 ((s.m.rd r).toNat - Nat.land (s.m.rd r).toNat r.rcMask)))
    rfl hwf ha hr.place
    (fun e he => by rw [hr.view, hrd e he, hr.shows]; simp)
    (fun e he => by rw [hr.effect, hrd e he, hr.clears]; rfl)
    (fun e he => he.wipes)
  refine ⟨_, _, ht, hacc, ?_, fun f hf => ?_⟩
  · show e.out ++ _ = _
    rw [he.eq]
  · have h := r.field_cleared (fun g => g.acc == .rc) (s.m.rd r) hf
    unfold Reg.rcMask
    simpa only [beq_iff_eq] using h

/-! ### The pace minima (R31, R41) -/

/-- The minima of the first `n` pace counters are set: each word changes in that field alone. -/
theorem M.rd_minFold (m : M) (n i : Nat) :
    ((List.range n).foldl (fun (a : M) k => a.put F.SYS_PACE_CNT_min 0xFFFF k) m).rd .SYS_PACE_CNT i =
      if i < n then wset (m.rd .SYS_PACE_CNT i) 16 16 0xFFFF else m.rd .SYS_PACE_CNT i := by
  induction n with
  | zero => rfl
  | succ n ih =>
    rw [List.range_succ, List.foldl_append, List.foldl_cons, List.foldl_nil]
    generalize (List.range n).foldl (fun (a : M) k => a.put F.SYS_PACE_CNT_min 0xFFFF k) m = a at ih
    by_cases h : i = n
    · subst h
      rw [if_neg (Nat.lt_irrefl i)] at ih
      rw [if_pos (Nat.lt_succ_self i), M.put_eq_wr]
      show (a.wr .SYS_PACE_CNT (wset (a.rd .SYS_PACE_CNT i) 16 16 0xFFFF) i).rd .SYS_PACE_CNT i = _
      rw [M.rd_wr_same, ih]
    · have hne : Reg.SYS_PACE_CNT.addr i 0 0 ≠ F.SYS_PACE_CNT_min.reg.addr n 0 0 := by
        simp only [Reg.addr, Reg.spec]; omega
      rw [M.rd_put_ne _ _ _ hne, ih]
      simp only [show i < n + 1 ↔ i < n by omega]

theorem M.rd_clearMin (m : M) {n : Nat} (h : n < 6) :
    m.clearMin.rd .SYS_PACE_CNT n = wset (m.rd .SYS_PACE_CNT n) 16 16 0xFFFF :=
  (m.rd_minFold 6 n).trans (if_pos h)

theorem M.clearMin_min (m : M) {n : Nat} (h : n < 6) : m.clearMin.get F.SYS_PACE_CNT_min n = 0xFFFF := by
  show wfield (m.clearMin.rd .SYS_PACE_CNT n) 16 16 = _
  rw [m.rd_clearMin h]
  exact wfield_wset _ _ (by decide)

theorem M.clearMin_last (m : M) {n : Nat} (h : n < 6) : m.clearMin.get F.SYS_PACE_CNT_last n = m.get F.SYS_PACE_CNT_last n := by
  show wfield (m.clearMin.rd .SYS_PACE_CNT n) 0 16 = wfield (m.rd .SYS_PACE_CNT n) 0 16
  rw [m.rd_clearMin h]
  exact wfield_wset_ne _ _ (by decide) (by decide)

theorem M.clearMin_ctrl (m : M) : m.clearMin.rd .SYS_PACE_CTRL = m.rd .SYS_PACE_CTRL := by
  unfold M.clearMin
  simp only [show List.range 6 = [0, 1, 2, 3, 4, 5] from rfl, List.foldl_cons, List.foldl_nil]
  repeat rw [M.rd_put_ne _ _ _ (by decide)]

/-- SYS_PACE_CTRL put in place as it stands. -/
theorem M.place_paceCtrl_same (m : M) (w : Who) :
    m.place w .SYS_PACE_CTRL 0 0 0 (m.rd .SYS_PACE_CTRL).toNat = m.wr .SYS_PACE_CTRL (m.rd .SYS_PACE_CTRL) := by
  have he : tbit (m.rd .SYS_PACE_CTRL).toNat 0 = m.bit F.SYS_PACE_CTRL_en := rfl
  have hw : BitVec.ofNat 32 (m.rd .SYS_PACE_CTRL).toNat = m.rd .SYS_PACE_CTRL := by simp
  unfold M.place
  simp only [he, hw]
  cases m.bit F.SYS_PACE_CTRL_en <;> rfl

/-- CLR_MIN writes the other fields of SYS_PACE_CTRL as they stand and sets the minima. -/
theorem clrMin_does {s : State} {by_ : Master} {w : Who} (ha : s.m.accepts by_ w (Reg.SYS_PACE_CTRL.addr 0 0 0) true) :
    s.does (.clrMin by_) (fun e => (e.wr .SYS_PACE_CTRL (e.rd .SYS_PACE_CTRL)).clearMin) := by
  refine does_field (x := F.SYS_PACE_CTRL_clr_min) (v := 1) (g := fun e => e.wr .SYS_PACE_CTRL (e.rd .SYS_PACE_CTRL))
    rfl rfl ha rfl rfl rfl (by decide) (by decide) (fun e he => ?_) (fun e he => ?_)
  · have hm := M.merge_woField e .SYS_PACE_CTRL 0 0 0 1 (f := ⟨8, 1, .wo, .live, 0⟩) (by decide) (by decide)
    have hrd : s.m.rd .SYS_PACE_CTRL = e.rd .SYS_PACE_CTRL := (he.rd (by decide)).symm
    have ht : e.takes w .SYS_PACE_CTRL 0 0 0 (e.rd .SYS_PACE_CTRL).toNat = (e.rd .SYS_PACE_CTRL).toNat :=
      e.keepIf_self F.SYS_PACE_CTRL_act 0 0 0 (· == 3)
    refine (if_neg (by decide)).trans ?_
    rw [← e.place_paceCtrl_same w]
    refine e.storeRw_place w .SYS_PACE_CTRL 0 0 0 _ _ ?_ (e.changesStopped_same _ 0 0 0) (by decide) rfl
    rw [hrd]
    exact (congrArg (e.takes w .SYS_PACE_CTRL 0 0 0) hm).trans ht
  · show (if tbit (putBitN _ 8 true) 8 = true then _ else _) = _
    rw [tbit_putBitN]
    rfl

/-- What CLR_MIN leaves of the pace registers. -/
theorem clrMin_leaves {s : State} {by_ : Master} {w : Who} (ha : s.m.accepts by_ w (Reg.SYS_PACE_CTRL.addr 0 0 0) true) :
    ∃ t, exec (.clrMin by_) s = .next t ∧ (∀ n < 6, t.m.get F.SYS_PACE_CNT_min n = 0xFFFF ∧
      t.m.get F.SYS_PACE_CNT_last n = s.m.get F.SYS_PACE_CNT_last n) ∧ t.m.get F.SYS_PACE_CTRL_en = s.m.get F.SYS_PACE_CTRL_en := by
  obtain ⟨e, m, he, hm, hx⟩ := clrMin_does ha
  have hu := M.UpdateOnly.of_access hm
  have hcnt : ∀ n < 6, sideAddr (Reg.SYS_PACE_CNT.addr n 0 0) = false := by decide
  have hne : ∀ n < 6, Reg.SYS_PACE_CNT.addr n 0 0 ≠ Reg.SYS_PACE_CTRL.addr 0 0 0 := by decide
  refine ⟨_, hx, fun n hn => ⟨?_, ?_⟩, ?_⟩
  · exact (hu.get (x := F.SYS_PACE_CNT_min) (hcnt n hn)).trans (M.clearMin_min _ hn)
  · calc m.get F.SYS_PACE_CNT_last n
        = (e.wr .SYS_PACE_CTRL (e.rd .SYS_PACE_CTRL)).clearMin.get F.SYS_PACE_CNT_last n := hu.get (hcnt n hn)
      _ = (e.wr .SYS_PACE_CTRL (e.rd .SYS_PACE_CTRL)).get F.SYS_PACE_CNT_last n := M.clearMin_last _ hn
      _ = e.get F.SYS_PACE_CNT_last n := by
          unfold M.get
          rw [M.rd_wr_ne (q := F.SYS_PACE_CNT_last.reg) _ _ (hne n hn)]
      _ = s.m.get F.SYS_PACE_CNT_last n := he.get (side_of_event (hcnt n hn))
  · show wfield (m.rd .SYS_PACE_CTRL) 0 1 = wfield (s.m.rd .SYS_PACE_CTRL) 0 1
    rw [hu.rd (by decide), M.clearMin_ctrl, M.rd_wr_same, he.rd (by decide)]

/-! ### The latch of module time (R449) -/

/-- TAI_READ latches the high word for the initiator that reads. -/
theorem taiRead_reads {s : State} {by_ : Master} {w : Who} (ha : s.m.accepts by_ w (Reg.TIM_TAI_LO.addr 0 0 0) false) :
    ∃ t, exec (.taiRead by_) s = .next t ∧
      s.accessTo t (fun e => { e with time := { e.time with
        latTaiHi := aput w.ini (BitVec.ofNat 32 (s.m.time.tai / 2 ^ 32)) s.m.time.latTaiHi } }) ∧
      t.m.out = s.m.out ++ [.readData w.ini (Reg.TIM_TAI_LO.addr 0 0 0) (BitVec.ofNat 32 s.m.time.tai)] ∧
      t.m.view w .TIM_TAI_HI 0 0 0 = BitVec.ofNat 32 (s.m.time.tai / 2 ^ 32) := by
  have ht : ∀ e, M.EventsOnly s.m e → e.time = s.m.time := fun e he => by rw [he.eq]
  obtain ⟨t, hx, hacc, e, he, rfl⟩ := does_read (c := .taiRead by_) (v := BitVec.ofNat 32 s.m.time.tai)
    (f := fun e => { e with time := { e.time with
      latTaiHi := aput w.ini (BitVec.ofNat 32 (s.m.time.tai / 2 ^ 32)) s.m.time.latTaiHi } })
    rfl rfl ha rfl
    (fun e he => by rw [← ht e he]; rfl)
    (fun e he => by rw [← ht e he]; rfl)
    (fun e he => he.wipes)
  refine ⟨_, hx, hacc, ?_, ?_⟩
  · show e.out ++ _ = _
    rw [he.eq]
  · show (aget w.ini (aput _ _ _)).getD _ = _
    rw [aget_aput_same]
    rfl

/-- Settles O8: a plain read clears by the access codes; TAI_READ has its latch, and CLR_MIN its write-only bit. -/
theorem readsThatChangeAndClears : Obligations.ReadsThatChangeAndClears :=
  ⟨fun _ _ _ _ hr ha => rcRead_clears (Reg.clearsByReading_of_mem hr) ha, fun _ _ _ ha => taiRead_reads ha,
    fun _ _ _ ha => clrMin_leaves ha⟩

/-! ### Where the addresses of a register lie -/

/-- All addresses of a register lie outside the range from `lo` up to `hi`. -/
def Reg.liesOutside (r : Reg) (lo hi : Nat) : Bool :=
  decide (r.spec.base + r.spec.s1 * (r.spec.n1 - 1) + r.spec.s2 * (r.spec.n2 - 1) + r.spec.s3 * (r.spec.n3 - 1) < lo) ||
    decide (hi ≤ r.spec.base)

theorem Reg.liesOutside_addr {p : Place} {lo hi : Nat} (h : p.reg.liesOutside lo hi = true) (hp : placeAt p.addr = some p) :
    p.addr < lo ∨ hi ≤ p.addr := by
  obtain ⟨h1, h2, h3⟩ := placeAt_bounds hp
  have a := mul_idx h1; have b := mul_idx h2; have c := mul_idx h3
  simp only [Reg.liesOutside, Bool.or_eq_true, decide_eq_true_eq] at h
  unfold Place.addr Reg.addr
  omega

/-- Plain registers lie outside the windows of the event controller, the recorder and the commit groups, and are not the status
registers of the pair and the tether. -/
theorem plainRegs_lieOutside : ∀ r ∈ plainRegs,
    r.liesOutside 0x40020000 0x40030000 = true ∧ r.liesOutside 0x40080000 0x40090000 = true ∧
    r.liesOutside 0x40138000 0x4014A800 = true ∧ r.liesOutside 0x40300000 0x40330000 = true ∧
    r.liesOutside (Reg.IBX_STAT.addr 0 0 0) (Reg.IBX_STAT.addr 0 0 0 + 1) = true ∧
    r.liesOutside (Reg.TTH_STAT.addr 0 0 0) (Reg.TTH_STAT.addr 0 0 0 + 1) = true := by decide

section
variable {p : Place} (hr : p.reg ∈ plainRegs) (hp : placeAt p.addr = some p)
include hr hp

theorem plainRegs_eventAddr : eventAddr p.addr = false := by
  obtain ⟨h2, h8, -⟩ := plainRegs_lieOutside p.reg hr
  have a := Reg.liesOutside_addr h2 hp
  have b := Reg.liesOutside_addr h8 hp
  simp only [eventAddr, Bool.or_eq_false_iff, beq_eq_false_iff_ne]
  omega

theorem plainRegs_memberAt : memberAt p.addr = none := by
  obtain ⟨-, -, hl, he, -⟩ := plainRegs_lieOutside p.reg hr
  have a := Reg.liesOutside_addr hl hp
  have b := Reg.liesOutside_addr he hp
  apply memberAt_none
  simp only [outsideGroups, Bool.and_eq_true, Bool.not_eq_true', Bool.and_eq_false_iff, decide_eq_false_iff_not]
  omega

/-- A store in a plain register leaves the unit's state and the link as they were. -/
theorem plainRegs_wr_pair (m : M) (x : Word) :
    (m.wr p.reg x p.i p.j p.k).unitState = m.unitState ∧
      (m.wr p.reg x p.i p.j p.k).get F.TTH_STAT_link = m.get F.TTH_STAT_link := by
  obtain ⟨-, -, -, -, hi, ht⟩ := plainRegs_lieOutside p.reg hr
  have a := Reg.liesOutside_addr hi hp
  have b := Reg.liesOutside_addr ht hp
  unfold Place.addr at a b
  unfold M.unitState M.get
  rw [M.rd_wr_ne (q := F.IBX_STAT_state.reg) _ _ (show Reg.IBX_STAT.addr 0 0 0 ≠ _ by omega),
    M.rd_wr_ne (q := F.TTH_STAT_link.reg) _ _ (show Reg.TTH_STAT.addr 0 0 0 ≠ _ by omega)]
  exact ⟨rfl, rfl⟩

end

/-! ### No change frame goes to the peer (R399) -/

theorem M.tellPeer_quiet {m : M} (h : m.unitState ≠ 4 ∨ m.get F.TTH_STAT_link ≠ 2) (c : ChangeRec) : m.tellPeer c = m := by
  unfold M.tellPeer M.sendChange
  rw [if_neg]
  simp only [Bool.and_eq_true, beq_iff_eq]
  rintro ⟨hs, hl⟩
  exact h.elim (fun hn => hn hs) (fun hn => hn hl)

/-- While no change frame can go to the peer, a running change leaves the image's dirty mark at most. -/
theorem M.runningChange_quiet {m : M} (h : m.unitState ≠ 4 ∨ m.get F.TTH_STAT_link ≠ 2) (r : Reg) (a v : Nat) :
    m.runningChange r a v = m ∨ m.runningChange r a v = m.put F.UPD_IMG_STAT_dirty 1 := by
  have hq : ∀ n, n = m ∨ n = m.put F.UPD_IMG_STAT_dirty 1 → ∀ c, n.tellPeer c = n := by
    rintro n (rfl | rfl)
    · exact M.tellPeer_quiet h
    · refine M.tellPeer_quiet ?_
      unfold M.unitState
      rw [M.get_put_ne _ _ F.IBX_STAT_state _ (by decide), M.get_put_ne _ _ F.TTH_STAT_link _ (by decide)]
      exact h
  unfold M.runningChange
  dsimp only
  generalize (m.get F.UPD_IMG_STAT_state == 1 && (m.img.configure ++ m.img.arm).any (fun c => c.addr == a)) = marked
  have hm : (if marked = true then m.put F.UPD_IMG_STAT_dirty 1 else m) = m ∨
      (if marked = true then m.put F.UPD_IMG_STAT_dirty 1 else m) = m.put F.UPD_IMG_STAT_dirty 1 := by
    cases marked
    · exact .inl rfl
    · exact .inr rfl
  simp only [hq _ hm, ite_self]
  exact hm

/-- With no change sent since, a write's answer leaves at once. -/
theorem M.answerWrite_quiet {m was : M} (h : m.tth = was.tth) (i a : Nat) : m.answerWrite was i a = m.emit (.written i a) := by
  have hw : m.awaits was = none := by
    unfold M.awaits
    rw [h, List.filter_eq_nil_iff.mpr (by simp)]
    rfl
  unfold M.answerWrite
  rw [hw, ite_self]

/-- While no change frame can go to the peer, the answer of a write leaves at once. -/
theorem M.written_quiet {m was : M} (h : m.unitState ≠ 4 ∨ m.get F.TTH_STAT_link ≠ 2) (ht : m.tth = was.tth) (r : Reg)
    (i a v : Nat) : ((m.runningChange r a v).answerWrite was i a).out = m.out ++ [.written i a] := by
  rcases M.runningChange_quiet h r a v with e | e <;> rw [e]
  · rw [M.answerWrite_quiet ht]
    rfl
  · rw [M.answerWrite_quiet (m := m.put F.UPD_IMG_STAT_dirty 1) ht]
    rfl

/-! ### Writes of plain registers (R13) -/

/-- A write of the register only stores: no value is ignored, no block must stop, no field acts. -/
structure Reg.WrittenPlain (r : Reg) : Prop where
  takes : ∀ (m : M) (w : Who) (i j k v : Nat), m.takes w r i j k v = v
  place : ∀ (m : M) (w : Who) (i j k v : Nat), memberAt (r.addr i j k) = none →
    m.place w r i j k v = m.wr r (BitVec.ofNat 32 v) i j k
  effect : ∀ (m : M) (w : Who) (i j k v : Nat), m.woEffect w r i j k v = m
  commit : ∀ i, commitOf r i = none
  stored : (r.rwMask == 0) = false
  flags : r.w1cMask = 0
  stopped : r.sMask = 0
  task : (r == .EXE_TCFG) = false
  vlan : r ≠ .ETH_VLAN

theorem plainRegs_writtenPlain : ∀ r ∈ plainRegs, r.WrittenPlain := by
  intro r hr
  simp only [plainRegs, List.mem_cons, List.not_mem_nil, or_false] at hr
  rcases hr with rfl | rfl | rfl | rfl | rfl | rfl | rfl | rfl | rfl | rfl | rfl | rfl | rfl | rfl | rfl | rfl | rfl | rfl |
    rfl | rfl | rfl | rfl | rfl | rfl <;>
    exact
      { takes := fun _ _ _ _ _ _ => rfl
        place := fun _ _ _ _ _ _ h => by unfold M.place; simp only [h]
        effect := fun _ _ _ _ _ _ => rfl
        commit := fun _ => rfl
        stored := rfl
        flags := rfl
        stopped := rfl
        task := rfl
        vlan := by decide }

/-- What REGISTER_WRITE leaves of a plain register: the word with the written fields, the marks, and the answer. -/
theorem writeBy_plain {s : State} {by_ : Master} {w : Who} {p : Place} {v : Nat} (hr : p.reg ∈ plainRegs)
    (hp : placeAt p.addr = some p) (ha : s.m.accepts by_ w p.addr true) (hl : v < 2 ^ 32) :
    ∃ e, M.EventsOnly s.m e ∧ writeBy (s.m, s.sram) by_ p.addr 4 v =
      (((e.wr p.reg (BitVec.ofNat 32 (s.m.merge p.reg p.i p.j p.k v)) p.i p.j p.k).runningChange p.reg p.addr v).answerWrite
        s.m w.ini p.addr, s.sram) := by
  have hw := plainRegs_writtenPlain p.reg hr
  refine writeBy_any ha hp hl (fun e he => ?_)
  have hmem : memberAt (p.reg.addr p.i p.j p.k) = none := plainRegs_memberAt hr hp
  have hmerge : e.merge p.reg p.i p.j p.k v = s.m.merge p.reg p.i p.j p.k v := by
    unfold M.merge
    rw [he.rd (plainRegs_eventAddr hr hp)]
  refine M.writeReg_effect (hw.commit _) hw.flags hw.vlan ?_ (hw.effect _ _ _ _ _ _)
  rw [if_neg (by rw [hw.stored]; exact Bool.false_ne_true),
    e.storeRw_place w p.reg _ _ _ _ _ (hw.takes ..) (e.changesStopped_none _ _ _ _ hw.stopped) hmem hw.task,
    hw.place _ _ _ _ _ _ hmem, hmerge]

/-- A 32-bit write at a register's address is a command the module has. -/
theorem registerWrite_exec {s : State} {by_ : Master} {p : Place} {v : Nat} (hp : placeAt p.addr = some p) (hl : v < 2 ^ 32) :
    exec (.registerWrite by_ p.addr 4 v) s = .next (s.after (writeBy (s.m, s.sram) by_ p.addr 4 v)) := by
  refine exec_bus (f := fun b => writeBy b by_ p.addr 4 v) rfl ?_
  have h := (placeAt_range hp).2
  simp only [Instr.wellFormed, Bool.and_eq_true, decide_eq_true_eq]
  omega

/-! ### Writes of read-only registers (R13) -/

section
variable {r : Reg} (h : ∀ f ∈ r.spec.fields, f.acc = .ro)
include h

theorem Reg.maskOf_readOnly {c : FieldSpec → Bool} (hc : ∀ f, f.acc = .ro → c f = false) : r.maskOf c = 0 := by
  unfold Reg.maskOf
  rw [List.filter_eq_nil_iff.mpr (fun f hf => by rw [hc f (h f hf)]; exact Bool.false_ne_true)]
  rfl

/-- A commit register has fields that are written. -/
theorem commitOf_readOnly (i : Nat) : commitOf r i = none := by
  unfold commitOf
  split
  case h_4 => rfl
  all_goals exact absurd h (by decide)

/-- A register whose write acts has fields that are written. -/
theorem M.woEffect_readOnly (m : M) (w : Who) (i j k v : Nat) : m.woEffect w r i j k v = m := by
  unfold M.woEffect
  split
  case h_39 => rfl
  all_goals exact absurd h (by decide)

end

/-- What an access that clears no host memory leaves, as claims state it. -/
theorem State.accessTo_after {s : State} {e m : M} {f : M → M} (he : M.EventsOnly s.m e) (hm : M.AccessOnly (f e) m)
    (hw : (f e).boot = e.boot) : s.accessTo (s.after (m, s.sram)) f := by
  have hb : m.boot.wipes = s.m.boot.wipes := by
    have h : m.boot = (f e).boot := by rw [hm.eq]
    rw [h, hw, he.wipes]
  rw [State.after_same hb]
  exact ⟨rfl, rfl, e, he, hm⟩

/-- Settles O5: the store of a plain register is the merge of R13, which the marks and the answer leave; a read-only register has no
field that a write stores, clears or acts by. -/
theorem registerWritesFollowTheAccessCodes : Obligations.RegisterWritesFollowTheAccessCodes := by
  refine ⟨fun s by_ w p v hr hp ha hl => ?_, fun s by_ w p v hro hp ha hl => ?_⟩
  · obtain ⟨e, he, hb⟩ := writeBy_plain hr hp ha hl
    refine ⟨_, BitVec.ofNat 32 (s.m.merge p.reg p.i p.j p.k v), registerWrite_exec hp hl, ?_, fun f hf => ?_, fun hq => ?_⟩
    · rw [hb]
      exact State.accessTo_after he ((M.accessOnly_runningChange ..).trans (M.accessOnly_answerWrite ..)) rfl
    · rw [wfield_ofNat_lt, Nat.mod_eq_of_lt (s.m.merge_lt _ _ _ _ hl), M.merge_field _ _ _ _ _ _ hf]
      simp only [beq_iff_eq]
    · obtain ⟨hu, ht⟩ := plainRegs_wr_pair hr hp e (BitVec.ofNat 32 (s.m.merge p.reg p.i p.j p.k v))
      have hue : e.unitState = s.m.unitState := he.get (by decide)
      have hte : e.get F.TTH_STAT_link = s.m.get F.TTH_STAT_link := he.get (by decide)
      rw [← hue, ← hte, ← hu, ← ht] at hq
      have hout := M.written_quiet (was := s.m) hq (by show e.tth = s.m.tth; rw [he.eq]) p.reg w.ini p.addr v
      rw [hb]
      exact hout.trans (by show e.out ++ _ = _; rw [he.eq])
  · refine ⟨_, registerWrite_exec hp hl, ?_⟩
    have hrw : p.reg.rwMask = 0 := Reg.maskOf_readOnly hro (fun f hf => by rw [hf]; rfl)
    have hw1c : p.reg.w1cMask = 0 := Reg.maskOf_readOnly hro (fun f hf => by rw [hf]; rfl)
    exact writeBy_place (g := fun e => e) ha hp (commitOf_readOnly hro _) hw1c (fun hv => absurd (hv ▸ hro) (by decide)) hl
      (fun e _ => by rw [hrw]; rfl) (fun e _ => M.woEffect_readOnly hro _ _ _ _ _ _) (fun e he => he.wipes)

end Sys2Proof.Machine

/-! SUPPORT. The architecture statements: the host memories through every command, what a refusal answers and records, and the window
of the pace probes. -/

namespace Sys2Proof.Machine

/-! ### Operations over the bus and the host memories (R22, R35) -/

/-- An operation over the bus keeps the host memories in canonical form. -/
def KeepsCanonical (f : Bus → Bus) : Prop := ∀ b, sramWf b.2 = true → sramWf (f b).2 = true

theorem keepsCanonical_of_sram {f : Bus → Bus} (h : ∀ b, (f b).2 = b.2) : KeepsCanonical f := fun b hb => by rw [h b]; exact hb

theorem sramWf_ite {c : Prop} [Decidable c] {x y : Bus} (hx : sramWf x.2 = true) (hy : sramWf y.2 = true) :
    sramWf (if c then x else y).2 = true := by split <;> assumption

/-! ### The recorder reads the bus (R513, R514) -/

theorem readItem_sram (b : Bus) (x : Word) : (readItem b x).2.2 = b.2 := by
  unfold readItem
  dsimp only
  split
  · have h := busRead_sram b ⟨6, .system, none, false⟩ (x.toNat / 4 * 4) 4
    split
    · next e => rw [e] at h; exact h
    · next e => rw [e] at h; exact h
  · rfl
  · rfl

theorem readItems_sram (b : Bus) (t : Nat) : (readItems b t).2.2 = b.2 := by
  unfold readItems
  refine List.foldlRecOn (motive := fun (a : List RecItem × Bus) => a.2.2 = b.2) _ _ rfl (fun a h i _ => ?_)
  have hi := readItem_sram a.2 (a.2.1.rd .REC_TRG_ITEM t i)
  generalize readItem a.2 (a.2.1.rd .REC_TRG_ITEM t i) = x at hi
  exact hi.trans h

theorem triggerOne_sram (b : Bus) (source tai t : Nat) : (triggerOne b source tai t).2 = b.2 := by
  unfold triggerOne
  have h := readItems_sram b t
  generalize readItems b t = x at h
  dsimp only
  split <;> exact h

theorem triggerRecord_sram (b : Bus) : (triggerRecord b).2 = b.2 := by
  unfold triggerRecord
  dsimp only
  split
  · rfl
  · split
    · rfl
    · split
      · exact List.foldlRecOn (motive := fun (a : Bus) => a.2 = b.2) _ _ rfl (fun _ h _ _ => (triggerOne_sram ..).trans h)
      · rfl

/-! ### Krovtan requests -/

/-- A Krovtan operation leaves the host memories as they are. -/
def KrovOp.LeavesSram (f : KrovOp) : Prop := ∀ b w s p, (f b w s p).bus.2 = b.2

/-- A Krovtan operation keeps the host memories in canonical form. -/
def KrovOp.KeepsSram (f : KrovOp) : Prop := ∀ b w s p, sramWf b.2 = true → sramWf (f b w s p).bus.2 = true

theorem KrovOp.LeavesSram.keeps {f : KrovOp} (h : f.LeavesSram) : f.KeepsSram := fun b w s p hb => by rw [h]; exact hb

theorem Done.sram_ite {c : Prop} [Decidable c] {d e : Done} {s : Sram} (hd : d.bus.2 = s) (he : e.bus.2 = s) :
    (if c then d else e).bus.2 = s := by split <;> assumption


theorem krovSubscribe_sram : KrovOp.LeavesSram krovSubscribe := fun _ _ _ _ =>
  Done.sram_ite rfl (Done.sram_ite rfl (by split <;> rfl))


theorem forceDenied_sram (b : Bus) (w : Who) (id : Nat) : (forceDenied b w id).bus.2 = b.2 := Done.sram_ite rfl rfl

theorem krovForceSet_sram : KrovOp.LeavesSram krovForceSet := fun _ _ _ _ =>
  Done.sram_ite rfl (Done.sram_ite (forceDenied_sram ..) (by split <;> rfl))

theorem krovForceRelease_sram : KrovOp.LeavesSram krovForceRelease := fun _ _ _ _ =>
  Done.sram_ite rfl (Done.sram_ite (forceDenied_sram ..) rfl)


theorem readWords_sram (w : Who) (n a : Nat) (b : Bus) : (readWords w a n b).2.2.2 = b.2 := by
  induction n generalizing a b with
  | zero => rfl
  | succ n ih =>
    have h := busRead_sram b w a 4
    unfold readWords
    split
    · next x c e => rw [e] at h; exact (ih (a + 4) c).trans h
    · next x c e => rw [e] at h; exact h

theorem krovRegRead_sram : KrovOp.LeavesSram krovRegRead := fun _ _ _ _ =>
  Done.sram_ite rfl (Done.sram_ite rfl (readWords_sram ..))

/-- Every word written keeps the canonical form, and the words are written in order. -/
theorem sramWf_of_writeWords {w : Who} {l : List (Nat × Nat)} {i : Nat} {b c : Bus} {x : Option (Nat × Nat)}
    (e : writeWords w i l b = (x, c)) (hb : sramWf b.2 = true) : sramWf c.2 = true := by
  induction l generalizing i b with
  | nil => cases e; exact hb
  | cons y l ih =>
    have h := sramWf_busWrite w y.1 4 y.2 hb
    unfold writeWords at e
    split at e
    · next d ed => rw [ed] at h; exact ih e h
    · next r d ed => cases e; rw [ed] at h; exact h

theorem krovRegWrite_keeps : KrovOp.KeepsSram krovRegWrite := by
  intro b w s p hb
  unfold krovRegWrite
  dsimp only
  split
  · exact hb
  · split
    · exact hb
    · split
      · next c e => exact (show sramWf c.2 = true from sramWf_of_writeWords e hb)
      · next e => exact sramWf_of_writeWords e hb

theorem krovNetSet_sram : KrovOp.LeavesSram krovNetSet := by
  intro b w s p
  unfold krovNetSet
  split
  · rfl
  · exact Done.sram_ite rfl (Done.sram_ite rfl rfl)

theorem krovAccountRead_sram : KrovOp.LeavesSram krovAccountRead := by
  intro b w s p
  refine Done.sram_ite rfl ?_
  dsimp only
  split <;> rfl

theorem krovXferBegin_sram : KrovOp.LeavesSram krovXferBegin := fun _ _ _ _ =>
  Done.sram_ite rfl <| Done.sram_ite rfl <| Done.sram_ite rfl <| Done.sram_ite rfl <| Done.sram_ite rfl <| Done.sram_ite rfl (by
    dsimp only
    split <;> rfl)

theorem storeChunk_sram (b : Bus) (t : Transfer) (off : Nat) (data : Bytes) : (storeChunk b t off data).bus.2 = b.2 :=
  Done.sram_ite (by split <;> rfl) (Done.sram_ite rfl rfl)

theorem krovXferData_sram : KrovOp.LeavesSram krovXferData := by
  intro b w s p
  refine Done.sram_ite rfl ?_
  split
  · rfl
  · exact Done.sram_ite rfl <| Done.sram_ite rfl <| Done.sram_ite (storeChunk_sram ..) <| Done.sram_ite rfl rfl

theorem finishObject_sram (b : Bus) (t : Transfer) (obj : Bytes) : (finishObject b t obj).bus.2 = b.2 :=
  Done.sram_ite (by dsimp only; split <;> rfl) <| Done.sram_ite (Done.sram_ite rfl rfl) (Done.sram_ite rfl rfl)

theorem krovXferEnd_sram : KrovOp.LeavesSram krovXferEnd := by
  intro b w s p
  refine Done.sram_ite rfl ?_
  split
  · rfl
  · exact Done.sram_ite rfl <| Done.sram_ite rfl <| Done.sram_ite rfl <| Done.sram_ite rfl (finishObject_sram ..)

theorem krovXferAbort_sram : KrovOp.LeavesSram krovXferAbort := by
  intro b w s p
  refine Done.sram_ite rfl ?_
  split <;> rfl

theorem krovAccountWrite_sram : KrovOp.LeavesSram krovAccountWrite := fun _ _ _ _ =>
  Done.sram_ite rfl <| Done.sram_ite rfl <| Done.sram_ite rfl rfl

/-- Only REG_WRITE stores in the host memories; the opcodes without a lemma of their own guard one result that leaves them. -/
theorem opcodeRule_keepsSram {op : Nat} {r : Rule} {f : KrovOp} (h : opcodeRule op = some (r, f)) : f.KeepsSram := by
  unfold opcodeRule at h
  dsimp only at h
  split at h
  case h_6 => cases h; exact krovSubscribe_sram.keeps
  case h_8 => cases h; exact krovForceSet_sram.keeps
  case h_9 => cases h; exact krovForceRelease_sram.keeps
  case h_16 => cases h; exact krovRegRead_sram.keeps
  case h_17 => cases h; exact krovRegWrite_keeps
  case h_18 => cases h; exact krovXferBegin_sram.keeps
  case h_19 => cases h; exact krovXferData_sram.keeps
  case h_20 => cases h; exact krovXferEnd_sram.keeps
  case h_21 => cases h; exact krovXferAbort_sram.keeps
  case h_23 => cases h; exact krovNetSet_sram.keeps
  case h_24 => cases h; exact krovAccountRead_sram.keeps
  case h_25 => cases h; exact krovAccountWrite_sram.keeps
  case h_26 => cases h
  all_goals
    cases h
    exact KrovOp.LeavesSram.keeps (fun _ _ _ _ => Done.sram_ite rfl rfl)

theorem sramWf_transact {b : Bus} (place : Nat) (w : Who) (s : Session) (op : Nat) (p : KrovPacket) (plain : Bytes)
    (hb : sramWf b.2 = true) : sramWf (transact b place w s op p plain).2 = true := by
  unfold transact
  dsimp only
  split
  · exact hb
  · next rule f e =>
    exact sramWf_ite hb (sramWf_ite hb (sramWf_ite hb (opcodeRule_keepsSram e b w s plain hb)))

theorem sramWf_sessionRequest {b : Bus} (place : Nat) (s : Session) (op : Nat) (p : KrovPacket) (hb : sramWf b.2 = true) :
    sramWf (sessionRequest b place s op p).2 = true := by
  unfold sessionRequest
  refine sramWf_ite hb ?_
  dsimp only
  split
  · exact hb
  · refine sramWf_ite hb (sramWf_ite ?_ (sramWf_ite hb ?_))
    · split <;> exact hb
    · split
      · exact sramWf_transact (b := (_, b.2)) _ _ _ _ _ _ hb
      · exact hb

theorem keepsCanonical_krovArrives (op : Nat) (p : KrovPacket) : KeepsCanonical (fun b => krovArrives b op p) := by
  intro b hb
  dsimp only
  unfold krovArrives
  split
  · exact hb
  · refine sramWf_ite hb (sramWf_ite (sramWf_ite hb hb) ?_)
    split
    · exact hb
    · dsimp only
      split
      · exact sramWf_ite (sramWf_sessionRequest (b := (_, b.2)) _ _ _ _ hb) hb
      · exact sramWf_ite hb hb
      · exact sramWf_ite hb hb

/-! ### Every command -/

theorem keepsCanonical_writeBy (by_ : Master) (a n : Nat) (v : Bus → Nat) : KeepsCanonical (fun b => writeBy b by_ a n (v b)) :=
  fun _ hb => sramWf_writeBy by_ a n _ hb

theorem keepsCanonical_readBy (by_ : Master) (a n : Nat) : KeepsCanonical (fun b => readBy b by_ a n) :=
  keepsCanonical_of_sram (fun b => readBy_sram b by_ a n)

/-- Memories in canonical form stay so when the operation's result takes the machine's place, cleared by a reset or not. -/
theorem State.memoryCanonical_after (s : State) {b : Bus} (h : sramWf b.2 = true) : (s.after b).memoryCanonical := by
  show sramWf (if _ then b.2 else []) = true
  split
  · exact h
  · exact sramWf_nil

section
variable {s t : State} {ok : Bool} (h : s.memoryCanonical)
include h

theorem State.memoryCanonical_onBus {f : Bus → Bus} (ht : s.onBus ok f = .next t) (hf : KeepsCanonical f) : t.memoryCanonical := by
  cases ht
  cases ok
  · exact h
  · exact s.memoryCanonical_after (hf _ h)

theorem State.memoryCanonical_onM {f : M → M} (ht : s.onM ok f = .next t) : t.memoryCanonical :=
  State.memoryCanonical_onBus (f := fun b => (f b.1, b.2)) h ht (keepsCanonical_of_sram (fun _ => rfl))

end

/-- Commands that write or read an address, Krovtan requests and trigger records go over the bus; every other command acts on the
block alone. -/
theorem exec_memoryCanonical {c : Instr} {s t : State} (h : s.memoryCanonical) (ht : exec c s = .next t) : t.memoryCanonical := by
  unfold exec at ht
  cases c
  case registerWrite | moduleReset | coreRestart | txRequest | rxqPop | evcDone | softwareRaise | sampleClear | stop | runWarm |
      runCold | exeAck | patchAdd | patchCommit | patchAbort | imageVerify | imageLoad | partialLoad | imageAbort | groupCommit |
      groupAbort | waltzClear | clearMaxd | clearEnergies | switch | maint | resume | ptdDirRead | ptdDirWrite | ptdDirDelete |
      ptdShrRead | ptdShrWrite | ptdFrcRead | ptdFrcSet | ptdFrcRelease | restore | levelRequest | loadRecord | loadEntry |
      clearReel | clearRecorder | clearLog | bufferWrite | pageLoad | pageCommit | openRd | openWr | closeRights | setRd |
      setWr | calendarSet | install | discard | fallbackCmd | confirm | slotRead | slotWrite | derive | erase | ownerPassword |
      lifeCycleChange | openOwner | openVendor | closeGates | coreHalt | clrMin | kick | canEnable | canDisable | sleep | wake |
      stationEnable | portEnable | portDisable | wakeListen | counterClear | springbokArm | quiesceRequest | quiesceCancel |
      clrHwm | lioEnable | supplyEnable | meterEnable | meterStop | domainOff | domainOn | trendEnable | alarmRelease |
      attestation =>
    exact State.memoryCanonical_onBus h ht (keepsCanonical_writeBy _ _ _ _)
  case rcRead | taiRead | evcClaim | sampleRead | bufferRead | rtcTimeRead =>
    exact State.memoryCanonical_onBus h ht (keepsCanonical_readBy _ _ _)
  case open_ | proof | close_ | keepalive | status | pointRead | pointWrite | subscribe | unsubscribe | forceSet | forceRelease |
      forceList | dirRead | dirWrite | dirDelete | shareRead | shareWrite | regRead | regWrite | xferBegin | xferData | xferEnd |
      xferAbort | netGet | netSet | accountRead | accountWrite =>
    exact State.memoryCanonical_onBus h ht (keepsCanonical_krovArrives _ _)
  case reservedOpcode op p =>
    refine State.memoryCanonical_onBus h ht (fun b hb => ?_)
    split
    · exact hb
    · exact keepsCanonical_krovArrives op p b hb
  case triggerRecord => exact State.memoryCanonical_onBus h ht (keepsCanonical_of_sram triggerRecord_sram)
  all_goals exact State.memoryCanonical_onM h ht

/-- Settles O3: a step is the front command's or the passing of time, which acts on the block alone. -/
theorem stepKeepsMemoryCanonical : Obligations.StepKeepsMemoryCanonical := by
  intro s t h ht
  unfold step at ht
  split at ht
  · cases ht
    exact s.memoryCanonical_after h
  · next c rest _ => exact exec_memoryCanonical (s := { s with pending := rest }) h ht

/-! ### The reason is that of the first cause (R38, R39, Table 1-7) -/

/-- An access of 32 or 64 bits at an address of its size. -/
def alignedAccess (a width : Nat) : Prop := (width = 4 ∧ a % 4 = 0) ∨ (width = 8 ∧ a % 8 = 0)

theorem alignedAccess_iff (a width : Nat) :
    ((width == 4 && a % 4 == 0) || (width == 8 && a % 8 == 0)) = true ↔ alignedAccess a width := by
  simp [alignedAccess]

section
variable {m : M} {w : Who} {a width : Nat} {write : Bool}

theorem M.refusal_unmapped (h : regionOf a = none) : m.refusal w a width write = some 1 := by
  unfold M.refusal
  rw [h]

variable {r : Region} (hr : regionOf a = some r)
include hr

theorem M.refusal_userPartition (hi : w.ini = 2) (hu : m.userReach a write = false) : m.refusal w a width write = some 3 := by
  unfold M.refusal
  simp [hr, hi, hu]

variable (hu : w.ini = 2 → m.userReach a write = true)
include hu

theorem M.refusal_unreached (hm : m.reaches w r = false) : m.refusal w a width write = some 1 := by
  have hu' : (w.ini == 2 && !m.userReach a write) = false := by simpa using hu
  unfold M.refusal
  simp only [hr, hu', hm, Bool.not_false, Bool.false_eq_true, if_true, if_false]

variable (hm : m.reaches w r = true)
include hm

theorem M.refusal_misaligned (ha : ¬ alignedAccess a width) : m.refusal w a width write = some 6 := by
  have hu' : (w.ini == 2 && !m.userReach a write) = false := by simpa using hu
  rw [← alignedAccess_iff, Bool.not_eq_true] at ha
  unfold M.refusal
  simp only [hr, hu', hm, ha, Bool.not_false, Bool.not_true, Bool.false_eq_true, if_true, if_false]

variable (ha : alignedAccess a width)
include ha

/-- What an access that its initiator reaches in the right size meets: the Expert half and the power domain of its region. -/
theorem M.refusal_reached : m.refusal w a width write = match r with
    | .window _ d =>
      if 32768 ≤ a % 65536 ∧ w.tag.expert = false then some 2 else if ∃ k, d = some k ∧ m.domainOn k = false then some 4 else none
    | .sram0 | .sram1 => if m.domainOn 4 = true then none else some 4
    | .bootRom | .points => none := by
  have hu' : (w.ini == 2 && !m.userReach a write) = false := by simpa using hu
  rw [← alignedAccess_iff] at ha
  unfold M.refusal
  simp only [hr, hu', hm, ha, Bool.not_true, Bool.false_eq_true, if_false]
  cases r with
  | window n d => cases d <;> simp
  | sram0 => cases m.domainOn 4 <;> rfl
  | sram1 => cases m.domainOn 4 <;> rfl
  | bootRom => rfl
  | points => rfl

end

/-- Settles O7: the causes are `refusal`'s own branches, in their order. -/
theorem refusalReasonsInOrder : Obligations.RefusalReasonsInOrder := by
  intro m w a width write
  refine ⟨M.refusal_unmapped, fun r hr => ⟨M.refusal_userPartition hr, fun hu => ⟨M.refusal_unreached hr hu, fun hm =>
    ⟨M.refusal_misaligned hr hu hm, fun ha => ?_⟩⟩⟩⟩
  have h : m.refusal w a width write = _ := M.refusal_reached hr hu hm ha
  rw [h]
  refine ⟨?_, ?_, ?_⟩
  · rintro (rfl | rfl) <;> rfl
  · rintro (rfl | rfl) <;> rfl
  · rintro n d rfl
    dsimp only
    refine ⟨fun hx ht => if_pos ⟨hx, ht⟩, fun hx => ?_⟩
    have hn : ¬ (32768 ≤ a % 65536 ∧ w.tag.expert = false) := by
      rintro ⟨h1, h2⟩
      rcases hx with hx | hx
      · exact absurd h1 (Nat.not_le_of_lt hx)
      · exact Bool.noConfusion (hx.symm.trans h2)
    rw [if_neg hn]
    exact ⟨fun k hk ho => if_pos ⟨k, hk, ho⟩, fun ho => if_neg (fun ⟨k, hk, hf⟩ => Bool.noConfusion ((ho k hk).symm.trans hf))⟩

/-! ### What a refusal records (R41, R42) -/

/-- A refusal leaves its record, the raised event and the answer. -/
theorem M.accessOnly_busError (m : M) (w : Who) (a reason : Nat) (write : Bool) :
    M.AccessOnly ((m.wr .SYS_BUSERR_ADDR (BitVec.ofNat 32 a)).wr .SYS_BUSERR_INFO
      (BitVec.ofNat 32 (min (m.get F.SYS_BUSERR_INFO_count + 1) 0xFFFF * 65536 + 256 + (if write then 128 else 0) +
        reason * 16 + w.ini))) (m.busError w a write reason) := by
  have hb : (if write then 128 else 0) = b2n write * 128 := by cases write <;> rfl
  rw [hb]
  exact (M.AccessOnly.of_events (M.eventsOnly_raise _ 0x15 (by decide))).trans (M.accessOnly_emit _ _)

theorem M.busError_out (m : M) (w : Who) (a reason : Nat) (write : Bool) :
    (m.busError w a write reason).out = m.out ++ [.busError w.ini a reason] := by
  unfold M.busError M.emit
  simp

section
variable {s : State} {by_ : Master} {w : Who} {a width v reason : Nat} (hw : s.m.who by_ = some w)
include hw

/-- A write that the Krovtan engine keeps from the spine. -/
theorem writeBy_barred (h : s.m.tenantBarred w a = true ∨ viewBarred w a = true) :
    writeBy (s.m, s.sram) by_ a width v = (s.m, s.sram) := by
  unfold writeBy
  simp only [hw]
  exact if_pos (by rw [Bool.or_eq_true]; exact h)

theorem readBy_barred (h : s.m.tenantBarred w a = true) : readBy (s.m, s.sram) by_ a width = (s.m, s.sram) := by
  unfold readBy
  simp only [hw, h, if_true]

variable (hb : s.m.tenantBarred w a = false)
include hb

theorem readBy_refused (hr : s.m.refusal w a width false = some reason) :
    ∃ e, M.EventsOnly s.m e ∧ readBy (s.m, s.sram) by_ a width = (e.busError w a false reason, s.sram) := by
  have he := s.m.eventsOnly_access w.ini false (inPoints a) (!s.m.sees w (pointAt a))
  refine ⟨_, he, ?_⟩
  unfold readBy busRead
  simp only [hw, hb, Bool.false_eq_true, if_false, he.refusal, hr]

theorem writeBy_refused (hv : viewBarred w a = false) (hr : s.m.refusal w a width true = some reason) :
    ∃ e, M.EventsOnly s.m e ∧ writeBy (s.m, s.sram) by_ a width v =
      ((if reason = 2 ∧ a = Reg.SYS_RST_CMD.addr 0 0 0 then e.count F.SYS_RST_STAT_refused else e).busError w a true reason,
        s.sram) := by
  have he := s.m.eventsOnly_access w.ini true (inPoints a) (!s.m.sees w (pointAt a))
  refine ⟨_, he, ?_⟩
  unfold writeBy busWrite
  simp only [hw, hb, hv, Bool.or_self, Bool.false_eq_true, if_false, he.refusal, hr, Bool.and_eq_true, beq_iff_eq]

end

/-- A refusal's record, counted from the state before the access. -/
theorem State.accessTo_busError {s : State} {e : M} {g : M → M} (w : Who) (a reason : Nat) (write : Bool) (he : M.EventsOnly s.m e)
    (hc : (g e).get F.SYS_BUSERR_INFO_count = e.get F.SYS_BUSERR_INFO_count) (hb : (g e).boot = e.boot) (ho : (g e).out = e.out) :
    s.accessTo (s.after ((g e).busError w a write reason, s.sram)) (fun e => ((g e).wr .SYS_BUSERR_ADDR (BitVec.ofNat 32 a)).wr
      .SYS_BUSERR_INFO (BitVec.ofNat 32 (min (s.m.get F.SYS_BUSERR_INFO_count + 1) 0xFFFF * 65536 + 256 +
        (if write then 128 else 0) + reason * 16 + w.ini))) ∧
      (s.after ((g e).busError w a write reason, s.sram)).m.out = s.m.out ++ [.busError w.ini a reason] := by
  have hcount : s.m.get F.SYS_BUSERR_INFO_count = (g e).get F.SYS_BUSERR_INFO_count :=
    (he.get (x := F.SYS_BUSERR_INFO_count) (by decide)).symm.trans hc.symm
  refine ⟨State.accessTo_after he ?_ hb, ?_⟩
  · rw [hcount]
    exact (g e).accessOnly_busError w a reason write
  · rw [State.after_m, M.busError_out, ho, he.eq]

/-- A command whose operation over the bus leaves the machine as it is changes nothing, in range or not. -/
theorem exec_bus_self {c : Instr} {s : State} {f : Bus → Bus} (hc : exec c s = s.onBus c.wellFormed f)
    (h : f (s.m, s.sram) = (s.m, s.sram)) : exec c s = .next s := by
  rw [hc]
  cases c.wellFormed
  · rfl
  · rw [State.onBus_true, h, State.after_same rfl]

/-- Settles O6: a refused access ends in `busError`, after the events of the access and the count of a refused reset command; one kept
from the spine never begins. -/
theorem refusedAccessesAreRecorded : Obligations.RefusedAccessesAreRecorded := by
  refine ⟨fun s by_ w a width v reason write hw hb hv ha hwd hval hr => ?_,
    fun s by_ w a width v hw => ⟨fun hb => ⟨?_, ?_⟩, fun hb => ?_⟩⟩
  case refine_2 => exact exec_bus_self (f := fun b => writeBy b by_ a width v) rfl (writeBy_barred hw (.inl hb))
  case refine_3 => exact exec_bus_self (f := fun b => readBy b by_ a width) rfl (readBy_barred hw hb)
  case refine_4 => exact exec_bus_self (f := fun b => writeBy b by_ a width v) rfl (writeBy_barred hw (.inr hb))
  cases write with
  | false =>
    obtain ⟨e, he, hx⟩ := readBy_refused hw hb hr
    have hwf : (Instr.rcRead by_ a width).wellFormed = true := by
      simp only [Instr.wellFormed, Bool.and_eq_true, decide_eq_true_eq]
      exact ⟨ha, hwd⟩
    refine ⟨_, exec_bus (c := .rcRead by_ a width) (f := fun b => readBy b by_ a width) rfl hwf, ?_⟩
    rw [hx]
    simp only [Bool.false_eq_true, false_and, if_false]
    exact State.accessTo_busError (g := fun e => e) w a reason false he rfl rfl rfl
  | true =>
    obtain ⟨e, he, hx⟩ := writeBy_refused (v := v) hw hb (hv rfl) hr
    have hwf : (Instr.registerWrite by_ a width v).wellFormed = true := by
      simp only [Instr.wellFormed, Bool.and_eq_true, decide_eq_true_eq]
      exact ⟨⟨ha, hwd⟩, hval⟩
    refine ⟨_, exec_bus (c := .registerWrite by_ a width v) (f := fun b => writeBy b by_ a width v) rfl hwf, ?_⟩
    rw [hx]
    simp only [true_and]
    by_cases hc : reason = 2 ∧ a = Reg.SYS_RST_CMD.addr 0 0 0
    · simp only [if_pos hc]
      exact State.accessTo_busError (g := fun e => e.count F.SYS_RST_STAT_refused) w a reason true he
        (M.get_put_ne _ F.SYS_RST_STAT_refused F.SYS_BUSERR_INFO_count _ (by decide)) rfl rfl
    · simp only [if_neg hc]
      exact State.accessTo_busError (g := fun e => e) w a reason true he rfl rfl rfl

/-! ### One probe -/

/-- At the end of a counted window, probe `n` shows its count and its smallest count, and is marked where the count lies below the
floor (R31). -/
def M.paceProbe (counts : List Nat) (m : M) (n : Nat) : M :=
  let c := counts.getD n 0 % 65536
  let m1 := (m.put F.SYS_PACE_CNT_last c n).put F.SYS_PACE_CNT_min (min c (m.get F.SYS_PACE_CNT_min n)) n
  if c < m.get F.SYS_PACE_FLOOR_floor then m1.putBit F.SYS_PACE_STAT_low n true else m1

/-- The word of a pace counter after a count. -/
def paceWord (c : Nat) (x : Word) : Word := wset (wset x 0 16 c) 16 16 (min c (wfield x 16 16))

theorem paceWord_last {c : Nat} (x : Word) (h : c < 65536) : wfield (paceWord c x) 0 16 = c := by
  unfold paceWord
  rw [wfield_wset_ne _ _ (by decide) (by decide), wfield_wset _ _ (by decide)]
  exact Nat.mod_eq_of_lt h

theorem paceWord_min {c : Nat} (x : Word) (h : c < 65536) : wfield (paceWord c x) 16 16 = min c (wfield x 16 16) := by
  unfold paceWord
  rw [wfield_wset _ _ (by decide)]
  exact Nat.mod_eq_of_lt (by omega)

theorem M.rd_paceProbe_ne (counts : List Nat) (m : M) {n : Nat} {r : Reg} {i : Nat} (hc : r.addr i 0 0 ≠ Reg.SYS_PACE_CNT.addr n 0 0)
    (hs : r.addr i 0 0 ≠ Reg.SYS_PACE_STAT.addr 0 0 0) : (m.paceProbe counts n).rd r i = m.rd r i := by
  unfold M.paceProbe M.putBit
  dsimp only
  split
  · rw [M.rd_put_ne _ F.SYS_PACE_STAT_low _ hs, M.rd_put_ne _ F.SYS_PACE_CNT_min _ hc, M.rd_put_ne _ F.SYS_PACE_CNT_last _ hc]
  · rw [M.rd_put_ne _ F.SYS_PACE_CNT_min _ hc, M.rd_put_ne _ F.SYS_PACE_CNT_last _ hc]

theorem M.rd_paceProbe_same (counts : List Nat) (m : M) {n : Nat} (hn : n < 6) :
    (m.paceProbe counts n).rd .SYS_PACE_CNT n = paceWord (counts.getD n 0 % 65536) (m.rd .SYS_PACE_CNT n) := by
  have hs : Reg.SYS_PACE_CNT.addr n 0 0 ≠ Reg.SYS_PACE_STAT.addr 0 0 0 := by simp only [Reg.addr, Reg.spec]; omega
  have h : ∀ v u, ((m.put F.SYS_PACE_CNT_last v n).put F.SYS_PACE_CNT_min u n).rd .SYS_PACE_CNT n =
      wset (wset (m.rd .SYS_PACE_CNT n) 0 16 v) 16 16 u := by
    intro v u
    simp only [M.put_eq_wr, M.rd_wr_same]
  unfold M.paceProbe M.putBit
  dsimp only
  split
  · rw [M.rd_put_ne _ F.SYS_PACE_STAT_low _ hs, h]
    rfl
  · rw [h]
    rfl

theorem M.low_paceProbe (counts : List Nat) (m : M) {n : Nat} (hn : n < 6) (i : Nat) :
    (m.paceProbe counts n).bitOf F.SYS_PACE_STAT_low i =
      if i = n then decide (counts.getD n 0 % 65536 < m.get F.SYS_PACE_FLOOR_floor) || m.bitOf F.SYS_PACE_STAT_low i
      else m.bitOf F.SYS_PACE_STAT_low i := by
  have hs : F.SYS_PACE_STAT_low.reg.addr 0 0 0 ≠ Reg.SYS_PACE_CNT.addr n 0 0 := by simp only [Reg.addr, Reg.spec]; omega
  have hcnt : ∀ v u, ((m.put F.SYS_PACE_CNT_last v n).put F.SYS_PACE_CNT_min u n).bitOf F.SYS_PACE_STAT_low i =
      m.bitOf F.SYS_PACE_STAT_low i := by
    intro v u
    unfold M.bitOf
    rw [M.get_put_ne _ F.SYS_PACE_CNT_min _ _ hs, M.get_put_ne _ F.SYS_PACE_CNT_last _ _ hs]
  unfold M.paceProbe
  dsimp only
  by_cases hl : counts.getD n 0 % 65536 < m.get F.SYS_PACE_FLOOR_floor
  · rw [if_pos hl]
    by_cases hi : i = n
    · subst hi
      rw [M.bitOf_putBit_same _ _ _ _ _ _ _ (by decide) hn, if_pos rfl, decide_eq_true hl, Bool.true_or]
    · rw [M.bitOf_putBit_other _ _ _ _ _ _ (by decide) hn hi, hcnt, if_neg hi]
  · rw [if_neg hl, hcnt, decide_eq_false hl, Bool.false_or, ite_self]

/-! ### All probes -/

/-- The first `k` probes at the end of a counted window. -/
def M.paceProbes (counts : List Nat) (m : M) (k : Nat) : M := (List.range k).foldl (M.paceProbe counts) m

theorem M.paceProbes_succ (counts : List Nat) (m : M) (k : Nat) :
    m.paceProbes counts (k + 1) = (m.paceProbes counts k).paceProbe counts k := by
  unfold M.paceProbes
  rw [List.range_succ, List.foldl_append, List.foldl_cons, List.foldl_nil]

section
variable (counts : List Nat) (m : M) {k : Nat} (hk : k ≤ 6)
include hk

/-- The probes leave the registers of SYS outside their counters and marks. -/
theorem M.rd_paceProbes_ne {r : Reg} (hc : ∀ n < 6, r.addr 0 0 0 ≠ Reg.SYS_PACE_CNT.addr n 0 0)
    (hs : r.addr 0 0 0 ≠ Reg.SYS_PACE_STAT.addr 0 0 0) : (m.paceProbes counts k).rd r = m.rd r := by
  induction k with
  | zero => rfl
  | succ k ih => rw [M.paceProbes_succ, M.rd_paceProbe_ne _ _ (hc k hk) hs, ih (Nat.le_of_succ_le hk)]

theorem M.get_paceProbes_ne {x : FRef} (hc : ∀ n < 6, x.reg.addr 0 0 0 ≠ Reg.SYS_PACE_CNT.addr n 0 0)
    (hs : x.reg.addr 0 0 0 ≠ Reg.SYS_PACE_STAT.addr 0 0 0) : (m.paceProbes counts k).get x = m.get x :=
  congrArg (wfield · x.lo x.width) (m.rd_paceProbes_ne counts hk hc hs)

theorem M.rd_paceProbes (i : Nat) : (m.paceProbes counts k).rd .SYS_PACE_CNT i =
    if i < k then paceWord (counts.getD i 0 % 65536) (m.rd .SYS_PACE_CNT i) else m.rd .SYS_PACE_CNT i := by
  induction k with
  | zero => rfl
  | succ k ih =>
    have ih := ih (Nat.le_of_succ_le hk)
    rw [M.paceProbes_succ]
    by_cases h : i = k
    · subst h
      rw [M.rd_paceProbe_same _ _ hk, ih, if_neg (Nat.lt_irrefl i), if_pos (Nat.lt_succ_self i)]
    · have hc : Reg.SYS_PACE_CNT.addr i 0 0 ≠ Reg.SYS_PACE_CNT.addr k 0 0 := by simp only [Reg.addr, Reg.spec]; omega
      have hs : Reg.SYS_PACE_CNT.addr i 0 0 ≠ Reg.SYS_PACE_STAT.addr 0 0 0 := by simp only [Reg.addr, Reg.spec]; omega
      rw [M.rd_paceProbe_ne _ _ hc hs, ih]
      simp only [show i < k + 1 ↔ i < k by omega]

theorem M.low_paceProbes (i : Nat) : (m.paceProbes counts k).bitOf F.SYS_PACE_STAT_low i =
    if i < k then decide (counts.getD i 0 % 65536 < m.get F.SYS_PACE_FLOOR_floor) || m.bitOf F.SYS_PACE_STAT_low i
    else m.bitOf F.SYS_PACE_STAT_low i := by
  induction k with
  | zero => rfl
  | succ k ih =>
    have ih := ih (Nat.le_of_succ_le hk)
    have hf : (m.paceProbes counts k).get F.SYS_PACE_FLOOR_floor = m.get F.SYS_PACE_FLOOR_floor :=
      m.get_paceProbes_ne counts (Nat.le_of_succ_le hk) (by decide) (by decide)
    rw [M.paceProbes_succ, M.low_paceProbe _ _ hk, hf, ih]
    by_cases h : i = k
    · subst h
      rw [if_pos rfl, if_neg (Nat.lt_irrefl i), if_pos (Nat.lt_succ_self i)]
    · rw [if_neg h]
      simp only [show i < k + 1 ↔ i < k by omega]

end

/-! ### The window -/

theorem M.paceWindowEnd_disabled {m : M} (counts : List Nat) (h : m.bit F.SYS_PACE_CTRL_en = false) : m.paceWindowEnd counts = m := by
  unfold M.paceWindowEnd
  simp only [h, Bool.not_false, if_true]

/-- A disturbed window is discarded (R33). -/
theorem M.paceWindowEnd_disturbed {m : M} (counts : List Nat) (he : m.bit F.SYS_PACE_CTRL_en = true)
    (hd : m.power.windowDirty = true ∨ m.ramping = true) :
    m.paceWindowEnd counts = ({ m with power := { m.power with windowDirty := m.ramping } } : M).put F.SYS_PACE_STAT_disc 1 := by
  have h : (m.power.windowDirty || m.ramping) = true := by rw [Bool.or_eq_true]; exact hd
  unfold M.paceWindowEnd
  simp only [he, h, Bool.not_true, Bool.false_eq_true, if_true, if_false]

/-- A counted window with no action chosen leaves what its probes leave, and a low probe raises its event beside (R31, R32). -/
theorem M.rd_paceWindowEnd {m : M} (counts : List Nat) (he : m.bit F.SYS_PACE_CTRL_en = true) (hd : m.power.windowDirty = false)
    (hr : m.ramping = false) (ha : m.get F.SYS_PACE_CTRL_act = 0) {r : Reg} {i : Nat} (hx : eventAddr (r.addr i 0 0) = false) :
    (m.paceWindowEnd counts).rd r i = (m.paceProbes counts 6).rd r i := by
  have hm : ({ m with power := { m.power with windowDirty := false } } : M) = m := by rw [← hd]
  have hact : (m.paceProbes counts 6).get F.SYS_PACE_CTRL_act = 0 :=
    (m.get_paceProbes_ne counts (Nat.le_refl 6) (by decide) (by decide)).trans ha
  unfold M.paceWindowEnd
  simp only [he, hd, hr, Bool.not_true, Bool.false_eq_true, if_false, Bool.or_self, hm]
  generalize hp : List.foldl _ m (List.range 6) = p
  have hp' : m.paceProbes counts 6 = p := hp
  rw [hp'] at hact ⊢
  have hq : ∀ q : M, q.regs = p.regs → (q.raise 0x12).get F.SYS_PACE_CTRL_act = 0 := fun q h =>
    calc (q.raise 0x12).get F.SYS_PACE_CTRL_act
        = q.get F.SYS_PACE_CTRL_act := (q.eventsOnly_raise 0x12 (by decide)).get (by decide)
      _ = p.get F.SYS_PACE_CTRL_act := congrArg (wfield · 1 2) (M.rd_congr (by rw [h]))
      _ = 0 := hact
  split
  · rfl
  · split
    · next h => exact absurd (h.symm.trans (hq _ rfl)) (by decide)
    · next h => exact absurd (h.symm.trans (hq _ rfl)) (by decide)
    · exact M.rd_raise _ _ (by decide) hx

/-- The counts of a command in range are 16-bit numbers. -/
theorem paceCounts_lt {counts : List Nat} (h : (Instr.paceWindowEnd counts).wellFormed = true) (n : Nat) : counts.getD n 0 < 65536 := by
  simp only [Instr.wellFormed, Bool.and_eq_true, List.all_eq_true, decide_eq_true_eq] at h
  rw [List.getD_eq_getElem?_getD]
  cases hc : counts[n]? with
  | none => decide
  | some c => exact h.2 c (List.mem_of_getElem? hc)

/-- Settles O10: a window is left out, discarded or counted; the six probes of a counted one are taken one after the other. -/
theorem paceWindowsAreCounted : Obligations.PaceWindowsAreCounted := by
  have hx : ∀ (s : State) counts, exec (.paceWindowEnd counts) s =
      s.onM (Instr.paceWindowEnd counts).wellFormed (fun m => m.paceWindowEnd counts) := fun _ _ => rfl
  refine ⟨fun s counts he => ?_, fun s counts hw he hd => ?_, fun s counts hw he hd hr ha => ?_⟩
  · rw [hx]
    cases (Instr.paceWindowEnd counts).wellFormed
    · rfl
    · exact State.onM_next rfl (M.paceWindowEnd_disabled counts he) rfl
  · refine ⟨_, exec_next (hx s counts) hw (M.paceWindowEnd_disturbed counts he hd), ?_, rfl, fun n hn => ?_⟩
    · exact M.get_put_same _ F.SYS_PACE_STAT_disc 1 0 0 0 (by decide)
    · have hs : Reg.SYS_PACE_CNT.addr n 0 0 ≠ Reg.SYS_PACE_STAT.addr 0 0 0 := by simp only [Reg.addr, Reg.spec]; omega
      exact M.rd_put_ne _ F.SYS_PACE_STAT_disc _ hs
  · refine ⟨_, exec_after (hx s counts) hw, fun n hn => ?_⟩
    have hlt := paceCounts_lt hw n
    have hcnt : (s.m.paceWindowEnd counts).rd .SYS_PACE_CNT n = paceWord (counts.getD n 0) (s.m.rd .SYS_PACE_CNT n) := by
      have hq : ∀ n < 6, eventAddr (Reg.SYS_PACE_CNT.addr n 0 0) = false := by decide
      rw [M.rd_paceWindowEnd counts he hd hr ha (hq n hn), M.rd_paceProbes _ _ (Nat.le_refl 6), if_pos hn, Nat.mod_eq_of_lt hlt]
    refine ⟨?_, ?_, ?_⟩
    · exact (congrArg (wfield · 0 16) hcnt).trans (paceWord_last _ hlt)
    · exact (congrArg (wfield · 16 16) hcnt).trans (paceWord_min _ hlt)
    · have hlow := M.low_paceProbes counts s.m (Nat.le_refl 6) n
      rw [if_pos hn, Nat.mod_eq_of_lt hlt] at hlow
      rw [← hlow]
      show tbit (wfield ((s.m.paceWindowEnd counts).rd .SYS_PACE_STAT) 0 6) n = _
      rw [M.rd_paceWindowEnd counts he hd hr ha (by decide)]
      rfl

end Sys2Proof.Machine
